-- ==== Sys2Proof/Word.lean ====
section
/-! DEFINITION. The word types of the D9 and their plainest arithmetic (R3, R5, R7). -/

namespace Sys2Proof

/-- A doubleword of R3: 8 bytes. -/
abbrev Word := BitVec 64

/-- A word of R3: 4 bytes. -/
abbrev W32 := BitVec 32

/-- The smallest addressable unit. -/
abbrev Byte := BitVec 8

/-- zext(x, n) of R7, as a Nat. -/
def zextN (x : Word) (n : Nat) : Nat := x.toNat % 2 ^ n

/-- The unsigned value x read as n-bit two's complement (R7). -/
def signedOf (x n : Nat) : Int :=
  if x % 2 ^ n < 2 ^ (n - 1) then (x % 2 ^ n : Nat) else (x % 2 ^ n : Nat) - (2 ^ n : Nat)

/-- sext(x, n) of R7: the value of x[n-1:0] read as two's complement. -/
def sextN (x : Word) (n : Nat) : Int := signedOf x.toNat n

/-- The register image of an exact integer: its value modulo 2^64. -/
def wordOfInt (v : Int) : Word := BitVec.ofInt 64 v

/-- sext(trunc_W(v), W) written to a 64-bit register (R192). -/
def sextTrunc (w : Nat) (v : Int) : Word := wordOfInt (signedOf (v % (2 ^ w : Nat)).toNat w)

/-- Bits hi down to lo of a word as an unsigned number (R5). -/
def slice (x : Word) (hi lo : Nat) : Nat := x.toNat / 2 ^ lo % 2 ^ (hi + 1 - lo)

/-- Bit n of a word. -/
def bitOf (x : Word) (n : Nat) : Bool := x.toNat.testBit n

/-- The word with bits hi to lo replaced by v (R197). -/
def setSlice (x : Word) (hi lo v : Nat) : Word :=
  let m := 2 ^ (hi + 1 - lo)
  BitVec.ofNat 64 (x.toNat - slice x hi lo * 2 ^ lo + v % m * 2 ^ lo)

end Sys2Proof
end

