-- ==== Sys2Proof/Operand.lean ====
section
/-! DEFINITION. The operand types of Oluirok instructions and the data that the part's events carry.
The instructions and events themselves are the constructors of Instr, in Syntax.lean. -/

namespace Sys2Proof

/-- A register field: g0 to g31. -/
abbrev Reg := BitVec 5

/-- A predicate index p0 to p15. -/
abbrev PredIx := BitVec 4

/-- A tile handle t0 to t63. -/
abbrev TileIx := BitVec 6

/-- How an instruction that may stand in one word is guarded (R163, R168).  `always` is the
one-word and the LEN 10 form; `pred` is the extended form with GSENSE and GPRED. -/
inductive Guard where
  | always
  | pred (sense : Bool) (p : PredIx)
  deriving DecidableEq, Repr

/-- An operand that a literal may replace (R164): a field of n bits, or the 64-bit literal. -/
inductive Opnd (n : Nat) where
  | field (v : BitVec n)
  | lit (v : Word)
  deriving DecidableEq, Repr

/-- Completion object of an engine form (R132, R167). The amount field holds k - 1. -/
inductive Done where
  | none
  | sem (ix : BitVec 5) (amount : BitVec 4)
  | counter (ix : BitVec 8)
  | mailbox (ix : BitVec 2)
  | pred (ix : PredIx)
  deriving DecidableEq, Repr

/-- Words 1 and 2 of an engine form, less the tiles and the form-specific bits (R167):
guard, gate and completion object. -/
structure Ext where
  sense : Bool
  pred : PredIx
  gcount : BitVec 4
  gsem : BitVec 5
  done : Done
  deriving DecidableEq, Repr

/-- The guard alone, for the extended-only forms that have neither gate nor completion object. -/
structure Pg where
  sense : Bool
  pred : PredIx
  deriving DecidableEq, Repr

/-- Operand width of an integer form (R172): 64 bits or `.32`. -/
inductive Wd where
  | d64
  | w32
  deriving DecidableEq, Repr

/-- Width of `sext` and `zext` (R172). -/
inductive Wx where
  | b
  | h
  | w
  deriving DecidableEq, Repr

/-- Condition codes of `cmp` and `cmpi` (R174). -/
inductive Cc where
  | eq | ne | lt | le | gt | ge | ltu | leu | gtu | geu
  deriving DecidableEq, Repr

/-- Condition codes of `fcmp` (R174). -/
inductive Fcc where
  | eq | ne | lt | le | gt | ge | un | ord
  deriving DecidableEq, Repr

/-- Condition codes of `b.cc` (R176). -/
inductive Bcc where
  | eq | ne | lt | ge | ltu | geu
  deriving DecidableEq, Repr

/-- Scalar FP type (R177). -/
inductive Fty where
  | f32
  | bf16
  deriving DecidableEq, Repr

/-- Kind of `fcvt` (R177): destination type first. -/
inductive CvtKind where
  | f32bf16 | bf16f32 | f32i32 | f32i64 | bf16i32 | bf16i64 | i32f32 | i64f32 | i32bf16 | i64bf16
  deriving DecidableEq, Repr

/-- SIZE of `ld` (R178). -/
inductive LdSize where
  | b | h | w | d | bu | hu | wu
  deriving DecidableEq, Repr

/-- SIZE of `ld.raw`, `st` and `st.raw` (R178). -/
inductive StSize where
  | b | h | w | d
  deriving DecidableEq, Repr

/-- Access hint (R178, R91): none, `.na`, `.by`. -/
inductive Hint where
  | none | na | bypass
  deriving DecidableEq, Repr

/-- Scope of R11 as `fence`, `acq` and `rel` name it (R179). -/
inductive Scope where
  | slot | core | cell | cluster | die | part | pod
  deriving DecidableEq, Repr

/-- Size of an atomic (R179). -/
inductive Asz where
  | w
  | d
  deriving DecidableEq, Repr

/-- Operation of an atomic (R179, R223). -/
inductive AtomOp where
  | add | min | max | minu | maxu | and | or | xor | swp | cas
  deriving DecidableEq, Repr

/-- Rounding selection of `cv.f` and `macc.rd` (R181): captured RM or a mode of R53. -/
inductive RndSel where
  | rm | ne | tz | up | dn
  deriving DecidableEq, Repr

/-- Rounding selection of `cv.q` (R181): those of `RndSel`, or stochastic with its index base and key
registers (R234). -/
inductive QSel where
  | rnd (m : RndSel)
  | stochastic (a b : Reg)
  deriving DecidableEq, Repr

/-- Destination format of `macc.rd` (R181). -/
inductive MaccTy where
  | f32 | bf16 | i32
  deriving DecidableEq, Repr

/-- Element type of a vector form (R182). -/
inductive Vty where
  | f32 | bf16 | i32 | i8
  deriving DecidableEq, Repr

/-- The integer element types. -/
inductive Ity where
  | i32 | i8
  deriving DecidableEq, Repr

/-- Condition code of `vcmp` with its type (R265). -/
inductive VCmp where
  | f (ty : Fty) (c : Fcc)
  | i (ty : Ity) (c : Cc)
  deriving DecidableEq, Repr

/-- Type and saturation of a vector form that takes SAT on integer types only (R261). -/
inductive VSat where
  | f (ty : Fty)
  | i (ty : Ity) (sat : Bool)
  deriving DecidableEq, Repr

/-- Type and saturation of `vfma`: F types and INT32 (R265). -/
inductive VFmaTy where
  | f (ty : Fty)
  | i32 (sat : Bool)
  deriving DecidableEq, Repr

/-- BR of a vector form (R261). -/
inductive Br where
  | full | row | col | sc
  deriving DecidableEq, Repr

/-- BR of `vbcast` (R265): BR 0 is undefined. -/
inductive BcastBr where
  | row | col | sc
  deriving DecidableEq, Repr

/-- Operation of `vred` (R267): SAT is used only with the sum on integer types. -/
inductive VRedOp where
  | sum (t : VSat)
  | min (t : Vty)
  | max (t : Vty)
  deriving DecidableEq, Repr

/-- `fmt=` values of R32. -/
inductive Fmt where
  | raw | int8 | bf16 | fp32 | int32 | bfx4 | bfx6 | bfx8 | bfx12
  deriving DecidableEq, Repr

/-- Engine of a cell, in the order of R131. -/
inductive Eng where
  | copy | conv | table | matrix | vector
  deriving DecidableEq, Repr

/-- Role of a core (R9). -/
inductive Role where
  | d | c | a
  deriving DecidableEq, Repr

/-- A lock granule of R101: 256 bytes of memory, numbered by pod physical address div 256, a handle of a cell, or a 256-byte
unit of a cell's transaction area. -/
inductive Gran where
  | mem (g : Nat)
  | handle (cell tile : Nat)
  | unit (cell u : Nat)
  deriving DecidableEq, Repr

/-- A leaf of a page table as a TLB holds it (R30, R31, R333): context, first virtual address,
doublewords 0 and 1, and where the entry stands. -/
structure Leaf where
  ctx : Nat
  vbase : Nat
  dw0 : Word
  dw1 : Word
  entryAt : Nat
  deriving DecidableEq, Repr

/-- A valid region-table entry (R35). -/
structure Region where
  ix : Nat
  ecode : Nat
  base : Nat
  nr : Nat
  nc : Nat
  deriving DecidableEq, Repr

/-- A task or launch on its way (R278, R280, R316). -/
structure TaskMsg where
  pc : Word
  a0 : Word
  a1 : Word
  a2 : Word
  a3 : Word
  reply : Word
  tag : W32
  ctx : Nat
  stamp : Nat
  deriving DecidableEq, Repr

/-- A message on the tasks-and-launches channel (R315), with the fix count of its sender (R354). -/
inductive CoreMsg where
  | jobLaunch (root count : Nat) (t : TaskMsg)
  | launch (t : TaskMsg)
  | task (queue : Nat) (t : TaskMsg)
  | mail (slot mbox : Nat) (v : Word) (ctx sender : Nat)
  | decrement (counter ctx sender signals : Nat)
  | taskwd (tag mask : W32) (ctx : Nat)
  deriving DecidableEq, Repr

/-- A message with its sender's fix count (R354). -/
structure Sent where
  fixCount : Nat
  msg : CoreMsg
  deriving DecidableEq, Repr

/-- A user active message (R229). -/
structure AmMsg where
  pc : Word
  w0 : Word
  w1 : Word
  w2 : Word
  w3 : Word
  ctx : Nat
  sender : Nat
  fixCount : Nat
  deriving DecidableEq, Repr

/-- A memory request of a slot that is served away from its L1 (R84, R93, R223, R39). `be` lists the
byte addresses in ascending order of the access's bytes: local physical addresses.  `scale` lists the scale bytes
that are read with a BFX element in one access (R44); `piece` says that the reply names its bytes, as the parts of an access
that several places serve need (R28), and a block of code; `data` are the bytes of a write.  `secure` is the requester's world and
`va` the address that it named, for a check at another part (R365). -/
structure MemReq where
  slot : Nat
  cell : Nat
  write : Bool
  alloc : Bool
  addrs : List Nat
  data : List Byte
  key : Nat
  fixCount : Nat
  scale : List Nat
  piece : Bool
  secure : Bool
  va : Word
  deriving DecidableEq, Repr

/-- An atomic request (R223): operation, size, byte addresses, operand, compared value, and the dirty
bytes that travel with it (R224); `view` is one served by a view engine (R39). -/
structure AtomReq where
  slot : Nat
  cell : Nat
  op : AtomOp
  size : Asz
  addrs : List Nat
  operand : Word
  compare : Word
  dirty : List (Nat × Byte)
  key : Nat
  view : Bool
  fixCount : Nat
  secure : Bool
  va : Word
  deriving DecidableEq, Repr

/-- What a reply brings to a waiting slot (R146): `elem` an element with its two scale bytes (R44), `block` the bytes of a
piece by address, with the addresses whose words are poisoned, `barred` an access that the world of another part's memory forbids
(R365). -/
inductive Reply where
  | done
  | value (v : Word)
  | elem (v : Word) (scale : Nat)
  | block (bs : List (Nat × Byte)) (bad : List Nat)
  | poisoned (a : Word)
  | lost (a : Word)
  | barred (va : Word)
  deriving DecidableEq, Repr

/-- Sixteen words of a 64-byte line (R3, R76). -/
abbrev LineData := Vector W32 16

/-- One part of a gather or scatter, for one owner cell (R138): list positions with the physical addresses of the bytes of
their rows. -/
structure Sublist where
  requester : Nat
  owner : Nat
  scatter : Bool
  rows : List (Nat × List Nat)
  data : List (List Byte)
  fixCount : Nat
  deriving DecidableEq, Repr

/-- A strip of a halo border on its way (R136, R139), or, without rows, its acknowledgement: `whole` is set in the last strip of a
border that was read wholly, `last` in the last that is sent, and `landed` where every earlier strip of the border has landed, or
in an acknowledgement where this one has. -/
structure HaloMsg where
  fromCell : Nat
  toCell : Nat
  tile : TileIx
  slot : Nat
  ctx : Nat
  mbox : Nat
  dw0 : Word
  rows : List (Nat × List Byte)
  whole : Bool
  last : Bool
  landed : Bool
  fixCount : Nat
  deriving DecidableEq, Repr

/-- A tile descriptor of a set entry (R97). -/
structure TileDesc where
  va : Word
  dw1 : Word
  deriving DecidableEq, Repr

/-- A transaction record as copied (R96). -/
structure TxRec where
  pcd : Word
  pcc : Word
  pca : Word
  a0 : Word
  a1 : Word
  a2 : Word
  a3 : Word
  dw7 : Word
  dw8 : Word
  out : Word
  reads : List TileDesc
  writes : List TileDesc
  deriving DecidableEq, Repr

/-- A descriptor with the translations and the region it uses (R100). -/
structure TileBind where
  desc : TileDesc
  leaves : List Leaf
  region : Option Region
  deriving DecidableEq, Repr

/-- A checked submission (R100, R273): record, bindings, submitting slot, context, world, privilege,
and the number of the sounding whose follow it is, or of the transaction it restarts. -/
structure Submission where
  record : TxRec
  reads : List TileBind
  writes : List TileBind
  slot : Nat
  ctx : Nat
  priv : Bool
  secure : Bool
  parent : Option Nat
  restart : Bool
  fixCount : Nat
  deriving DecidableEq, Repr

/-- One lock wanted at a BLM (R106): whether it is exclusive, whether its data is pushed, and the key of the
page that names it. -/
structure LockWant where
  gran : Gran
  excl : Bool
  read : Bool
  key : Nat
  deriving DecidableEq, Repr

/-- What the ordered lock channel carries to a merge gate (R106); a cell is named by part · 1024 + cell. -/
inductive LockMsg where
  | request (num cell blm : Nat) (wants : List LockWant)
  | close (global : Nat)
  deriving DecidableEq, Repr

/-- What a merge gate sends to a BLM (R107). -/
inductive BlmMsg where
  | request (num cell : Nat) (wants : List LockWant)
  | safe (n : Nat)
  deriving DecidableEq, Repr

/-- A page fault's key and kind (R335, R341): 0 read, 1 write, 2 fetch, 3 engine. -/
structure PageFault where
  ctx : Nat
  page : Nat
  kind : Nat
  level : Nat
  malformed : Bool
  deriving DecidableEq, Repr

/-- Who waits on a walk or a page fault (R335): a slot with its generation, an engine of a cell with the slot whose
command it runs, or a stream register of a slot. -/
inductive Agent where
  | slot (k gen : Nat)
  | engine (cell : Nat) (e : Eng) (k gen : Nat)
  | stream (k gen : Nat) (r : Reg)
  deriving DecidableEq, Repr

/-- An agent that waits on a walk or a page fault, with the kind of its access, whether it writes, and the core whose TLB
asks (R333, R335). -/
structure Waiter where
  who : Agent
  kind : Nat
  writes : Bool
  core : Nat
  deriving DecidableEq, Repr

/-- A walk asked of a cluster's walkers (R331, R333). -/
structure WalkReq where
  ctx : Nat
  page : Nat
  agents : List Waiter
  deriving DecidableEq, Repr

/-- Who is told that an outcome cannot be written at another part: its part and die, with what the report names (R114). -/
structure OutcomeBack where
  part : Nat
  die : Nat
  ctx : Nat
  place : Nat
  out : Word
  num : Word
  deriving DecidableEq, Repr

/-- What an Azimuth flit carries between parts (R25, R361, R362). -/
inductive AzMsg where
  | heartbeat
  | mem (fromPart : Nat) (q : MemReq)
  | atom (fromPart : Nat) (q : AtomReq)
  | reply (slot : Nat) (r : Reply) (fixCount : Nat) (src : Option Nat)
  | lock (die : Nat) (fromPart : Nat) (m : LockMsg)
  | mail (slot mbox : Nat) (v : Word) (ctx senderPlace fixCount : Nat)
  | am (core : Nat) (m : AmMsg)
  | push (cell num : Nat) (x : Gran) (data : List Byte) (poison : List Nat)
  | release (blm num : Nat) (x : Gran)
  | drain (fromPart cell num : Nat) (x : Gran) (bytes : List (Nat × Byte)) (poison : List Nat) (key : Nat)
  | drained (cell num : Nat) (x : Gran)
  | removed (num : Nat) (x : Gran)
  | outcome (key fixCount : Nat) (bytes : List (Nat × Byte)) (secure : Bool) (back : OutcomeBack)
  | outcomeFails (back : OutcomeBack) (cause : Nat)
  | ask (fromPart slot : Nat) (as : List Nat)
  | voided (num : Nat)
  | fixStart (no : Nat)
  | fixReport (part count : Nat)
  | fixBound (no bound : Nat)
  | fixMarker (fromPart no : Nat)
  | probe (fromPart : Nat)
  | probed (fromPart : Nat)
  | death (part : Nat) (cell : Option Nat)
  deriving DecidableEq, Repr

/-- A Sextant datagram (R363), and the host that sent it. -/
structure Datagram where
  ver : Nat
  op : Nat
  seq : Nat
  ack : Nat
  arg : Word
  len : Nat
  payload : List Byte
  host : Nat := 0
  deriving DecidableEq, Repr

/-- The POD record (R361, R362): part number, pod size, this part's incarnation, heartbeat limit and fix timeout in cclk,
the port for each part, the incarnations of the other parts, those of this part's cells, and those of the cells of other parts by
part · 1024 + cell. -/
structure PodRec where
  k : Nat
  n : Nat
  incarn : Nat
  heartbeat : Nat
  timeout : Nat
  routes : List (Nat × Nat)
  incarns : List (Nat × Nat)
  cells : List (Nat × Nat)
  farCells : List (Nat × Nat)
  deriving DecidableEq, Repr

end Sys2Proof
end

