-- ==== Sys2Proof/Syntax.lean ====
section
/-! DEFINITION. The abstract syntax: one constructor for each row of spec/opcode_table.json, the rows
with operands first and then the others, each in the table's order.  A row with an encoding is an instruction; its fields are the operands of R166 to R183.
A row without an encoding and outside the extended-only instructions is an event: a step that another
agent of the part takes: a message that lands carries what it brings, and a step that a unit takes of
itself is named alone and acts on the unit that the state's `cur` names, as an instruction acts on the
slot that `cur` names (log 5).  A unit is named by its
index: a slot by core · 16 + slot, a core by R20 (3,072 + d for the fault service core of die d, log 10),
a cell by R20, a cluster by R20, a die by its number. -/

namespace Sys2Proof

inductive Instr where
  | add (g : Guard) (w : Wd) (b : Opnd 5) (a d : Reg)
  | sub (g : Guard) (w : Wd) (b : Opnd 5) (a d : Reg)
  | and (g : Guard) (b : Opnd 5) (a d : Reg)
  | or (g : Guard) (b : Opnd 5) (a d : Reg)
  | xor (g : Guard) (b : Opnd 5) (a d : Reg)
  | andn (g : Guard) (b : Opnd 5) (a d : Reg)
  | orn (g : Guard) (b : Opnd 5) (a d : Reg)
  | shl (g : Guard) (w : Wd) (b : Opnd 5) (a d : Reg)
  | shr (g : Guard) (w : Wd) (b : Opnd 5) (a d : Reg)
  | sar (g : Guard) (w : Wd) (b : Opnd 5) (a d : Reg)
  | rol (g : Guard) (w : Wd) (b : Opnd 5) (a d : Reg)
  | min (g : Guard) (w : Wd) (b : Opnd 5) (a d : Reg)
  | max (g : Guard) (w : Wd) (b : Opnd 5) (a d : Reg)
  | minu (g : Guard) (w : Wd) (b : Opnd 5) (a d : Reg)
  | maxu (g : Guard) (w : Wd) (b : Opnd 5) (a d : Reg)
  | mul (g : Guard) (w : Wd) (b : Opnd 5) (a d : Reg)
  | mulh (g : Guard) (b : Opnd 5) (a d : Reg)
  | mulhu (g : Guard) (b : Opnd 5) (a d : Reg)
  | madd (g : Guard) (w : Wd) (b : Opnd 5) (a d : Reg)
  | div (g : Guard) (w : Wd) (b : Opnd 5) (a d : Reg)
  | divu (g : Guard) (w : Wd) (b : Opnd 5) (a d : Reg)
  | rem (g : Guard) (w : Wd) (b : Opnd 5) (a d : Reg)
  | remu (g : Guard) (w : Wd) (b : Opnd 5) (a d : Reg)
  | clz (g : Guard) (w : Wd) (a d : Reg)
  | ctz (g : Guard) (w : Wd) (a d : Reg)
  | popc (g : Guard) (w : Wd) (a d : Reg)
  | sext (g : Guard) (x : Wx) (a d : Reg)
  | zext (g : Guard) (x : Wx) (a d : Reg)
  | sel (g : Guard) (p : PredIx) (b : Opnd 5) (a d : Reg)
  | addi (g : Guard) (i : Opnd 14) (a d : Reg)
  | andi (g : Guard) (i : Opnd 14) (a d : Reg)
  | ori (g : Guard) (i : Opnd 14) (a d : Reg)
  | xori (g : Guard) (i : Opnd 14) (a d : Reg)
  | shli (g : Guard) (w : Wd) (k : BitVec 6) (a d : Reg)
  | shri (g : Guard) (w : Wd) (k : BitVec 6) (a d : Reg)
  | sari (g : Guard) (w : Wd) (k : BitVec 6) (a d : Reg)
  | li (g : Guard) (i : Opnd 14) (d : Reg)
  | lpc (g : Guard) (i : Opnd 14) (d : Reg)
  | extr (g : Guard) (l p : BitVec 6) (a d : Reg)
  | ins (g : Guard) (l p : BitVec 6) (a d : Reg)
  | cmp (g : Guard) (c : Cc) (w : Wd) (b : Opnd 5) (a : Reg) (p : PredIx)
  | cmpi (g : Guard) (c : Cc) (i : Opnd 10) (a : Reg) (p : PredIx)
  | fcmp (g : Guard) (c : Fcc) (t : Fty) (b : Opnd 5) (a : Reg) (p : PredIx)
  | pand (g : Guard) (b a d : PredIx)
  | por (g : Guard) (b a d : PredIx)
  | pxor (g : Guard) (b a d : PredIx)
  | pandn (g : Guard) (b a d : PredIx)
  | pget (g : Guard) (d : Reg)
  | pset (g : Guard) (a : Reg)
  | fadd (g : Guard) (t : Fty) (b : Opnd 5) (a d : Reg)
  | fsub (g : Guard) (t : Fty) (b : Opnd 5) (a d : Reg)
  | fmul (g : Guard) (t : Fty) (b : Opnd 5) (a d : Reg)
  | fmin (g : Guard) (t : Fty) (b : Opnd 5) (a d : Reg)
  | fmax (g : Guard) (t : Fty) (b : Opnd 5) (a d : Reg)
  | fdiv (g : Guard) (t : Fty) (b : Opnd 5) (a d : Reg)
  | fsqrt (g : Guard) (t : Fty) (a d : Reg)
  | fma (g : Guard) (t : Fty) (b : Opnd 5) (a d : Reg)
  | fms (g : Guard) (t : Fty) (b : Opnd 5) (a d : Reg)
  | fnma (g : Guard) (t : Fty) (b : Opnd 5) (a d : Reg)
  | fabs (g : Guard) (t : Fty) (a d : Reg)
  | fneg (g : Guard) (t : Fty) (a d : Reg)
  | fclass (g : Guard) (t : Fty) (a d : Reg)
  | fcvt (g : Guard) (k : CvtKind) (a d : Reg)
  | bcc (g : Guard) (c : Bcc) (o : Opnd 11) (b a : Reg)
  | bp (g : Guard) (o : Opnd 11) (p : PredIx)
  | bnp (g : Guard) (o : Opnd 11) (p : PredIx)
  | j (g : Guard) (o : Opnd 24)
  | jal (g : Guard) (o : Opnd 24)
  | jr (g : Guard) (a : Reg)
  | jalr (g : Guard) (a d : Reg)
  | loop (g : Guard) (l : BitVec 1) (i : BitVec 14) (a : Reg)
  | align (i : BitVec 14)
  | nop (g : Guard)
  | exit (g : Guard)
  | ld (g : Guard) (z : LdSize) (h : Hint) (n : BitVec 4) (o : Opnd 5) (b d : Reg)
  | st (g : Guard) (z : StSize) (h : Hint) (o : Opnd 5) (b s : Reg)
  | ldRaw (g : Guard) (z : StSize) (h : Hint) (n : BitVec 4) (o : Opnd 5) (b d : Reg)
  | stRaw (g : Guard) (z : StSize) (h : Hint) (o : Opnd 5) (b s : Reg)
  | amsend (g : Guard) (b a d : Reg)
  | aadd (g : Guard) (z : Asz) (b a d : Reg)
  | amin (g : Guard) (z : Asz) (b a d : Reg)
  | amax (g : Guard) (z : Asz) (b a d : Reg)
  | aminu (g : Guard) (z : Asz) (b a d : Reg)
  | amaxu (g : Guard) (z : Asz) (b a d : Reg)
  | aand (g : Guard) (z : Asz) (b a d : Reg)
  | aor (g : Guard) (z : Asz) (b a d : Reg)
  | axor (g : Guard) (z : Asz) (b a d : Reg)
  | aswp (g : Guard) (z : Asz) (b a d : Reg)
  | acas (g : Guard) (z : Asz) (b a d : Reg)
  | homeAtomic (q : AtomReq)
  | fence (g : Guard) (s : Scope)
  | acq (g : Guard) (s : Scope) (b a : Reg)
  | rel (g : Guard) (s : Scope) (b a : Reg)
  | invr (g : Guard) (b a : Reg)
  | vsync (g : Guard) (a : Reg)
  | smap (g : Guard) (a d : Reg)
  | sunmap (g : Guard) (a : Reg)
  | sstat (g : Guard) (a d : Reg)
  | sskip (g : Guard) (b a : Reg)
  | spref (g : Guard) (a : Reg)
  | tbind (q : Pg) (view : BitVec 2) (plane : Bool) (fmt : BitVec 4) (cols rows : BitVec 12) (b a : Reg) (td : TileIx)
  | tfree (q : Pg) (td : TileIx)
  | tstate (q : Pg) (dw : BitVec 2) (d : Reg) (td : TileIx)
  | twait (q : Pg) (td : TileIx)
  | tmarkR (q : Pg) (td : TileIx)
  | tmarkE (q : Pg) (td : TileIx)
  | cpLd (x : Ext) (e : Option (Reg × Reg)) (td : TileIx)
  | cpSt (x : Ext) (e : Option (Reg × Reg)) (td : TileIx)
  | cp2d (x : Ext) (out : Bool) (row0 : BitVec 16) (b a : Reg) (td : TileIx)
  | fill (x : Ext) (a : Reg) (td : TileIx)
  | gather (x : Ext) (b a : Reg) (td ta : TileIx)
  | scatter (x : Ext) (b a : Reg) (td ta : TileIx)
  | gatherSublist (q : Sublist)
  | halo (x : Ext) (w : BitVec 3) (td : TileIx)
  | haloArrival (q : HaloMsg)
  | cprot (x : Ext) (split : Bool) (b a : Reg) (td ta : TileIx)
  | cvPlane (x : Ext) (td ta : TileIx)
  | cvUnplane (x : Ext) (td ta : TileIx)
  | cvQ (x : Ext) (m : QSel) (h : BitVec 5) (td ta : TileIx)
  | cvF (x : Ext) (m : RndSel) (td ta : TileIx)
  | cvTr (x : Ext) (td ta : TileIx)
  | tiLoad (x : Ext) (t : BitVec 2) (a : Reg)
  | tiEval (x : Ext) (r : Fty) (t : BitVec 2) (td ta : TileIx)
  | mma (x : Ext) (z : Bool) (bp ap : BitVec 4) (td ta tb : TileIx)
  | maccRd (x : Ext) (t : MaccTy) (m : RndSel) (s : Option Reg) (td ta : TileIx)
  | vadd (x : Ext) (t : VSat) (br : Br) (mk : Option TileIx) (td ta tb : TileIx)
  | vsub (x : Ext) (t : VSat) (br : Br) (mk : Option TileIx) (td ta tb : TileIx)
  | vmul (x : Ext) (t : VSat) (br : Br) (mk : Option TileIx) (td ta tb : TileIx)
  | vfma (x : Ext) (t : VFmaTy) (br : Br) (mk : Option TileIx) (td ta tb : TileIx)
  | vmin (x : Ext) (t : Vty) (br : Br) (mk : Option TileIx) (td ta tb : TileIx)
  | vmax (x : Ext) (t : Vty) (br : Br) (mk : Option TileIx) (td ta tb : TileIx)
  | vabs (x : Ext) (t : VSat) (mk : Option TileIx) (td ta : TileIx)
  | vneg (x : Ext) (t : VSat) (mk : Option TileIx) (td ta : TileIx)
  | vcmp (x : Ext) (c : VCmp) (br : Br) (mk : Option TileIx) (td ta tb : TileIx)
  | vsel (x : Ext) (t : Vty) (br : Br) (tm td ta tb : TileIx)
  | vscale (x : Ext) (t : VSat) (mk : Option TileIx) (a : Reg) (td ta : TileIx)
  | vaddsc (x : Ext) (t : VSat) (mk : Option TileIx) (a : Reg) (td ta : TileIx)
  | vred (x : Ext) (o : VRedOp) (cols : Bool) (mk : Option TileIx) (td ta : TileIx)
  | vcvt (x : Ext) (u t : Vty) (m : RndSel) (mk : Option TileIx) (td ta : TileIx)
  | vmov (x : Ext) (t : Vty) (mk : Option TileIx) (td ta : TileIx)
  | vbcast (x : Ext) (t : Vty) (br : BcastBr) (mk : Option TileIx) (td ta : TileIx)
  | vand (x : Ext) (t : Vty) (br : Br) (mk : Option TileIx) (td ta tb : TileIx)
  | vor (x : Ext) (t : Vty) (br : Br) (mk : Option TileIx) (td ta tb : TileIx)
  | vxor (x : Ext) (t : Vty) (br : Br) (mk : Option TileIx) (td ta tb : TileIx)
  | vshl (x : Ext) (t : Ity) (sat : Bool) (mk : Option TileIx) (a : Reg) (td ta : TileIx)
  | vshr (x : Ext) (t : Ity) (arith : Bool) (mk : Option TileIx) (a : Reg) (td ta : TileIx)
  | vmuli (x : Ext) (t : Ity) (sat : Bool) (sh : BitVec 6) (mk : Option TileIx) (a : Reg) (td ta : TileIx)
  | vclamp (x : Ext) (t : Vty) (mk : Option TileIx) (b a : Reg) (td ta : TileIx)
  | txsub (g : Guard) (a : Reg)
  | txsubf (g : Guard) (a : Reg)
  | txend (g : Guard)
  | txnum (g : Guard) (d : Reg)
  | txwd (g : Guard) (b a d : Reg)
  | txq (g : Guard) (a d : Reg)
  | mergeGateReceive (die fromPart : Nat) (q : LockMsg)
  | blmRequestArrival (blm : Nat) (q : BlmMsg)
  | blmRelease (blm num : Nat) (x : Gran)
  | grantPushArrival (cell num : Nat) (x : Gran) (data : List Byte) (poison : List Nat)
  | writeOnlyTileClear (cell num : Nat) (t : TileIx)
  | txnDispatch (cell num : Nat)
  | drainAck (cell num : Nat) (x : Gran)
  | withdrawalNotice (cell num : Nat)
  | callat (g : Guard) (a d : Reg)
  | launch (g : Guard) (a d : Reg)
  | tpost (g : Guard) (q : BitVec 2) (a d : Reg)
  | taskwd (g : Guard) (a : Reg)
  | dcset (g : Guard) (n : BitVec 8) (a d : Reg)
  | dcdec (g : Guard) (n : BitVec 8) (a : Reg)
  | rfork (q : Pg) (a d : Reg)
  | rforkClaim (k core : Nat)
  | bar (g : Guard) (n : BitVec 8) (d : Reg)
  | barq (g : Guard) (n : BitVec 8) (d : Reg)
  | semadd (g : Guard) (n : BitVec 5) (a d : Reg)
  | semwait (g : Guard) (n : BitVec 5) (a d : Reg)
  | semset (g : Guard) (n : BitVec 5) (a : Reg)
  | msend (g : Guard) (m : BitVec 2) (a d : Reg)
  | mrecv (g : Guard) (m : BitVec 2) (d : Reg)
  | mpoll (g : Guard) (m : BitVec 2) (d : Reg)
  | mfsr (g : Guard) (x : BitVec 9) (d : Reg)
  | mtsr (g : Guard) (x : BitVec 9) (a : Reg)
  | trap (g : Guard) (n : BitVec 9)
  | brk (g : Guard) (n : BitVec 9)
  | eret (g : Guard)
  | rng (g : Guard) (a d : Reg)
  | fix (g : Guard) (d : Reg)
  | fixq (g : Guard) (a d : Reg)
  | sqctlWrite (v : Word)
  | estatClear (k : Nat)
  | wdogWrite (cell : Nat) (v : Word)
  | qringWrite (core q : Nat) (v : Word)
  | groupEntryWrite (n : Nat) (v : Word)
  | keyselWrite (v : Word)
  | keydataWrite (v : Word)
  | fetchBlockDelivery (cluster ctx block : Nat) (cell : Option Nat) (data : List Byte) (poison : List Nat)
  | memoryReplyArrival (k : Nat) (r : Reply)
  | fillRequest (cell line key fixCount : Nat)
  | fillDataArrival (cell line : Nat) (data : LineData) (poison lost : BitVec 16)
  | registration (cell line : Nat) (mask : BitVec 16)
  | registrationAck (cell line : Nat) (mask : BitVec 16)
  | registrationRetry (cell line : Nat) (mask : BitVec 16)
  | registrationResend (cell line : Nat) (mask : BitVec 16)
  | ownershipLostNotice (cell line : Nat) (mask : BitVec 16)
  | recall (cell line : Nat) (mask : BitVec 16)
  | copyBack (cell line : Nat) (mask nodata : BitVec 16) (data : LineData) (poison : BitVec 16) (key fixCount : Nat)
  | copyBackAck (cell line : Nat) (mask dropped : BitVec 16)
  | writeThrough (q : MemReq)
  | viewEngineAccess (q : MemReq)
  | walkComplete (cluster : Nat) (q : WalkReq)
  | fixFieldUpdate (cluster : Nat) (leaf : Leaf) (who : Agent)
  | plumeFaultMessage (die router child : Nat) (drop : Bool) (who : Nat) (f : PageFault)
  | plumeReply (die router ctx page : Nat) (declined : Bool)
  | faultReplyArrival (cluster ctx page : Nat) (declined : Bool)
  | reply (die ctx page : Nat) (declined : Bool)
  | replayall (die : Nat)
  | inval (die ctx page count : Nat)
  | swout (die ctx area : Nat)
  | swin (die ctx area : Nat)
  | teardown (die ctx : Nat)
  | teardownArrival (core ctx : Nat)
  | sextantRead (p : Datagram)
  | sextantWrite (p : Datagram)
  | sextantStart (p : Datagram)
  | sextantFix (p : Datagram)
  | sextantRollback (p : Datagram)
  | sextantPod (p : Datagram) (r : PodRec)
  | sextantAck (p : Datagram)
  | sextantResend (n : Nat)
  | managementOp (p : Datagram)
  | attestationRequest (p : Datagram)
  | azimuthFlitReceive (port n : Nat) (ok : Bool) (src incarn : Nat) (m : AzMsg)
  | azimuthHeartbeatFlit (port : Nat)
  | deathNotice (part : Nat) (cell : Option Nat)
  | fixStartReceive (no : Nat)
  | fixBoundReceive (no bound : Nat)
  | fixMarkerArrival (cell cls : Nat)
  | bootStageComplete (ok : Bool)
  | powerMeasure (watts : W32) (temp : BitVec 48)
  | undefinedEncoding (w0 : W32)
  | sequencerWithdrawal (k : Nat) (tag mask : W32) (ctx : Nat)
  | secondLevelTlbHit (core : Nat) (leaf : Leaf) (fetch : Bool) (who : Agent)
  | integerDivideComplete
  | fpDivideComplete
  | alignHoldExpire
  | streamRefill
  | streamDrain
  | engineCommandStart
  | engineOperationFinish
  | submissionAccept
  | batchClose
  | mergeGateForward
  | blmGrant
  | txnBudgetOverrun
  | rforkShareStart
  | keyInstallComplete
  | fetchPortSelect
  | inboxAccept
  | ringToChipMove
  | taskDispatch
  | activeMessageStart
  | handlerBudgetOverrun
  | remoteAccess
  | patrolScrub
  | replayallArrival
  | fscmdComplete
  | swoutSave
  | swinRestore
  | teardownComplete
  | sinkWatchdogExpire
  | heartbeatProbe
  | heartbeatLimitExpire
  | fixBoundSet
  | fixGo
  | fixGoArrival
  | cutTake
  | unitCopyOnWrite
  | partFixComplete
  | fixTimeout
  | powerGood
  | thermalShutdown
  | idleTurn
  | gateStallCycle
  | rotationBoundary
  deriving DecidableEq, Repr

end Sys2Proof
end

