-- ==== Sys2Proof/WellFormed.lean ====
section
/-! DEFINITION. Which terms of Instr are well formed: the conditions of the encoding rules that the
field types do not already hold (R164, R167, R173, R177, R180, R208, R211, R234, R270), and, for
events, that the unit named exists (R14, R15, R20). -/

namespace Sys2Proof

/-- A shift amount of 32 to 63 is undefined in the `.32` form (R173). -/
def shiftOk (w : Wd) (k : BitVec 6) : Bool :=
  match w with
  | .d64 => true
  | .w32 => k.toNat < 32

/-- pos + len must not exceed 64, where the field holds len - 1 (R173). -/
def bitsOk (p l : BitVec 6) : Bool := p.toNat + l.toNat + 1 ≤ 64

/-- A literal for an FP form has the bits above the type's width zero (R177). -/
def fpLitOk (t : Fty) (b : Opnd 5) : Bool :=
  match t, b with
  | _, .field _ => true
  | .f32, .lit v => v.toNat < 2 ^ 32
  | .bf16, .lit v => v.toNat < 2 ^ 16

/-- `loop` needs 4 · IMM14 ≥ its own length (R208). -/
def loopOk (g : Guard) (i : BitVec 14) : Bool :=
  match g with
  | .always => 1 ≤ i.toNat && i.toNat < 2 ^ 13
  | .pred _ _ => 3 ≤ i.toNat && i.toNat < 2 ^ 13

/-- `align` takes 0 to 8,191 (R211). -/
def alignOk (i : BitVec 14) : Bool := i.toNat < 2 ^ 13

/-- A stream-register field holds 20 to 27 (R180). -/
def streamReg (r : Reg) : Bool := 20 ≤ r.toNat && r.toNat ≤ 27

/-- DW = 3 of `tstate` is undefined (R234). -/
def dwOk (dw : BitVec 2) : Bool := dw.toNat != 3

/-- A run of n consecutive registers from gD, D at least lo, does not pass g31 (R229, R270). -/
def runOk (d : Reg) (lo n : Nat) : Bool := lo ≤ d.toNat && d.toNat + n ≤ 32

/-- GSEM is reserved when GCOUNT is 0, and a status predicate is not p0 (R167). -/
def Ext.ok (x : Ext) : Bool :=
  (x.gcount.toNat != 0 || x.gsem.toNat == 0) &&
  (match x.done with
   | .pred p => p.toNat != 0
   | _ => true)

/-- Slot keys: 16 slots on each of 3,072 cores and four fault service cores (R15, R340). -/
def slotOk (k : Nat) : Bool := k < 49216
def coreOk (core : Nat) : Bool := core < 3076
def cellOk (cell : Nat) : Bool := cell < 1024
def clusterOk (cluster : Nat) : Bool := cluster < 256
def dieOk (die : Nat) : Bool := die < 4
/-- 512 pseudo-channels and 1,024 vaults have a BLM each (R12, R29). -/
def blmOk (blm : Nat) : Bool := blm < 1536
def portOk (port : Nat) : Bool := port < 24
def ctxOk (ctx : Nat) : Bool := ctx < 65536
def queueOk (q : Nat) : Bool := q < 4
def groupOk (n : Nat) : Bool := n < 256

/-- The well-formed instructions and events. -/
def Instr.wf : Instr → Bool
  | .add _ _ _ _ _ => true
  | .sub _ _ _ _ _ => true
  | .and _ _ _ _ => true
  | .or _ _ _ _ => true
  | .xor _ _ _ _ => true
  | .andn _ _ _ _ => true
  | .orn _ _ _ _ => true
  | .shl _ _ _ _ _ => true
  | .shr _ _ _ _ _ => true
  | .sar _ _ _ _ _ => true
  | .rol _ _ _ _ _ => true
  | .min _ _ _ _ _ => true
  | .max _ _ _ _ _ => true
  | .minu _ _ _ _ _ => true
  | .maxu _ _ _ _ _ => true
  | .mul _ _ _ _ _ => true
  | .mulh _ _ _ _ => true
  | .mulhu _ _ _ _ => true
  | .madd _ _ _ _ _ => true
  | .div _ _ _ _ _ => true
  | .divu _ _ _ _ _ => true
  | .rem _ _ _ _ _ => true
  | .remu _ _ _ _ _ => true
  | .integerDivideComplete => true
  | .clz _ _ _ _ => true
  | .ctz _ _ _ _ => true
  | .popc _ _ _ _ => true
  | .sext _ _ _ _ => true
  | .zext _ _ _ _ => true
  | .sel _ _ _ _ _ => true
  | .addi _ _ _ _ => true
  | .andi _ _ _ _ => true
  | .ori _ _ _ _ => true
  | .xori _ _ _ _ => true
  | .shli _ w k _ _ => shiftOk w k
  | .shri _ w k _ _ => shiftOk w k
  | .sari _ w k _ _ => shiftOk w k
  | .li _ _ _ => true
  | .lpc _ _ _ => true
  | .extr _ l p _ _ => bitsOk p l
  | .ins _ l p _ _ => bitsOk p l
  | .cmp _ _ _ _ _ _ => true
  | .cmpi _ _ _ _ _ => true
  | .fcmp _ _ t b _ _ => fpLitOk t b
  | .pand _ _ _ _ => true
  | .por _ _ _ _ => true
  | .pxor _ _ _ _ => true
  | .pandn _ _ _ _ => true
  | .pget _ _ => true
  | .pset _ _ => true
  | .fadd _ t b _ _ => fpLitOk t b
  | .fsub _ t b _ _ => fpLitOk t b
  | .fmul _ t b _ _ => fpLitOk t b
  | .fmin _ t b _ _ => fpLitOk t b
  | .fmax _ t b _ _ => fpLitOk t b
  | .fdiv _ t b _ _ => fpLitOk t b
  | .fsqrt _ _ _ _ => true
  | .fpDivideComplete => true
  | .fma _ t b _ _ => fpLitOk t b
  | .fms _ t b _ _ => fpLitOk t b
  | .fnma _ t b _ _ => fpLitOk t b
  | .fabs _ _ _ _ => true
  | .fneg _ _ _ _ => true
  | .fclass _ _ _ _ => true
  | .fcvt _ _ _ _ => true
  | .bcc _ _ _ _ _ => true
  | .bp _ _ _ => true
  | .bnp _ _ _ => true
  | .j _ _ => true
  | .jal _ _ => true
  | .jr _ _ => true
  | .jalr _ _ _ => true
  | .loop g _ i _ => loopOk g i
  | .align i => alignOk i
  | .alignHoldExpire => true
  | .nop _ => true
  | .exit _ => true
  | .ld _ _ _ _ _ _ _ => true
  | .st _ _ _ _ _ _ => true
  | .ldRaw _ _ _ _ _ _ _ => true
  | .stRaw _ _ _ _ _ _ => true
  | .amsend _ _ _ d => runOk d 0 4
  | .aadd _ _ _ _ _ => true
  | .amin _ _ _ _ _ => true
  | .amax _ _ _ _ _ => true
  | .aminu _ _ _ _ _ => true
  | .amaxu _ _ _ _ _ => true
  | .aand _ _ _ _ _ => true
  | .aor _ _ _ _ _ => true
  | .axor _ _ _ _ _ => true
  | .aswp _ _ _ _ _ => true
  | .acas _ _ _ _ _ => true
  | .homeAtomic _ => true
  | .fence _ _ => true
  | .acq _ _ _ _ => true
  | .rel _ _ _ _ => true
  | .invr _ _ _ => true
  | .vsync _ _ => true
  | .smap _ _ d => streamReg d
  | .sunmap _ a => streamReg a
  | .sstat _ a _ => streamReg a
  | .sskip _ _ a => streamReg a
  | .spref _ a => streamReg a
  | .streamRefill => true
  | .streamDrain => true
  | .tbind _ _ _ _ _ _ _ _ _ => true
  | .tfree _ _ => true
  | .tstate _ dw _ _ => dwOk dw
  | .twait _ _ => true
  | .tmarkR _ _ => true
  | .tmarkE _ _ => true
  | .cpLd x _ _ => x.ok
  | .cpSt x _ _ => x.ok
  | .cp2d x _ _ _ _ _ => x.ok
  | .fill x _ _ => x.ok
  | .gather x _ _ _ _ => x.ok
  | .scatter x _ _ _ _ => x.ok
  | .gatherSublist _ => true
  | .halo x _ _ => x.ok
  | .haloArrival _ => true
  | .cprot x _ _ _ _ _ => x.ok
  | .cvPlane x _ _ => x.ok
  | .cvUnplane x _ _ => x.ok
  | .cvQ x _ _ _ _ => x.ok
  | .cvF x _ _ _ => x.ok
  | .cvTr x _ _ => x.ok
  | .tiLoad x _ _ => x.ok
  | .tiEval x _ _ _ _ => x.ok
  | .mma x _ _ _ _ _ _ => x.ok
  | .maccRd x _ _ _ _ _ => x.ok
  | .vadd x _ _ _ _ _ _ => x.ok
  | .vsub x _ _ _ _ _ _ => x.ok
  | .vmul x _ _ _ _ _ _ => x.ok
  | .vfma x _ _ _ _ _ _ => x.ok
  | .vmin x _ _ _ _ _ _ => x.ok
  | .vmax x _ _ _ _ _ _ => x.ok
  | .vabs x _ _ _ _ => x.ok
  | .vneg x _ _ _ _ => x.ok
  | .vcmp x _ _ _ _ _ _ => x.ok
  | .vsel x _ _ _ _ _ _ => x.ok
  | .vscale x _ _ _ _ _ => x.ok
  | .vaddsc x _ _ _ _ _ => x.ok
  | .vred x _ _ _ _ _ => x.ok
  | .vcvt x _ _ _ _ _ _ => x.ok
  | .vmov x _ _ _ _ => x.ok
  | .vbcast x _ _ _ _ _ => x.ok
  | .vand x _ _ _ _ _ _ => x.ok
  | .vor x _ _ _ _ _ _ => x.ok
  | .vxor x _ _ _ _ _ _ => x.ok
  | .vshl x _ _ _ _ _ _ => x.ok
  | .vshr x _ _ _ _ _ _ => x.ok
  | .vmuli x _ _ _ _ _ _ _ => x.ok
  | .vclamp x _ _ _ _ _ _ => x.ok
  | .engineCommandStart => true
  | .engineOperationFinish => true
  | .txsub _ _ => true
  | .txsubf _ _ => true
  | .txend _ => true
  | .txnum _ _ => true
  | .txwd _ _ _ _ => true
  | .txq _ _ _ => true
  | .submissionAccept => true
  | .batchClose => true
  | .mergeGateReceive die _ _ => dieOk die
  | .mergeGateForward => true
  | .blmRequestArrival blm _ => blmOk blm
  | .blmGrant => true
  | .blmRelease blm _ _ => blmOk blm
  | .grantPushArrival cell _ _ _ _ => cellOk cell
  | .writeOnlyTileClear cell _ _ => cellOk cell
  | .txnDispatch cell _ => cellOk cell
  | .drainAck cell _ _ => cellOk cell
  | .txnBudgetOverrun => true
  | .withdrawalNotice cell _ => cellOk cell
  | .callat _ _ _ => true
  | .launch _ _ d => runOk d 1 2
  | .tpost _ _ _ _ => true
  | .taskwd _ _ => true
  | .dcset _ _ _ _ => true
  | .dcdec _ _ _ => true
  | .rfork _ _ d => runOk d 1 5
  | .rforkClaim k core => slotOk k && coreOk core
  | .rforkShareStart => true
  | .bar _ _ _ => true
  | .barq _ _ _ => true
  | .semadd _ _ _ _ => true
  | .semwait _ _ _ _ => true
  | .semset _ _ _ => true
  | .msend _ _ _ _ => true
  | .mrecv _ _ _ => true
  | .mpoll _ _ _ => true
  | .mfsr _ _ _ => true
  | .mtsr _ _ _ => true
  | .trap _ _ => true
  | .brk _ _ => true
  | .eret _ => true
  | .rng _ _ d => runOk d 1 2
  | .fix _ _ => true
  | .fixq _ _ _ => true
  | .sqctlWrite _ => true
  | .estatClear k => slotOk k
  | .wdogWrite cell _ => cellOk cell
  | .qringWrite core q _ => coreOk core && queueOk q
  | .groupEntryWrite n _ => groupOk n
  | .keyselWrite _ => true
  | .keydataWrite _ => true
  | .keyInstallComplete => true
  | .fetchPortSelect => true
  | .fetchBlockDelivery cluster ctx _ _ _ _ => clusterOk cluster && ctxOk ctx
  | .inboxAccept => true
  | .ringToChipMove => true
  | .taskDispatch => true
  | .activeMessageStart => true
  | .handlerBudgetOverrun => true
  | .remoteAccess => true
  | .memoryReplyArrival _ _ => true
  | .fillRequest cell _ _ _ => cellOk cell
  | .fillDataArrival cell _ _ _ _ => cellOk cell
  | .registration cell _ _ => cellOk cell
  | .registrationAck cell _ _ => cellOk cell
  | .registrationRetry cell _ _ => cellOk cell
  | .registrationResend cell _ _ => cellOk cell
  | .ownershipLostNotice cell _ _ => cellOk cell
  | .recall cell _ _ => cellOk cell
  | .copyBack cell _ _ _ _ _ _ _ => cellOk cell
  | .copyBackAck cell _ _ _ => cellOk cell
  | .writeThrough _ => true
  | .viewEngineAccess _ => true
  | .patrolScrub => true
  | .walkComplete cluster _ => clusterOk cluster
  | .fixFieldUpdate cluster _ _ => clusterOk cluster
  | .plumeFaultMessage die _ _ _ _ _ => dieOk die
  | .plumeReply die _ ctx _ _ => dieOk die && ctxOk ctx
  | .faultReplyArrival cluster ctx _ _ => clusterOk cluster && ctxOk ctx
  | .replayallArrival => true
  | .reply die ctx _ _ => dieOk die && ctxOk ctx
  | .replayall die => dieOk die
  | .inval die ctx _ _ => dieOk die && ctxOk ctx
  | .swout die ctx _ => dieOk die && ctxOk ctx
  | .swin die ctx _ => dieOk die && ctxOk ctx
  | .teardown die ctx => dieOk die && ctxOk ctx
  | .fscmdComplete => true
  | .swoutSave => true
  | .swinRestore => true
  | .teardownArrival core ctx => coreOk core && ctxOk ctx
  | .teardownComplete => true
  | .sinkWatchdogExpire => true
  | .sextantRead _ => true
  | .sextantWrite _ => true
  | .sextantStart _ => true
  | .sextantFix _ => true
  | .sextantRollback _ => true
  | .sextantPod _ _ => true
  | .sextantAck _ => true
  | .sextantResend _ => true
  | .managementOp _ => true
  | .attestationRequest _ => true
  | .azimuthFlitReceive port _ _ _ _ _ => portOk port
  | .azimuthHeartbeatFlit port => portOk port
  | .heartbeatProbe => true
  | .heartbeatLimitExpire => true
  | .deathNotice _ _ => true
  | .fixStartReceive _ => true
  | .fixBoundSet => true
  | .fixBoundReceive _ _ => true
  | .fixGo => true
  | .fixGoArrival => true
  | .cutTake => true
  | .fixMarkerArrival cell _ => cellOk cell
  | .unitCopyOnWrite => true
  | .partFixComplete => true
  | .fixTimeout => true
  | .powerGood => true
  | .bootStageComplete _ => true
  | .powerMeasure _ _ => true
  | .thermalShutdown => true
  | .undefinedEncoding _ => true
  | .sequencerWithdrawal k _ _ ctx => slotOk k && ctxOk ctx
  | .idleTurn => true
  | .gateStallCycle => true
  | .rotationBoundary => true
  | .secondLevelTlbHit core _ _ _ => coreOk core

end Sys2Proof
end

