-- ==== Sys2Proof/Decode.lean ====
section
/-! DEFINITION. The decoder (R163 to R183, R234, R253 to R268, R270), total on any words and bytes and
rejecting by name, and after it the encoder, written from the same tables. -/

namespace Sys2Proof

/-- Why words are no instruction. Every one of them but `truncated` is *undefined encoding* (R170). -/
inductive DecodeError where
  | truncated        -- fewer words than LEN says (R163)
  | undefinedMaj     -- a reserved MAJ (R171)
  | undefinedFn      -- an FN, SUB, KIND, COND or code the map does not list (R172 to R183)
  | reservedField    -- a nonzero reserved field (R6)
  | lenNotAllowed    -- a LEN the form's row does not allow (R164, R171)
  | illFormed        -- a value the form's own rule excludes (WellFormed.lean)
  deriving DecidableEq, Repr

/-- The words of one instruction, split by LEN (R163): w1 and w2 of the extended form, the literal. -/
structure Frame where
  w0 : W32
  ext : Option (W32 × W32)
  lit : Option Word
  deriving DecidableEq, Repr

namespace Decode

abbrev D := Except DecodeError

/-- n bits of a word from bit lo (R5). -/
def fld (w : W32) (lo n : Nat) : BitVec n := w.extractLsb' lo n

def need (c : Bool) (e : DecodeError) : D Unit := if c then .ok () else .error e

/-- Number of words that LEN gives (R163). -/
def lenWords (w0 : W32) : Nat :=
  match (fld w0 0 2).toNat with
  | 0 => 1
  | 1 => 3
  | 2 => 3
  | _ => 5

/-- The 64-bit literal of its low and high words (R163). -/
def litOf (lo hi : W32) : Word := hi ++ lo

/-- Split the words by LEN (R163). -/
def frame : List W32 → D Frame
  | [] => .error .truncated
  | w0 :: ws =>
    match (fld w0 0 2).toNat, ws with
    | 0, _ => .ok ⟨w0, none, none⟩
    | 1, w1 :: w2 :: _ => .ok ⟨w0, some (w1, w2), none⟩
    | 2, l :: h :: _ => .ok ⟨w0, none, some (litOf l h)⟩
    | 3, w1 :: w2 :: l :: h :: _ => .ok ⟨w0, some (w1, w2), some (litOf l h)⟩
    | _, _ => .error .truncated

/-! Fields of word 0 (R166). -/

def fMaj (w : W32) : BitVec 6 := fld w 2 6
def fD (w : W32) : Reg := fld w 8 5
def fA (w : W32) : Reg := fld w 13 5
def fB (w : W32) : Reg := fld w 18 5
def fSub (w : W32) : BitVec 4 := fld w 23 4
def fFn (w : W32) : BitVec 5 := fld w 27 5
def fImm (w : W32) : BitVec 14 := fld w 18 14
def fOff11 (w : W32) : BitVec 11 := fld w 21 11
def fCond (w : W32) : BitVec 3 := fld w 18 3
def fOff24 (w : W32) : BitVec 24 := fld w 8 24
def fOff5 (w : W32) : BitVec 5 := fld w 27 5
def fBudget (w : W32) : BitVec 4 := fld w 23 4
def fHint (w : W32) : BitVec 2 := fld w 21 2
/-- IX := SUB · 32 + B (R183). -/
def fIx (w : W32) : BitVec 9 := fld w 18 9

/-- A field that names a predicate has bit 4 zero (R166). -/
def predOf (r : Reg) : D PredIx := do
  need (r.toNat < 16) .reservedField
  pure (r.extractLsb' 0 4)

def zero {n : Nat} (x : BitVec n) : D Unit := need (x.toNat == 0) .reservedField

/-- The guard of a form without tiles, gate or completion object: the other fields of word 1, and
word 2, are reserved (R167, R169). -/
def guardOf (f : Frame) : D Guard :=
  match f.ext with
  | none => .ok .always
  | some (w1, w2) => do
    zero (fld w1 5 27)
    zero w2
    pure (.pred (fld w1 4 1 == 1) (fld w1 0 4))

def noLit (f : Frame) : D Unit := need f.lit.isNone .lenNotAllowed

/-- A field that a literal replaces must be zero beside the literal (R164). -/
def opnd {n : Nat} (f : Frame) (v : BitVec n) : D (Opnd n) :=
  match f.lit with
  | none => .ok (.field v)
  | some l => do zero v; pure (.lit l)

def opB (f : Frame) : D (Opnd 5) := opnd f (fB f.w0)
def opImm (f : Frame) : D (Opnd 14) := opnd f (fImm f.w0)

def wd (s : BitVec 4) : D Wd :=
  match s.toNat with
  | 0 => .ok .d64
  | 1 => .ok .w32
  | _ => .error .undefinedFn

def fty (s : BitVec 4) : D Fty :=
  match s.toNat with
  | 0 => .ok .f32
  | 1 => .ok .bf16
  | _ => .error .undefinedFn

def undefFn {α : Type} : D α := .error .undefinedFn

/-- MAJ 0x00 and 0x01 (R172). -/
def dInt (f : Frame) : D Instr := do
  let g ← guardOf f
  let b ← opB f
  let a := fA f.w0
  let d := fD f.w0
  match (fMaj f.w0).toNat, (fFn f.w0).toNat with
  | 0, 0 => return .add g (← wd (fSub f.w0)) b a d
  | 0, 1 => return .sub g (← wd (fSub f.w0)) b a d
  | 0, 7 => return .shl g (← wd (fSub f.w0)) b a d
  | 0, 8 => return .shr g (← wd (fSub f.w0)) b a d
  | 0, 9 => return .sar g (← wd (fSub f.w0)) b a d
  | 0, 10 => return .rol g (← wd (fSub f.w0)) b a d
  | 0, 11 => return .min g (← wd (fSub f.w0)) b a d
  | 0, 12 => return .max g (← wd (fSub f.w0)) b a d
  | 0, 13 => return .minu g (← wd (fSub f.w0)) b a d
  | 0, 14 => return .maxu g (← wd (fSub f.w0)) b a d
  | 1, 0 => return .mul g (← wd (fSub f.w0)) b a d
  | 1, 3 => return .madd g (← wd (fSub f.w0)) b a d
  | 1, 4 => return .div g (← wd (fSub f.w0)) b a d
  | 1, 5 => return .divu g (← wd (fSub f.w0)) b a d
  | 1, 6 => return .rem g (← wd (fSub f.w0)) b a d
  | 1, 7 => return .remu g (← wd (fSub f.w0)) b a d
  | m, n => do
    need ((fSub f.w0).toNat == 0) .undefinedFn
    match m, n with
    | 0, 2 => return .and g b a d
    | 0, 3 => return .or g b a d
    | 0, 4 => return .xor g b a d
    | 0, 5 => return .andn g b a d
    | 0, 6 => return .orn g b a d
    | 1, 1 => return .mulh g b a d
    | 1, 2 => return .mulhu g b a d
    | _, _ => undefFn

/-- MAJ 0x02 (R172, R194). -/
def dUnary (f : Frame) : D Instr := do
  let g ← guardOf f
  noLit f
  zero (fB f.w0)
  let a := fA f.w0
  let d := fD f.w0
  match (fFn f.w0).toNat, (fSub f.w0).toNat with
  | 0, _ => return .clz g (← wd (fSub f.w0)) a d
  | 1, _ => return .ctz g (← wd (fSub f.w0)) a d
  | 2, _ => return .popc g (← wd (fSub f.w0)) a d
  | 3, 0 => return .sext g .b a d
  | 3, 1 => return .sext g .h a d
  | 3, 2 => return .sext g .w a d
  | 4, 0 => return .zext g .b a d
  | 4, 1 => return .zext g .h a d
  | 4, 2 => return .zext g .w a d
  | _, _ => undefFn

/-- MAJ 0x03 (R195). -/
def dSel (f : Frame) : D Instr := do
  let g ← guardOf f
  let b ← opB f
  need ((fFn f.w0).toNat == 0) .undefinedFn
  return .sel g (fSub f.w0) b (fA f.w0) (fD f.w0)

/-- MAJ 0x08 to 0x0F (R173, R196, R197). -/
def dImm (f : Frame) : D Instr := do
  let g ← guardOf f
  let a := fA f.w0
  let d := fD f.w0
  let w := f.w0
  match (fMaj w).toNat with
  | 0x08 => return .addi g (← opImm f) a d
  | 0x09 => return .andi g (← opImm f) a d
  | 0x0A => return .ori g (← opImm f) a d
  | 0x0B => return .xori g (← opImm f) a d
  | 0x0C => do
    noLit f
    zero (fld w 25 5)
    let k : BitVec 6 := fld w 18 6
    let s : Wd := if fld w 24 1 == 1 then .w32 else .d64
    match (fld w 30 2).toNat with
    | 0 => return .shli g s k a d
    | 1 => return .shri g s k a d
    | 2 => return .sari g s k a d
    | _ => undefFn
  | 0x0D => do zero a; return .li g (← opImm f) d
  | 0x0E => do zero a; return .lpc g (← opImm f) d
  | _ => do
    noLit f
    zero (fld w 30 1)
    let l : BitVec 6 := fld w 24 6
    let p : BitVec 6 := fld w 18 6
    if fld w 31 1 == 0 then return .extr g l p a d else return .ins g l p a d

def ccOf (n : Nat) : D Cc :=
  match n with
  | 0 => .ok .eq
  | 1 => .ok .ne
  | 2 => .ok .lt
  | 3 => .ok .le
  | 4 => .ok .gt
  | 5 => .ok .ge
  | 6 => .ok .ltu
  | 7 => .ok .leu
  | 8 => .ok .gtu
  | 9 => .ok .geu
  | _ => .error .undefinedFn

def fccOf (n : Nat) : D Fcc :=
  match n with
  | 0 => .ok .eq
  | 1 => .ok .ne
  | 2 => .ok .lt
  | 3 => .ok .le
  | 4 => .ok .gt
  | 5 => .ok .ge
  | 6 => .ok .un
  | 7 => .ok .ord
  | _ => .error .undefinedFn

/-- MAJ 0x10 to 0x13 (R174, R175). -/
def dCmp (f : Frame) : D Instr := do
  let g ← guardOf f
  let w := f.w0
  match (fMaj w).toNat with
  | 0x10 => return .cmp g (← ccOf (fFn w).toNat) (← wd (fSub w)) (← opB f) (fA w) (← predOf (fD w))
  | 0x11 => return .cmpi g (← ccOf (fld w 28 4).toNat) (← opnd f (fld w 18 10)) (fA w) (← predOf (fD w))
  | 0x12 => return .fcmp g (← fccOf (fFn w).toNat) (← fty (fSub w)) (← opB f) (fA w) (← predOf (fD w))
  | _ => do
    noLit f
    zero (fSub w)
    match (fFn w).toNat with
    | 0 => return .pand g (← predOf (fB w)) (← predOf (fA w)) (← predOf (fD w))
    | 1 => return .por g (← predOf (fB w)) (← predOf (fA w)) (← predOf (fD w))
    | 2 => return .pxor g (← predOf (fB w)) (← predOf (fA w)) (← predOf (fD w))
    | 3 => return .pandn g (← predOf (fB w)) (← predOf (fA w)) (← predOf (fD w))
    | 4 => do zero (fB w); zero (fA w); return .pget g (fD w)
    | 5 => do zero (fB w); zero (fD w); return .pset g (fA w)
    | _ => undefFn

def cvtOf (n : Nat) : D CvtKind :=
  match n with
  | 0 => .ok .f32bf16
  | 1 => .ok .bf16f32
  | 2 => .ok .f32i32
  | 3 => .ok .f32i64
  | 4 => .ok .bf16i32
  | 5 => .ok .bf16i64
  | 6 => .ok .i32f32
  | 7 => .ok .i64f32
  | 8 => .ok .i32bf16
  | 9 => .ok .i64bf16
  | _ => .error .undefinedFn

/-- MAJ 0x14 to 0x17 (R177). -/
def dFp (f : Frame) : D Instr := do
  let g ← guardOf f
  let w := f.w0
  let a := fA w
  let d := fD w
  match (fMaj w).toNat with
  | 0x14 => do
    let t ← fty (fSub w)
    match (fFn w).toNat with
    | 0 => return .fadd g t (← opB f) a d
    | 1 => return .fsub g t (← opB f) a d
    | 2 => return .fmul g t (← opB f) a d
    | 3 => return .fmin g t (← opB f) a d
    | 4 => return .fmax g t (← opB f) a d
    | 5 => return .fdiv g t (← opB f) a d
    | 6 => do noLit f; zero (fB w); return .fsqrt g t a d
    | _ => undefFn
  | 0x15 => do
    let t ← fty (fSub w)
    match (fFn w).toNat with
    | 0 => return .fma g t (← opB f) a d
    | 1 => return .fms g t (← opB f) a d
    | 2 => return .fnma g t (← opB f) a d
    | _ => undefFn
  | 0x16 => do
    noLit f
    zero (fB w)
    let t ← fty (fSub w)
    match (fFn w).toNat with
    | 0 => return .fabs g t a d
    | 1 => return .fneg g t a d
    | 2 => return .fclass g t a d
    | _ => undefFn
  | _ => do
    noLit f
    zero (fB w)
    zero (fSub w)
    return .fcvt g (← cvtOf (fFn w).toNat) a d

def bccOf (n : Nat) : D Bcc :=
  match n with
  | 0 => .ok .eq
  | 1 => .ok .ne
  | 2 => .ok .lt
  | 3 => .ok .ge
  | 4 => .ok .ltu
  | 5 => .ok .geu
  | _ => .error .undefinedFn

/-- MAJ 0x18 to 0x1F (R176, R206 to R212). -/
def dCtl (f : Frame) : D Instr := do
  let w := f.w0
  let a := fA w
  let d := fD w
  match (fMaj w).toNat with
  | 0x18 => do
    let g ← guardOf f
    return .bcc g (← bccOf (fCond w).toNat) (← opnd f (fOff11 w)) a d
  | 0x19 => do
    let g ← guardOf f
    zero a
    match (fCond w).toNat with
    | 0 => return .bp g (← opnd f (fOff11 w)) (← predOf d)
    | 1 => return .bnp g (← opnd f (fOff11 w)) (← predOf d)
    | _ => undefFn
  | 0x1A => do let g ← guardOf f; return .j g (← opnd f (fOff24 w))
  | 0x1B => do let g ← guardOf f; return .jal g (← opnd f (fOff24 w))
  | 0x1C => do
    let g ← guardOf f
    noLit f
    zero (fSub w)
    zero (fB w)
    match (fFn w).toNat with
    | 0 => do zero d; return .jr g a
    | 1 => return .jalr g a d
    | _ => undefFn
  | 0x1D => do
    let g ← guardOf f
    noLit f
    zero (fld w 9 4)
    return .loop g (fld w 8 1) (fImm w) a
  | 0x1E => do
    noLit f
    need f.ext.isNone .lenNotAllowed
    zero d
    zero a
    return .align (fImm w)
  | _ => do
    let g ← guardOf f
    noLit f
    zero (fld w 8 19)
    match (fFn w).toNat with
    | 0 => return .nop g
    | 1 => return .exit g
    | _ => undefFn

def ldSize (n : Nat) : D LdSize :=
  match n with
  | 0 => .ok .b
  | 1 => .ok .h
  | 2 => .ok .w
  | 3 => .ok .d
  | 4 => .ok .bu
  | 5 => .ok .hu
  | 6 => .ok .wu
  | _ => .error .undefinedFn

def stSize (n : Nat) : D StSize :=
  match n with
  | 0 => .ok .b
  | 1 => .ok .h
  | 2 => .ok .w
  | 3 => .ok .d
  | _ => .error .undefinedFn

def hint (n : Nat) : D Hint :=
  match n with
  | 0 => .ok .none
  | 1 => .ok .na
  | 2 => .ok .bypass
  | _ => .error .undefinedFn

/-- MAJ 0x20 to 0x23 (R178). For these forms the SIZE field is bits 20:18. -/
def dMem (f : Frame) : D Instr := do
  let g ← guardOf f
  let w := f.w0
  let o ← opnd f (fOff5 w)
  let h ← hint (fHint w).toNat
  let z := (fCond w).toNat
  match (fMaj w).toNat with
  | 0x20 => return .ld g (← ldSize z) h (fBudget w) o (fA w) (fD w)
  | 0x21 => do zero (fBudget w); return .st g (← stSize z) h o (fA w) (fD w)
  | 0x22 => return .ldRaw g (← stSize z) h (fBudget w) o (fA w) (fD w)
  | _ => do zero (fBudget w); return .stRaw g (← stSize z) h o (fA w) (fD w)

def asz (s : BitVec 4) : D Asz :=
  match s.toNat with
  | 0 => .ok .w
  | 1 => .ok .d
  | _ => .error .undefinedFn

def scope (s : BitVec 4) : D Scope :=
  match s.toNat with
  | 0 => .ok .slot
  | 1 => .ok .core
  | 2 => .ok .cell
  | 3 => .ok .cluster
  | 4 => .ok .die
  | 5 => .ok .part
  | 6 => .ok .pod
  | _ => .error .undefinedFn

/-- MAJ 0x24 and 0x28 to 0x2C (R179, R180). -/
def dOrd (f : Frame) : D Instr := do
  let g ← guardOf f
  noLit f
  let w := f.w0
  let b := fB w
  let a := fA w
  let d := fD w
  match (fMaj w).toNat, (fFn w).toNat with
  | 0x24, 0 => do zero (fSub w); return .amsend g b a d
  | 0x28, 0 => return .aadd g (← asz (fSub w)) b a d
  | 0x28, 1 => return .amin g (← asz (fSub w)) b a d
  | 0x28, 2 => return .amax g (← asz (fSub w)) b a d
  | 0x28, 3 => return .aminu g (← asz (fSub w)) b a d
  | 0x28, 4 => return .amaxu g (← asz (fSub w)) b a d
  | 0x28, 5 => return .aand g (← asz (fSub w)) b a d
  | 0x28, 6 => return .aor g (← asz (fSub w)) b a d
  | 0x28, 7 => return .axor g (← asz (fSub w)) b a d
  | 0x28, 8 => return .aswp g (← asz (fSub w)) b a d
  | 0x29, 0 => return .acas g (← asz (fSub w)) b a d
  | 0x2A, 0 => do zero a; zero b; zero d; return .fence g (← scope (fSub w))
  | 0x2A, 1 => do zero d; return .acq g (← scope (fSub w)) b a
  | 0x2A, 2 => do zero d; return .rel g (← scope (fSub w)) b a
  | 0x2A, 3 => do zero d; zero (fSub w); return .invr g b a
  | 0x2B, 0 => do zero d; zero b; zero (fSub w); return .vsync g a
  | 0x2C, 0 => do zero (fSub w); zero b; return .smap g a d
  | 0x2C, 1 => do zero (fSub w); zero b; zero d; return .sunmap g a
  | 0x2C, 2 => do zero (fSub w); zero b; return .sstat g a d
  | 0x2C, 3 => do zero (fSub w); zero d; return .sskip g b a
  | 0x2C, 4 => do zero (fSub w); zero b; zero d; return .spref g a
  | _, _ => undefFn

/-- Words 1 and 2 of an extended-only form (LEN 01). -/
def extOnly (f : Frame) : D (W32 × W32) :=
  match f.ext, f.lit with
  | some p, none => .ok p
  | _, _ => .error .lenNotAllowed

/-! Fields of word 1 (R167). -/

def fTb (w1 : W32) : TileIx := fld w1 17 6
def fTa (w1 : W32) : TileIx := fld w1 11 6
def fTd (w1 : W32) : TileIx := fld w1 5 6
def fGate (w1 : W32) : BitVec 9 := fld w1 23 9
def fSense (w1 : W32) : Bool := fld w1 4 1 == 1
def fPred (w1 : W32) : PredIx := fld w1 0 4

/-- KIND, INDEX and AMOUNT of word 2 (R167). -/
def doneOf (w2 : W32) : D Done := do
  let ix : BitVec 8 := fld w2 21 8
  let am : BitVec 4 := fld w2 17 4
  match (fld w2 29 3).toNat with
  | 0 => do zero ix; zero am; return .none
  | 1 => do need (ix.toNat < 32) .undefinedFn; return .sem (fld w2 21 5) am
  | 2 => do zero am; return .counter ix
  | 3 => do zero am; need (ix.toNat < 4) .undefinedFn; return .mailbox (fld w2 21 2)
  | 4 => do zero am; need (ix.toNat < 16) .undefinedFn; return .pred (fld w2 21 4)
  | _ => undefFn

/-- Guard, gate and completion object of an engine form. -/
def extOf (w1 w2 : W32) : D Ext := do
  return ⟨fSense w1, fPred w1, fld w1 28 4, fld w1 23 5, ← doneOf w2⟩

def pgOf (w1 : W32) : D Pg := do
  zero (fGate w1)
  return ⟨fSense w1, fPred w1⟩

/-- MAJ 0x2E (R181, R234, R236). -/
def dTile (f : Frame) : D Instr := do
  let (w1, w2) ← extOnly f
  let q ← pgOf w1
  let w := f.w0
  zero (fSub w)
  zero (fTb w1)
  zero (fTa w1)
  let td := fTd w1
  match (fFn w).toNat with
  | 0 => do
    zero (fD w)
    zero (fld w2 31 1)
    return .tbind q (fld w2 29 2) (fld w2 28 1 == 1) (fld w2 24 4) (fld w2 12 12) (fld w2 0 12)
      (fB w) (fA w) td
  | 2 => do
    zero (fA w)
    zero (fB w)
    zero (fld w2 2 30)
    return .tstate q (fld w2 0 2) (fD w) td
  | n => do
    zero (fld w 8 15)
    zero w2
    match n with
    | 1 => return .tfree q td
    | 3 => return .twait q td
    | 4 => return .tmarkR q td
    | 5 => return .tmarkE q td
    | _ => undefFn

def rndOf (n : Nat) : D RndSel :=
  match n with
  | 0 => .ok .rm
  | 1 => .ok .ne
  | 2 => .ok .tz
  | 3 => .ok .up
  | 4 => .ok .dn
  | _ => .error .undefinedFn

/-- MAJ 0x30 to 0x32 (R181, R234). -/
def dCopy (f : Frame) : D Instr := do
  let (w1, w2) ← extOnly f
  let x ← extOf w1 w2
  let w := f.w0
  zero (fTb w1)
  zero (fD w)
  let td := fTd w1
  let ta := fTa w1
  let a := fA w
  let b := fB w
  match (fMaj w).toNat, (fFn w).toNat with
  | 0x32, 1 => do
    zero (fld w2 0 17)
    match (fSub w).toNat with
    | 0 => return .cprot x false b a td ta
    | 1 => return .cprot x true b a td ta
    | _ => undefFn
  | m, n => do
    zero (fSub w)
    match m, n with
    | 0x30, 0 => do
      zero ta
      zero (fld w2 1 16)
      if fld w2 0 1 == 1 then return .cpLd x (some (a, b)) td
      else do zero a; zero b; return .cpLd x none td
    | 0x30, 1 => do
      zero ta
      zero (fld w2 1 16)
      if fld w2 0 1 == 1 then return .cpSt x (some (a, b)) td
      else do zero a; zero b; return .cpSt x none td
    | 0x30, 2 => do
      zero ta
      return .cp2d x (fld w2 16 1 == 1) (fld w2 0 16) b a td
    | 0x30, 3 => do
      zero ta
      zero b
      zero (fld w2 0 17)
      return .fill x a td
    | 0x31, 0 => do zero (fld w2 0 17); return .gather x b a td ta
    | 0x31, 1 => do zero (fld w2 0 17); return .scatter x b a td ta
    | 0x32, 0 => do
      zero ta
      zero a
      zero b
      zero (fld w2 3 14)
      return .halo x (fld w2 0 3) td
    | _, _ => undefFn

/-- MAJ 0x34 and 0x36 (R181, R234). -/
def dConv (f : Frame) : D Instr := do
  let (w1, w2) ← extOnly f
  let x ← extOf w1 w2
  let w := f.w0
  zero (fTb w1)
  zero (fD w)
  let td := fTd w1
  let ta := fTa w1
  let a := fA w
  let b := fB w
  match (fMaj w).toNat, (fFn w).toNat with
  | 0x34, 2 => do
    zero (fld w2 5 12)
    if (fSub w).toNat == 5 then return .cvQ x (.stochastic a b) (fld w2 0 5) td ta
    else do
      zero a
      zero b
      return .cvQ x (.rnd (← rndOf (fSub w).toNat)) (fld w2 0 5) td ta
  | 0x34, 3 => do
    zero a
    zero b
    zero (fld w2 0 17)
    return .cvF x (← rndOf (fSub w).toNat) td ta
  | 0x34, n => do
    zero a
    zero b
    zero (fSub w)
    zero (fld w2 0 17)
    match n with
    | 0 => return .cvPlane x td ta
    | 1 => return .cvUnplane x td ta
    | 4 => return .cvTr x td ta
    | _ => undefFn
  | 0x36, 0 => do
    zero b
    zero (fSub w)
    zero td
    zero ta
    zero (fld w2 2 15)
    return .tiLoad x (fld w2 0 2) a
  | 0x36, 1 => do
    zero a
    zero b
    zero (fld w2 2 15)
    return .tiEval x (← fty (fSub w)) (fld w2 0 2) td ta
  | _, _ => undefFn

/-- MAJ 0x38 and 0x39 (R181, R253, R260). -/
def dMat (f : Frame) : D Instr := do
  let (w1, w2) ← extOnly f
  let x ← extOf w1 w2
  let w := f.w0
  let td := fTd w1
  let ta := fTa w1
  need ((fFn w).toNat == 0) .undefinedFn
  zero (fB w)
  zero (fD w)
  match (fMaj w).toNat with
  | 0x38 => do
    zero (fA w)
    zero (fld w 24 3)
    zero (fld w2 8 9)
    return .mma x (fld w 23 1 == 1) (fld w2 4 4) (fld w2 0 4) td ta (fTb w1)
  | _ => do
    zero (fTb w1)
    zero (fld w2 4 13)
    let m ← rndOf (fld w2 1 3).toNat
    let s ← (if fld w2 0 1 == 1 then .ok (some (fA w)) else do zero (fA w); return none)
    match (fSub w).toNat with
    | 0 => return .maccRd x .f32 m s td ta
    | 1 => return .maccRd x .bf16 m s td ta
    | 2 => return .maccRd x .i32 m s td ta
    | _ => undefFn

def vty (s : BitVec 4) : D Vty :=
  match s.toNat with
  | 0 => .ok .f32
  | 1 => .ok .bf16
  | 2 => .ok .i32
  | 3 => .ok .i8
  | _ => .error .undefinedFn

def ity (s : BitVec 4) : D Ity :=
  match s.toNat with
  | 2 => .ok .i32
  | 3 => .ok .i8
  | _ => .error .undefinedFn

/-- SAT with the type: on F types it is undefined (R261). -/
def vsat (s : BitVec 4) (sat : Bool) : D VSat :=
  match s.toNat with
  | 0 => do need (!sat) .undefinedFn; return .f .f32
  | 1 => do need (!sat) .undefinedFn; return .f .bf16
  | 2 => .ok (.i .i32 sat)
  | 3 => .ok (.i .i8 sat)
  | _ => .error .undefinedFn

def vfmaTy (s : BitVec 4) (sat : Bool) : D VFmaTy :=
  match s.toNat with
  | 0 => do need (!sat) .undefinedFn; return .f .f32
  | 1 => do need (!sat) .undefinedFn; return .f .bf16
  | 2 => .ok (.i32 sat)
  | _ => .error .undefinedFn

def brOf (n : Nat) : Br :=
  match n with
  | 0 => .full
  | 1 => .row
  | 2 => .col
  | _ => .sc

def vcmpOf (s : BitVec 4) (o : Nat) : D VCmp :=
  match s.toNat with
  | 0 => return .f .f32 (← fccOf o)
  | 1 => return .f .bf16 (← fccOf o)
  | 2 => return .i .i32 (← ccOf o)
  | 3 => return .i .i8 (← ccOf o)
  | _ => .error .undefinedFn

def bcastOf (n : Nat) : D BcastBr :=
  match n with
  | 1 => .ok .row
  | 2 => .ok .col
  | 3 => .ok .sc
  | _ => .error .undefinedFn

/-- MK and MT (R261). -/
def maskOf (w2 : W32) : D (Option TileIx) :=
  if fld w2 6 1 == 1 then return some (fld w2 0 6) else do zero (fld w2 0 6); return none

/-- Fields of word 2 of a vector form (R261) that a form does not use are reserved. -/
def vSat (w2 : W32) : Bool := fld w2 16 1 == 1
def noSat (w2 : W32) : D Unit := zero (fld w2 16 1)
def noBr (w2 : W32) : D Unit := zero (fld w2 14 2)
def noOpx (w2 : W32) : D Unit := zero (fld w2 10 4)
def noMx (w2 : W32) : D Unit := zero (fld w2 7 3)
def fBr (w2 : W32) : Br := brOf (fld w2 14 2).toNat

/-- MAJ 0x3A (R182, R265, R267, R268). -/
def dVec0 (f : Frame) : D Instr := do
  let (w1, w2) ← extOnly f
  let x ← extOf w1 w2
  let w := f.w0
  let s := fSub w
  let td := fTd w1
  let ta := fTa w1
  let tb := fTb w1
  zero (fD w)
  zero (fB w)
  match (fFn w).toNat with
  | 0 => do zero (fA w); noOpx w2; noMx w2; return .vadd x (← vsat s (vSat w2)) (fBr w2) (← maskOf w2) td ta tb
  | 1 => do zero (fA w); noOpx w2; noMx w2; return .vsub x (← vsat s (vSat w2)) (fBr w2) (← maskOf w2) td ta tb
  | 2 => do zero (fA w); noOpx w2; noMx w2; return .vmul x (← vsat s (vSat w2)) (fBr w2) (← maskOf w2) td ta tb
  | 3 => do zero (fA w); noOpx w2; noMx w2; return .vfma x (← vfmaTy s (vSat w2)) (fBr w2) (← maskOf w2) td ta tb
  | 4 => do zero (fA w); noSat w2; noOpx w2; noMx w2; return .vmin x (← vty s) (fBr w2) (← maskOf w2) td ta tb
  | 5 => do zero (fA w); noSat w2; noOpx w2; noMx w2; return .vmax x (← vty s) (fBr w2) (← maskOf w2) td ta tb
  | 6 => do zero (fA w); zero tb; noBr w2; noOpx w2; noMx w2; return .vabs x (← vsat s (vSat w2)) (← maskOf w2) td ta
  | 7 => do zero (fA w); zero tb; noBr w2; noOpx w2; noMx w2; return .vneg x (← vsat s (vSat w2)) (← maskOf w2) td ta
  | 8 => do
    zero (fA w)
    noSat w2
    noMx w2
    return .vcmp x (← vcmpOf s (fld w2 10 4).toNat) (fBr w2) (← maskOf w2) td ta tb
  | 9 => do
    zero (fA w)
    noSat w2
    noOpx w2
    noMx w2
    zero (fld w2 6 1)
    return .vsel x (← vty s) (fBr w2) (fld w2 0 6) td ta tb
  | 10 => do zero tb; noBr w2; noOpx w2; noMx w2; return .vscale x (← vsat s (vSat w2)) (← maskOf w2) (fA w) td ta
  | 11 => do zero tb; noBr w2; noOpx w2; noMx w2; return .vaddsc x (← vsat s (vSat w2)) (← maskOf w2) (fA w) td ta
  | 12 => do
    zero (fA w)
    zero tb
    noBr w2
    zero (fld w2 8 2)
    let cols := fld w2 7 1 == 1
    match (fld w2 10 4).toNat with
    | 0 => return .vred x (.sum (← vsat s (vSat w2))) cols (← maskOf w2) td ta
    | 1 => do noSat w2; return .vred x (.min (← vty s)) cols (← maskOf w2) td ta
    | 2 => do noSat w2; return .vred x (.max (← vty s)) cols (← maskOf w2) td ta
    | _ => undefFn
  | 13 => do
    zero (fA w)
    zero tb
    noSat w2
    noBr w2
    zero (fld w2 10 2)
    return .vcvt x (← vty ((fld w2 12 2).setWidth 4)) (← vty s) (← rndOf (fld w2 7 3).toNat) (← maskOf w2) td ta
  | 14 => do zero (fA w); zero tb; noSat w2; noBr w2; noOpx w2; noMx w2; return .vmov x (← vty s) (← maskOf w2) td ta
  | 15 => do
    zero (fA w)
    zero tb
    noSat w2
    noOpx w2
    noMx w2
    return .vbcast x (← vty s) (← bcastOf (fld w2 14 2).toNat) (← maskOf w2) td ta
  | _ => undefFn

/-- MAJ 0x3B (R182, R266). -/
def dVec1 (f : Frame) : D Instr := do
  let (w1, w2) ← extOnly f
  let x ← extOf w1 w2
  let w := f.w0
  let s := fSub w
  let td := fTd w1
  let ta := fTa w1
  let tb := fTb w1
  zero (fD w)
  match (fFn w).toNat with
  | 0 => do zero (fA w); zero (fB w); noSat w2; noOpx w2; noMx w2; return .vand x (← vty s) (fBr w2) (← maskOf w2) td ta tb
  | 1 => do zero (fA w); zero (fB w); noSat w2; noOpx w2; noMx w2; return .vor x (← vty s) (fBr w2) (← maskOf w2) td ta tb
  | 2 => do zero (fA w); zero (fB w); noSat w2; noOpx w2; noMx w2; return .vxor x (← vty s) (fBr w2) (← maskOf w2) td ta tb
  | 3 => do zero (fB w); zero tb; noBr w2; noOpx w2; noMx w2; return .vshl x (← ity s) (vSat w2) (← maskOf w2) (fA w) td ta
  | 4 => do
    zero (fB w)
    zero tb
    noSat w2
    noBr w2
    noOpx w2
    zero (fld w2 8 2)
    return .vshr x (← ity s) (fld w2 7 1 == 1) (← maskOf w2) (fA w) td ta
  | 5 => do
    zero (fB w)
    zero tb
    noBr w2
    zero (fld w2 13 1)
    return .vmuli x (← ity s) (vSat w2) (fld w2 7 6) (← maskOf w2) (fA w) td ta
  | 6 => do zero tb; noSat w2; noBr w2; noOpx w2; noMx w2; return .vclamp x (← vty s) (← maskOf w2) (fB w) (fA w) td ta
  | _ => undefFn

/-- MAJ 0x3C (R183, R270). -/
def dTxn (f : Frame) : D Instr := do
  let g ← guardOf f
  noLit f
  let w := f.w0
  zero (fSub w)
  let a := fA w
  let d := fD w
  match (fFn w).toNat with
  | 0 => do zero (fB w); zero d; return .txsub g a
  | 1 => do zero (fB w); zero d; return .txsubf g a
  | 2 => do zero (fB w); zero a; zero d; return .txend g
  | 3 => do zero (fB w); zero a; return .txnum g d
  | 4 => return .txwd g (fB w) a d
  | 5 => do zero (fB w); return .txq g a d
  | _ => undefFn

/-- IX below a bound (R183). -/
def ixBelow (w : W32) (n : Nat) : D Unit := need ((fIx w).toNat < n) .undefinedFn

/-- MAJ 0x3D (R183, R270). -/
def dTask (f : Frame) : D Instr := do
  noLit f
  let w := f.w0
  let a := fA w
  let d := fD w
  match (fFn w).toNat with
  | 6 => do
    need f.ext.isSome .lenNotAllowed
    zero (fIx w)
    match ← guardOf f with
    | .pred s p => return .rfork ⟨s, p⟩ a d
    | .always => .error .lenNotAllowed
  | n => do
    let g ← guardOf f
    match n with
    | 0 => do zero (fIx w); return .callat g a d
    | 1 => do zero (fIx w); return .launch g a d
    | 2 => do ixBelow w 4; return .tpost g (fld w 18 2) a d
    | 3 => do zero (fIx w); zero d; return .taskwd g a
    | 4 => do ixBelow w 256; return .dcset g (fld w 18 8) a d
    | 5 => do ixBelow w 256; zero d; return .dcdec g (fld w 18 8) a
    | 7 => do ixBelow w 256; zero a; return .bar g (fld w 18 8) d
    | 8 => do ixBelow w 256; zero a; return .barq g (fld w 18 8) d
    | 9 => do ixBelow w 32; return .semadd g (fld w 18 5) a d
    | 10 => do ixBelow w 32; return .semwait g (fld w 18 5) a d
    | 11 => do ixBelow w 32; zero d; return .semset g (fld w 18 5) a
    | 12 => do ixBelow w 4; return .msend g (fld w 18 2) a d
    | 13 => do ixBelow w 4; zero a; return .mrecv g (fld w 18 2) d
    | 14 => do ixBelow w 4; zero a; return .mpoll g (fld w 18 2) d
    | _ => undefFn

/-- MAJ 0x3E (R183, R270). -/
def dSys (f : Frame) : D Instr := do
  let g ← guardOf f
  noLit f
  let w := f.w0
  let a := fA w
  let d := fD w
  match (fFn w).toNat with
  | 0 => do zero a; return .mfsr g (fIx w) d
  | 1 => do zero d; return .mtsr g (fIx w) a
  | 2 => do zero a; zero d; return .trap g (fIx w)
  | 3 => do zero a; zero d; return .brk g (fIx w)
  | 4 => do zero (fIx w); zero a; zero d; return .eret g
  | 5 => do zero (fIx w); return .rng g a d
  | 6 => do zero (fIx w); zero a; return .fix g d
  | 7 => do zero (fIx w); return .fixq g a d
  | _ => undefFn

/-- The opcode map (R171). -/
def byMaj (f : Frame) : D Instr :=
  match (fMaj f.w0).toNat with
  | 0x00 => dInt f
  | 0x01 => dInt f
  | 0x02 => dUnary f
  | 0x03 => dSel f
  | 0x08 => dImm f
  | 0x09 => dImm f
  | 0x0A => dImm f
  | 0x0B => dImm f
  | 0x0C => dImm f
  | 0x0D => dImm f
  | 0x0E => dImm f
  | 0x0F => dImm f
  | 0x10 => dCmp f
  | 0x11 => dCmp f
  | 0x12 => dCmp f
  | 0x13 => dCmp f
  | 0x14 => dFp f
  | 0x15 => dFp f
  | 0x16 => dFp f
  | 0x17 => dFp f
  | 0x18 => dCtl f
  | 0x19 => dCtl f
  | 0x1A => dCtl f
  | 0x1B => dCtl f
  | 0x1C => dCtl f
  | 0x1D => dCtl f
  | 0x1E => dCtl f
  | 0x1F => dCtl f
  | 0x20 => dMem f
  | 0x21 => dMem f
  | 0x22 => dMem f
  | 0x23 => dMem f
  | 0x24 => dOrd f
  | 0x28 => dOrd f
  | 0x29 => dOrd f
  | 0x2A => dOrd f
  | 0x2B => dOrd f
  | 0x2C => dOrd f
  | 0x2E => dTile f
  | 0x30 => dCopy f
  | 0x31 => dCopy f
  | 0x32 => dCopy f
  | 0x34 => dConv f
  | 0x36 => dConv f
  | 0x38 => dMat f
  | 0x39 => dMat f
  | 0x3A => dVec0 f
  | 0x3B => dVec1 f
  | 0x3C => dTxn f
  | 0x3D => dTask f
  | 0x3E => dSys f
  | _ => .error .undefinedMaj

end Decode

/-- The instruction that a list of words begins with. -/
def decodeWords (ws : List W32) : Except DecodeError Instr := do
  let i ← Decode.byMaj (← Decode.frame ws)
  Decode.need i.wf .illFormed
  return i

/-- A little-endian word of four bytes (R5). -/
def wordOfBytes (b0 b1 b2 b3 : Byte) : W32 := b3 ++ b2 ++ b1 ++ b0

/-- The bytes of a word, lowest address first (R5). -/
def bytesOfWord (w : W32) : List Byte :=
  [w.extractLsb' 0 8, w.extractLsb' 8 8, w.extractLsb' 16 8, w.extractLsb' 24 8]

/-- The whole words that a list of bytes holds. -/
def wordsOfBytes : List Byte → List W32
  | b0 :: b1 :: b2 :: b3 :: bs => wordOfBytes b0 b1 b2 b3 :: wordsOfBytes bs
  | _ => []

/-- The instruction that a list of bytes begins with, and its length in bytes (R163). -/
def decode (bs : List Byte) : Except DecodeError (Instr × Nat) :=
  match wordsOfBytes bs with
  | [] => .error .truncated
  | w0 :: ws => do
    let i ← decodeWords (w0 :: ws)
    return (i, 4 * Decode.lenWords w0)

/-- Word j of an instruction whose bits the opcode table numbers from bit 0 of its first word. -/
def tableWord (w j : Nat) : W32 := BitVec.ofNat 32 (w / 2 ^ (32 * j))

/-- The bytes of an instruction whose bits are w, numbered as spec/opcode_table.json numbers them;
bits above nbits are 0, up to the longest instruction's five words (R163). -/
def tableBytes (nbits w : Nat) : List Byte :=
  let v := w % 2 ^ nbits
  ([0, 1, 2, 3, 4].map fun j => bytesOfWord (tableWord v j)).flatten

/-- The instruction the decoder reads from an instruction whose bits are w (the table's numbering). -/
def decodeTableWord (nbits w : Nat) : Option Instr :=
  match decode (tableBytes nbits w) with
  | .ok (i, _) => some i
  | .error _ => none

/-! The encoder, from R163 to R183, R234, R253 to R268 and R270. -/

namespace Encode

/-- Format A (R166). -/
def wA (fn : BitVec 5) (sub : BitVec 4) (b a d : BitVec 5) (maj : BitVec 6) (len : BitVec 2) : W32 :=
  fn ++ sub ++ b ++ a ++ d ++ maj ++ len

/-- Format A with IX in the place of SUB and B (R183). -/
def wX (fn : BitVec 5) (ix : BitVec 9) (a d : BitVec 5) (maj : BitVec 6) (len : BitVec 2) : W32 :=
  fn ++ ix ++ a ++ d ++ maj ++ len

/-- Format I. -/
def wI (imm : BitVec 14) (a d : BitVec 5) (maj : BitVec 6) (len : BitVec 2) : W32 :=
  imm ++ a ++ d ++ maj ++ len

/-- Format B: B stands in bits 17:13 and A in bits 12:8. -/
def wB (off : BitVec 11) (cond : BitVec 3) (b a : BitVec 5) (maj : BitVec 6) (len : BitVec 2) : W32 :=
  off ++ cond ++ b ++ a ++ maj ++ len

/-- Format J. -/
def wJ (off : BitVec 24) (maj : BitVec 6) (len : BitVec 2) : W32 := off ++ maj ++ len

/-- Format M. -/
def wM (off : BitVec 5) (budget : BitVec 4) (hint : BitVec 2) (size : BitVec 3) (b d : BitVec 5)
    (maj : BitVec 6) (len : BitVec 2) : W32 :=
  off ++ budget ++ hint ++ size ++ b ++ d ++ maj ++ len

/-- Word 1 (R167). -/
def w1 (gate : BitVec 9) (tb ta td : TileIx) (sense : Bool) (p : PredIx) : W32 :=
  gate ++ tb ++ ta ++ td ++ BitVec.ofBool sense ++ p

/-- Word 2 of MAJ 0x30 to 0x3B (R167). -/
def w2 (kind : BitVec 3) (ix : BitVec 8) (amount : BitVec 4) (form : BitVec 17) : W32 :=
  kind ++ ix ++ amount ++ form

def litWords (v : Word) : List W32 := [v.extractLsb' 0 32, v.extractLsb' 32 32]

/-- The words of a form that may stand in one word; w0 takes LEN (R163). -/
def plain (g : Guard) (l : Option Word) (w0 : BitVec 2 → W32) : List W32 :=
  match g, l with
  | .always, none => [w0 0]
  | .always, some v => w0 2 :: litWords v
  | .pred s p, none => [w0 1, w1 0 0 0 0 s p, 0]
  | .pred s p, some v => w0 3 :: w1 0 0 0 0 s p :: 0 :: litWords v

/-- The field of an operand, zero beside a literal (R164). -/
def field {n : Nat} : Opnd n → BitVec n
  | .field v => v
  | .lit _ => 0

def lit {n : Nat} : Opnd n → Option Word
  | .field _ => none
  | .lit v => some v

def wd : Wd → BitVec 4
  | .d64 => 0
  | .w32 => 1

def wx : Wx → BitVec 4
  | .b => 0
  | .h => 1
  | .w => 2

def cc : Cc → BitVec 4
  | .eq => 0
  | .ne => 1
  | .lt => 2
  | .le => 3
  | .gt => 4
  | .ge => 5
  | .ltu => 6
  | .leu => 7
  | .gtu => 8
  | .geu => 9

def fcc : Fcc → BitVec 4
  | .eq => 0
  | .ne => 1
  | .lt => 2
  | .le => 3
  | .gt => 4
  | .ge => 5
  | .un => 6
  | .ord => 7

def bcc : Bcc → BitVec 3
  | .eq => 0
  | .ne => 1
  | .lt => 2
  | .ge => 3
  | .ltu => 4
  | .geu => 5

def fty : Fty → BitVec 4
  | .f32 => 0
  | .bf16 => 1

def cvt : CvtKind → BitVec 5
  | .f32bf16 => 0
  | .bf16f32 => 1
  | .f32i32 => 2
  | .f32i64 => 3
  | .bf16i32 => 4
  | .bf16i64 => 5
  | .i32f32 => 6
  | .i64f32 => 7
  | .i32bf16 => 8
  | .i64bf16 => 9

def ldSize : LdSize → BitVec 3
  | .b => 0
  | .h => 1
  | .w => 2
  | .d => 3
  | .bu => 4
  | .hu => 5
  | .wu => 6

def stSize : StSize → BitVec 3
  | .b => 0
  | .h => 1
  | .w => 2
  | .d => 3

def hint : Hint → BitVec 2
  | .none => 0
  | .na => 1
  | .bypass => 2

def asz : Asz → BitVec 4
  | .w => 0
  | .d => 1

def scope : Scope → BitVec 4
  | .slot => 0
  | .core => 1
  | .cell => 2
  | .cluster => 3
  | .die => 4
  | .part => 5
  | .pod => 6

def rnd : RndSel → BitVec 4
  | .rm => 0
  | .ne => 1
  | .tz => 2
  | .up => 3
  | .dn => 4

def rnd3 (m : RndSel) : BitVec 3 := (rnd m).extractLsb' 0 3

def macc : MaccTy → BitVec 4
  | .f32 => 0
  | .bf16 => 1
  | .i32 => 2

def vty : Vty → BitVec 4
  | .f32 => 0
  | .bf16 => 1
  | .i32 => 2
  | .i8 => 3

def vty2 (t : Vty) : BitVec 2 := (vty t).extractLsb' 0 2

def ity : Ity → BitVec 4
  | .i32 => 2
  | .i8 => 3

def vsat : VSat → BitVec 4
  | .f t => fty t
  | .i t _ => ity t

def satOf : VSat → BitVec 1
  | .f _ => 0
  | .i _ s => BitVec.ofBool s

def vfma : VFmaTy → BitVec 4
  | .f t => fty t
  | .i32 _ => 2

def vfmaSat : VFmaTy → BitVec 1
  | .f _ => 0
  | .i32 s => BitVec.ofBool s

def vcmp : VCmp → BitVec 4
  | .f t _ => fty t
  | .i t _ => ity t

def vcmpCode : VCmp → BitVec 4
  | .f _ c => fcc c
  | .i _ c => cc c

def br : Br → BitVec 2
  | .full => 0
  | .row => 1
  | .col => 2
  | .sc => 3

def bcast : BcastBr → BitVec 2
  | .row => 1
  | .col => 2
  | .sc => 3

/-- SAT, BR, OPX, MX, MK and MT (R261). -/
def vform (sat : BitVec 1) (b : BitVec 2) (opx : BitVec 4) (mx : BitVec 3) (m : Option TileIx) :
    BitVec 17 :=
  match m with
  | none => sat ++ b ++ opx ++ mx ++ (0 : BitVec 1) ++ (0 : BitVec 6)
  | some t => sat ++ b ++ opx ++ mx ++ (1 : BitVec 1) ++ t

/-- The words of an engine form. -/
def eng (x : Ext) (tb ta td : TileIx) (form : BitVec 17) (w0 : W32) : List W32 :=
  let h := w1 (x.gcount ++ x.gsem) tb ta td x.sense x.pred
  match x.done with
  | .none => [w0, h, w2 0 0 0 form]
  | .sem i k => [w0, h, w2 1 ((0 : BitVec 3) ++ i) k form]
  | .counter i => [w0, h, w2 2 i 0 form]
  | .mailbox i => [w0, h, w2 3 ((0 : BitVec 6) ++ i) 0 form]
  | .pred p => [w0, h, w2 4 ((0 : BitVec 4) ++ p) 0 form]

/-- The words of a tile-table form. -/
def tile (q : Pg) (td : TileIx) (w2 : W32) (w0 : W32) : List W32 :=
  [w0, w1 0 0 0 td q.sense q.pred, w2]

/-- A predicate in a 5-bit field (R166). -/
def p5 (p : PredIx) : BitVec 5 := (0 : BitVec 1) ++ p

/-- A vector form with TA and TB and no scalar. -/
def vec (x : Ext) (fn : BitVec 5) (maj : BitVec 6) (s : BitVec 4) (td ta tb : TileIx)
    (form : BitVec 17) : List W32 :=
  eng x tb ta td form (wA fn s 0 0 0 maj 1)

end Encode

open Encode in
/-- The words of a well-formed instruction; an event has none. -/
def encode : Instr → List W32
  | .add g w b a d => plain g (lit b) (wA 0 (wd w) (field b) a d 0x00)
  | .sub g w b a d => plain g (lit b) (wA 1 (wd w) (field b) a d 0x00)
  | .and g b a d => plain g (lit b) (wA 2 0 (field b) a d 0x00)
  | .or g b a d => plain g (lit b) (wA 3 0 (field b) a d 0x00)
  | .xor g b a d => plain g (lit b) (wA 4 0 (field b) a d 0x00)
  | .andn g b a d => plain g (lit b) (wA 5 0 (field b) a d 0x00)
  | .orn g b a d => plain g (lit b) (wA 6 0 (field b) a d 0x00)
  | .shl g w b a d => plain g (lit b) (wA 7 (wd w) (field b) a d 0x00)
  | .shr g w b a d => plain g (lit b) (wA 8 (wd w) (field b) a d 0x00)
  | .sar g w b a d => plain g (lit b) (wA 9 (wd w) (field b) a d 0x00)
  | .rol g w b a d => plain g (lit b) (wA 10 (wd w) (field b) a d 0x00)
  | .min g w b a d => plain g (lit b) (wA 11 (wd w) (field b) a d 0x00)
  | .max g w b a d => plain g (lit b) (wA 12 (wd w) (field b) a d 0x00)
  | .minu g w b a d => plain g (lit b) (wA 13 (wd w) (field b) a d 0x00)
  | .maxu g w b a d => plain g (lit b) (wA 14 (wd w) (field b) a d 0x00)
  | .mul g w b a d => plain g (lit b) (wA 0 (wd w) (field b) a d 0x01)
  | .mulh g b a d => plain g (lit b) (wA 1 0 (field b) a d 0x01)
  | .mulhu g b a d => plain g (lit b) (wA 2 0 (field b) a d 0x01)
  | .madd g w b a d => plain g (lit b) (wA 3 (wd w) (field b) a d 0x01)
  | .div g w b a d => plain g (lit b) (wA 4 (wd w) (field b) a d 0x01)
  | .divu g w b a d => plain g (lit b) (wA 5 (wd w) (field b) a d 0x01)
  | .rem g w b a d => plain g (lit b) (wA 6 (wd w) (field b) a d 0x01)
  | .remu g w b a d => plain g (lit b) (wA 7 (wd w) (field b) a d 0x01)
  | .clz g w a d => plain g none (wA 0 (wd w) 0 a d 0x02)
  | .ctz g w a d => plain g none (wA 1 (wd w) 0 a d 0x02)
  | .popc g w a d => plain g none (wA 2 (wd w) 0 a d 0x02)
  | .sext g x a d => plain g none (wA 3 (wx x) 0 a d 0x02)
  | .zext g x a d => plain g none (wA 4 (wx x) 0 a d 0x02)
  | .sel g p b a d => plain g (lit b) (wA 0 p (field b) a d 0x03)
  | .addi g i a d => plain g (lit i) (wI (field i) a d 0x08)
  | .andi g i a d => plain g (lit i) (wI (field i) a d 0x09)
  | .ori g i a d => plain g (lit i) (wI (field i) a d 0x0A)
  | .xori g i a d => plain g (lit i) (wI (field i) a d 0x0B)
  | .shli g w k a d => plain g none (wI ((0 : BitVec 2) ++ (0 : BitVec 5) ++ ((wd w).extractLsb' 0 1) ++ k) a d 0x0C)
  | .shri g w k a d => plain g none (wI ((1 : BitVec 2) ++ (0 : BitVec 5) ++ ((wd w).extractLsb' 0 1) ++ k) a d 0x0C)
  | .sari g w k a d => plain g none (wI ((2 : BitVec 2) ++ (0 : BitVec 5) ++ ((wd w).extractLsb' 0 1) ++ k) a d 0x0C)
  | .li g i d => plain g (lit i) (wI (field i) 0 d 0x0D)
  | .lpc g i d => plain g (lit i) (wI (field i) 0 d 0x0E)
  | .extr g l p a d => plain g none (wI ((0 : BitVec 2) ++ l ++ p) a d 0x0F)
  | .ins g l p a d => plain g none (wI ((2 : BitVec 2) ++ l ++ p) a d 0x0F)
  | .cmp g c w b a p => plain g (lit b) (wA ((0 : BitVec 1) ++ cc c) (wd w) (field b) a (p5 p) 0x10)
  | .cmpi g c i a p => plain g (lit i) (wI (cc c ++ field i) a (p5 p) 0x11)
  | .fcmp g c t b a p => plain g (lit b) (wA ((0 : BitVec 1) ++ fcc c) (fty t) (field b) a (p5 p) 0x12)
  | .pand g b a d => plain g none (wA 0 0 (p5 b) (p5 a) (p5 d) 0x13)
  | .por g b a d => plain g none (wA 1 0 (p5 b) (p5 a) (p5 d) 0x13)
  | .pxor g b a d => plain g none (wA 2 0 (p5 b) (p5 a) (p5 d) 0x13)
  | .pandn g b a d => plain g none (wA 3 0 (p5 b) (p5 a) (p5 d) 0x13)
  | .pget g d => plain g none (wA 4 0 0 0 d 0x13)
  | .pset g a => plain g none (wA 5 0 0 a 0 0x13)
  | .fadd g t b a d => plain g (lit b) (wA 0 (fty t) (field b) a d 0x14)
  | .fsub g t b a d => plain g (lit b) (wA 1 (fty t) (field b) a d 0x14)
  | .fmul g t b a d => plain g (lit b) (wA 2 (fty t) (field b) a d 0x14)
  | .fmin g t b a d => plain g (lit b) (wA 3 (fty t) (field b) a d 0x14)
  | .fmax g t b a d => plain g (lit b) (wA 4 (fty t) (field b) a d 0x14)
  | .fdiv g t b a d => plain g (lit b) (wA 5 (fty t) (field b) a d 0x14)
  | .fsqrt g t a d => plain g none (wA 6 (fty t) 0 a d 0x14)
  | .fma g t b a d => plain g (lit b) (wA 0 (fty t) (field b) a d 0x15)
  | .fms g t b a d => plain g (lit b) (wA 1 (fty t) (field b) a d 0x15)
  | .fnma g t b a d => plain g (lit b) (wA 2 (fty t) (field b) a d 0x15)
  | .fabs g t a d => plain g none (wA 0 (fty t) 0 a d 0x16)
  | .fneg g t a d => plain g none (wA 1 (fty t) 0 a d 0x16)
  | .fclass g t a d => plain g none (wA 2 (fty t) 0 a d 0x16)
  | .fcvt g k a d => plain g none (wA (cvt k) 0 0 a d 0x17)
  | .bcc g c o b a => plain g (lit o) (wB (field o) (bcc c) b a 0x18)
  | .bp g o p => plain g (lit o) (wB (field o) 0 0 (p5 p) 0x19)
  | .bnp g o p => plain g (lit o) (wB (field o) 1 0 (p5 p) 0x19)
  | .j g o => plain g (lit o) (wJ (field o) 0x1A)
  | .jal g o => plain g (lit o) (wJ (field o) 0x1B)
  | .jr g a => plain g none (wA 0 0 0 a 0 0x1C)
  | .jalr g a d => plain g none (wA 1 0 0 a d 0x1C)
  | .loop g l i a => plain g none (wI i a ((0 : BitVec 4) ++ l) 0x1D)
  | .align i => plain .always none (wI i 0 0 0x1E)
  | .nop g => plain g none (wA 0 0 0 0 0 0x1F)
  | .exit g => plain g none (wA 1 0 0 0 0 0x1F)
  | .ld g z h n o b d => plain g (lit o) (wM (field o) n (hint h) (ldSize z) b d 0x20)
  | .st g z h o b s => plain g (lit o) (wM (field o) 0 (hint h) (stSize z) b s 0x21)
  | .ldRaw g z h n o b d => plain g (lit o) (wM (field o) n (hint h) (stSize z) b d 0x22)
  | .stRaw g z h o b s => plain g (lit o) (wM (field o) 0 (hint h) (stSize z) b s 0x23)
  | .amsend g b a d => plain g none (wA 0 0 b a d 0x24)
  | .aadd g z b a d => plain g none (wA 0 (asz z) b a d 0x28)
  | .amin g z b a d => plain g none (wA 1 (asz z) b a d 0x28)
  | .amax g z b a d => plain g none (wA 2 (asz z) b a d 0x28)
  | .aminu g z b a d => plain g none (wA 3 (asz z) b a d 0x28)
  | .amaxu g z b a d => plain g none (wA 4 (asz z) b a d 0x28)
  | .aand g z b a d => plain g none (wA 5 (asz z) b a d 0x28)
  | .aor g z b a d => plain g none (wA 6 (asz z) b a d 0x28)
  | .axor g z b a d => plain g none (wA 7 (asz z) b a d 0x28)
  | .aswp g z b a d => plain g none (wA 8 (asz z) b a d 0x28)
  | .acas g z b a d => plain g none (wA 0 (asz z) b a d 0x29)
  | .fence g s => plain g none (wA 0 (scope s) 0 0 0 0x2A)
  | .acq g s b a => plain g none (wA 1 (scope s) b a 0 0x2A)
  | .rel g s b a => plain g none (wA 2 (scope s) b a 0 0x2A)
  | .invr g b a => plain g none (wA 3 0 b a 0 0x2A)
  | .vsync g a => plain g none (wA 0 0 0 a 0 0x2B)
  | .smap g a d => plain g none (wA 0 0 0 a d 0x2C)
  | .sunmap g a => plain g none (wA 1 0 0 a 0 0x2C)
  | .sstat g a d => plain g none (wA 2 0 0 a d 0x2C)
  | .sskip g b a => plain g none (wA 3 0 b a 0 0x2C)
  | .spref g a => plain g none (wA 4 0 0 a 0 0x2C)
  | .tbind q v l f c r b a td =>
    tile q td ((0 : BitVec 1) ++ v ++ BitVec.ofBool l ++ f ++ c ++ r) (wA 0 0 b a 0 0x2E 1)
  | .tfree q td => tile q td 0 (wA 1 0 0 0 0 0x2E 1)
  | .tstate q dw d td => tile q td ((0 : BitVec 30) ++ dw) (wA 2 0 0 0 d 0x2E 1)
  | .twait q td => tile q td 0 (wA 3 0 0 0 0 0x2E 1)
  | .tmarkR q td => tile q td 0 (wA 4 0 0 0 0 0x2E 1)
  | .tmarkE q td => tile q td 0 (wA 5 0 0 0 0 0x2E 1)
  | .cpLd x none td => eng x 0 0 td 0 (wA 0 0 0 0 0 0x30 1)
  | .cpLd x (some (a, b)) td => eng x 0 0 td 1 (wA 0 0 b a 0 0x30 1)
  | .cpSt x none td => eng x 0 0 td 0 (wA 1 0 0 0 0 0x30 1)
  | .cpSt x (some (a, b)) td => eng x 0 0 td 1 (wA 1 0 b a 0 0x30 1)
  | .cp2d x o r b a td => eng x 0 0 td (BitVec.ofBool o ++ r) (wA 2 0 b a 0 0x30 1)
  | .fill x a td => eng x 0 0 td 0 (wA 3 0 0 a 0 0x30 1)
  | .gather x b a td ta => eng x 0 ta td 0 (wA 0 0 b a 0 0x31 1)
  | .scatter x b a td ta => eng x 0 ta td 0 (wA 1 0 b a 0 0x31 1)
  | .halo x w td => eng x 0 0 td ((0 : BitVec 14) ++ w) (wA 0 0 0 0 0 0x32 1)
  | .cprot x s b a td ta => eng x 0 ta td 0 (wA 1 ((0 : BitVec 3) ++ BitVec.ofBool s) b a 0 0x32 1)
  | .cvPlane x td ta => eng x 0 ta td 0 (wA 0 0 0 0 0 0x34 1)
  | .cvUnplane x td ta => eng x 0 ta td 0 (wA 1 0 0 0 0 0x34 1)
  | .cvQ x (.rnd m) h td ta => eng x 0 ta td ((0 : BitVec 12) ++ h) (wA 2 (rnd m) 0 0 0 0x34 1)
  | .cvQ x (.stochastic a b) h td ta => eng x 0 ta td ((0 : BitVec 12) ++ h) (wA 2 5 b a 0 0x34 1)
  | .cvF x m td ta => eng x 0 ta td 0 (wA 3 (rnd m) 0 0 0 0x34 1)
  | .cvTr x td ta => eng x 0 ta td 0 (wA 4 0 0 0 0 0x34 1)
  | .tiLoad x t a => eng x 0 0 0 ((0 : BitVec 15) ++ t) (wA 0 0 0 a 0 0x36 1)
  | .tiEval x r t td ta => eng x 0 ta td ((0 : BitVec 15) ++ t) (wA 1 (fty r) 0 0 0 0x36 1)
  | .mma x z bp ap td ta tb =>
    eng x tb ta td ((0 : BitVec 9) ++ bp ++ ap) (wA 0 ((0 : BitVec 3) ++ BitVec.ofBool z) 0 0 0 0x38 1)
  | .maccRd x t m none td ta =>
    eng x 0 ta td ((0 : BitVec 13) ++ rnd3 m ++ (0 : BitVec 1)) (wA 0 (macc t) 0 0 0 0x39 1)
  | .maccRd x t m (some s) td ta =>
    eng x 0 ta td ((0 : BitVec 13) ++ rnd3 m ++ (1 : BitVec 1)) (wA 0 (macc t) 0 s 0 0x39 1)
  | .vadd x t b m td ta tb => vec x 0 0x3A (vsat t) td ta tb (vform (satOf t) (br b) 0 0 m)
  | .vsub x t b m td ta tb => vec x 1 0x3A (vsat t) td ta tb (vform (satOf t) (br b) 0 0 m)
  | .vmul x t b m td ta tb => vec x 2 0x3A (vsat t) td ta tb (vform (satOf t) (br b) 0 0 m)
  | .vfma x t b m td ta tb => vec x 3 0x3A (vfma t) td ta tb (vform (vfmaSat t) (br b) 0 0 m)
  | .vmin x t b m td ta tb => vec x 4 0x3A (vty t) td ta tb (vform 0 (br b) 0 0 m)
  | .vmax x t b m td ta tb => vec x 5 0x3A (vty t) td ta tb (vform 0 (br b) 0 0 m)
  | .vabs x t m td ta => vec x 6 0x3A (vsat t) td ta 0 (vform (satOf t) 0 0 0 m)
  | .vneg x t m td ta => vec x 7 0x3A (vsat t) td ta 0 (vform (satOf t) 0 0 0 m)
  | .vcmp x c b m td ta tb => vec x 8 0x3A (vcmp c) td ta tb (vform 0 (br b) (vcmpCode c) 0 m)
  | .vsel x t b tm td ta tb =>
    vec x 9 0x3A (vty t) td ta tb ((0 : BitVec 1) ++ br b ++ (0 : BitVec 4) ++ (0 : BitVec 3) ++ (0 : BitVec 1) ++ tm)
  | .vscale x t m a td ta => eng x 0 ta td (vform (satOf t) 0 0 0 m) (wA 10 (vsat t) 0 a 0 0x3A 1)
  | .vaddsc x t m a td ta => eng x 0 ta td (vform (satOf t) 0 0 0 m) (wA 11 (vsat t) 0 a 0 0x3A 1)
  | .vred x (.sum t) c m td ta =>
    vec x 12 0x3A (vsat t) td ta 0 (vform (satOf t) 0 0 ((0 : BitVec 2) ++ BitVec.ofBool c) m)
  | .vred x (.min t) c m td ta =>
    vec x 12 0x3A (vty t) td ta 0 (vform 0 0 1 ((0 : BitVec 2) ++ BitVec.ofBool c) m)
  | .vred x (.max t) c m td ta =>
    vec x 12 0x3A (vty t) td ta 0 (vform 0 0 2 ((0 : BitVec 2) ++ BitVec.ofBool c) m)
  | .vcvt x u t r m td ta => vec x 13 0x3A (vty t) td ta 0 (vform 0 0 (vty2 u ++ (0 : BitVec 2)) (rnd3 r) m)
  | .vmov x t m td ta => vec x 14 0x3A (vty t) td ta 0 (vform 0 0 0 0 m)
  | .vbcast x t b m td ta => vec x 15 0x3A (vty t) td ta 0 (vform 0 (bcast b) 0 0 m)
  | .vand x t b m td ta tb => vec x 0 0x3B (vty t) td ta tb (vform 0 (br b) 0 0 m)
  | .vor x t b m td ta tb => vec x 1 0x3B (vty t) td ta tb (vform 0 (br b) 0 0 m)
  | .vxor x t b m td ta tb => vec x 2 0x3B (vty t) td ta tb (vform 0 (br b) 0 0 m)
  | .vshl x t s m a td ta => eng x 0 ta td (vform (BitVec.ofBool s) 0 0 0 m) (wA 3 (ity t) 0 a 0 0x3B 1)
  | .vshr x t s m a td ta =>
    eng x 0 ta td (vform 0 0 0 ((0 : BitVec 2) ++ BitVec.ofBool s) m) (wA 4 (ity t) 0 a 0 0x3B 1)
  | .vmuli x t s sh m a td ta =>
    eng x 0 ta td (vform (BitVec.ofBool s) 0 ((0 : BitVec 1) ++ sh.extractLsb' 3 3) (sh.extractLsb' 0 3) m)
      (wA 5 (ity t) 0 a 0 0x3B 1)
  | .vclamp x t m b a td ta => eng x 0 ta td (vform 0 0 0 0 m) (wA 6 (vty t) b a 0 0x3B 1)
  | .txsub g a => plain g none (wA 0 0 0 a 0 0x3C)
  | .txsubf g a => plain g none (wA 1 0 0 a 0 0x3C)
  | .txend g => plain g none (wA 2 0 0 0 0 0x3C)
  | .txnum g d => plain g none (wA 3 0 0 0 d 0x3C)
  | .txwd g b a d => plain g none (wA 4 0 b a d 0x3C)
  | .txq g a d => plain g none (wA 5 0 0 a d 0x3C)
  | .callat g a d => plain g none (wX 0 0 a d 0x3D)
  | .launch g a d => plain g none (wX 1 0 a d 0x3D)
  | .tpost g q a d => plain g none (wX 2 ((0 : BitVec 7) ++ q) a d 0x3D)
  | .taskwd g a => plain g none (wX 3 0 a 0 0x3D)
  | .dcset g n a d => plain g none (wX 4 ((0 : BitVec 1) ++ n) a d 0x3D)
  | .dcdec g n a => plain g none (wX 5 ((0 : BitVec 1) ++ n) a 0 0x3D)
  | .rfork q a d => [wX 6 0 a d 0x3D 1, w1 0 0 0 0 q.sense q.pred, 0]
  | .bar g n d => plain g none (wX 7 ((0 : BitVec 1) ++ n) 0 d 0x3D)
  | .barq g n d => plain g none (wX 8 ((0 : BitVec 1) ++ n) 0 d 0x3D)
  | .semadd g n a d => plain g none (wX 9 ((0 : BitVec 4) ++ n) a d 0x3D)
  | .semwait g n a d => plain g none (wX 10 ((0 : BitVec 4) ++ n) a d 0x3D)
  | .semset g n a => plain g none (wX 11 ((0 : BitVec 4) ++ n) a 0 0x3D)
  | .msend g m a d => plain g none (wX 12 ((0 : BitVec 7) ++ m) a d 0x3D)
  | .mrecv g m d => plain g none (wX 13 ((0 : BitVec 7) ++ m) 0 d 0x3D)
  | .mpoll g m d => plain g none (wX 14 ((0 : BitVec 7) ++ m) 0 d 0x3D)
  | .mfsr g x d => plain g none (wX 0 x 0 d 0x3E)
  | .mtsr g x a => plain g none (wX 1 x a 0 0x3E)
  | .trap g n => plain g none (wX 2 n 0 0 0x3E)
  | .brk g n => plain g none (wX 3 n 0 0 0x3E)
  | .eret g => plain g none (wX 4 0 0 0 0x3E)
  | .rng g a d => plain g none (wX 5 0 a d 0x3E)
  | .fix g d => plain g none (wX 6 0 0 d 0x3E)
  | .fixq g a d => plain g none (wX 7 0 a d 0x3E)
  | .integerDivideComplete => []
  | .fpDivideComplete => []
  | .alignHoldExpire => []
  | .homeAtomic _ => []
  | .streamRefill => []
  | .streamDrain => []
  | .gatherSublist _ => []
  | .haloArrival _ => []
  | .engineCommandStart => []
  | .engineOperationFinish => []
  | .submissionAccept => []
  | .batchClose => []
  | .mergeGateReceive _ _ _ => []
  | .mergeGateForward => []
  | .blmRequestArrival _ _ => []
  | .blmGrant => []
  | .blmRelease _ _ _ => []
  | .grantPushArrival _ _ _ _ _ => []
  | .writeOnlyTileClear _ _ _ => []
  | .txnDispatch _ _ => []
  | .drainAck _ _ _ => []
  | .txnBudgetOverrun => []
  | .withdrawalNotice _ _ => []
  | .rforkClaim _ _ => []
  | .rforkShareStart => []
  | .sqctlWrite _ => []
  | .estatClear _ => []
  | .wdogWrite _ _ => []
  | .qringWrite _ _ _ => []
  | .groupEntryWrite _ _ => []
  | .keyselWrite _ => []
  | .keydataWrite _ => []
  | .keyInstallComplete => []
  | .fetchPortSelect => []
  | .fetchBlockDelivery _ _ _ _ _ _ => []
  | .inboxAccept => []
  | .ringToChipMove => []
  | .taskDispatch => []
  | .activeMessageStart => []
  | .handlerBudgetOverrun => []
  | .remoteAccess => []
  | .memoryReplyArrival _ _ => []
  | .fillRequest _ _ _ _ => []
  | .fillDataArrival _ _ _ _ _ => []
  | .registration _ _ _ => []
  | .registrationAck _ _ _ => []
  | .registrationRetry _ _ _ => []
  | .registrationResend _ _ _ => []
  | .ownershipLostNotice _ _ _ => []
  | .recall _ _ _ => []
  | .copyBack _ _ _ _ _ _ _ _ => []
  | .copyBackAck _ _ _ _ => []
  | .writeThrough _ => []
  | .viewEngineAccess _ => []
  | .patrolScrub => []
  | .walkComplete _ _ => []
  | .fixFieldUpdate _ _ _ => []
  | .plumeFaultMessage _ _ _ _ _ _ => []
  | .plumeReply _ _ _ _ _ => []
  | .faultReplyArrival _ _ _ _ => []
  | .replayallArrival => []
  | .reply _ _ _ _ => []
  | .replayall _ => []
  | .inval _ _ _ _ => []
  | .swout _ _ _ => []
  | .swin _ _ _ => []
  | .teardown _ _ => []
  | .fscmdComplete => []
  | .swoutSave => []
  | .swinRestore => []
  | .teardownArrival _ _ => []
  | .teardownComplete => []
  | .sinkWatchdogExpire => []
  | .sextantRead _ => []
  | .sextantWrite _ => []
  | .sextantStart _ => []
  | .sextantFix _ => []
  | .sextantRollback _ => []
  | .sextantPod _ _ => []
  | .sextantAck _ => []
  | .sextantResend _ => []
  | .managementOp _ => []
  | .attestationRequest _ => []
  | .azimuthFlitReceive _ _ _ _ _ _ => []
  | .azimuthHeartbeatFlit _ => []
  | .heartbeatProbe => []
  | .heartbeatLimitExpire => []
  | .deathNotice _ _ => []
  | .fixStartReceive _ => []
  | .fixBoundSet => []
  | .fixBoundReceive _ _ => []
  | .fixGo => []
  | .fixGoArrival => []
  | .cutTake => []
  | .fixMarkerArrival _ _ => []
  | .unitCopyOnWrite => []
  | .partFixComplete => []
  | .fixTimeout => []
  | .powerGood => []
  | .bootStageComplete _ => []
  | .powerMeasure _ _ => []
  | .thermalShutdown => []
  | .undefinedEncoding _ => []
  | .sequencerWithdrawal _ _ _ _ => []
  | .idleTurn => []
  | .gateStallCycle => []
  | .rotationBoundary => []
  | .secondLevelTlbHit _ _ _ _ => []

end Sys2Proof
end

