-- ==== Sys2Proof/Config.lean ====
section
/-! DEFINITION. What an implementation fixes and what the manual leaves open: the free values.
None of them has a body, so no proof can see what any of them is. -/

namespace Sys2Proof.Config

/-- The free value number n: a latency, a replacement victim or another choice the manual leaves
open.  The machine reads it at its counter `free` and advances the counter (log 4). -/
opaque freeNat : Nat → Nat

/-- The free word number n: a value the manual leaves open (log 4). -/
opaque freeWord : Nat → Word

/-- The fused 32-bit security version (R368, R372). -/
opaque fusedVersion : W32

/-- The identity, low half (R372: fused). -/
opaque idLow : Word

/-- The identity, high half (R372: fused). -/
opaque idHigh : Word

/-- The fused SHA-384 digests of the two public keys: of the ECDSA key, and of the LMS key for `true` (R368). -/
opaque fusedKeyDigest : Bool → BitVec 384

/-- The fused secret from which the device keys are derived (R369). -/
opaque fusedSecret : Word

/-- The image that the boot core reads at power-good (R370). -/
opaque bootImage : List Byte

/-- Parts of a firmware image, whose layout the manual leaves open: its body, its version, and its public keys and signatures,
for ECDSA and, for `true`, for LMS (R368, log 26). -/
opaque imageBody : List Byte → List Byte
opaque imageVersion : List Byte → W32
opaque imageKey : Bool → List Byte → List Byte
opaque imageSignature : Bool → List Byte → List Byte

/-- SHA-384, the verification and the making of a signature by either algorithm, and the derivation of a device key: standard functions
that the manual names and does not define (R368, R369, log 26).  The number of a signature is that of the reports before it. -/
opaque sha384 : List Byte → BitVec 384
opaque verify : Bool → List Byte → BitVec 384 → List Byte → Bool
opaque deviceKey : Bool → Word → Word
opaque sign : Bool → Word → Nat → List Byte → List Byte

end Sys2Proof.Config
end

