-- ==== Sys2Proof/Machine/State.lean ====
section
/-! DEFINITION. The state of one D9 part as plain data: everything the spec gives the machine, held in
sparse tables keyed by the index of the unit (INVENTORY.md, State).  A unit that a table does not list
stands at its reset value. -/

namespace Sys2Proof.Machine

/-- A sparse table: unit index and value. -/
abbrev Tab (α : Type) := List (Nat × α)

/-- Why the machine stops for good. -/
inductive Fault where
  /-- Raised by an event that carries a physical address in a range of R26 that holds no memory; no
  checked access reaches one (R27).  Safe: nothing is claimed of such an access. -/
  | noMemory (addr : Nat)
  deriving DecidableEq, Repr

/-- Why a step has no meaning. -/
inductive Refusal where
  /-- Raised by an arm of exec that has no meaning yet.  Safe. -/
  | notModelled (mnemonic : String)
  deriving DecidableEq, Repr

/-! ### Slots -/

/-- How a load makes its register value from the bytes read (R216 to R220). -/
inductive Dec where
  | zext
  | sext (bytes : Nat)
  | elem (f : Nat)
  | bfx (f bit : Nat)
  deriving DecidableEq, Repr

/-- An ordering form on its way (R226, R227): virtual range, or all memory.  `relSent` says that its release has looked at the
cache; `todo` are the words that were dirty then and have not been copied back yet, `wait` those whose copy-back is not acknowledged
(R88). -/
structure OrderOp where
  acq : Bool
  rel : Bool
  all : Bool
  lo : Nat
  hi : Nat
  ctx : Nat
  due : Nat
  relSent : Bool
  todo : List (Nat × BitVec 16)
  wait : List (Nat × BitVec 16)
  deriving DecidableEq, Repr

/-- What completes an instruction that has issued and left the rotation (R146). -/
inductive Pend where
  | none
  | write (d : Reg) (v : Word)
  | fwrite (d : Reg) (v : Word) (flags : Nat) (sub : Bool)
  | plain
  | word (d : Reg)
  | atom (d : Reg) (z : Asz)
  | load (d : Reg) (f : Dec)
  | gather (d : Reg) (f : Dec) (addrs : List Nat) (got : List (Nat × Byte)) (scale : List Nat) (key : Nat)
  | through (left : Nat) (bytes : List (Nat × Byte))
  | fill (d : Reg) (f : Dec) (addrs : List Nat) (scale : List Nat) (key : Nat)
  | refill (lines : List Nat)
  | room (line : Nat)
  | retry
  | latch
  | prefetch (i : Nat)
  | order (o : OrderOp)
  | leaving (o : OrderOp)
  | joining
  | rejoin (o : OrderOp) (cont : Word)
  | bar (d : Reg) (n : Nat)
  | fix (d : Reg) (no : Nat)
  | txwd (d : Reg) (nums : List Nat) (count : Nat)
  | inspect
  | hold (due : Nat) (lo hi : Nat)
  deriving DecidableEq, Repr

/-- Run state of R146; `claimed` is a slot that a range fork took (R326). -/
inductive Run where
  | free
  | run
  | wait (cause : Nat)
  | claimed (by_ : Nat)
  deriving DecidableEq, Repr

/-- The work a slot holds; a range-fork share keeps the issuer's cell, the join cell's local address and the
work that the continuation goes on with (R159, log 23). -/
inductive Work where
  | none
  | task (reply : Word)
  | role (num : Nat) (r : Nat)
  | share (cell : Nat) (join : Nat) (outer : Work)
  | handler (sender : Nat)
  deriving DecidableEq, Repr

/-- An element of a stream buffer: a value, one that is asked for and not here yet, a marked fault
(R142), or a pushed store (R143). -/
inductive SElem where
  | val (v : Word)
  | coming (f : Dec) (addrs : List Nat) (got : List (Nat × Byte))
  | mark (cause : Nat) (addr : Word)
  | declined
  | push (va : Word) (addrs : List Nat) (part : Nat) (leaf : Option Leaf) (v : Word)
  deriving DecidableEq, Repr

/-- A register in stream mode (R141 to R144, R231); `faulted` says that what blocks its refill is a page fault, and `dropped` that
this fault was dropped (R338, R385). -/
structure Stream where
  mapped : Bool
  dw0 : Word
  dw1 : Word
  dw2 : Word
  dw3 : Word
  dw4 : Word
  dw5 : Word
  pos : Nat
  buf : List SElem
  done : Bool
  filling : Bool
  blocked : Bool
  faulted : Bool
  dropped : Bool
  deriving DecidableEq, Repr

/-- A translation, or a page fault, that an agent waits for: the access's kind, whether it writes, and its effective address;
whether it faulted, and whether that fault was dropped (R335 to R339, R345). -/
structure FaultWait where
  ctx : Nat
  page : Nat
  kind : Nat
  writes : Bool
  va : Word
  faulted : Bool
  dropped : Bool
  deriving DecidableEq, Repr

/-- A search of a range fork in progress (R159, R325). -/
structure Fork where
  n : Nat
  grain : Nat
  body : Word
  arg : Word
  cont : Word
  joinVa : Word
  started : Nat
  claimedSlots : List Nat
  deriving DecidableEq, Repr

/-- One hardware thread (R149).  `latch` holds the doublewords of a descriptor or record that have come so
far for an instruction that reads several (log 8); `pops` lists the read streams whose oldest element the pending
instruction has read, and which lose it once it completes (R8, R142); `owed` is the word of a push that was lost before it
drained, for which the slot still has to trap (R85, log 83). -/
structure Slot where
  run : Run
  pend : Pend
  counted : Bool
  pc : Word
  regs : Vector Word 32
  pw : BitVec 16
  lc0 : Word
  lb0 : Word
  le0 : Word
  lc1 : Word
  lb1 : Word
  le1 : Word
  fmode : Word
  trapPc : Word
  trapCause : Word
  trapVal : Word
  mbWord : Vector Word 4
  mbCount : Vector (BitVec 16) 4
  estat : Word
  inTrap : Bool
  grp : Vector (BitVec 9) 4
  spInit : Word
  tpInit : Word
  amBudget : Word
  issues : Word
  signals : BitVec 16
  gen : BitVec 16
  ctx : Nat
  work : Work
  fork : Option Fork
  fblock : Option Nat
  fdata : LineData
  fpoison : BitVec 16
  carryPc : Word
  carry : List (W32 × Bool)
  streams : Vector Stream 8
  skip : Nat
  faultWait : Option FaultWait
  walkPoison : Option Word
  ilen : Nat
  latch : List Word
  pops : List Nat
  owed : Option Word
  ending : Bool
  deriving DecidableEq, Repr

/-! ### Cores -/

/-- A remote near-memory request at a D-core's service slot (R93, R159). -/
inductive RemoteReq where
  | mem (fromPart : Nat) (q : MemReq)
  | atom (fromPart : Nat) (q : AtomReq)
  | join (slot addr fixCount : Nat)
  | sublist (q : Sublist)
  deriving DecidableEq, Repr

/-- A message in an outbound task queue (R280): target part and core (none: every core of the part), the
slot that sent it with its generation, and, for `launch` and `callat`, how many pushes each of its write streams had taken
then (R309). -/
structure OutMsg where
  part : Nat
  core : Option Nat
  slot : Nat
  gen : BitVec 16
  after : List Nat
  msg : Sent
  deriving DecidableEq, Repr

/-- A teardown that has reached a dispatcher and is not complete: its context, and the launches and tasks discarded (R327). -/
structure Tear where
  ctx : Nat
  launches : Nat
  tasks : Nat
  deriving DecidableEq, Repr

/-- A read of a ring's head entry: none, on its way, or what has come (R318). -/
inductive RingRead where
  | idle
  | asked
  | got (r : Reply)
  deriving DecidableEq, Repr

/-- One barrel core (R14): its queues, registers and TLBs; `landed` is the cclk of its last arrivals with their number (R282),
`dispatched` is one more than the cclk of its last dispatch, and `forked` that of the last claim of a range fork, which is one
(R325). -/
structure Core where
  fifo : List TaskMsg
  q : Vector (List TaskMsg) 4
  ringHead : Vector Nat 4
  ringCount : Vector Nat 4
  ringAt : Vector Nat 4
  ringRead : Vector RingRead 4
  qring : Vector Word 4
  inbox : List Sent
  arriving : List Sent
  landed : Nat × Nat
  outbox : List OutMsg
  amOut : List (Nat × Nat × AmMsg)
  amIn : List AmMsg
  remIn : List RemoteReq
  lastRemote : Bool
  qage : Word
  sttile : Word
  stsem : Word
  stmem : Word
  stfault : Word
  stfetch : Word
  stfree : Word
  stexec : Word
  dtlb : List Leaf
  itlb : List Leaf
  dispatched : Nat
  forked : Nat
  tears : List Tear
  deriving DecidableEq, Repr

/-! ### Cells -/

/-- Tile states of R124. -/
inductive TileState where
  | empty
  | filling
  | ready
  | draining
  deriving DecidableEq, Repr

/-- A tile table entry (R124). -/
structure Tile where
  state : TileState
  v : Bool
  plane : Bool
  fmt : Nat
  view : Nat
  hold : Nat
  cols : Nat
  rows : Nat
  base : Nat
  gva : Word
  pitch : Nat
  size : Nat
  deriving DecidableEq, Repr

/-- A line of the L1 data cache (R76, R92, R226): `va` is the virtual address of its first byte, and `vas`
those of its 64 bytes where a row view does not keep them in a run (log 14). -/
structure L1Line where
  data : LineData
  v : BitVec 16
  d : BitVec 16
  o : BitVec 16
  poison : BitVec 16
  copying : BitVec 16
  evicting : Bool
  va : Nat
  vas : List Nat
  ctx : Nat
  budget : Nat
  reads : Nat
  used : Nat
  key : Nat
  deriving DecidableEq, Repr

/-- A registration-queue entry (R76): line, words, and whether a registration is on its way. -/
structure RegEntry where
  line : Nat
  word : Nat
  sent : Bool
  deriving DecidableEq, Repr

/-- A fill on its way (R77, R92); `stale` are the words that the cell has acquired, or written past its L1, since the fill was
asked for: it does not write them (R300, R302, log 74). -/
structure FillReq where
  line : Nat
  key : Nat
  budget : Nat
  va : Nat
  vas : List Nat
  ctx : Nat
  stale : BitVec 16
  deriving DecidableEq, Repr

/-- A dependence counter (R282): the task it posts, with its core role and queue. -/
structure Counter where
  count : BitVec 16
  bound : Option (Nat × Nat × TaskMsg)
  deriving DecidableEq, Repr

/-- An engine command as captured at issue (R130, R234, R235): `tiles` are the tiles that it names, `srcs` and `dsts`
those that it holds and fills. -/
structure Cmd where
  op : Instr
  slot : Nat
  gen : BitVec 16
  ctx : Nat
  priv : Bool
  secure : Bool
  fmode : Word
  vals : List Word
  tiles : List (Nat × Tile)
  srcs : List Nat
  dsts : List Nat
  gate : Nat × Nat
  done : Done
  txn : Option (Nat × Nat)
  deriving DecidableEq, Repr

/-- A command in progress: when it finishes, its next element; the index list of a gather or scatter and the rows for other
cells; the rows that other cells have sent; the cells whose acknowledgement is missing; a fault that waits for them, as
element index, cause and address; the replies that have come from another part for the element in hand; its wait for a
translation; writes that are not acknowledged, and when the last of them lands; where the strip in hand reads and writes, and
how many of its units have had their time (R136). -/
structure Running where
  cmd : Cmd
  due : Nat
  at_ : Nat
  index : List Int
  subs : List (Nat × List (Nat × List Nat))
  got : List (Nat × List Byte)
  missing : List Nat
  sent : Bool
  fault : Option (Nat × Nat × Word)
  latch : List Reply
  used : Nat
  wait : Option FaultWait
  declined : Bool
  walkPoison : Option Word
  acks : Nat
  lastDue : Nat
  touched : List (Bool × Nat)
  paid : Nat
  deriving DecidableEq, Repr

/-- One engine of a cell (R130). -/
structure Engine where
  queue : List Cmd
  cur : Option Running
  deriving DecidableEq, Repr

/-- A table of the table-interpolation engine (R251). -/
structure Interp where
  valid : Bool
  ctx : Nat
  words : List W32
  deriving DecidableEq, Repr

/-- The start of a share of a range fork in a recruited slot (R159, R326). -/
structure ShareStart where
  slot : Nat
  ctx : Nat
  body : Word
  lo : Word
  hi : Word
  arg : Word
  join : Word
  outer : Work
  fixCount : Nat
  deriving DecidableEq, Repr

/-- A log entry of a fix (R354, R357); `served` is a remote request that its service slot performed after the cut, with the
answer that it gave (log 67), and `late` notes that the reply that a slot was captured waiting for was sent after its sender's
cut, and comes again on a rollback. -/
inductive LogItem where
  | core (core : Nat) (m : Sent)
  | am (core : Nat) (m : AmMsg)
  | served (fromPart slot : Nat) (r : Reply)
  | share (q : ShareStart)
  | reply (slot : Nat) (r : Reply)
  | late (slot : Nat)
  | halo (slot mbox : Nat)
  deriving DecidableEq, Repr

/-- One cell (R14).  `dcAt` says when and by which role a counter was last set, as 4 · (cclk + 1) + role (R323).  `silent`
says that it no longer answers probes: an outside failure (log 9). `replay` are the logged messages of a rollback that it has
still to perform (R359). -/
structure Cell where
  tiles : Vector Tile 64
  l1 : Tab L1Line
  regq : List RegEntry
  fills : List FillReq
  sem : Vector (BitVec 16) 32
  dc : Tab Counter
  dcAt : Tab Nat
  eng : Vector Engine 5
  interp : Vector Interp 4
  stgate : Vector Word 5
  wdog : Word
  wdogCount : Nat
  retired : Bool
  queueWait : List (Bool × Nat × Nat)
  fixNo : Nat
  cutBegun : Bool
  markers : List Nat
  logging : Bool
  log : List LogItem
  replay : List LogItem
  cutLines : List Nat
  incarnation : Nat
  dead : Bool
  misses : Nat
  silent : Bool
  deriving DecidableEq, Repr

/-! ### Clusters and dies -/

/-- A line of the L1 instruction cache (R155, R226). -/
structure ILine where
  line : Nat
  va : Nat
  vas : List Nat
  ctx : Nat
  data : LineData
  poison : BitVec 16
  deriving DecidableEq, Repr

/-- A slot's request at the fetch port, with its generation (R155); `sel` is when the port chose it. -/
structure FetchReq where
  slot : Nat
  ctx : Nat
  block : Nat
  at_ : Nat
  gen : Nat
  sel : Option Nat
  deriving DecidableEq, Repr

/-- An entry of a fault buffer (R335). -/
structure FaultEntry where
  fault : PageFault
  waiters : List Waiter
  deriving DecidableEq, Repr

/-- One cluster (R14). -/
structure Cluster where
  icache : List ILine
  stlb : List Leaf
  freqs : List FetchReq
  walks : List WalkReq
  walkQueue : List WalkReq
  faults : List FaultEntry
  dropFlag : Bool
  deriving DecidableEq, Repr

/-- A pending page of a plume router (R337) and the ports to wake. -/
structure Pending where
  ctx : Nat
  page : Nat
  ports : List Nat
  deriving DecidableEq, Repr

/-- A message a router has not taken yet. -/
structure PlumeMsg where
  child : Nat
  drop : Bool
  who : Nat
  fault : PageFault
  deriving DecidableEq, Repr

/-- A plume router (R337). -/
structure Router where
  pending : List Pending
  held : List PlumeMsg
  deriving DecidableEq, Repr

/-- A context operation in progress for a fault service core: SWOUT, SWIN or TEARDOWN (R342). -/
structure CtxOp where
  kind : Nat
  ctx : Nat
  area : Nat
  die : Nat
  left : List Nat
  deriving DecidableEq, Repr

/-- One die (R14, R107, R340). -/
structure Die where
  gate : Tab (List LockMsg)
  nextGlobal : Nat
  safe : Option Nat
  routers : Tab Router
  fsring : Word
  fshead : Word
  fstail : Word
  fscmd : Word
  fsarg : Word
  busy : Bool
  err : Bool
  lost : W32
  fsAcks : Nat
  deriving DecidableEq, Repr

/-! ### Bank lock managers, home slices -/

/-- A lock entry of a granule (R109). -/
structure LockEntry where
  num : Nat
  cell : Nat
  gran : Gran
  excl : Bool
  read : Bool
  key : Nat
  granted : Bool
  void : Bool
  deriving DecidableEq, Repr

/-- A bank lock manager with the error counters of its bank (R45, R46, R107 to R109). -/
structure Blm where
  entries : List LockEntry
  safe : Option Nat
  releases : List (Nat × Gran)
  releasedAt : Nat
  corrected : Nat
  deriving DecidableEq, Repr

/-- A line of an L2 slice. -/
structure L2Line where
  data : LineData
  dirty : BitVec 16
  poison : BitVec 16
  key : Nat
  deriving DecidableEq, Repr

/-- An owner tag (R79). -/
inductive OwnerTag where
  | empty
  | cell (part cell : Nat)
  | lost
  deriving DecidableEq, Repr

/-- An owner-table record (R79): its tags and when the registration of each came. -/
structure OwnerRec where
  tags : Vector OwnerTag 16
  since : Vector Nat 16
  recalled : Bool
  deriving DecidableEq, Repr

/-! ### Transactions -/

/-- Where a transaction stands (R109 to R121). -/
inductive TxnStage where
  | accepted
  | numbered
  | dispatched
  | committed
  | void
  | finished
  deriving DecidableEq, Repr

/-- What ended a transaction (R114). -/
structure Verdict where
  status : Nat
  cause : Nat
  role : Nat
  issues : Nat
  deriving DecidableEq, Repr

/-- A deferred action of a role (R112): a message, or the follow's submission. -/
inductive Deferred where
  | post (m : OutMsg)
  | follow (s : Submission)
  deriving DecidableEq, Repr

/-- A role of a transaction (R111): slot, whether it has ended, and its issues when it did (R118). -/
structure RoleSlot where
  role : Nat
  slot : Nat
  ended : Bool
  issues : Nat
  deriving DecidableEq, Repr

/-- A transaction from acceptance to its end (R102 to R121): locks wanted, by part · 4096 + BLM, those whose
grant has reached the cell, and those whose entry has been removed; `pushes` keeps, by handle, data that came before the
handle's area granules did (log 24); `voidAt` is one more than the cclk in which it became a void. -/
structure Txn where
  sub : Submission
  cell : Nat
  batch : Nat
  num : Nat
  stage : TxnStage
  verdict : Option Verdict
  wants : List (Nat × LockWant)
  granted : List Gran
  pushes : List (Nat × Gran × List Byte × List Nat)
  released : List Gran
  drains : List (Gran × Nat)
  lastGrant : Nat
  roles : List RoleSlot
  queue : List (Nat × Deferred)
  soundingDone : Bool
  voidAt : Nat
  deriving DecidableEq, Repr

/-- The sequencer (R102 to R105, R119); a transaction that is accepted and not yet numbered stands in `txns`
with stage `accepted`, in order of acceptance. -/
structure Sequencer where
  waiting : List Submission
  opened : Nat
  batch : Nat
  closeAsked : Bool
  newCtl : Option Word
  sqctl : Word
  txbudget : Word
  sizes : Tab Nat
  foreignVoids : List Nat
  txns : List Txn
  deriving DecidableEq, Repr

/-! ### The part -/

/-- A barrier group entry (R160). -/
structure Group where
  v : Bool
  phase : BitVec 16
  arrived : BitVec 16
  count : BitVec 16
  deriving DecidableEq, Repr

/-- Registers of a context (R288, R329); whether its teardown is in progress (R327), and whether it is switched
out (R344). -/
structure Context where
  trapVec : Word
  root : Word
  priv : Bool
  tearing : Bool
  out : Bool
  deriving DecidableEq, Repr

/-- A slot saved with its context (R344 to R346): place, save area, state of 0x158. -/
structure Saved where
  key : Nat
  area : Nat
  st : Nat
  cause : Nat
  slot : Slot
  deriving DecidableEq, Repr

/-- Commands of one engine saved with their context (R344, R345): those that had not started, in queue order, and
a copy command with its next strip. -/
structure SavedEngine where
  ctx : Nat
  cell : Nat
  eng : Nat
  cmds : List Cmd
  resume : Option Running
  deriving DecidableEq, Repr

/-- What a fix holds of one cell (R353): its slots with their keys and saved states, and once its log has closed the
messages that crossed the cut. -/
structure CellImage where
  cell : Nat
  slots : List (Nat × Nat × Slot)
  tiles : Vector Tile 64
  sem : Vector (BitVec 16) 32
  dc : Tab Counter
  interp : Vector Interp 4
  cores : List (Nat × Core)
  log : List LogItem
  deriving DecidableEq, Repr

/-- What a fix holds of the part: cells, group table, and the submissions to give to the sequencer again (R353). -/
structure PartImage where
  no : Nat
  bound : Nat
  cells : List CellImage
  groups : Tab Group
  subs : List Submission
  deriving DecidableEq, Repr

/-- The fix unit, and on part 0 the coordinator (R350 to R359): `no` is the newest fix whose page-table walk is done and
`bound` its G · 256; `want` is the newest fix that has begun and `next` its bound; `stat` holds the status words of the 16
most recent (R295), `cuts` the cells that have taken the cut, `marks` the parts whose markers have come, `marksIn` how many
cells' markers of each class have, `marksOut` the classes whose combined marker has gone on, `told` says that the other parts
have this part's, `barWaits` the barrier releases that wait for a slot's cut, and `gone` the submissions from before the cuts
that a withdrawal from after its cut removed. -/
structure Fix where
  no : Nat
  bound : Nat
  want : Nat
  next : Nat
  stat : Tab Word
  active : Bool
  phase : Nat
  reports : List (Nat × Nat)
  cuts : List Nat
  marks : List Nat
  marksIn : Tab Nat
  marksOut : List Nat
  told : Bool
  barWaits : List (Nat × Word)
  gone : List Submission
  queued : Bool
  manifest : Nat
  copies : List (Nat × Nat × Nat)
  images : List PartImage
  started : Nat
  deriving DecidableEq, Repr

/-- A message to another part as it left: the port that it took, and the incarnation of its source (R361); part 512 + n is
whatever is at the other end of port n. -/
structure AzOut where
  part : Nat
  port : Nat
  incarn : Nat
  msg : AzMsg
  deriving DecidableEq, Repr

/-- Links and the host port (R360 to R363).  Of the host port: sequence numbers in and out, datagrams not acknowledged with
the time they were last sent, and those that have left.  Of the Azimuth ports: the next flit expected, whether a resend has
been asked for, when a flit last came, messages to other parts, the next flit to send, and when one last left; `heard` says
when a part last answered a probe, `dead` lists the parts declared dead.  `holdAsked` asks that all work be held, `held` says
that it is; `owner` is the host that formed the pod, the only one that the port then accepts. -/
structure Link where
  pod : PodRec
  seqIn : Nat
  seqOut : Nat
  window : List (Datagram × Nat)
  sent : List Datagram
  azNext : Tab Nat
  azRetry : Tab Bool
  azLast : Tab Nat
  azSent : List AzOut
  azOut : Tab Nat
  azAt : Tab Nat
  heard : Tab Nat
  dead : List Nat
  held : Bool
  holdAsked : Bool
  owner : Option Nat
  deriving DecidableEq, Repr

/-- Registers and maps of the part; `testFail` says that a stage's test has failed, which no image mends, `halted` that a
thermal shutdown waits for a new start, and `holding` that program slots are held in this rotation (R160, R288, R364 to R373).
-/
structure Part where
  vrtb : Word
  fixctl : Word
  fixlast : Word
  incarn : Word
  groups : Tab Group
  ranges : Vector (Word × Word) 8
  secureCells : List Nat
  secureCtxs : List Nat
  keys : Tab (List Word)
  keyGen : Tab Nat
  keyIndex : Nat
  keyWord : Nat
  keyBusy : Bool
  keyData : List Word
  reports : W32
  stage : Nat
  bootFail : Bool
  testFail : Bool
  halted : Bool
  thermLimit : Nat
  temp : BitVec 48
  power : W32
  pwrLimit : Nat
  holdEvery : Nat
  holding : Bool
  scrubAt : Nat
  scrubbed : Tab Nat
  images : List (BitVec 384 × W32)
  deriving DecidableEq, Repr

/-- What a message in flight brings: a step, or an entry of an inbox. -/
inductive Parcel where
  | step (i : Instr) (unit : Nat)
  | core (c : Nat) (m : Sent)
  | am (c : Nat) (m : AmMsg)
  | remote (cell : Nat) (q : RemoteReq)
  | read (q : MemReq)
  | far (fromPart : Nat) (q : RemoteReq)
  | share (q : ShareStart)
  | lateral (q : MemReq)
  | reply (a : Nat) (r : Reply) (fixCount : Nat)
  | device (fromPart : Nat) (q : MemReq)
  | drain (fromPart cell num : Nat) (x : Gran) (bytes : List (Nat × Byte)) (poison : List Nat) (key : Nat)
  deriving DecidableEq, Repr

/-- A message in flight: when it lands, its channel (class, source, destination) and what it
brings (R25, R95, log 3). -/
structure Flight where
  due : Nat
  cls : Nat
  src : Nat
  dst : Nat
  parcel : Parcel
  deriving DecidableEq, Repr

/-- Where the cclk stands (log 3): rotation start, the turn of core k, then the other agents in
turn. -/
inductive Phase where
  | early
  | turns (k : Nat)
  | late (n : Nat)
  | advance
  deriving DecidableEq, Repr

/-- A soft error (R349): the storage by its code in R388, the unit that holds it (see Machine/Errors.lean), the word or entry in it,
and whether two of its bits are wrong. -/
structure Flaw where
  code : Nat
  unit : Nat
  word : Nat
  double : Bool
  deriving DecidableEq, Repr

/-- The model's own order of steps (log 3, log 5): `now` are the steps still to take, `inputs` what comes from outside and in
which cclk, and `flaws` the soft errors that come so (log 9). -/
structure Sched where
  cycle : Nat
  phase : Phase
  now : List (Instr × Nat)
  flight : List Flight
  inputs : List (Nat × Instr)
  flaws : List (Nat × Flaw)
  free : Nat
  deriving DecidableEq, Repr

/-- The part.  `orphans` are ended works whose pushes still drain, each with its slot (R143, R146).  `cur` names the unit
whose step it is: for an instruction the slot that issues; for an event the slot, core, cell, cluster, die or BLM that acts,
or cell · 5 + engine, core · 4 + queue, slot · 8 + stream, or the number that the event's meaning says. -/
structure State where
  sched : Sched
  cur : Nat
  slots : Tab Slot
  orphans : Tab (Nat × Slot)
  cores : Tab Core
  cells : Tab Cell
  clusters : Tab Cluster
  dies : Tab Die
  blms : Tab Blm
  mem : List Host.Cell
  poison : List Nat
  soft : List Nat
  unitKey : Tab Nat
  l2 : Tab L2Line
  owners : Tab OwnerRec
  regions : Tab Region
  seq : Sequencer
  ctxs : Tab Context
  saved : List Saved
  savedEng : List SavedEngine
  ctxOps : List CtxOp
  part : Part
  fix : Fix
  link : Link
  deriving DecidableEq, Repr

/-! ### Reset values (INVENTORY.md; log 2 for those the spec does not give) -/

def Stream.reset : Stream :=
  { mapped := false, dw0 := 0, dw1 := 0, dw2 := 0, dw3 := 0, dw4 := 0, dw5 := 0, pos := 0, buf := [],
    done := false, filling := false, blocked := false, faulted := false, dropped := false }

def Slot.reset : Slot :=
  { run := .free, pend := .none, counted := false, pc := 0, regs := Vector.replicate 32 0, pw := 1,
    lc0 := 0, lb0 := 0, le0 := 0, lc1 := 0, lb1 := 0, le1 := 0, fmode := 0, trapPc := 0, trapCause := 0,
    trapVal := 0, mbWord := Vector.replicate 4 0, mbCount := Vector.replicate 4 0, estat := 0,
    inTrap := false, grp := Vector.replicate 4 0, spInit := 0, tpInit := 0, amBudget := 1024, issues := 0,
    signals := 0, gen := 0, ctx := 0, work := .none, fork := none, fblock := none,
    fdata := Vector.replicate 16 0, fpoison := 0, carryPc := 0, carry := [],
    streams := Vector.replicate 8 Stream.reset, skip := 0, faultWait := none,
    walkPoison := none, ilen := 4, latch := [], pops := [], owed := none, ending := false }

def Core.reset : Core :=
  { fifo := [], q := Vector.replicate 4 [], ringHead := Vector.replicate 4 0,
    ringCount := Vector.replicate 4 0, ringAt := Vector.replicate 4 0, ringRead := Vector.replicate 4 .idle,
    qring := Vector.replicate 4 0, inbox := [], arriving := [], landed := (0, 0),
    outbox := [], amOut := [], amIn := [], remIn := [], lastRemote := false,
    qage := 0x10000, sttile := 0, stsem := 0, stmem := 0, stfault := 0, stfetch := 0, stfree := 0,
    stexec := 0, dtlb := [], itlb := [], dispatched := 0, forked := 0, tears := [] }

def Tile.reset : Tile :=
  { state := .empty, v := false, plane := false, fmt := 0, view := 0, hold := 0, cols := 0, rows := 0,
    base := 0, gva := 0, pitch := 0, size := 0 }

def Engine.reset : Engine := { queue := [], cur := none }

def Cell.reset : Cell :=
  { tiles := Vector.replicate 64 Tile.reset, l1 := [], regq := [], fills := [],
    sem := Vector.replicate 32 0, dc := [], dcAt := [], eng := Vector.replicate 5 Engine.reset,
    interp := Vector.replicate 4 { valid := false, ctx := 0, words := [] },
    stgate := Vector.replicate 5 0, wdog := 0x1000000, wdogCount := 0, retired := false, queueWait := [],
    fixNo := 0, cutBegun := false, markers := [], logging := false, log := [], replay := [], cutLines := [],
    incarnation := 0, dead := false, misses := 0, silent := false }

def Cluster.reset : Cluster :=
  { icache := [], stlb := [], freqs := [], walks := [], walkQueue := [], faults := [], dropFlag := false }

def Router.reset : Router := { pending := [], held := [] }

def Die.reset : Die :=
  { gate := [], nextGlobal := 0, safe := none, routers := [], fsring := 0, fshead := 0, fstail := 0,
    fscmd := 0, fsarg := 0, busy := false, err := false, lost := 0, fsAcks := 0 }

def Blm.reset : Blm := { entries := [], safe := none, releases := [], releasedAt := 0, corrected := 0 }

def Sequencer.reset : Sequencer :=
  { waiting := [], opened := 0, batch := 0, closeAsked := false,
    newCtl := none, sqctl := BitVec.ofNat 64 (4000 * 2 ^ 32), txbudget := 0x10000, sizes := [], foreignVoids := [], txns := [] }

def Context.reset : Context := { trapVec := 0, root := 0, priv := false, tearing := false, out := false }

def Group.reset : Group := { v := false, phase := 0, arrived := 0, count := 0 }

def Fix.reset : Fix :=
  { no := 0, bound := 0, want := 0, next := 0, stat := [], active := false, phase := 0, reports := [], cuts := [],
    marks := [], marksIn := [], marksOut := [], told := false, barWaits := [], gone := [],
    queued := false, manifest := 0, copies := [], images := [], started := 0 }

def PodRec.reset : PodRec :=
  { k := 0, n := 1, incarn := 0, heartbeat := 2 ^ 20, timeout := 2 ^ 24, routes := [], incarns := [], cells := [], farCells := [] }

def Link.reset : Link :=
  { pod := PodRec.reset, seqIn := 0, seqOut := 0, window := [], sent := [], azNext := [], azRetry := [],
    azLast := [], azSent := [], azOut := [], azAt := [], heard := [], dead := [], held := false, holdAsked := false, owner := none }

def Part.reset : Part :=
  { vrtb := 0, fixctl := 0, fixlast := 0, incarn := 0, groups := [], ranges := Vector.replicate 8 (0, 0),
    secureCells := [], secureCtxs := [], keys := [], keyGen := [], keyIndex := 0, keyWord := 0,
    keyBusy := false, keyData := [], reports := 0, stage := 0, bootFail := false, testFail := false, halted := false, thermLimit := 100,
    temp := 0, power := 0, pwrLimit := 2400, holdEvery := 0, holding := false, scrubAt := 0, scrubbed := [],
    images := [] }

def Sched.reset : Sched :=
  { cycle := 0, phase := .early, now := [], flight := [], inputs := [], flaws := [], free := 0 }

/-- The part right after power-good (R370): stage 0, memory with nothing listed, every register at
the value that INVENTORY.md lists. -/
def State.reset : State :=
  { sched := Sched.reset, cur := 0, slots := [], orphans := [], cores := [], cells := [], clusters := [], dies := [],
    blms := [], mem := [], poison := [], soft := [], unitKey := [], l2 := [], owners := [], regions := [],
    seq := Sequencer.reset, ctxs := [], saved := [], savedEng := [], ctxOps := [], part := Part.reset, fix := Fix.reset,
    link := Link.reset }

end Sys2Proof.Machine
end

