-- ==== Sys2Proof/Machine/Base.lean ====
section
/-! DEFINITION. The tables of State read and written by unit, places (R9, R20), the byte memory in its
canonical form, and messages in flight. -/

namespace Sys2Proof.Machine

/-! ### Sparse tables -/

/-- The entry of a unit, or the reset value d. -/
def Tab.get {α : Type} (d : α) : Tab α → Nat → α
  | [], _ => d
  | (k, v) :: t, n => if k = n then v else Tab.get d t n

/-- The table with one entry replaced. -/
def Tab.set {α : Type} : Tab α → Nat → α → Tab α
  | [], n, v => [(n, v)]
  | (k, w) :: t, n, v =>
    if n < k then (n, v) :: (k, w) :: t else if n = k then (n, v) :: t else (k, w) :: Tab.set t n v

/-- The entry of a unit, if the table lists one. -/
def Tab.find {α : Type} : Tab α → Nat → Option α
  | [], _ => none
  | (k, v) :: t, n => if k = n then some v else Tab.find t n

/-- The table without the entry of a unit. -/
def Tab.del {α : Type} (t : Tab α) (n : Nat) : Tab α := t.filter (fun e => e.1 ≠ n)

/-- An entry changed by a function. -/
def Tab.upd {α : Type} (d : α) (t : Tab α) (n : Nat) (f : α → α) : Tab α := t.set n (f (t.get d n))

/-! ### Units (R9, R20) -/

/-- Core of a slot key. -/
def coreOf (k : Nat) : Nat := k / 16
/-- Slot number of a slot key. -/
def slotOf (k : Nat) : Nat := k % 16
/-- Whether a core is a fault service core (log 10). -/
def isFsc (core : Nat) : Bool := 3072 ≤ core
/-- Cell of a core; a fault service core belongs to none and answers cell 0 of its die.  DESIGN CHOICE (log 10): so the fetch port and
the instruction cache of cluster 64 · d serve it, and its slots trail in `align` as those of that cluster's cores do (R155). -/
def cellOfCore (core : Nat) : Nat := if core < 3072 then core / 3 else (core - 3072) * 256
/-- Role code of a core: 0 D, 1 C, 2 A; 3 for a fault service core (R340). -/
def roleOfCore (core : Nat) : Nat := if core < 3072 then core % 3 else 3
/-- Cell of a slot key. -/
def cellOf (k : Nat) : Nat := cellOfCore (coreOf k)
/-- Role of a slot key. -/
def roleOf (k : Nat) : Nat := roleOfCore (coreOf k)
/-- Cluster of a cell. -/
def clusterOf (cell : Nat) : Nat := cell / 4
/-- Die of a cell. -/
def dieOf (cell : Nat) : Nat := cell / 256
/-- Die of a slot key. -/
def dieOfSlot (k : Nat) : Nat := dieOf (cellOf k)

/-- Bits 15:0 of the place of a slot (R9, R340). -/
def placeLow (k : Nat) : Nat := cellOf k * 64 + roleOf k * 16 + slotOf k

/-- Part field of a place. -/
def placePart (p : Nat) : Nat := p / 2 ^ 16 % 512
/-- Cell field of a place, as a cell index. -/
def placeCell (p : Nat) : Nat := p / 64 % 1024
/-- Role field of a place. -/
def placeRole (p : Nat) : Nat := p / 16 % 4
/-- Slot field of a place. -/
def placeSlot (p : Nat) : Nat := p % 16
/-- Core index named by a place. -/
def placeCore (p : Nat) : Nat := placeCell p * 3 + placeRole p
/-- Slot key named by a place. -/
def placeKey (p : Nat) : Nat := placeCore p * 16 + placeSlot p

/-! ### Lenses -/

def State.slot (s : State) (k : Nat) : Slot := s.slots.get Slot.reset k
def State.setSlot (s : State) (k : Nat) (v : Slot) : State := { s with slots := s.slots.set k v }
def State.modSlot (s : State) (k : Nat) (f : Slot → Slot) : State := s.setSlot k (f (s.slot k))
def State.core (s : State) (c : Nat) : Core := s.cores.get Core.reset c
def State.setCore (s : State) (c : Nat) (v : Core) : State := { s with cores := s.cores.set c v }
def State.modCore (s : State) (c : Nat) (f : Core → Core) : State := s.setCore c (f (s.core c))
def State.cell (s : State) (c : Nat) : Cell := s.cells.get Cell.reset c
def State.setCell (s : State) (c : Nat) (v : Cell) : State := { s with cells := s.cells.set c v }
def State.modCell (s : State) (c : Nat) (f : Cell → Cell) : State := s.setCell c (f (s.cell c))
def State.cluster (s : State) (c : Nat) : Cluster := s.clusters.get Cluster.reset c
def State.modCluster (s : State) (c : Nat) (f : Cluster → Cluster) : State :=
  { s with clusters := s.clusters.set c (f (s.cluster c)) }
def State.die (s : State) (d : Nat) : Die := s.dies.get Die.reset d
def State.modDie (s : State) (d : Nat) (f : Die → Die) : State := { s with dies := s.dies.set d (f (s.die d)) }
def State.blm (s : State) (b : Nat) : Blm := s.blms.get Blm.reset b
def State.modBlm (s : State) (b : Nat) (f : Blm → Blm) : State := { s with blms := s.blms.set b (f (s.blm b)) }
def State.ctx (s : State) (c : Nat) : Context := s.ctxs.get Context.reset c
def State.modCtx (s : State) (c : Nat) (f : Context → Context) : State :=
  { s with ctxs := s.ctxs.set c (f (s.ctx c)) }
def State.cycle (s : State) : Nat := s.sched.cycle

def State.modSched (s : State) (f : Sched → Sched) : State := { s with sched := f s.sched }
def State.modSeq (s : State) (f : Sequencer → Sequencer) : State := { s with seq := f s.seq }
def State.modPart (s : State) (f : Part → Part) : State := { s with part := f s.part }
def State.modFix (s : State) (f : Fix → Fix) : State := { s with fix := f s.fix }
def State.modLink (s : State) (f : Link → Link) : State := { s with link := f s.link }

/-- A fresh free number (log 4). -/
def State.freeNat (s : State) : Nat × State :=
  (Config.freeNat s.sched.free, s.modSched fun c => { c with free := c.free + 1 })

/-- A fresh free word (log 4). -/
def State.freeWord (s : State) : Word × State :=
  (Config.freeWord s.sched.free, s.modSched fun c => { c with free := c.free + 1 })

/-! ### Messages (R25, R95, log 3) -/

/-- Channel classes of R25; requests and replies of memory traffic are two subchannels (R95). -/
abbrev clsLock : Nat := 0
abbrev clsPush : Nat := 1
abbrev clsMemReq : Nat := 2
abbrev clsMemReply : Nat := 3
abbrev clsTask : Nat := 4
abbrev clsAm : Nat := 5
abbrev clsFault : Nat := 6
abbrev clsFix : Nat := 7
/-- No channel: a unit's own delay, which no other message holds. -/
abbrev clsOwn : Nat := 8

/-- The cclk in which a message may land: its own time, and not before what its channel carries. -/
def dueOn (fs : List Flight) (cls src dst t : Nat) : Nat :=
  if cls = clsOwn then t
  else fs.foldl (fun m f => if f.cls = cls ∧ f.src = src ∧ f.dst = dst then max m f.due else m) t

/-- Sends a parcel that lands n cclk from now, or later behind its channel. -/
def State.sendIn (s : State) (cls src dst n : Nat) (p : Parcel) : State :=
  s.modSched fun c =>
    { c with flight := c.flight ++ [⟨dueOn c.flight cls src dst (c.cycle + n), cls, src, dst, p⟩] }

/-- Sends a parcel with a latency that the spec leaves open (log 3). -/
def State.send (s : State) (cls src dst : Nat) (p : Parcel) : State :=
  let (n, s) := s.freeNat
  s.sendIn cls src dst (n + 1) p

/-- Sends a parcel with an open latency of at most `m` cclk. -/
def State.sendWithin (s : State) (cls src dst m : Nat) (p : Parcel) : State :=
  let (n, s) := s.freeNat
  s.sendIn cls src dst (1 + n % m) p

/-- Sends a parcel with an open latency of at least `least` cclk, that lands in no cclk before `from_`. -/
def State.sendFrom (s : State) (cls src dst least from_ : Nat) (p : Parcel) : State :=
  let (n, s) := s.freeNat
  s.sendIn cls src dst (max (least + n) (from_ - s.cycle)) p

/-- A step of a unit exactly n cclk from now. -/
def State.after (s : State) (n : Nat) (i : Instr) (unit : Nat) : State := s.sendIn clsOwn 0 0 n (.step i unit)

/-- A step later in this cclk. -/
def State.thenDo (s : State) (i : Instr) (unit : Nat) : State :=
  s.modSched fun c => { c with now := c.now ++ [(i, unit)] }

/-- A message that is a step. -/
abbrev msg (i : Instr) : Parcel := .step i 0

/-! ### Messages to other parts (R25, R361, R362) -/

/-- Parts of the pod other than this one. -/
def State.otherParts (s : State) : List Nat := (List.range s.link.pod.n).filter (· ≠ s.link.pod.k)

/-- Port toward a part. -/
def State.portOf (s : State) (part : Nat) : Nat :=
  ((s.link.pod.routes.find? fun (e : Nat × Nat) => e.1 = part).map fun (e : Nat × Nat) => e.2).getD 0

/-- The cell that a message to another part comes from, where it comes from one (R361, log 71). -/
def azCell : AzMsg → Option Nat
  | .mem _ q => some q.cell
  | .atom _ q => some q.cell
  | .reply _ _ _ c => c
  | .mail _ _ _ _ place _ => some (place % 2 ^ 16 / 64)
  | .am _ m => some (m.sender % 2 ^ 16 / 64)
  | .drain _ cell .. => some cell
  | _ => none

/-- The incarnation of a message's source: 16 bits of its part, and above them 4 bits of its cell (R361). -/
def State.incarnOf (s : State) (m : AzMsg) : Nat :=
  s.part.incarn.toNat + 2 ^ 16 * match azCell m with
    | some c => (s.cell c).incarnation
    | none => 0

/-- Sends a message to a part through a port, under its source's incarnation (R361). -/
def State.sendOut (s : State) (part port : Nat) (m : AzMsg) : State :=
  s.modLink fun x => { x with azSent := x.azSent ++ [⟨part, port, s.incarnOf m, m⟩] }

/-- Sends a message to another part. -/
def State.toPart (s : State) (part : Nat) (m : AzMsg) : State := s.sendOut part (s.portOf part) m

/-- Sends a message to every other part. -/
def State.broadcast (s : State) (m : AzMsg) : State := s.otherParts.foldl (fun s p => s.toPart p m) s

/-! ### Byte memory in canonical form (R26, log 1) -/

/-- The byte at an address; an unlisted address reads 0 (log 1). -/
def Memory.read : List Host.Cell → Nat → Byte
  | [], _ => 0
  | (k, v) :: t, a => if k = a then v else Memory.read t a

/-- The memory with one byte written: addresses rise and no listed byte is 0. -/
def Memory.write : List Host.Cell → Nat → Byte → List Host.Cell
  | [], a, b => if b = 0 then [] else [(a, b)]
  | (k, v) :: t, a, b =>
    if a < k then (if b = 0 then (k, v) :: t else (a, b) :: (k, v) :: t)
    else if a = k then (if b = 0 then t else (a, b) :: t)
    else (k, v) :: Memory.write t a b

/-- The canonical form: every listed address above `lo`, rising, and no byte 0. -/
def Memory.wfFrom : Nat → List Host.Cell → Bool
  | _, [] => true
  | lo, (k, v) :: t => decide (lo ≤ k) && decide (v ≠ 0) && Memory.wfFrom (k + 1) t

/-- The canonical form of a memory. -/
def Memory.wf (m : List Host.Cell) : Bool := Memory.wfFrom 0 m

/-- Little-endian value of bytes (R5). -/
def leNat : List Byte → Nat
  | [] => 0
  | b :: t => b.toNat + 256 * leNat t

/-- The n low bytes of a value, little-endian. -/
def leBytes : Nat → Nat → List Byte
  | 0, _ => []
  | n + 1, v => BitVec.ofNat 8 v :: leBytes n (v / 256)

/-- n fresh free words, as bytes (log 4). -/
def State.freeBytes : Nat → State → List Byte × State
  | 0, s => ([], s)
  | n + 1, s =>
    let (w, s) := s.freeWord
    let (t, s) := State.freeBytes n s
    (leBytes 8 w.toNat ++ t, s)

/-- n consecutive addresses. -/
def addrsFrom (a n : Nat) : List Nat := (List.range n).map (a + ·)

/-! ### What an address names (R26) -/

/-- Kind of a local physical address. -/
inductive Place where
  | hbm
  | vault (cell : Nat)
  | tile (cell : Nat)
  | device (off : Nat)
  | hole
  deriving DecidableEq, Repr

/-- Start of the vaults. -/
abbrev vaultBase : Nat := 0x1000000000000
/-- Start of the tile stores. -/
abbrev tileBase : Nat := 0x2000000000000
/-- Start of the device register space. -/
abbrev deviceBase : Nat := 0x3000000000000

/-- R26. -/
def placeOf (a : Nat) : Place :=
  if a < 0x6000000000 then .hbm
  else if vaultBase ≤ a ∧ a < vaultBase + 1024 * 0x800000 then .vault ((a - vaultBase) / 0x800000)
  else if tileBase ≤ a ∧ a < tileBase + 1024 * 0x200000 then .tile ((a - tileBase) / 0x200000)
  else if deviceBase ≤ a ∧ a < deviceBase + 0x100000000 then .device (a - deviceBase)
  else .hole

/-- Local part of a pod physical address. -/
def localAddr (a : Nat) : Nat := a % 2 ^ 51
/-- Part number of a pod physical address. -/
def addrPart (a : Nat) : Nat := a / 2 ^ 51 % 512

/-- Die of an HBM address (R28). -/
def hbmDie (a : Nat) : Nat := a / 0x1800000000
/-- Pseudo-channel within the die (R28). -/
def pseudoChannel (a : Nat) : Nat :=
  let w := a % 0x1800000000
  (w / 2 ^ 11 % 128).xor (w / 2 ^ 18 % 128)
/-- Home slice as one number over the part: die · 512 + slice (R28). -/
def homeSlice (a : Nat) : Nat :=
  let w := a % 0x1800000000
  hbmDie a * 512 + ((w / 2 ^ 6 % 512).xor (w / 2 ^ 15 % 512)).xor (w / 2 ^ 24 % 512)
/-- BLM of a granule (R28, R29): pseudo-channels 0 to 511, then the vaults. -/
def blmOf : Gran → Nat
  | .mem g =>
    let a := localAddr (g * 256)
    match placeOf a with
    | .vault c => 512 + c
    | _ => hbmDie a * 128 + pseudoChannel a
  | .handle c _ => 512 + c
  | .unit c _ => 512 + c
/-- Part that holds a granule. -/
def granPart (mine : Nat) : Gran → Nat
  | .mem g => addrPart (g * 256)
  | _ => mine
/-- Die of a BLM. -/
def dieOfBlm (b : Nat) : Nat := if b < 512 then b / 128 else (b - 512) / 256

/-! ### The lateral network (R22, R72) -/

/-- Distance between two cells on the mesh, counted as if both were on one die (R22, R72). -/
def meshHops (a b : Nat) : Nat :=
  let d (i j : Nat) : Nat := max i j - min i j
  d (a % 32) (b % 32) + d (a / 32 % 8) (b / 32 % 8)

/-- Bytes in a cclk of a lateral transfer. -/
def lateralRate (a b : Nat) : Nat :=
  if a / 256 ≠ b / 256 then 16 else if meshHops a b ≤ 3 then 64 else if meshHops a b ≤ 11 then 32 else 16

/-- Latency of a lateral transfer of 256 bytes. -/
def lateralLag (a b : Nat) : Nat := 24 + 2 * meshHops a b + if a / 256 = b / 256 then 0 else 48

/-- Time of a lateral transfer of n bytes.  DEDUCED (log 77): bytes beyond the 256 whose latency R72 states go at the rate. -/
def lateralTime (a b n : Nat) : Nat := lateralLag a b + (n - 256 + lateralRate a b - 1) / lateralRate a b

/-! ### Fix units (R355) -/

/-- Number of the 64 KiB unit of an address. -/
def unitOf (a : Nat) : Nat := a / 65536

/-- Frame of a unit's copy for fix F, if it has one. -/
def State.copyOf (s : State) (u f : Nat) : Option Nat :=
  (s.fix.copies.find? fun c => c.1 = u ∧ c.2.1 = f).map (·.2.2)

/-- Whether a cell has taken the cut of the newest fix (R352). -/
def State.afterCut (s : State) (cell : Nat) : Bool := decide (s.fix.no ≤ (s.cell cell).fixNo)

/-- Whether a message with a fix count is post-cut for the newest fix (R354). -/
def State.isPost (s : State) (count : Nat) : Bool := decide (s.fix.no ≤ count)

/-- Frames of a unit's copies for fixes whose cut a writer with a fix count has still to take, the earliest of them first
(R355). -/
def State.copiesPast (s : State) (count u : Nat) : List Nat :=
  let mine := s.fix.copies.filter fun (c : Nat × Nat × Nat) => decide (c.1 = u) && decide (count < c.2.1)
  match mine.argmin (fun (c : Nat × Nat × Nat) => c.2.1) with
  | none => []
  | some x => (x :: mine.erase x).map fun (c : Nat × Nat × Nat) => c.2.2

/-- Where an access is served: before the cut, at the unit's copy, if it has one (R355). -/
def State.redirect (s : State) (count a : Nat) : Nat :=
  match s.copiesPast count (unitOf a) with
  | f :: _ => f + a % 65536
  | [] => a

/-! ### Keys (R366, R367, log 15) -/

/-- Key index and installation under which data is written. -/
def State.keyTag (s : State) (key : Nat) : Nat := key + 4096 * s.part.keyGen.get 0 key

/-- Whether bytes of an address read correctly under a key (log 15). -/
def State.keyOk (s : State) (key a : Nat) : Bool :=
  match s.unitKey.find (a / 16) with
  | none => true
  | some t => t == s.keyTag key

/-! ### Raw storage: HBM behind the slices, vaults and tile stores -/

def State.byte (s : State) (a : Nat) : Byte := Memory.read s.mem a

/-- Writes one byte of storage. -/
def State.putByte (s : State) (a : Nat) (b : Byte) : State := { s with mem := Memory.write s.mem a b }

/-- Writes bytes of storage in list order. -/
def State.putBytes (s : State) (bs : List (Nat × Byte)) : State :=
  { s with mem := bs.foldl (fun m e => Memory.write m e.1 e.2) s.mem }

/-- Poison marks of the doublewords that a write covers wholly are lost (R45). -/
def State.clearPoison (s : State) (as : List Nat) : State :=
  { s with
    poison := s.poison.filter fun w => !(List.range 8).all fun i => as.contains (8 * w + i)
    soft := s.soft.filter fun w => !(List.range 8).all fun i => as.contains (8 * w + i) }

/-- The doubleword of an address that is poisoned in storage, if any of the addresses is, where a reader with a fix count reads them
(R45, R355). -/
def State.poisonAt (s : State) (count : Nat) (as : List Nat) : Option Nat :=
  (as.find? fun a => s.poison.contains (s.redirect count a / 8)).map fun a => a / 8 * 8

/-- Before a unit of 16 bytes is written under another key than the one that it holds, the bytes that
stay read as anything (log 15). -/
def State.rekey (s : State) (key a : Nat) : State :=
  let u := a / 16
  let s' := if s.keyOk key a then s else
    let (w0, s) := s.freeWord
    let (w1, s) := s.freeWord
    s.putBytes ((addrsFrom (16 * u) 16).zip (leBytes 8 w0.toNat ++ leBytes 8 w1.toNat))
  { s' with unitKey := s'.unitKey.set u (s'.keyTag key) }

/-- Bytes of HBM storage as a controller reads them under a key. -/
def State.hbmRead (s : State) (key : Nat) (as : List Nat) : List Byte × State :=
  if as.all (s.keyOk key) then (as.map s.byte, s)
  else
    let (w, s') := s.freeWord
    (as.map fun a => if s.keyOk key a then s.byte a else BitVec.ofNat 8 (w.toNat / 2 ^ (a % 8 * 8)), s')

/-- Writes bytes of HBM storage under a key. -/
def State.hbmWrite (s : State) (key : Nat) (bs : List (Nat × Byte)) : State :=
  ((bs.foldl (fun s e => s.rekey key e.1) s).putBytes bs).clearPoison (bs.map (·.1))

/-! ### Copy-on-write (R355, R357) -/

def State.dword (s : State) (a : Nat) : Nat := leNat ((addrsFrom a 8).map s.byte)

/-- Word i of a line (i taken modulo 16). -/
def lineWord (d : LineData) (i : Nat) : W32 := d[i % 16]'(Nat.mod_lt _ (by decide))

/-- The byte at an address, from its line's data. -/
def lineByte (d : LineData) (a : Nat) : Byte :=
  BitVec.ofNat 8 ((lineWord d (a / 4)).toNat / 2 ^ (a % 4 * 8))

/-- The line with the byte at an address replaced. -/
def setLineByte (d : LineData) (a : Nat) (b : Byte) : LineData :=
  let w := (lineWord d (a / 4)).toNat
  let sh := 2 ^ (a % 4 * 8)
  d.set (a / 4 % 16) (BitVec.ofNat 32 (w - w / sh % 256 * sh + b.toNat * sh)) (Nat.mod_lt _ (by decide))

/-- A line made from 64 bytes in address order. -/
def lineOfBytes (bs : List Byte) : LineData :=
  Vector.ofFn fun i : Fin 16 => BitVec.ofNat 32 (leNat ((bs.drop (4 * i.val)).take 4))

/-- The word that an address stands in, within its line. -/
def wordIx (a : Nat) : Nat := a / 4 % 16

/-- The home value of a byte: its L2 line's, else storage's. -/
def State.homeByte (s : State) (a : Nat) : Byte :=
  match s.l2.find (a / 64) with
  | some x => lineByte x.data a
  | none => s.byte a

/-- A doubleword of the fix area, as its home holds it. -/
def State.fixDword (s : State) (a : Nat) : Nat := leNat ((addrsFrom a 8).map s.homeByte)

/-- Writes bytes at their home for the fix unit, which copies no unit. -/
def State.putHome (s : State) (bs : List (Nat × Byte)) : State :=
  let put (e : Nat × L2Line) : Nat × L2Line :=
    (e.1, { e.2 with data := bs.foldl (fun d b => if b.1 / 64 = e.1 then setLineByte d b.1 b.2 else d) e.2.data })
  { s with l2 := s.l2.map put }.putBytes bs

/-- Writes a doubleword of the fix area at its home. -/
def State.putFixDword (s : State) (a v : Nat) : State := s.putHome ((addrsFrom a 8).zip (leBytes 8 v))

/-- Base of the fix area (R357). -/
def State.fixArea (s : State) : Nat := s.part.fixctl.toNat / 4096 * 4096

/-- Whether the pool has no frame left. -/
def State.poolEmpty (s : State) : Bool := s.fixDword (s.fixArea + 56) ≤ s.fixDword (s.fixArea + 48)

/-- A unit's contents, as their home holds them, go into a frame, with their poison marks and keys. -/
def State.copyInto (s : State) (u frame : Nat) : State :=
  let move (a : Nat) : Nat := frame + a % 65536
  let bytes := (s.mem.filter fun c => unitOf c.1 = u).map fun (c : Host.Cell) => (move c.1, c.2)
  let lines := s.l2.filter fun e => unitOf (64 * e.1) = u
  let cached := lines.flatMap fun (e : Nat × L2Line) =>
    (addrsFrom (64 * e.1) 64).map fun a => (move a, lineByte e.2.data a)
  let marks := lines.flatMap fun (e : Nat × L2Line) =>
    ((List.range 16).filter fun i => e.2.poison.getLsbD i).map fun i => move (64 * e.1 + 4 * i) / 8
  let held := (s.poison.filter fun w => unitOf (8 * w) = u && (s.l2.find (w / 8)).isNone).map fun w => move (8 * w) / 8
  let s := { s with
    mem := s.mem.filter fun c => unitOf c.1 ≠ unitOf frame
    l2 := s.l2.filter fun e => unitOf (64 * e.1) ≠ unitOf frame
    poison := ((s.poison.filter fun w => unitOf (8 * w) ≠ unitOf frame) ++ marks ++ held).dedup
    unitKey := (s.unitKey.filter fun (e : Nat × Nat) => unitOf (16 * e.1) = u).foldl
      (fun (t : Tab Nat) (e : Nat × Nat) => t.set (move (16 * e.1) / 16) e.2)
      (s.unitKey.filter fun (e : Nat × Nat) => unitOf (16 * e.1) ≠ unitOf frame) }
  s.putBytes (bytes ++ cached)

/-- Takes the next pool frame, for a unit's copy for a fix (R357): the frame, and the state with the entry written. -/
def State.takeFrame (s : State) (no u : Nat) : Nat × State :=
  let f := s.fixArea
  let head := s.fixDword (f + 48)
  let e := localAddr (s.fixDword (f + 32)) + head % 2 ^ (s.fixDword (f + 40) % 64) * 16
  (localAddr (s.fixDword e) / 65536 * 65536,
    (s.putFixDword (e + 8) (s.link.pod.k * 2 ^ 51 + u * 65536 % 2 ^ 51 + no % 65536)).putFixDword (f + 48) (head + 1))

/-- Takes a pool frame and copies a unit into it for fix f (R355, R357): what the unit held at the cuts of f is what its copy
for the next fix holds, where it has one. -/
def State.copyUnit (s : State) (f u : Nat) : State :=
  let src := ((s.copiesPast f u).map unitOf).headD u
  let (frame, s) := s.takeFrame f u
  (s.copyInto src frame).modFix fun x => { x with copies := x.copies ++ [(u, f, frame)] }

/-- The fix of a writer's last cut: no fix that has not begun. -/
def State.cutOf (s : State) (count : Nat) : Nat := min count s.fix.want

/-- Whether a write must copy its unit first: the first one after its writer's last cut, which its fix count names (R354,
R355). -/
def State.needsCopy (s : State) (count u : Nat) : Bool := decide (0 < s.cutOf count) && (s.copyOf u (s.cutOf count)).isNone

/-- Whether a write needs a copy while the pool is empty (R355). -/
def State.poolStops (s : State) (count : Nat) (as : List Nat) : Bool :=
  (as.any fun a => s.needsCopy count (unitOf a)) && s.poolEmpty

/-- Copies the units of the addresses that need it. -/
def State.cow (s : State) (count : Nat) (as : List Nat) : State :=
  as.foldl (fun s a => if s.needsCopy count (unitOf a) ∧ !s.poolEmpty then s.copyUnit (s.cutOf count) (unitOf a) else s) s

/-- Where a write before the cut also goes: the unit's copies (R355). -/
def State.mirror (s : State) (count : Nat) (bs : List (Nat × Byte)) : List (Nat × Byte) :=
  bs.flatMap fun e => (s.copiesPast count (unitOf e.1)).map fun f => (f + e.1 % 65536, e.2)

/-- Poison marks of doublewords, and of the same doublewords of the copies (R45, R355). -/
def State.mirrorMarks (s : State) (count : Nat) (ds : List Nat) : List Nat :=
  ds ++ (s.mirror count (ds.map fun d => (8 * d, 0))).map fun e => e.1 / 8

/-- A write at near memory or at any storage without a cache, where the copies that take it are in the list (R74, R75). -/
def State.nearPut (s : State) (bs : List (Nat × Byte)) : State := (s.putBytes bs).clearPoison (bs.map (·.1))

/-- A write at near memory (R74, R75, R355). -/
def State.nearWrite (s : State) (count : Nat) (bs : List (Nat × Byte)) : State :=
  let s := s.cow count (bs.map (·.1))
  s.nearPut (bs ++ s.mirror count bs)

/-- What an atomic does where bytes read as `get` says: the old value, as the unit or before the cut its copy holds it, and what it
writes there and, applied anew, to the unit and to each other copy (R223, R355). -/
def State.atomEffect (s : State) (count : Nat) (as : List Nat) (get : Nat → Byte) (f : Nat → Option Nat) : Nat × List (Nat × Byte) :=
  let places := as :: (s.copiesPast count (unitOf (as.headD 0))).map fun frame => as.map fun a => frame + a % 65536
  (leNat (as.map fun a => get (s.redirect count a)), places.flatMap fun bs => match f (leNat (bs.map get)) with
    | some v => bs.zip (leBytes as.length v)
    | none => [])

end Sys2Proof.Machine
end

