-- ==== Sys2Proof/Machine/Home.lean ====
section
/-! DEFINITION. The home slices: L2 lines, owner tags, registrations, copy-backs, write-throughs and the
home value of a word (R79 to R86, R110, R137). -/

namespace Sys2Proof.Machine

/-- The mask of the words of line `l` that the addresses touch. -/
def maskOf (l : Nat) (as : List Nat) : BitVec 16 :=
  as.foldl (fun m a => if a / 64 = l then m ||| BitVec.ofNat 16 (2 ^ wordIx a) else m) 0

/-- The lines that the addresses touch, in order, each once. -/
def linesOf (as : List Nat) : List Nat := (as.map (· / 64)).dedup

/-- Poison marks of a line's words in storage. -/
def State.storedPoison (s : State) (l : Nat) : BitVec 16 :=
  (List.range 16).foldl (fun m i => if s.poison.contains ((64 * l + 4 * i) / 8) then m ||| BitVec.ofNat 16 (2 ^ i) else m) 0

/-- Sets poison marks of storage for the words of a mask. -/
def State.markPoison (s : State) (l : Nat) (m : BitVec 16) : State :=
  { s with
    poison := (List.range 16).foldl (fun ps i =>
      let w := (64 * l + 4 * i) / 8
      if m.getLsbD i ∧ !ps.contains w then ps ++ [w] else ps) s.poison }

/-! ### L2 -/

/-- Writes a line's dirty words back to HBM. -/
def State.l2Spill (s : State) (l : Nat) (x : L2Line) : State :=
  let as := (addrsFrom (64 * l) 64).filter fun a => x.dirty.getLsbD (wordIx a)
  (s.hbmWrite x.key (as.map fun a => (a, lineByte x.data a))).markPoison l (x.poison &&& x.dirty)

/-- Removes a line, writing it back. -/
def State.l2Evict (s : State) (l : Nat) : State :=
  match s.l2.find l with
  | none => s
  | some x => let s := s.l2Spill l x; { s with l2 := s.l2.del l }

/-- Set of a line in its slice: one of 256 (R69, log 12). -/
def l2Set (l : Nat) : Nat := l / 512 % 256

/-- Room for one more line in its set of 16 ways: which line of a full set leaves is open (R69, log 12). -/
def State.l2Room (s : State) (l : Nat) : State :=
  let here := (s.l2.filter fun e => l2Set e.1 == l2Set l && homeSlice (64 * e.1) == homeSlice (64 * l)).map (·.1)
  if here.length < 16 then s
  else
    let (n, s) := s.freeNat
    match here[n % here.length]? with
    | some v => s.l2Evict v
    | none => s

/-- The line's data as home holds it, with poison: L2 if present, else HBM (R110). -/
def State.homeLine (s : State) (key l : Nat) : LineData × BitVec 16 × State :=
  match s.l2.find l with
  | some x => (x.data, x.poison, s)
  | none =>
    let (bs, s') := s.hbmRead key (addrsFrom (64 * l) 64)
    (lineOfBytes bs, s.storedPoison l, s')

/-- The home values of bytes of HBM: L2 where present, else HBM; nothing is allocated. -/
def State.homeRead (s : State) (count key : Nat) (as : List Nat) : List Byte × State :=
  let as := as.map (s.redirect count)
  let (bs, s') := s.hbmRead key as
  ((as.zip bs).map fun e => match s.l2.find (e.1 / 64) with
    | some x => lineByte x.data e.1
    | none => e.2, s')

/-- The first poisoned word among home values, as the address of its 64 bits (R45). -/
def State.homePoison (s : State) (as : List Nat) : Option Nat :=
  (as.find? fun a => match s.l2.find (a / 64) with
    | some x => x.poison.getLsbD (wordIx a)
    | none => s.poison.contains (a / 8)).map fun a => a / 8 * 8

/-- Poison marks come to the words of a line as its home holds it, and to the same words of its copy, where a write before the
cut wrote there too (R45, R355). -/
def State.poisonHome (s : State) (count l : Nat) (m : BitVec 16) : State :=
  let mark (s : State) (l : Nat) : State := match s.l2.find l with
    | some x => { s with l2 := s.l2.set l { x with poison := x.poison ||| m } }
    | none => s.markPoison l m
  (s.mirrorMarks count [8 * l]).foldl (fun (s : State) d => mark s (d / 8)) s

/-- The bytes of 64-bit words that the addresses cover wholly, as words of line `l`: what clears a poison mark (R45, log 75). -/
def wholeMask (l : Nat) (as : List Nat) : BitVec 16 :=
  maskOf l (as.filter fun a => (addrsFrom (a / 8 * 8) 8).all as.contains)

/-- Writes bytes at home, where the copies that take them are in the list.  `thru`: HBM is written in every case (R84's exempt
write-throughs); otherwise the L2 line takes the bytes when it is present (R81, R84). -/
def State.homePut (s : State) (thru : Bool) (key : Nat) (bs : List (Nat × Byte)) : State :=
  let as := bs.map (·.1)
  let l2' := bs.foldl (fun t e => match t.find (e.1 / 64) with
    | none => t
    | some x =>
      t.set (e.1 / 64) { x with data := setLineByte x.data e.1 e.2
                                dirty := if thru then x.dirty else x.dirty ||| BitVec.ofNat 16 (2 ^ wordIx e.1)
                                poison := x.poison &&& ~~~(wholeMask (e.1 / 64) as) }) s.l2
  let toHbm := bs.filter fun e => thru || (s.l2.find (e.1 / 64)).isNone
  { s with l2 := l2' }.hbmWrite key toHbm

/-- Writes bytes at home, as of a writer's fix count (R81, R84, R355). -/
def State.homeWrite (s : State) (count : Nat) (thru : Bool) (key : Nat) (bs : List (Nat × Byte)) : State :=
  let s := s.cow count (bs.map (·.1))
  s.homePut thru key (bs ++ s.mirror count bs)

/-! ### The owner table -/

def OwnerRec.empty (c : Nat) : OwnerRec := ⟨Vector.replicate 16 .empty, Vector.replicate 16 c, false⟩

/-- Tag of word i of a line. -/
def State.tag (s : State) (l i : Nat) : OwnerTag :=
  match s.owners.find l with
  | some r => r.tags[i % 16]'(Nat.mod_lt _ (by decide))
  | none => .empty

/-- Sets tags of the words of a mask; a record whose tags are all empty is dropped (R79). -/
def State.setTags (s : State) (l : Nat) (m : BitVec 16) (t : OwnerTag) : State :=
  let r := (s.owners.find l).getD (OwnerRec.empty s.cycle)
  let r := { r with
    tags := Vector.ofFn fun i : Fin 16 => if m.getLsbD i then t else r.tags[i]
    since := Vector.ofFn fun i : Fin 16 => if m.getLsbD i ∧ r.tags[i] ≠ t then s.cycle else r.since[i] }
  { s with owners := if r.tags.toList.all (· == .empty) then s.owners.del l else s.owners.set l r }

/-- Words of a mask whose tag satisfies a test. -/
def State.tagMask (s : State) (l : Nat) (m : BitVec 16) (f : OwnerTag → Bool) : BitVec 16 :=
  (List.range 16).foldl (fun x i => if m.getLsbD i ∧ f (s.tag l i) then x ||| BitVec.ofNat 16 (2 ^ i) else x) 0

/-- The first lost word that the addresses touch (R85). -/
def State.lostWord (s : State) (as : List Nat) : Option Nat :=
  (as.find? fun a => s.tag (a / 64) (wordIx a) == .lost).map fun a => a / 4 * 4

/-- The tag of a cell of this part. -/
def State.myTag (s : State) (cell : Nat) : OwnerTag := .cell s.link.pod.k cell

/-- Ends the registrations of the words of a mask that other cells than `keep` hold, with notices to
their owners (R80, R84). -/
def State.endOthers (s : State) (l : Nat) (m : BitVec 16) (keep : Option Nat) : State :=
  let owners := ((List.range 16).filterMap fun i =>
    if m.getLsbD i then match s.tag l i with | .cell _ c => some c | _ => none else none).dedup
  (owners.filter fun c => some c ≠ keep).foldl (fun s c =>
    let w := s.tagMask l m (· == s.myTag c)
    (s.setTags l w .empty).send clsMemReply (homeSlice (64 * l)) c (msg (.ownershipLostNotice c l w))) s

/-- Records of a slice. -/
def State.recordsOf (s : State) (slice : Nat) : List (Nat × OwnerRec) :=
  s.owners.filter fun e => homeSlice (64 * e.1) = slice

/-- When the oldest registration of a record came (R86). -/
def OwnerRec.oldest (r : OwnerRec) : Option Nat :=
  ((List.finRange 16).filterMap fun i => match r.tags[i] with | .cell _ _ => some r.since[i] | _ => none).min?

/-- Recalls the record whose oldest registration is oldest (R86). -/
def State.recallOne (s : State) (slice : Nat) : State :=
  let rs := (s.recordsOf slice).filter fun e => !e.2.recalled && e.2.oldest.isSome
  match rs.argmin (fun e => e.2.oldest.getD 0) with
  | none => s
  | some (l, r) =>
    let cells := (r.tags.toList.filterMap fun t => match t with | .cell _ c => some c | _ => none).dedup
    let s := { s with owners := s.owners.set l { r with recalled := true } }
    cells.foldl (fun s c =>
      s.send clsMemReply slice c (msg (.recall c l (s.tagMask l (~~~0) (· == s.myTag c))))) s

/-- R86: as many recalls as bring the table back to 1,792 records. -/
def State.recallOver (s : State) (slice : Nat) : State :=
  let rs := s.recordsOf slice
  let pending := (rs.filter fun e => e.2.recalled).length
  (List.range (rs.length - pending - 1792)).foldl (fun s _ => s.recallOne slice) s

/-- Notices of a write at home (R84). -/
def State.endLines (s : State) (keep : Option Nat) (as : List Nat) : State :=
  (linesOf as).foldl (fun s l => s.endOthers l (maskOf l as) keep) s

/-- Notices of a write at home, and the write itself (R84). -/
def State.homeStore (s : State) (count : Nat) (thru : Bool) (key : Nat) (keep : Option Nat) (bs : List (Nat × Byte)) : State :=
  (s.endLines keep (bs.map (·.1))).homeWrite count thru key bs

/-! ### Storage of either kind -/

/-- Whether an address names HBM. -/
def inHbm (a : Nat) : Bool := placeOf a == .hbm

/-- Bytes of a local physical address list as its home holds them: HBM through the slices, near memory
at its port. -/
def State.physRead (s : State) (count key : Nat) (as : List Nat) : List Byte × State :=
  if as.any inHbm then s.homeRead count key as else (as.map fun a => s.byte (s.redirect count a), s)

/-- Writes bytes at their home without allocation, for a writer that is no cell: every owner is told (R84, R113, R363).  An
engine's write goes as WRITE_THROUGH, which tells all owners but its own cell (DEDUCED, log 90). -/
def State.physWrite (s : State) (count key : Nat) (bs : List (Nat × Byte)) : State :=
  let (far, near) := bs.partition fun e => inHbm e.1
  let s := if far = [] then s else s.homeStore count true key none far
  if near = [] then s else s.nearWrite count near

/-- The first poisoned word of a local address list, as an address, where a reader with a fix count reads it (R45, R355). -/
def State.physPoison (s : State) (count : Nat) (as : List Nat) : Option Nat :=
  if as.any inHbm then (as.find? fun a => (s.homePoison [s.redirect count a]).isSome).map fun a => a / 8 * 8
  else s.poisonAt count as

/-- A little-endian value of n bytes at a local physical address, under key 0, as its home holds it. -/
def State.physNat (s : State) (a n : Nat) : Nat := leNat (s.physRead s.fix.no 0 (addrsFrom a n)).1

end Sys2Proof.Machine
end

