-- ==== Sys2Proof/Machine/Ops.lean ====
section
/-! DEFINITION. The named operations over slots: registers, reports, the end of work, voids, taking an
exception and returning from one, asking for a translation, and the frame of an issue
(R146, R156, R162, R168, R170, R209, R293, R294, R341). -/

namespace Sys2Proof.Machine

/-! ### Registers of a slot (R149, R189) -/

/-- gN: g0 reads as 0. -/
def Slot.g (sl : Slot) (r : Reg) : Word := if r = 0 then 0 else sl.regs[r.toNat]'r.isLt

/-- gN written: a write to g0 is discarded. -/
def Slot.setG (sl : Slot) (r : Reg) (v : Word) : Slot :=
  if r = 0 then sl else { sl with regs := sl.regs.set r.toNat v r.isLt }

/-- pN: p0 reads as true. -/
def Slot.p (sl : Slot) (i : PredIx) : Bool := i == 0 || sl.pw.getLsbD i.toNat

/-- pN written: a write to p0 is discarded. -/
def Slot.setP (sl : Slot) (i : PredIx) (b : Bool) : Slot :=
  if i = 0 then sl
  else { sl with pw := if b then sl.pw ||| BitVec.ofNat 16 (2 ^ i.toNat)
                       else sl.pw &&& ~~~(BitVec.ofNat 16 (2 ^ i.toNat)) }

/-- The whole PW: bit 0 stays 1 (R149). -/
def Slot.setPw (sl : Slot) (v : BitVec 16) : Slot := { sl with pw := v ||| 1 }

/-- The end check of R209 for an instruction at `e` whose successor is at `next`. -/
def Slot.endCheck (sl : Slot) (e next : Word) : Slot :=
  let level0 (sl : Slot) : Slot :=
    if sl.lc0 ≠ 0 ∧ e = sl.le0 then
      if sl.lc0 = 1 then { sl with lc0 := 0, pc := next }
      else { sl with lc0 := sl.lc0 - 1, pc := sl.lb0 }
    else { sl with pc := next }
  if sl.lc1 ≠ 0 ∧ e = sl.le1 then
    if sl.lc1 = 1 then level0 { sl with lc1 := 0 }
    else { sl with lc1 := sl.lc1 - 1, pc := sl.lb1 }
  else level0 sl

/-- Index of a stream register g20 to g27 in the slot's streams. -/
def streamIx (r : Reg) : Option (Fin 8) :=
  if h : 20 ≤ r.toNat ∧ r.toNat < 28 then some ⟨r.toNat - 20, by omega⟩ else none

/-- The stream of a register, if it is in stream mode. -/
def Slot.streamOf (sl : Slot) (r : Reg) : Option Stream :=
  match streamIx r with
  | some i => if sl.streams[i].mapped then some sl.streams[i] else none
  | none => none

/-- Replaces the stream of g(20 + i). -/
def Slot.setStream (sl : Slot) (i : Fin 8) (x : Stream) : Slot :=
  { sl with streams := sl.streams.set i x i.isLt }

/-! ### Modes -/

/-- SSTAT.PRIV of a slot (R289, R340). -/
def State.privOf (s : State) (k : Nat) : Bool := isFsc (coreOf k) || (s.ctx (s.slot k).ctx).priv

/-- SSTAT.WORLD of a slot (R340, R364). -/
def State.secureOf (s : State) (k : Nat) : Bool :=
  isFsc (coreOf k) || s.part.secureCtxs.contains (s.slot k).ctx

/-- Stall causes of R148. -/
abbrev wTile : Nat := 1
abbrev wSem : Nat := 2
abbrev wMem : Nat := 3
abbrev wExec : Nat := 4
abbrev wFault : Nat := 5
abbrev wFetch : Nat := 6

/-! ### Reports (R341) -/

/-- Writes a report to the ring of a die's fault service core, or counts it in LOST. -/
def State.report (s : State) (die type cause ctx place : Nat) (addr detail : Word) : State :=
  let d := s.die die
  let cap := 2 ^ (slice d.fsring 3 0 + 6)
  if bitOf d.fsring 4 ∧ (d.fstail - d.fshead).toNat ≠ cap then
    let a := slice d.fsring 50 12 * 4096 + d.fstail.toNat % cap * 32
    let dw0 := type * 2 ^ 56 + cause % 65536 * 2 ^ 40 + ctx % 65536 * 2 ^ 24 + place % 65536
    let bs := leBytes 8 dw0 ++ leBytes 8 addr.toNat ++ leBytes 8 detail.toNat ++ leBytes 8 s.cycle
    (s.physWrite s.fix.no 0 ((addrsFrom a 32).zip bs)).modDie die fun d => { d with fstail := d.fstail + 1 }
  else s.modDie die fun d => { d with lost := d.lost + 1 }

/-- What retired at a sink keeps the cell's watchdog quiet (R348). -/
def State.sink (s : State) (cell : Nat) : State := s.modCell cell fun c => { c with retired := true }

/-- What slot k did retires at a sink of its cell; a fault service core's does at no cell's (R340, R348). -/
def State.sinkBy (s : State) (k : Nat) : State := if isFsc (coreOf k) then s else s.sink (cellOf k)

/-- Bank of storage with an error counter, and storage code of R388, of a local address.  DESIGN CHOICE (log 86): R45 names
the counters of pseudo-channels and vaults; an error of a tile store counts in the counter of its cell's vault. -/
def bankOf (a : Nat) : Nat × Nat × Nat :=
  match placeOf a with
  | .vault c => (512 + c, c, 1)
  | .tile c => (512 + c, c, 2)
  | _ => (hbmDie a * 128 + pseudoChannel a, 0, 0)

/-- Die of a local address. -/
def dieOfAddr (a : Nat) : Nat :=
  match placeOf a with
  | .vault c => dieOf c
  | .tile c => dieOf c
  | _ => hbmDie a

/-- A corrected error of the doubleword w counts in its bank and, in HBM and vaults, toward its frame, and is
reported; the sixteenth of a frame in a period makes it a retirement candidate (R45, R46, R349, R388). -/
def State.correct (s : State) (w : Nat) : State :=
  let a := 8 * w
  let (b, place, code) := bankOf a
  let n := s.part.scrubbed.get 0 (a / 65536) + 1
  let s := (s.modBlm b fun x => { x with corrected := x.corrected + 1 }).modPart fun p =>
    { p with scrubbed := p.scrubbed.set (a / 65536) n }
  let s := s.report (dieOfAddr a) 0xD 0 0 place (BitVec.ofNat 64 a) (BitVec.ofNat 64 code)
  if n = 16 then s.report (dieOfAddr a) 9 0 0 0 (BitVec.ofNat 64 (a / 65536 * 65536)) 16 else s

/-- A read corrects single-bit errors; the stored word keeps its error until it is scrubbed or overwritten (R45).  What an
L2 line gives is no read of storage. -/
def State.noteSoft (s : State) (as : List Nat) : State :=
  (s.soft.filter fun w => (as.any fun a => a / 8 = w) && (s.l2.find (w / 8)).isNone).foldl State.correct s

/-- The line in L2, fetched from HBM if absent: a read of storage, which corrects its single errors (R45, R84). -/
def State.l2Fetch (s : State) (key l : Nat) : State :=
  match s.l2.find l with
  | some _ => s
  | none =>
    let (d, p, s) := (s.noteSoft (addrsFrom (64 * l) 64)).homeLine key l
    let s := s.l2Room l
    { s with l2 := s.l2.set l ⟨d, 0, p, key⟩ }

/-! ### Replies that find their slot gone -/

/-- The number of no slot. -/
abbrev noSlot : Nat := 0xFFFF

/-- Reply address of the fetch port for the block that a slot waits for: above those of slots, streams and engines. -/
def fetchKey (k : Nat) : Nat := 0x400000 + k

/-- Reply address of stream i of a slot: above the slot keys. -/
def streamKey (k i : Nat) : Nat := 0x20000 + k * 8 + i

/-- What a write or atomic that answers to a reply address did retires at a sink of its cell, but for a fault service core's. -/
def State.sinkFor (s : State) (cell a : Nat) : State :=
  let fsc := 3072 * 16
  if (decide (fsc ≤ a) && decide (a < fsc + 64)) || (decide (streamKey fsc 0 ≤ a) && decide (a < 0x200000)) then s else s.sink cell

/-- Whether a reply address is slot k or one of its streams. -/
def owedTo (k a : Nat) : Bool := a == k || (decide (0x20000 ≤ a) && decide (a < 0x200000) && (a - 0x20000) / 8 == k)

/-- A memory request with the reply that a test finds owed to nobody; the test is told whether it is a write's. -/
def MemReq.disown (f : Bool → Nat → Bool) (q : MemReq) : MemReq := if f q.write q.slot then { q with slot := noSlot } else q

/-- An atomic request with the reply that a test finds owed to nobody. -/
def AtomReq.disown (f : Bool → Nat → Bool) (q : AtomReq) : AtomReq := if f false q.slot then { q with slot := noSlot } else q

/-- Whether a reply is one to a write. -/
def ofWrite : Reply → Bool
  | .done => true
  | .lost _ => true
  | .barred _ => true
  | _ => false

/-- Whether an ended work waits for the reply to a push at a reply address (R143). -/
def State.orphanWaits (s : State) (a : Nat) : Bool :=
  decide (0x20000 ≤ a) && s.orphans.any fun (e : Nat × Nat × Slot) => e.2.1 == (a - 0x20000) / 8 &&
    (e.2.2.streams[(⟨a % 8, Nat.mod_lt _ (by decide)⟩ : Fin 8)]).blocked

/-- A step with the replies that a test finds owed to nobody. -/
def disownStep (f : Bool → Nat → Bool) : Instr → Instr
  | .memoryReplyArrival k r => .memoryReplyArrival (if f (ofWrite r) k then noSlot else k) r
  | .homeAtomic q => .homeAtomic (AtomReq.disown f q)
  | .writeThrough q => .writeThrough (MemReq.disown f q)
  | .viewEngineAccess q => .viewEngineAccess (MemReq.disown f q)
  | i => i

/-- A remote request with the reply that a test finds owed to nobody. -/
def disownRemote (f : Bool → Nat → Bool) : RemoteReq → RemoteReq
  | .mem p q => .mem p (MemReq.disown f q)
  | .atom p q => .atom p (AtomReq.disown f q)
  | q => q

/-- Replies to the addresses that a test finds reach nobody. -/
def State.disownAll (s : State) (f : Bool → Nat → Bool) : State :=
  { s with
    sched := { s.sched with
      now := s.sched.now.map fun e => (disownStep f e.1, e.2)
      flight := s.sched.flight.map fun x => { x with parcel := match x.parcel with
        | .step i u => .step (disownStep f i) u
        | .remote c q => .remote c (disownRemote f q)
        | .reply a r n => .reply (if f (ofWrite r) a then noSlot else a) r n
        | .read q => .read (MemReq.disown f q)
        | p => p } }
    cores := s.cores.map fun c => (c.1, { c.2 with remIn := c.2.remIn.map (disownRemote f) }) }

/-- Whether a step is a slot's own delay. -/
def ownDelay (k : Nat) : Parcel → Bool
  | .step .integerDivideComplete u => u == k
  | .step .fpDivideComplete u => u == k
  | .step .alignHoldExpire u => u == k
  | _ => false

/-- What is outstanding for a slot reaches nobody once the slot is freed, but for the pushes of works that ended in it. -/
def State.disown (s : State) (k : Nat) : State :=
  (s.disownAll fun w a => owedTo k a && !(w && s.orphanWaits a)).modSched fun c =>
    { c with flight := c.flight.filter fun x => !ownDelay k x.parcel }

/-! ### The log of a fix (R353, R354) -/

/-- The cell begins its cut (R352). -/
def State.beginCut (s : State) (cell : Nat) : State := s.modCell cell fun c => { c with cutBegun := true }

/-- Whether a message waits for a cell's cut: it is post-cut and the cell is not (R354). -/
def State.cutFirst (s : State) (cell count : Nat) : Bool := decide ((s.cell cell).fixNo < count)

/-- Appends to a cell's log what was sent before the sender's cut and came after the cell's own (R354). -/
def State.logItem (s : State) (cell count : Nat) (x : LogItem) : State :=
  if (s.cell cell).logging ∧ count < (s.cell cell).fixNo then s.modCell cell fun c => { c with log := c.log ++ [x] }
  else s

/-- Whether slot k was captured while it waited for a reply that its cell's log does not hold yet (R353). -/
def State.replyOwed (s : State) (k : Nat) : Bool :=
  let c := s.cell (cellOf k)
  c.logging && !(c.log.any fun x => match x with | .reply j _ => j == k | .late j => j == k | _ => false) &&
  s.fix.images.any fun p => p.no == c.fixNo && p.cells.any fun i =>
    i.cell == cellOf k && i.slots.any fun (e : Nat × Nat × Slot) => e.1 == k && e.2.1 == 3 && e.2.2.gen == (s.slot k).gen

/-- Logs the reply that a captured slot waited for (R353). -/
def State.logReply (s : State) (k : Nat) (r : Reply) : State :=
  if s.replyOwed k then s.modCell (cellOf k) fun c => { c with log := c.log ++ [.reply k r] } else s

/-! ### The end of a slot's work -/

/-- The slot's work ends; the slot is FREE at the end of the rotation (R146). -/
def State.endWork (s : State) (k : Nat) : State :=
  (s.modSlot k fun sl => { sl with ending := true }).modCell (cellOf k) fun c =>
    { c with queueWait := c.queueWait.filter fun e => e.2.2 ≠ k }

/-- The work of a slot ends by its `exit`, which retires at a sink (R348). -/
def State.exitSlot (s : State) (k : Nat) : State := (s.endWork k).sinkBy k

/-- Marks the lock entries of a transaction void at every BLM (R109, R115). -/
def State.voidEntries (s : State) (num : Nat) : State :=
  { s with blms := s.blms.map fun b =>
      (b.1, { b.2 with entries := b.2.entries.map fun e => if e.num = num then { e with void := true } else e }) }

/-- Handles t32 to t63 that a record names (R97). -/
def recHandles (r : TxRec) : List Nat :=
  ((r.reads ++ r.writes).map fun d => 32 + slice d.dw1 34 30).dedup

/-- Changes the transaction of a number. -/
def State.modTxn (s : State) (num : Nat) (f : Txn → Txn) : State :=
  s.modSeq fun q => { q with txns := q.txns.map fun t =>
    if t.num = num ∧ t.stage ≠ .accepted then f t else t }

/-- The transaction of a number. -/
def State.txn (s : State) (num : Nat) : Option Txn :=
  s.seq.txns.find? fun t => t.num = num ∧ t.stage ≠ .accepted

/-- Sets the state of tiles of a cell. -/
def Cell.setTiles (c : Cell) (ts : List Nat) (f : Tile → Tile) : Cell :=
  { c with tiles := Vector.ofFn fun i : Fin 64 => if ts.contains i.val then f c.tiles[i] else c.tiles[i] }

/-- The cell that executes a submission (R102).  DEDUCED (log 106): one of a non-secure slot passes over the secure cells, whose tile
stores it may not reach (R365), while there is another. -/
def State.chooseCell (s : State) (x : Submission) : Nat :=
  if bitOf x.record.dw8 19 then slice x.record.dw8 29 20
  else
    let load (c : Nat) : Nat := (s.seq.txns.filter fun (t : Txn) => t.cell = c ∧ t.stage ≠ .finished).length
    match (List.range 1024).filter fun c => x.secure || !s.part.secureCells.contains c with
    | [] => 0
    | c :: rest => rest.foldl (fun b c => if load c < load b then c else b) c

/-- A submission is accepted into the open batch (R102, R119). -/
def State.acceptSub (s : State) (x : Submission) : State :=
  s.modSeq fun q => { q with txns := q.txns ++ [
    { sub := x, cell := s.chooseCell x, batch := q.batch, num := 0, stage := .accepted, verdict := none
      wants := [], granted := [], pushes := [], released := [], drains := [], lastGrant := 0, roles := [], queue := []
      soundingDone := false, voidAt := 0 }] }

/-- Asks a granule's BLM to remove an entry (R109). -/
def State.releaseGran (s : State) (num : Nat) (g : Gran) : State :=
  let p := granPart s.link.pod.k g
  if p = s.link.pod.k then s.modBlm (blmOf g) fun b =>
    if b.releases.contains (num, g) then b else { b with releases := b.releases ++ [(num, g)] }
  else s.toPart p (.release (blmOf g) num g)

/-- Handles of a record that a transaction holds: those whose area granule has been granted (R110, R115). -/
def Txn.heldHandles (t : Txn) : List Nat :=
  (recHandles t.sub.record).filter fun h => t.granted.any fun g => match g with
    | .handle _ x => x == h
    | _ => false

/-- The parent sounding of a void with STATUS 0x03 is resubmitted (R118).  DEDUCED (log 103): it is ordered by the sounding's
number. -/
def State.restart (s : State) (t : Txn) (status : Nat) : State :=
  if status ≠ 3 then s
  else match t.sub.parent with
    | none => s
    | some p => match s.txn p with
      | some par => s.acceptSub { par.sub with restart := true, parent := some p }
      | none => s

/-- A restart that has not been numbered is not made after all. -/
def State.unrestart (s : State) (t : Txn) : State :=
  s.modSeq fun q => { q with txns := q.txns.filter fun (x : Txn) =>
    !(x.stage == .accepted && x.sub.restart && x.sub.parent == t.sub.parent) }

/-- The other parts that have entries of a void transaction learn of it (R109, R120). -/
def State.tellVoid (s : State) (t : Txn) : State :=
  ((t.wants.map fun w => w.1 / 4096).dedup.filter (· ≠ s.link.pod.k)).foldl (fun s p => s.toPart p (.voided t.num)) s

/-- A numbered transaction becomes a void (R115); a set miss resubmits the parent sounding (R118).  Of causes in one cclk that
of the first role in the order D, C, A counts. -/
def State.voidTxn (s : State) (num : Nat) (v : Verdict) : State :=
  match s.txn num with
  | none => s
  | some t =>
    if t.stage = .numbered ∨ t.stage = .dispatched then
      let s := s.modTxn num fun t => { t with
        stage := .void, verdict := some v, queue := [], pushes := [], voidAt := s.cycle + 1 }
      let s := t.roles.foldl (fun s r => if r.ended then s else s.endWork r.slot) s
      let s := s.modCell t.cell fun c => c.setTiles t.heldHandles fun x => { x with state := .empty }
      let s := s.voidEntries num
      let s := s.tellVoid t
      let s := (t.granted.filter fun g => !t.released.contains g).foldl (fun s g => s.releaseGran num g) s
      s.restart t v.status
    else match t.stage, t.verdict with
      | .void, some old =>
        if t.voidAt = s.cycle + 1 ∧ v.role < old.role then
          ((s.modTxn num fun t => { t with verdict := some v }).unrestart t).restart t v.status
        else s
      | _, _ => s

/-- An active-message handler ends with a report (R154, R388). -/
def State.endHandler (s : State) (k cause sender : Nat) : State :=
  let sl := s.slot k
  (s.report (dieOfSlot k) 5 cause sl.ctx (placeLow k) sl.pc (BitVec.ofNat 64 sender)).endWork k

/-- Work that ends by a trap or a declined fault (R293, R339, R388). -/
def State.endByTrap (s : State) (k c : Nat) : State :=
  let sl := s.slot k
  let detail := sl.signals.toNat + if sl.inTrap ∧ c ≠ 30 then c * 65536 else 0
  (s.report (dieOfSlot k) 4 (if sl.inTrap ∧ c ≠ 30 then 31 else c) sl.ctx (placeLow k) sl.pc
    (BitVec.ofNat 64 detail)).endWork k

/-! ### Taking an exception, and returning from one -/

/-- A synchronous trap with cause c and value v at the instruction of slot k (R293). -/
def State.trapEntry (s : State) (k c : Nat) (v : Word) : State :=
  let sl := s.slot k
  match sl.work with
  | .role num r => s.voidTxn num ⟨if c = 19 then 3 else 5, c, r, sl.issues.toNat⟩
  | .handler sender => s.endHandler k c sender
  | _ =>
    if sl.inTrap ∨ (s.ctx sl.ctx).trapVec = 0 then s.endByTrap k c
    else s.modSlot k fun sl =>
      { sl with run := .run, pend := .none, faultWait := none, walkPoison := none, latch := [], pops := [], owed := none, counted := false
                carry := [], trapPc := sl.pc, trapCause := BitVec.ofNat 64 c, trapVal := v, inTrap := true
                pc := (s.ctx sl.ctx).trapVec }

/-- A declined page fault ends the slot's work (R339). -/
def State.declineSlot (s : State) (k : Nat) : State :=
  let sl := s.slot k
  match sl.work with
  | .role num r => s.voidTxn num ⟨4, 30, r, sl.issues.toNat⟩
  | .handler sender => s.endHandler k 30 sender
  | _ => s.endByTrap k 30

/-- What `eret` leaves in the slot (R294). -/
def Slot.eret (sl : Slot) : Slot := { sl with pc := sl.trapPc, inTrap := false }

/-! ### Asking for a translation (R331, R333) -/

/-- Bytes that a leaf maps. -/
def leafBytes (l : Leaf) : Nat :=
  match slice l.dw0 9 8 with
  | 0 => 2 ^ 16
  | 1 => 2 ^ 21
  | _ => 2 ^ 30

/-- Whether a leaf of a TLB serves a context and a 64 KiB page number. -/
def leafCovers (l : Leaf) (ctx page : Nat) : Bool :=
  l.ctx == ctx && decide (l.vbase ≤ page * 65536) && decide (page * 65536 < l.vbase + leafBytes l)

/-- A walk starts, if one of the four walkers is idle; else it queues (R333). -/
def State.startWalk (s : State) (cl : Nat) (q : WalkReq) : State :=
  if (s.cluster cl).walks.length < 4 then
    (s.modCluster cl fun c => { c with walks := c.walks ++ [q] }).send clsOwn cl cl (msg (.walkComplete cl q))
  else s.modCluster cl fun c => { c with walkQueue := c.walkQueue ++ [q] }

/-- Whether two walks are for one context and page. -/
def sameWalk (a b : WalkReq) : Bool := a.ctx == b.ctx && a.page == b.page

/-- Adds an agent to a walk in progress or queued for the same context and page. -/
def joinWalk (q : WalkReq) (ws : List WalkReq) : List WalkReq :=
  ws.map fun w => if sameWalk w q then { w with agents := w.agents ++ q.agents } else w

/-- A first-level TLB miss asks the second level: a hit takes 24 cclk, a miss a walk, which joins a walk
already in progress for the page (R333). -/
def State.ask (s : State) (ctx page : Nat) (w : Waiter) : State :=
  let cl := clusterOf (cellOfCore w.core)
  let c := s.cluster cl
  let q : WalkReq := ⟨ctx, page, [w]⟩
  match c.stlb.find? fun l => leafCovers l ctx page with
  | some leaf => s.after 24 (.secondLevelTlbHit w.core leaf (w.kind == 2) w.who) 0
  | none =>
    if (c.walks ++ c.walkQueue).any fun w => sameWalk w q then
      s.modCluster cl fun c => { c with walks := joinWalk q c.walks, walkQueue := joinWalk q c.walkQueue }
    else s.startWalk cl q

/-! ### Fault buffers (R335, R338) -/

/-- Engine number of R131. -/
def engIx : Eng → Fin 5
  | .copy => 0
  | .conv => 1
  | .table => 2
  | .matrix => 3
  | .vector => 4

/-- Changes an engine of a cell. -/
def Cell.modEng (c : Cell) (i : Fin 5) (f : Engine → Engine) : Cell :=
  { c with eng := c.eng.set i (f c.eng[i]) i.isLt }

/-- The slot that an agent names in reports (R388). -/
def agentSlot : Agent → Nat
  | .slot k _ => k
  | .stream k _ _ => k
  | .engine _ _ k _ => k

/-- Changes the command that a slot issued, while an engine runs it. -/
def State.modCommand (s : State) (cell : Nat) (e : Eng) (k gen : Nat) (f : Running → Running) : State :=
  s.modCell cell fun c => c.modEng (engIx e) fun y =>
    { y with cur := y.cur.map fun r => if r.cmd.slot = k ∧ r.cmd.gen.toNat = gen then f r else r }

/-- Marks an agent blocked on a page fault, which was dropped or not (R335, R338). -/
def State.markFaulted (s : State) (x : Waiter) (f : PageFault) (dropped : Bool) : State :=
  let w (va : Word) : FaultWait := ⟨f.ctx, f.page, x.kind, x.writes, va, true, dropped⟩
  match x.who with
  | .slot k gen =>
    if (s.slot k).gen.toNat = gen then
      s.modSlot k fun sl =>
        { sl with run := .wait wFault, faultWait := some (w (match sl.faultWait with | some y => y.va | none => 0)) }
    else s
  | .engine c e k gen => s.modCommand c e k gen fun r => { r with wait := some (w 0) }
  | .stream k gen r => match streamIx r with
    | some i =>
      if (s.slot k).gen.toNat = gen then
        s.modSlot k fun sl => sl.setStream i { sl.streams[i] with blocked := true, faulted := true, dropped := dropped }
      else s
    | none => s

/-- A page fault enters its cluster's fault buffer (R335) or is dropped (R338). -/
def State.postFault (s : State) (cl : Nat) (f : PageFault) (x : Waiter) : State :=
  let c := s.cluster cl
  let send (drop : Bool) (s : State) : State :=
    s.send clsFault cl (cl / 8) (msg (.plumeFaultMessage (cl / 64) (cl / 8 % 8) (cl % 8) drop (agentSlot x.who) f))
  if c.faults.any fun e => e.fault.ctx = f.ctx ∧ e.fault.page = f.page then
    (s.modCluster cl fun c => { c with faults := c.faults.map fun e =>
      if e.fault.ctx = f.ctx ∧ e.fault.page = f.page then { e with waiters := e.waiters ++ [x] } else e }).markFaulted x f false
  else if c.faults.length < 8 then
    (send false (s.modCluster cl fun c => { c with faults := c.faults ++ [⟨f, [x]⟩] })).markFaulted x f false
  else
    let s := if c.dropFlag then s else send true (s.modCluster cl fun c => { c with dropFlag := true })
    s.markFaulted x f true

/-! ### Stall counters (R148, R328) -/

/-- Adds one to the counter of an idle cause. -/
def Core.stall (c : Core) (cause : Nat) : Core :=
  match cause with
  | 1 => { c with sttile := c.sttile + 1 }
  | 2 => { c with stsem := c.stsem + 1 }
  | 3 => { c with stmem := c.stmem + 1 }
  | 4 => { c with stexec := c.stexec + 1 }
  | 5 => { c with stfault := c.stfault + 1 }
  | 6 => { c with stfetch := c.stfetch + 1 }
  | _ => { c with stfree := c.stfree + 1 }

/-! ### Actions of an issuing slot -/

/-- Why an instruction does not complete: a trap, an issue condition (with the stall cause of R148 and
the semaphore or tile whose waiters keep order, R162), a missing translation, a page fault of the
access itself, a leaf whose FIX field must change first (these three with the effective address), a marked declined fault, or, for
an engine, a request to another part. -/
inductive Stop where
  | trap (cause : Nat) (value : Word)
  | wait (cause : Nat) (on : List (Bool × Nat))
  | miss (page kind : Nat) (va : Word)
  | fault (f : PageFault) (va : Word)
  | fixField (l : Leaf) (va : Word)
  | declined
  | remote (part : Nat) (m : AzMsg)
  deriving DecidableEq, Repr

/-- An action of the issuing slot; if it stops, nothing it did stands (R8). -/
abbrev Act (α : Type) := StateT State (Except Stop) α

def stop {α : Type} (x : Stop) : Act α := fun _ => .error x
def trap {α : Type} (cause : Nat) (v : Word) : Act α := stop (.trap cause v)
def waitFor {α : Type} (cause : Nat) : Act α := stop (.wait cause [])
def trapIf (b : Bool) (cause : Nat) (v : Word) : Act Unit := if b then trap cause v else pure ()

/-- Key of the issuing slot. -/
def me : Act Nat := fun s => .ok (s.cur, s)
/-- The issuing slot. -/
def getSlot : Act Slot := fun s => .ok (s.slot s.cur, s)
/-- Changes the issuing slot. -/
def modMe (f : Slot → Slot) : Act Unit := fun s => .ok ((), s.modSlot s.cur f)
/-- Changes the state. -/
def act (f : State → State) : Act Unit := fun s => .ok ((), f s)
/-- A function that also gives a value. -/
def actWith {α : Type} (f : State → α × State) : Act α := fun s => .ok (f s)
/-- The issuing slot's cell. -/
def myCell : Act Nat := fun s => .ok (cellOf s.cur, s)
/-- Reads the issuing slot's cell. -/
def getCell : Act Cell := fun s => .ok (s.cell (cellOf s.cur), s)
/-- Changes the issuing slot's cell. -/
def modMyCell (f : Cell → Cell) : Act Unit := fun s => .ok ((), s.modCell (cellOf s.cur) f)

/-- Causes of R291 by name. -/
abbrev cUndefined : Nat := 1
abbrev cMisaligned : Nat := 2
abbrev cBadAddress : Nat := 3
abbrev cNearRange : Nat := 4
abbrev cPermission : Nat := 5
abbrev cWorld : Nat := 6
abbrev cFormatAccess : Nat := 7
abbrev cFormatStore : Nat := 8
abbrev cWrongEngine : Nat := 9
abbrev cBadTile : Nat := 10
abbrev cCopyOverflow : Nat := 11
abbrev cStreamMisuse : Nat := 12
abbrev cBadStream : Nat := 13
abbrev cBadRegion : Nat := 14
abbrev cBadPlace : Nat := 15
abbrev cBadGroup : Nat := 16
abbrev cBadRecord : Nat := 17
abbrev cTxnEffect : Nat := 18
abbrev cSetMiss : Nat := 19
abbrev cOwnerLost : Nat := 20
abbrev cUncorrectable : Nat := 21
abbrev cService : Nat := 22
abbrev cBadTable : Nat := 23
abbrev cPrivilege : Nat := 27
abbrev cDeclined : Nat := 30

/-- How an instruction goes on. -/
inductive Next where
  | seq
  | jump (pc : Word)
  | leave (p : Pend) (cause : Nat)
  | stay
  deriving DecidableEq, Repr

/-- Words of word 0 and its extension (R163). -/
def guardWords : Guard → Nat
  | .always => 1
  | .pred _ _ => 3

/-- Bytes of a form without a literal (R163). -/
def formLen (g : Guard) : Nat := 4 * guardWords g

/-- Bytes of a form whose operand may be a literal (R163). -/
def opLen {n : Nat} (g : Guard) (o : Opnd n) : Nat :=
  match o with
  | .field _ => 4 * guardWords g
  | .lit _ => 4 * guardWords g + 8

/-- Whether a guard holds (R168): GPRED 0 with GSENSE 0 means always. -/
def Slot.guardHolds (sl : Slot) : Guard → Bool
  | .always => true
  | .pred sense p => if p = 0 ∧ sense = false then true else sl.p p != sense

/-- The issue counted once for each instruction (R116, R154, R288). -/
def Slot.count (sl : Slot) : Slot :=
  { sl with issues := if sl.counted then sl.issues else sl.issues + 1, counted := false }

/-- The waiters of a cell without a slot (R162). -/
def Cell.leaveQueues (c : Cell) (k : Nat) : Cell :=
  { c with queueWait := c.queueWait.filter fun e => e.2.2 ≠ k }

/-- Whether an instruction that left this way goes on reading (log 8). -/
def Next.again : Next → Bool
  | .leave .latch _ => true
  | .leave (.refill _) _ => true
  | .leave (.room _) _ => true
  | _ => false

/-- Whether an instruction that left this way has not completed: its reply may still trap or have it issue again, or the write
of its result may trap, so that the stream elements that it has read stay in their buffers until it completes (R8, R142). -/
def Next.unsettled : Next → Bool
  | .leave (.write ..) _ => true
  | .leave (.fwrite ..) _ => true
  | .leave (.word ..) _ => true
  | .leave (.bar ..) _ => true
  | .leave (.fix ..) _ => true
  | .leave (.txwd ..) _ => true
  | .leave (.load ..) _ => true
  | .leave (.gather ..) _ => true
  | .leave (.through ..) _ => true
  | .leave (.fill ..) _ => true
  | .leave (.atom ..) _ => true
  | .leave .plain _ => true
  | n => n.again

/-- Elements of a read stream that an instruction has taken, from what it was before. -/
def Stream.taken (old new : Stream) : Nat := (new.pos - old.pos) + (if new.done ∧ !old.done then 1 else 0)

/-! ### Stream descriptors (R231) -/

def Stream.count0 (x : Stream) : Nat := slice x.dw4 31 0
def Stream.count1 (x : Stream) : Nat := slice x.dw4 63 32
def Stream.count2 (x : Stream) : Nat := slice x.dw5 63 32
/-- T: elements of the stream. -/
def Stream.total (x : Stream) : Nat := x.count0 * x.count1 * x.count2
/-- The stream without its oldest element, whether it is buffered or was discarded with the buffer (R144); a read of an
exhausted one sets its done bit (R142). -/
def Stream.take (x : Stream) : Stream :=
  match x.buf with
  | [] => if x.total ≤ x.pos then { x with done := true } else { x with pos := x.pos + 1 }
  | _ :: t => { x with buf := t, pos := x.pos + 1 }

/-- The slot with the elements that its pending instruction has read taken from their streams. -/
def Slot.settle (sl : Slot) : Slot :=
  sl.pops.foldl (fun sl n =>
    let i : Fin 8 := ⟨n % 8, Nat.mod_lt _ (by decide)⟩
    sl.setStream i sl.streams[i].take) { sl with pops := [] }

/-- The slot that has left the rotation with what it read of its read streams still in them; `old` is the slot before the
instruction. -/
def Slot.unsettle (sl old : Slot) (again : Bool) : Slot :=
  (List.finRange 8).foldl (fun sl i =>
    let n := Stream.taken old.streams[i] sl.streams[i]
    if old.streams[i].mapped ∧ !bitOf old.streams[i].dw5 8 ∧ n ≠ 0 then
      let sl := sl.setStream i old.streams[i]
      if again then sl else { sl with pops := sl.pops ++ List.replicate n i.val }
    else sl) { sl with pops := [] }

/-- The slot after an instruction of `len` bytes at its pc goes on as `n` says. -/
def Slot.goOn (sl : Slot) (len : Nat) : Next → Slot
  | .seq => { sl.endCheck sl.pc (sl.pc + BitVec.ofNat 64 len) with run := .run, carry := [] }
  | .jump pc => { sl with run := .run, pc := pc, carry := [] }
  | .leave p cause => { sl with run := .wait cause, pend := p, ilen := len }
  | .stay => sl

/-- The state after an instruction has done its own effect. -/
def State.retire (s : State) (len : Nat) (n : Next) : State :=
  let s := if (s.cell (cellOf s.cur)).queueWait.any fun e => e.2.2 = s.cur
    then s.modCell (cellOf s.cur) fun c => c.leaveQueues s.cur else s
  s.modSlot s.cur fun sl =>
    ({ sl with faultWait := none, walkPoison := none, latch := if n.again then sl.latch else [] }.count).goOn len n

/-- The slot waits on an issue condition, and its turn is idle; a waiter keeps its place in its queue (R146, R162,
R328).  An instruction that goes on after it has issued takes no turn (log 8). -/
def State.hold (s : State) (cause : Nat) (on : List (Bool × Nat)) : State :=
  let went := (s.slot s.cur).counted
  let s := (s.modSlot s.cur fun sl => { sl with run := .wait cause }).modCore (coreOf s.cur) fun c =>
    if went then c else c.stall cause
  on.foldl (fun (s : State) (e : Bool × Nat) => s.modCell (cellOf s.cur) fun c =>
    if c.queueWait.contains (e.1, e.2, s.cur) then c else { c with queueWait := c.queueWait ++ [(e.1, e.2, s.cur)] }) s

/-- The slot blocks on a translation, with what it is to do then (R147, R333, R335). -/
def State.blockOn (s : State) (p : Pend) (page kind : Nat) (va : Word) : State :=
  let sl := s.slot s.cur
  let s := s.modSlot s.cur fun sl =>
    { sl with run := .wait wMem, pend := p, faultWait := some ⟨sl.ctx, page, kind, kind == 1, va, false, false⟩ }
  s.ask sl.ctx page ⟨.slot s.cur sl.gen.toNat, kind, kind == 1, coreOf s.cur⟩

/-- The slot blocks on a page fault that its access itself raises (R38, R44, R355). -/
def State.faultOn (s : State) (p : Pend) (f : PageFault) (va : Word) : State :=
  let sl := s.slot s.cur
  let s := s.modSlot s.cur fun sl =>
    { sl with pend := p, faultWait := some ⟨f.ctx, f.page, f.kind, f.kind == 1, va, true, false⟩ }
  s.postFault (clusterOf (cellOf s.cur)) f ⟨.slot s.cur sl.gen.toNat, f.kind, f.kind == 1, coreOf s.cur⟩

/-- The slot is held while a walker updates a leaf's FIX field (R332). -/
def State.holdForFix (s : State) (p : Pend) (l : Leaf) (va : Word) : State :=
  let sl := s.slot s.cur
  let cl := clusterOf (cellOf s.cur)
  let s := s.modSlot s.cur fun sl =>
    { sl with run := .wait wMem, pend := p, faultWait := some ⟨l.ctx, l.vbase / 65536, 1, true, va, false, false⟩ }
  s.send clsOwn cl cl (msg (.fixFieldUpdate cl l (.slot s.cur sl.gen.toNat)))

/-- The issue of the current instruction is counted. -/
def State.countIssue (s : State) : State := (s.modSlot s.cur Slot.count).modCell (cellOf s.cur) fun c => c.leaveQueues s.cur

/-- The issue is counted now, and not once more when the instruction is retried (log 8). -/
def State.countRetry (s : State) : State := s.countIssue.modSlot s.cur fun sl => { sl with counted := true }

/-- What a stop leaves: nothing of the instruction but what R8 and R146 say. -/
def State.stopped (s : State) : Stop → Host.Outcome State Fault Refusal
  | .trap c v => .next (s.countIssue.trapEntry s.cur c v)
  | .wait c on => .next (s.hold c on)
  | .miss page kind va => .next (s.countRetry.blockOn .retry page kind va)
  | .fault f va => .next (s.countRetry.faultOn .retry f va)
  | .fixField l va => .next (s.countRetry.holdForFix .retry l va)
  | .declined => .next (s.countIssue.declineSlot s.cur)
  | .remote _ _ => .next (s.hold wMem [])

/-- An instruction that had left the rotation completes by an action; if that must wait, `p` stays
pending (R146). -/
def State.complete (s : State) (k : Nat) (p : Pend) (body : Act Unit) : Host.Outcome State Fault Refusal :=
  let s := { s with cur := k }
  match body s with
  | .ok (_, s') => .next (s'.modSlot k fun sl => { sl.settle with pend := .none, faultWait := none }.goOn sl.ilen .seq)
  | .error (.trap c v) => .next (s.trapEntry k c v)
  | .error (.wait _ _) => .next ((s.modSlot k fun sl => { sl with pend := p }).after 1 (.memoryReplyArrival k .done) 0)
  | .error (.miss page kind va) => .next (s.blockOn p page kind va)
  | .error (.fault f va) => .next (s.faultOn p f va)
  | .error (.fixField l va) => .next (s.holdForFix p l va)
  | .error .declined => .next (s.declineSlot k)
  | .error (.remote _ _) => .next s

/-- Whether an instruction that left the rotation this way waits for a reply, so that a cell that has begun its cut holds
it (R352). -/
def Next.awaits : Next → Bool
  | .leave .none _ => false
  | .leave (.write ..) _ => false
  | .leave (.fwrite ..) _ => false
  | .leave (.bar ..) _ => false
  | .leave (.hold ..) _ => false
  | .leave _ _ => true
  | _ => false

/-- The state that an instruction has left, with what it read of read streams still there while it is unsettled. -/
def State.unsettle (s' s : State) (n : Next) : State :=
  if n.unsettled then s'.modSlot s.cur fun sl => sl.unsettle (s.slot s.cur) n.again else s'

/-- An issue: the guard, the instruction's own action, and how the slot goes on.  The guard of an instruction that has issued
and goes on held when it issued (R168). -/
def issue (g : Guard) (len : Nat) (body : Act Next) (s : State) : Host.Outcome State Fault Refusal :=
  if (s.slot s.cur).counted || (s.slot s.cur).guardHolds g then
    match body s with
    | .ok (n, s') =>
      if n.awaits && (s.cell (cellOf s.cur)).cutBegun then .next (s.hold wMem [])
      else .next ((s'.unsettle s n).retire len n)
    | .error x => s.stopped x
  else .next (s.retire len .seq)

/-- Whether slot k is before every other waiter on a semaphore (true) or tile (false) (R162). -/
def Cell.firstFor (c : Cell) (b : Bool) (n k : Nat) : Bool :=
  match c.queueWait.find? fun e => e.1 = b ∧ e.2.1 = n with
  | none => true
  | some e => e.2.2 == k

end Sys2Proof.Machine
end

