-- ==== Sys2Proof/Machine/Translate.lean ====
section
/-! DEFINITION. Page-table entries, the walk, view regions and their stored layout, and the fault
buffers (R26 to R44, R329 to R338). -/

namespace Sys2Proof.Machine

/-! ### Formats (R32) -/

/-- Bits of an element of a format: 8 for raw. -/
def fmtBits (f : Nat) : Nat :=
  match f with
  | 0 | 1 => 8
  | 2 => 16
  | 3 | 4 => 32
  | 5 => 4
  | 6 => 6
  | 7 => 8
  | 8 => 12
  | _ => 0

/-- Whether a format is BFXn. -/
def isBfx (f : Nat) : Bool := decide (5 ≤ f) && decide (f ≤ 8)

/-- Bytes of a BFX block: 4n (R42). -/
def blockBytes (f : Nat) : Nat := 4 * fmtBits f

/-! ### View regions (R35, R36, R38, R40, R43) -/

/-- Element bytes of an ECODE 0 to 2. -/
def ecodeBytes (e : Nat) : Nat := 2 ^ e

/-- Stored size of a region (R36). -/
def regionSize (ecode nr nc : Nat) : Nat :=
  match ecode with
  | 0 => nr * nc
  | 1 => nr * nc * 2
  | 2 => nr * nc * 4
  | 3 => nr * nc * 4 / 8
  | 4 => nr * nc * 6 / 8
  | 5 => nr * nc
  | _ => nr * nc * 12 / 8

/-- A region-table entry, if it is valid (R35, R36). -/
def decodeRegion (ix : Nat) (dw0 dw1 dw2 dw3 : Nat) : Option Region :=
  let w0 := BitVec.ofNat 64 dw0
  let ecode := slice w0 62 60
  let base := slice w0 50 16 * 65536
  let nr := dw1 % 2 ^ 32
  let nc := dw1 / 2 ^ 32 % 2 ^ 32
  let size := regionSize ecode nr nc
  if bitOf w0 63 ∧ ecode ≠ 7 ∧ slice w0 59 51 = 0 ∧ slice w0 15 0 = 0 ∧ dw2 = 0 ∧ dw3 = 0 ∧ nr ≠ 0 ∧ nc ≠ 0 ∧
      nr % 32 = 0 ∧ nc % 32 = 0 ∧ size ≤ 2 ^ 30 ∧ base + size ≤ 0x6000000000 ∧
      hbmDie base = hbmDie (base + size - 1) then
    some ⟨ix, ecode, base, nr, nc⟩
  else none

/-- The region-table entry in memory, if it is valid. -/
def State.storedRegion (s : State) (ix : Nat) : Option Region :=
  if ix = 0 then none else
  let a := localAddr s.part.vrtb.toNat + 32 * ix
  decodeRegion ix (s.physNat a 8) (s.physNat (a + 8) 8) (s.physNat (a + 16) 8) (s.physNat (a + 24) 8)

/-- The entry that an access uses: a view engine's cached copy, else the one in memory (R37). -/
def State.region (s : State) (ix : Nat) : Option Region :=
  match s.regions.find ix with
  | some r => some r
  | none => s.storedRegion ix

/-- The entry is cached once it has been used (R37). -/
def State.useRegion (s : State) (ix : Nat) : State :=
  match s.region ix with
  | some r => { s with regions := s.regions.set ix r }
  | none => s

/-- Element (i, j) at view index q (R38). -/
def viewElem (r : Region) (view q : Nat) : Nat × Nat :=
  match view with
  | 1 => (q % r.nr, q / r.nr)
  | 2 =>
    let t := q / 1024
    let e := q % 1024
    (t / (r.nc / 32) * 32 + e / 32, t % (r.nc / 32) * 32 + e % 32)
  | _ => (q / r.nc, q % r.nc)

/-- View index of element (i, j) (R38). -/
def elemView (r : Region) (view i j : Nat) : Nat :=
  match view with
  | 1 => j * r.nr + i
  | 2 => ((i / 32) * (r.nc / 32) + j / 32) * 1024 + (i % 32 * 32 + j % 32)
  | _ => i * r.nc + j

/-- Stored byte offset of element (i, j) of E bytes (R40). -/
def skewed (r : Region) (i j : Nat) : Nat :=
  let e := ecodeBytes r.ecode
  let blk := i / 16 * (r.nc / 16) + j / 16
  let lane := (i % 16 + j % 16) % 16
  blk * 256 * e + lane * 16 * e + i % 16 * e

/-- Local address of byte v of a view (R38, R40, R43). -/
def viewByte (r : Region) (view v : Nat) : Nat :=
  if 3 ≤ r.ecode then r.base + v
  else
    let e := ecodeBytes r.ecode
    let (i, j) := viewElem r view (v / e)
    r.base + skewed r i j + v % e

/-- One past the last view offset of a region (R38). -/
def viewSize (r : Region) : Nat := regionSize r.ecode r.nr r.nc

/-! ### Leaves (R30 to R32) -/

def lV (l : Leaf) : Bool := bitOf l.dw0 0
def lU (l : Leaf) : Bool := bitOf l.dw0 1
def lRd (l : Leaf) : Bool := bitOf l.dw0 2
def lW (l : Leaf) : Bool := bitOf l.dw0 3
def lX (l : Leaf) : Bool := bitOf l.dw0 4
def lWorld (l : Leaf) : Bool := bitOf l.dw0 10
def lTxn (l : Leaf) : Bool := bitOf l.dw0 11
def lFix (l : Leaf) : Nat := slice l.dw0 13 12
def lView (l : Leaf) : Nat := slice l.dw0 15 14
def lFmt (l : Leaf) : Nat := slice l.dw0 63 60
def lKey (l : Leaf) : Nat := slice l.dw1 63 52
def lRegion (l : Leaf) : Nat := slice l.dw1 51 40
def lGeom (l : Leaf) : Bool := bitOf l.dw1 39
/-- Physical address of a plain page's frame, part number included. -/
def lFrame (l : Leaf) : Nat := slice l.dw0 59 16 * 65536
/-- Local address of the scale array. -/
def lScale (l : Leaf) : Nat := slice l.dw1 38 0 * 4096

/-- Whether every address of a range of n bytes names memory of one kind (R26, R27). -/
def rangeHolds (a n : Nat) : Bool :=
  match placeOf a, placeOf (a + n - 1) with
  | .hbm, .hbm => true
  | .vault _, .vault _ => true
  | .tile _, .tile _ => true
  | .device _, .device _ => true
  | _, _ => false

/-- Whether a region's ECODE agrees with a page's FMT (R36). -/
def fmtAgrees (ecode fmt : Nat) : Bool :=
  match fmt with
  | 0 => decide (ecode ≤ 2)
  | 1 => ecode == 0
  | 2 => ecode == 1
  | 3 | 4 => ecode == 2
  | f => ecode == f - 2

/-- The region that a leaf names, if its entry is valid now and agrees with the leaf's FMT (R32, R36): an entry that has changed
since the walk is judged at each access. -/
def State.leafRegion (s : State) (l : Leaf) : Option Region := (s.region (lRegion l)).filter fun r => fmtAgrees r.ecode (lFmt l)

/-- Whether a leaf is malformed (R27, R32, R292). -/
def State.malformedLeaf (s : State) (l : Leaf) : Bool :=
  let frame := lFrame l
  decide (8 < lFmt l) || lView l == 3 || lFix l == 3 || slice l.dw0 7 5 != 0 ||
  frame % leafBytes l != 0 ||
  (if lRegion l = 0 then
    lView l != 0 || (isBfx (lFmt l) && lGeom l) || !rangeHolds (localAddr frame) (leafBytes l) ||
    (match placeOf (localAddr frame) with
      | .device _ => lU l || lFmt l != 0
      | _ => false)
   else
    slice l.dw0 59 30 != 0 || (s.leafRegion l).isNone) ||
  (isBfx (lFmt l) && lView l != 0)

/-! ### The walk (R329 to R331) -/

/-- Whether a local address lies in a secure range (R373). -/
def State.inSecureRange (s : State) (a : Nat) : Bool :=
  s.part.ranges.toList.any fun r =>
    decide (slice r.1 50 16 * 65536 ≤ a) && decide (a < slice r.2 50 16 * 65536)

/-- The end of a walk. -/
inductive Walked where
  | leaf (l : Leaf)
  | fault (level : Nat) (malformed : Bool)
  | poison (a : Nat)
  deriving DecidableEq, Repr

/-- Index and reach (bytes of VA below the index) at a level (R329). -/
def walkIndex (level page : Nat) : Nat :=
  match level with
  | 0 => page / 2 ^ 32 % 256
  | 1 => page / 2 ^ 23 % 512
  | 2 => page / 2 ^ 14 % 512
  | 3 => page / 2 ^ 5 % 512
  | _ => page % 32

/-- SIZE field of a leaf at a level; 3 where none is allowed. -/
def leafSizeAt (level : Nat) : Nat :=
  match level with
  | 2 => 2
  | 3 => 1
  | 4 => 0
  | _ => 3

/-- Reads one entry per level from `level` down; `fuel` counts the levels left. -/
def State.walkFrom (s : State) (ctx page : Nat) (secure : Bool) : Nat → Nat → Nat → Walked × State
  | 0, level, _ => (.fault level true, s)
  | fuel + 1, level, table =>
    let at_ := table + 16 * walkIndex level page
    if placeOf table ≠ .hbm then (.fault level true, s)
    else if !secure ∧ s.inSecureRange at_ then (.fault level true, s)
    else
      let s := s.l2Fetch 0 (at_ / 64)
      match s.homePoison (addrsFrom at_ 16) with
      | some a => (.poison a, s)
      | none =>
        let dw0 := BitVec.ofNat 64 (s.physNat at_ 8)
        let dw1 := BitVec.ofNat 64 (s.physNat (at_ + 8) 8)
        if !bitOf dw0 0 then (.fault level false, s)
        else if slice dw0 9 8 = 3 then
          if level = 4 ∨ slice dw0 63 60 ≠ 0 ∨ slice dw0 11 10 ≠ 0 ∨ slice dw0 7 1 ≠ 0 ∨ dw1 ≠ 0 then
            (.fault level true, s)
          else s.walkFrom ctx page secure fuel (level + 1) (localAddr (slice dw0 59 12 * 4096))
        else
          let l0 : Leaf := ⟨ctx, 0, dw0, dw1, at_⟩
          let l : Leaf := { l0 with vbase := page * 65536 / leafBytes l0 * leafBytes l0 }
          if slice dw0 9 8 ≠ leafSizeAt level ∨ s.malformedLeaf l then (.fault level true, s)
          else (.leaf l, s)

/-- The walk of a context's tree for a page (R329, R331). -/
def State.walk (s : State) (ctx page : Nat) : Walked × State :=
  s.walkFrom ctx page (s.part.secureCtxs.contains ctx) 5 0 (localAddr (slice (s.ctx ctx).root 59 12 * 4096))

/-- A soft error that a walk met is reported (R331, R349, R388). -/
def State.walkSoft (s : State) (cl a : Nat) : State :=
  s.report (cl / 64) 0xD cUncorrectable 0 0 (BitVec.ofNat 64 a) 0

/-- Set of a translation in a TLB of n sets: its page number, in pages of its own size, modulo n (log 13). -/
def leafSet (sets : Nat) (l : Leaf) : Nat := l.vbase / leafBytes l % sets

/-- Room for a translation in a TLB of some sets and ways: which entry of a full set leaves is open (R333, log 13). -/
def State.roomIn (s : State) (sets ways : Nat) (t : List Leaf) (l : Leaf) : List Leaf × State :=
  let mine := t.filter fun x => leafSet sets x == leafSet sets l
  if mine.length < ways then (t, s) else
    let (k, s) := s.freeNat
    (match mine[k % mine.length]? with
      | some v => t.erase v
      | none => t, s)

/-- Installs a translation in a core's data or instruction TLB (R333). -/
def State.installL1 (s : State) (core : Nat) (fetch : Bool) (l : Leaf) : State :=
  let c := s.core core
  if fetch then
    let (t, s) := s.roomIn 1 256 (c.itlb.filter fun x => !(x.ctx == l.ctx && x.vbase == l.vbase)) l
    s.modCore core fun c => { c with itlb := t ++ [l] }
  else
    let (t, s) := s.roomIn 128 8 (c.dtlb.filter fun x => !(x.ctx == l.ctx && x.vbase == l.vbase)) l
    s.modCore core fun c => { c with dtlb := t ++ [l] }

/-- Installs a translation in a cluster's second-level TLB (R333). -/
def State.installL2 (s : State) (cl : Nat) (l : Leaf) : State :=
  let (t, s) := s.roomIn 1024 8 ((s.cluster cl).stlb.filter fun x => !(x.ctx == l.ctx && x.vbase == l.vbase)) l
  s.modCluster cl fun c => { c with stlb := t ++ [l] }

/-! ### Agents that wait for a translation -/

/-- An agent whose translation has come, or that must retry, goes on (R333, R337). -/
def State.wake (s : State) (who : Agent) : State :=
  match who with
  | .slot k gen =>
    if (s.slot k).gen.toNat = gen ∧ (s.slot k).faultWait.isSome then
      match (s.slot k).pend with
      | .retry => s.modSlot k fun sl =>
        { sl with run := .run, pend := .none, faultWait := none
                  latch := if sl.faultWait.any fun w => w.faulted then [] else sl.latch }
      | _ =>
        (s.modSlot k fun sl => { sl with run := .wait wMem, faultWait := none }).thenDo
          (.memoryReplyArrival k .done) 0
    else s
  | .engine c e k gen => s.modCommand c e k gen fun r => { r with wait := none }
  | .stream k gen r => match streamIx r with
    | some i =>
      if (s.slot k).gen.toNat = gen then
        s.modSlot k fun sl => sl.setStream i { sl.streams[i] with blocked := false, faulted := false, dropped := false }
      else s
    | none => s

/-- The next element of a blocked stream is marked (R142, R331, R339). -/
def State.markStream (s : State) (k gen : Nat) (r : Reg) (e : SElem) : State :=
  match streamIx r with
  | some i =>
    if (s.slot k).gen.toNat = gen ∧ (s.slot k).streams[i].blocked then
      s.modSlot k fun sl => sl.setStream i { sl.streams[i] with blocked := false, faulted := false, dropped := false, buf := sl.streams[i].buf ++ [e] }
    else s
  | none => s

/-- A declined fault reaches its agent (R339). -/
def State.declineAgent (s : State) (who : Agent) : State :=
  match who with
  | .slot k gen =>
    if (s.slot k).gen.toNat = gen ∧ (s.slot k).faultWait.isSome then
      (s.modSlot k fun sl => { sl with faultWait := none }).declineSlot k
    else s
  | .engine c e k gen => s.modCommand c e k gen fun r => { r with wait := none, declined := true }
  | .stream k gen r => s.markStream k gen r .declined

/-- A walk that met poison reaches its agent (R331). -/
def State.poisonAgent (s : State) (who : Agent) (a : Nat) : State :=
  let w := BitVec.ofNat 64 a
  match who with
  | .slot k gen =>
    if (s.slot k).gen.toNat = gen ∧ (s.slot k).faultWait.isSome then
      match (s.slot k).pend with
      | .retry => s.modSlot k fun sl =>
        { sl with run := .run, pend := .none, faultWait := none, walkPoison := some w }
      | _ => s.trapEntry k cUncorrectable w
    else s
  | .engine c e k gen => s.modCommand c e k gen fun r => { r with wait := none, walkPoison := some w }
  | .stream k gen r => s.markStream k gen r (.mark cUncorrectable w)

/-- The walk is asked again: a retry from the walk (R337, R338). -/
def State.retryAgent (s : State) (who : Agent) : State := s.wake who

end Sys2Proof.Machine
end

