-- ==== Sys2Proof/Machine/Cache.lean ====
section
/-! DEFINITION. The L1 data cache of a cell: lines and words, room, copy-backs, registrations, stores,
read budgets, regions, and the states of acquire and release (R76 to R78, R87 to R92, R226). -/

namespace Sys2Proof.Machine

/-- A line of a cell's L1. -/
def State.l1 (s : State) (c l : Nat) : Option L1Line := (s.cell c).l1.find l

/-- Puts a line into a cell's L1. -/
def State.setL1 (s : State) (c l : Nat) (x : L1Line) : State := s.modCell c fun cl => { cl with l1 := cl.l1.set l x }

/-- Removes a line from a cell's L1. -/
def State.dropL1 (s : State) (c l : Nat) : State := s.modCell c fun cl => { cl with l1 := cl.l1.del l }

/-- Whether a word has a registration-queue entry. -/
def Cell.inRegq (c : Cell) (l i : Nat) : Bool := c.regq.any fun e => e.line = l ∧ e.word = i

/-- Words of a line with a registration-queue entry. -/
def Cell.regMask (c : Cell) (l : Nat) : BitVec 16 :=
  (c.regq.filter fun e => e.line = l).foldl (fun m e => m ||| BitVec.ofNat 16 (2 ^ e.word)) 0

/-- Whether a line is never chosen for replacement: a pending registration or an unacknowledged
copy-back (R77). -/
def Cell.pinned (c : Cell) (l : Nat) (x : L1Line) : Bool :=
  x.evicting || x.copying != 0 || c.regq.any fun e => e.line = l

/-- Whether every word that the addresses touch is valid in L1. -/
def State.l1Valid (s : State) (c : Nat) (as : List Nat) : Bool :=
  as.all fun a => match s.l1 c (a / 64) with
    | some x => x.v.getLsbD (wordIx a)
    | none => false

/-- Whether a word that the addresses touch is dirty in L1. -/
def State.l1Dirty (s : State) (c : Nat) (as : List Nat) : Bool :=
  as.any fun a => match s.l1 c (a / 64) with
    | some x => x.d.getLsbD (wordIx a)
    | none => false

/-- The bytes that L1 holds at the addresses. -/
def State.l1Bytes (s : State) (c : Nat) (as : List Nat) : List Byte :=
  as.map fun a => match s.l1 c (a / 64) with
    | some x => lineByte x.data a
    | none => 0

/-- The first poisoned word that the addresses touch in L1. -/
def State.l1Poison (s : State) (c : Nat) (as : List Nat) : Option Nat :=
  (as.find? fun a => match s.l1 c (a / 64) with
    | some x => x.poison.getLsbD (wordIx a)
    | none => false).map fun a => a / 8 * 8

/-- A load counts one read of each line that it touches; the read that fills the budget clears every V
of the line while no word is dirty or owned (R92). -/
def State.l1Read (s : State) (c : Nat) (as : List Nat) : State :=
  (linesOf as).foldl (fun s l => match s.l1 c l with
    | none => s
    | some x =>
      let x := { x with reads := x.reads + 1, used := s.cycle }
      if x.budget ≠ 0 ∧ x.reads = x.budget ∧ x.d = 0 ∧ x.o = 0 then s.dropL1 c l else s.setL1 c l x) s

/-- A fill on its way of a line does not write the words of a mask. -/
def FillReq.without (l : Nat) (m : BitVec 16) (f : FillReq) : FillReq := if f.line = l then { f with stale := f.stale ||| m } else f

/-- Starts a copy-back of the words of a mask; `nodata` names words without data (R80, R81).  A fill on its way, which may
have read the words at home before, does not write them (R298, R300, log 74). -/
def State.copyBackOf (s : State) (c l : Nat) (m nodata : BitVec 16) : State :=
  match s.l1 c l with
  | none =>
    s.send clsMemReq c (homeSlice (64 * l)) (msg (.copyBack c l 0 nodata (Vector.replicate 16 0) 0 0 (s.cell c).fixNo))
  | some x =>
    ((s.setL1 c l { x with d := x.d &&& ~~~m, copying := x.copying ||| m }).modCell c fun cl =>
      { cl with fills := cl.fills.map (FillReq.without l m) }).send clsMemReq c (homeSlice (64 * l))
      (msg (.copyBack c l m nodata x.data (x.poison &&& m) x.key (s.cell c).fixNo))

/-- Words of a line that may be copied back now: dirty, owned, and no registration on its way. -/
def State.copyable (s : State) (c l : Nat) : BitVec 16 :=
  match s.l1 c l with
  | none => 0
  | some x => x.d &&& x.o &&& ~~~((s.cell c).regMask l)

/-- The ways that pseudo-LRU may choose from: not the one that was used last, if there is another (R77, log 11). -/
def lruWays (ways free : List (Nat × L1Line)) : List (Nat × L1Line) :=
  let last := ways.foldl (fun m e => max m e.2.used) 0
  match free.filter fun e => e.2.used ≠ last with
  | [] => free
  | older => older

/-- Room for a line in its set of eight ways (line modulo 128, log 11): true when it can go in now.  A clean victim leaves at
once; a dirty one is copied back and held until the acknowledgement, and until then no other dirty one of the set is (R77,
R90). -/
def State.l1Room (s : State) (c l : Nat) : Bool × State :=
  let cell := s.cell c
  let ways := cell.l1.filter fun e => e.1 % 128 = l % 128
  if (s.l1 c l).isSome ∨ ways.length < 8 then (true, s)
  else
    let free := lruWays ways (ways.filter fun e => !cell.pinned e.1 e.2)
    let (n, s) := s.freeNat
    match free[n % free.length]? with
    | none => (false, s)
    | some (v, x) =>
      if x.d = 0 then (true, s.dropL1 c v)
      else if ways.any fun e => e.2.evicting then (false, s)
      else (false, (s.setL1 c v { x with evicting := true }).copyBackOf c v (s.copyable c v) 0)

/-- Whether a set has a way that can be used or freed (R77). -/
def State.l1Usable (s : State) (c l : Nat) : Bool :=
  let cell := s.cell c
  let ways := cell.l1.filter fun e => e.1 % 128 = l % 128
  (s.l1 c l).isSome || decide (ways.length < 8) || ways.any fun e => !cell.pinned e.1 e.2

/-- A line with nothing valid. -/
def L1Line.blank (va : Nat) (vas : List Nat) (ctx key t : Nat) : L1Line :=
  { data := Vector.replicate 16 0, v := 0, d := 0, o := 0, poison := 0, copying := 0, evicting := false
    va := va, vas := vas, ctx := ctx, budget := 0, reads := 0, used := t, key := key }

/-- Words of a mask of a line that a store must register (R78). -/
def State.toRegister (s : State) (c l : Nat) (m : BitVec 16) : BitVec 16 :=
  let o := match s.l1 c l with
    | some x => x.o &&& (~~~x.v ||| x.d)
    | none => 0
  m &&& ~~~((s.cell c).regMask l) &&& ~~~o

/-- Number of set bits of a mask. -/
def popMask (m : BitVec 16) : Nat := ((List.range 16).filter fun i => m.getLsbD i).length

/-- Sends a registration and takes its queue entries (R76, R78). -/
def State.register (s : State) (c l : Nat) (m : BitVec 16) : State :=
  if m = 0 then s else
  (s.modCell c fun x => { x with regq := x.regq ++
    ((List.range 16).filter fun i => m.getLsbD i).map fun i => ⟨l, i, true⟩ }).send
    clsMemReq c (homeSlice (64 * l)) (msg (.registration c l m))

/-- Writes bytes of one line in L1, sets V and D of their words, and ends the line's read budget
(R78, R92).  The line is present. -/
def State.l1Put (s : State) (c l : Nat) (bs : List (Nat × Byte)) : State :=
  match s.l1 c l with
  | none => s
  | some x =>
    let m := maskOf l (bs.map (·.1))
    let data := bs.foldl (fun d e => if e.1 / 64 = l then setLineByte d e.1 e.2 else d) x.data
    s.setL1 c l { x with data := data, v := x.v ||| m, d := x.d ||| m, poison := x.poison &&& ~~~(wholeMask l (bs.map (·.1)))
                         budget := 0, used := s.cycle }

/-- Deletes the registration-queue entries of the words of a mask. -/
def State.unqueue (s : State) (c l : Nat) (m : BitVec 16) : State :=
  s.modCell c fun x => { x with regq := x.regq.filter fun e => !(decide (e.line = l) && m.getLsbD e.word) }

/-- Fills on their way do not write the words that the addresses touch (R300, log 74). -/
def State.l1Stale (s : State) (c : Nat) (as : List Nat) : State :=
  s.modCell c fun cl => { cl with fills := cl.fills.map fun f => f.without f.line (maskOf f.line as) }

/-- What the words of a write-through stand at in L1 once it has left: D 0, and O 0 too for a bypass (R91); their value
follows at its reply (R298). -/
def State.l1Through (s : State) (c : Nat) (bypass : Bool) (as : List Nat) : State :=
  (linesOf as).foldl (fun s l =>
    let m := maskOf l as
    let s := s.unqueue c l m
    match s.l1 c l with
    | none => s
    | some x => s.setL1 c l { x with d := x.d &&& ~~~m, o := if bypass then x.o &&& ~~~m else x.o, budget := 0 }) (s.l1Stale c as)

/-- Clean words that the addresses touch leave L1, and fills on their way do not bring them: what the home holds is newer. -/
def State.l1Unsure (s : State) (c : Nat) (as : List Nat) : State :=
  (linesOf as).foldl (fun s l => match s.l1 c l with
    | none => s
    | some x => s.setL1 c l { x with v := x.v &&& ~~~(maskOf l as &&& ~~~x.d &&& ~~~x.o) }) (s.l1Stale c as)

/-- A write-through performed for its cell, at its reply: the words that L1 holds take its bytes, but for those that the cell
has stored to since (R91, R298). -/
def State.l1Performed (s : State) (c : Nat) (bs : List (Nat × Byte)) : State :=
  let as := bs.map (·.1)
  (linesOf as).foldl (fun s l => match s.l1 c l with
    | none => s
    | some x =>
      let keep (a : Nat) : Bool := x.d.getLsbD (wordIx a)
      s.setL1 c l { x with
        data := bs.foldl (fun d e => if e.1 / 64 = l && !keep e.1 then setLineByte d e.1 e.2 else d) x.data
        poison := x.poison &&& ~~~(wholeMask l as &&& ~~~x.d) }) (s.l1Stale c as)

/-- A write-through of an engine or a ring leaves the values and V of its cell's L1 words; those that the cell has registered
are not dirty or owned any more, since it ends their registration, and their queue entries go (R84, R91, R306; DEDUCED, log
90). -/
def State.l1Settle (s : State) (c : Nat) (as : List Nat) : State :=
  (linesOf as).foldl (fun s l =>
    let m := maskOf l as
    let s := s.unqueue c l m
    match s.l1 c l with
    | none => s
    | some x => (s.setL1 c l { x with d := x.d &&& ~~~m, o := x.o &&& ~~~m }).modCell c fun cl =>
        { cl with fills := cl.fills.map (FillReq.without l (m &&& x.d)) }) s

/-- Clears V, D and O of words, with their registration-queue entries (R82, R224). -/
def State.l1Forget (s : State) (c l : Nat) (m : BitVec 16) : State :=
  let s := s.unqueue c l m
  match s.l1 c l with
  | none => s
  | some x => s.setL1 c l { x with v := x.v &&& ~~~m, d := x.d &&& ~~~m, o := x.o &&& ~~~m }

/-! ### Regions (R226) -/

/-- Words of a line, filled under a context and virtual addresses, in a region: all of them, or those with a byte in
[lo, hi) of the context. -/
def regionWords (all : Bool) (lo hi ctx : Nat) (lineCtx va : Nat) (vas : List Nat) : BitVec 16 :=
  if all then ~~~0
  else if lineCtx ≠ ctx then 0
  else (List.range 64).foldl (fun m b =>
    let v := (vas[b]?).getD (va + b)
    if lo ≤ v ∧ v < hi then m ||| BitVec.ofNat 16 (2 ^ (b / 4)) else m) 0

/-- Words of a line of L1 in a region. -/
def regionMask (all : Bool) (lo hi ctx : Nat) (x : L1Line) : BitVec 16 := regionWords all lo hi ctx x.ctx x.va x.vas

/-- `invr` in the data cache: V cleared where D and O are 0 (R89). -/
def Cell.invr (c : Cell) (all : Bool) (lo hi ctx : Nat) : Cell :=
  { c with l1 := c.l1.map fun e =>
      (e.1, { e.2 with v := e.2.v &&& ~~~(regionMask all lo hi ctx e.2 &&& ~~~e.2.d &&& ~~~e.2.o) }) }

/-- Step 2 of an acquire: V cleared where V is 1 and O is 0; dirty words are kept (R87, R111).  A fill on its way that was
read before brings no word of the region (R302, log 74). -/
def Cell.acquire (c : Cell) (all : Bool) (lo hi ctx : Nat) (keepDirty : Bool) : Cell :=
  { c with
    l1 := c.l1.map fun e =>
      let m := regionMask all lo hi ctx e.2 &&& ~~~e.2.o &&& (if keepDirty then ~~~e.2.d else ~~~0)
      (e.1, { e.2 with v := e.2.v &&& ~~~m })
    fills := c.fills.map fun f => { f with stale := f.stale ||| regionWords all lo hi ctx f.ctx f.va f.vas } }

/-- Whether an acquire may take its second step: no registration is unacknowledged, and no word of the
region stands at V 1 D 0 O 1 (R87). -/
def Cell.acqReady (c : Cell) (o : OrderOp) : Bool :=
  c.regq.isEmpty && c.l1.all fun e =>
    (e.2.v &&& ~~~e.2.d &&& e.2.o &&& regionMask o.all o.lo o.hi o.ctx e.2) == 0

/-- Masks of lines without the empty ones. -/
def someWords (ms : List (Nat × BitVec 16)) : List (Nat × BitVec 16) := ms.filter fun e => e.2 != 0

/-- What a release finds when it looks at the cache: the dirty words of its region, and those whose copy-back is on its
way (R88). -/
def Cell.relBegin (c : Cell) (o : OrderOp) : OrderOp :=
  let part (f : L1Line → BitVec 16) := someWords (c.l1.map fun e => (e.1, f e.2 &&& regionMask o.all o.lo o.hi o.ctx e.2))
  { o with relSent := true, todo := part fun x => x.d, wait := part fun x => x.copying &&& ~~~x.d }

/-- A release goes on: the words that may go now are copied back, and those that other copy-backs have taken are waited
for (R88). -/
def State.relSend (s : State) (c : Nat) (o : OrderOp) : State × OrderOp :=
  let now := someWords (o.todo.map fun e => (e.1, e.2 &&& s.copyable c e.1))
  let left := someWords (o.todo.map fun e => (e.1, e.2 &&& (match s.l1 c e.1 with | some x => x.d | none => 0) &&& ~~~(s.copyable c e.1)))
  let s := now.foldl (fun s e => s.copyBackOf c e.1 e.2 0) s
  let open_ := (someWords ((o.wait ++ o.todo).map fun e =>
    (e.1, e.2 &&& (match s.l1 c e.1 with | some x => x.copying | none => 0)))).dedup
  (s, { o with todo := left, wait := open_ })

/-- Whether a release is complete: every copy-back that it sent, and every registration of the cell, has been acknowledged
(R88). -/
def Cell.relReady (c : Cell) (o : OrderOp) : Bool := c.regq.isEmpty && o.relSent && o.todo.isEmpty && o.wait.isEmpty

end Sys2Proof.Machine
end

