-- ==== Sys2Proof/Machine/Float.lean ====
section
/-! DEFINITION. Number formats and exact arithmetic: FP32 and BF16 with one rounding, conversions, BFX
elements and quantisation, and the counter-based generator (R47 to R60, R68). -/

namespace Sys2Proof.Machine

/-! ### Exact values -/

/-- The exact dyadic n · 2^e. -/
structure Dy where
  n : Int
  e : Int
  deriving DecidableEq, Repr

def Dy.add (a b : Dy) : Dy :=
  if a.e ≤ b.e then ⟨a.n + b.n * 2 ^ (b.e - a.e).toNat, a.e⟩ else ⟨a.n * 2 ^ (a.e - b.e).toNat + b.n, b.e⟩
def Dy.mul (a b : Dy) : Dy := ⟨a.n * b.n, a.e + b.e⟩
def Dy.neg (a : Dy) : Dy := ⟨-a.n, a.e⟩
def Dy.sub (a b : Dy) : Dy := a.add b.neg
/-- Whether a < b. -/
def Dy.lt (a b : Dy) : Bool := decide ((a.sub b).n < 0)
/-- Numerator and denominator of |a|. -/
def Dy.frac (a : Dy) : Nat × Nat :=
  if 0 ≤ a.e then (a.n.natAbs * 2 ^ a.e.toNat, 1) else (a.n.natAbs, 2 ^ (-a.e).toNat)

/-- ⌊log2 (n / d)⌋ for n, d > 0. -/
def floorLog (n d : Nat) : Int :=
  let k : Int := (n.log2 : Int) - d.log2
  let big : Bool := if 0 ≤ k then decide (d * 2 ^ k.toNat ≤ n) else decide (d ≤ n * 2 ^ (-k).toNat)
  if big then k else k - 1

/-- ea(x) of R59. -/
def Dy.ea (a : Dy) : Int := floorLog a.n.natAbs 1 + a.e

/-! ### Formats and flags -/

/-- A binary format: precision in bits; both have 8 exponent bits and bias 127 (R47). -/
structure FpFmt where
  p : Nat
  deriving DecidableEq, Repr

def fp32 : FpFmt := ⟨24⟩
def bf16 : FpFmt := ⟨8⟩

/-- A floating-point datum: NaN (with whether it signals), infinity, or sign and exact magnitude. -/
inductive Fp where
  | nan (signalling : Bool)
  | inf (neg : Bool)
  | fin (neg : Bool) (m : Nat) (e : Int)
  deriving DecidableEq, Repr

/-- The datum of a pattern (R47). -/
def unpack (f : FpFmt) (x : Nat) : Fp :=
  let frac := x % 2 ^ (f.p - 1)
  let ex := x / 2 ^ (f.p - 1) % 256
  let neg := x.testBit (f.p + 7)
  if ex = 255 then
    if frac = 0 then .inf neg else .nan (!frac.testBit (f.p - 2))
  else if ex = 0 then .fin neg frac (-126 - (f.p - 1 : Nat))
  else .fin neg (frac + 2 ^ (f.p - 1)) ((ex : Int) - 127 - (f.p - 1 : Nat))

/-- Whether a pattern is subnormal. -/
def isSub (f : FpFmt) (x : Nat) : Bool := x / 2 ^ (f.p - 1) % 256 == 0 && x % 2 ^ (f.p - 1) != 0

def signBit (f : FpFmt) (neg : Bool) : Nat := if neg then 2 ^ (f.p + 7) else 0
/-- The canonical NaN of R48. -/
def canonNan (f : FpFmt) : Nat := 255 * 2 ^ (f.p - 1) + 2 ^ (f.p - 2)
def infPat (f : FpFmt) (neg : Bool) : Nat := signBit f neg + 255 * 2 ^ (f.p - 1)
def maxPat (f : FpFmt) (neg : Bool) : Nat := signBit f neg + 255 * 2 ^ (f.p - 1) - 1

/-- Sticky flags of FMODE (R50, R52). -/
abbrev fNV : Nat := 512
abbrev fDZ : Nat := 256
abbrev fOF : Nat := 128
abbrev fUF : Nat := 64
abbrev fNX : Nat := 32

/-- A result: pattern, flags to set, whether the rounded result is subnormal (R55). -/
structure FRes where
  bits : Nat
  flags : Nat
  sub : Bool
  deriving DecidableEq, Repr

def FRes.exact (b : Nat) : FRes := ⟨b, 0, false⟩

/-! ### Rounding (R53, R54) -/

/-- Whether a magnitude n / d between two neighbours goes to the upper one: `odd` is the lower
neighbour's last bit, `rem / den` the part above it. Modes: 0 nearest even, 1 zero, 2 up, 3 down. -/
def roundsUp (rm : Nat) (neg odd : Bool) (rem den : Nat) : Bool :=
  match rm with
  | 0 => decide (den < 2 * rem) || (decide (2 * rem = den) && odd)
  | 1 => false
  | 2 => decide (0 < rem) && !neg
  | _ => decide (0 < rem) && neg

/-- Rounds the magnitude n / d (n > 0) with a sign into a format (R52 to R54). -/
def roundMag (f : FpFmt) (rm : Nat) (ftz neg : Bool) (n d : Nat) : FRes :=
  let u : Int := max (floorLog n d) (-126) - (f.p - 1 : Nat)
  let (n', d') := if 0 ≤ u then (n, d * 2 ^ u.toNat) else (n * 2 ^ (-u).toNat, d)
  let q := n' / d'
  let rem := n' % d'
  let m := if roundsUp rm neg (q % 2 == 1) rem d' then q + 1 else q
  let inexact := rem != 0
  let s := signBit f neg
  -- biased exponent field plus fraction: m counts in units of 2^u
  let body : Int := if m < 2 ^ (f.p - 1) then m else (u + (f.p - 1 : Nat) + 126) * 2 ^ (f.p - 1) + m
  if body ≥ 255 * 2 ^ (f.p - 1) then
    let toInf := rm == 0 || (rm == 2 && !neg) || (rm == 3 && neg)
    ⟨if toInf then infPat f neg else maxPat f neg, fOF + fNX, false⟩
  else if m < 2 ^ (f.p - 1) ∧ ftz ∧ m ≠ 0 then ⟨s, fUF + fNX, false⟩
  else
    let tiny := decide (m < 2 ^ (f.p - 1))
    ⟨s + body.toNat, (if inexact then fNX else 0) + (if tiny && inexact then fUF else 0), tiny && m != 0⟩

/-- Rounds an exact dyadic; zero takes the given sign. -/
def roundDy (f : FpFmt) (rm : Nat) (ftz zeroNeg : Bool) (v : Dy) : FRes :=
  if v.n = 0 then .exact (signBit f zeroNeg)
  else let (n, d) := v.frac; roundMag f rm ftz (decide (v.n < 0)) n d

/-- An exact rational num / den rounded; zero is +0. -/
def roundQ (f : FpFmt) (rm : Nat) (ftz : Bool) (num : Int) (den : Nat) : FRes :=
  if num = 0 then .exact 0 else roundMag f rm ftz (decide (num < 0)) num.natAbs den

/-- The datum with FTZ applied to a subnormal input (R54). -/
def readFp (f : FpFmt) (ftz : Bool) (x : Nat) : Fp :=
  if ftz && isSub f x then .fin (x.testBit (f.p + 7)) 0 0 else unpack f x

/-- The signed exact value of a finite datum. -/
def finDy (neg : Bool) (m : Nat) (e : Int) : Dy := ⟨if neg then -(m : Int) else m, e⟩

/-! ### Arithmetic (R48, R52, R53) -/

def nvIf (b : Bool) : Nat := if b then fNV else 0
def isSig : Fp → Bool
  | .nan b => b
  | _ => false

/-- The sum of two data, rounded once (R53). -/
def fpAdd (f : FpFmt) (rm : Nat) (ftz : Bool) (x y : Fp) : FRes :=
  match x, y with
  | .nan a, z => ⟨canonNan f, nvIf (a || isSig z), false⟩
  | _, .nan b => ⟨canonNan f, nvIf b, false⟩
  | .inf a, .inf b => if a = b then .exact (infPat f a) else ⟨canonNan f, fNV, false⟩
  | .inf a, .fin .. => .exact (infPat f a)
  | .fin .., .inf b => .exact (infPat f b)
  | .fin a m d, .fin b n e =>
    let zeroNeg := if m = 0 ∧ n = 0 ∧ a = b then a else rm == 3
    roundDy f rm ftz zeroNeg ((finDy a m d).add (finDy b n e))

def negFp : Fp → Fp
  | .nan b => .nan b
  | .inf a => .inf (!a)
  | .fin a m e => .fin (!a) m e

/-- The exact product of two data, as a datum; with NV for 0 × ∞ (R52). -/
def fpProd (x y : Fp) : Fp × Bool :=
  match x, y with
  | .nan a, z => (.nan (a || isSig z), false)
  | _, .nan b => (.nan b, false)
  | .inf a, .inf b => (.inf (a != b), false)
  | .inf a, .fin b n _ => if n = 0 then (.nan false, true) else (.inf (a != b), false)
  | .fin a m _, .inf b => if m = 0 then (.nan false, true) else (.inf (a != b), false)
  | .fin a m d, .fin b n e => (.fin (a != b) (m * n) (d + e), false)

/-- The product rounded once. -/
def fpMul (f : FpFmt) (rm : Nat) (ftz : Bool) (x y : Fp) : FRes :=
  match fpProd x y with
  | (.nan b, nv) => ⟨canonNan f, nvIf (b || nv), false⟩
  | (.inf a, _) => .exact (infPat f a)
  | (.fin a m e, _) => roundDy f rm ftz a (finDy a m e)

/-- x · y + z rounded once. -/
def fpFma (f : FpFmt) (rm : Nat) (ftz : Bool) (x y z : Fp) : FRes :=
  let (p, nv) := fpProd x y
  let r := fpAdd f rm ftz p z
  if nv then ⟨canonNan f, fNV, false⟩
  else match p, z with
    | .nan b, z => ⟨canonNan f, nvIf (b || isSig z), false⟩
    | _, _ => r

/-- The quotient rounded once (R52, R53). -/
def fpDiv (f : FpFmt) (rm : Nat) (ftz : Bool) (x y : Fp) : FRes :=
  match x, y with
  | .nan a, z => ⟨canonNan f, nvIf (a || isSig z), false⟩
  | _, .nan b => ⟨canonNan f, nvIf b, false⟩
  | .inf _, .inf _ => ⟨canonNan f, fNV, false⟩
  | .inf a, .fin b _ _ => .exact (infPat f (a != b))
  | .fin a _ _, .inf b => .exact (signBit f (a != b))
  | .fin a m d, .fin b n e =>
    if n = 0 then if m = 0 then ⟨canonNan f, fNV, false⟩ else ⟨infPat f (a != b), fDZ, false⟩
    else if m = 0 then .exact (signBit f (a != b))
    else
      let k := d - e
      if 0 ≤ k then roundMag f rm ftz (a != b) (m * 2 ^ k.toNat) n
      else roundMag f rm ftz (a != b) m (n * 2 ^ (-k).toNat)

/-- ⌊√n⌋, found from bit `i` down. -/
def isqrtFrom (n : Nat) : Nat → Nat → Nat
  | 0, r => if (r + 1) * (r + 1) ≤ n then r + 1 else r
  | i + 1, r => isqrtFrom n i (if (r + 2 ^ (i + 1)) * (r + 2 ^ (i + 1)) ≤ n then r + 2 ^ (i + 1) else r)

/-- The square root rounded once: the integer root of the scaled value has over 30 bits, and half a
unit stands for an inexact rest. -/
def fpSqrt (f : FpFmt) (rm : Nat) (ftz : Bool) (x : Fp) : FRes :=
  match x with
  | .nan a => ⟨canonNan f, nvIf a, false⟩
  | .inf neg => if neg then ⟨canonNan f, fNV, false⟩ else .exact (infPat f false)
  | .fin neg m e =>
    if m = 0 then .exact (signBit f neg)
    else if neg then ⟨canonNan f, fNV, false⟩
    else
      let odd := (e % 2).toNat
      let n := m * 2 ^ (64 + odd)
      let k : Int := (e - odd) / 2 - 32
      let r := isqrtFrom n (n.log2 / 2) 0
      let n2 := if r * r = n then 2 * r else 2 * r + 1
      roundDy f rm ftz false ⟨n2, k - 1⟩

/-! ### Conversions (R56, R218) -/

/-- An exact integer rounded to a format. -/
def intToFp (f : FpFmt) (rm : Nat) (ftz : Bool) (v : Int) : FRes := roundDy f rm ftz false ⟨v, 0⟩

/-- A datum rounded to another format. -/
def fpToFp (f : FpFmt) (rm : Nat) (ftz : Bool) (x : Fp) : FRes :=
  match x with
  | .nan b => ⟨canonNan f, nvIf b, false⟩
  | .inf a => .exact (infPat f a)
  | .fin a m e => roundDy f rm ftz a (finDy a m e)

/-- A dyadic rounded to an integer under a mode, and whether it was inexact. -/
def roundInt (rm : Nat) (v : Dy) : Int × Bool :=
  let (n, d) := v.frac
  let neg := decide (v.n < 0)
  let q := n / d
  let m := if roundsUp rm neg (q % 2 == 1) (n % d) d then q + 1 else q
  (if neg then -(m : Int) else m, n % d != 0)

/-- A datum to a signed integer of n bits: value and flags (R56). -/
def fpToInt (n rm : Nat) (x : Fp) : Int × Nat :=
  let lo : Int := -(2 ^ (n - 1) : Nat)
  let hi : Int := (2 ^ (n - 1) : Nat) - 1
  match x with
  | .nan _ => (0, fNV)
  | .inf neg => (if neg then lo else hi, fNV)
  | .fin a m e =>
    let (v, inexact) := roundInt rm (finDy a m e)
    if v < lo then (lo, fNV) else if hi < v then (hi, fNV) else (v, if inexact then fNX else 0)

/-! ### Comparison (R199) -/

/-- The exact order of two data that are not NaN: −1, 0 or 1. -/
def fpCmp (x y : Fp) : Int :=
  let key : Fp → Int × Dy := fun v => match v with
    | .inf neg => (if neg then -1 else 1, ⟨0, 0⟩)
    | .fin a m e => (0, finDy a m e)
    | .nan _ => (0, ⟨0, 0⟩)
  let (a, u) := key x
  let (b, v) := key y
  if a ≠ b then (if a < b then -1 else 1)
  else if a ≠ 0 then 0
  else if u.lt v then -1 else if v.lt u then 1 else 0

def isNan : Fp → Bool
  | .nan _ => true
  | _ => false

/-! ### BFX elements (R57, R58) -/

/-- A block element from its n-bit code and its block's exponents (R57). -/
def bfxFp (n code e0 e1 : Nat) : Fp :=
  let m := n - 2
  let neg := code.testBit (n - 1)
  let e := if code.testBit (n - 2) then e1 else e0
  let mag := code % 2 ^ m
  if e = 255 then (if mag = 0 then .inf neg else .nan false)
  else .fin neg mag ((e : Int) - 127 - m)

/-- The FP32 pattern of a block element: exact, never flushed (R58). -/
def bfxToFp32 (n code e0 e1 : Nat) : Nat := (fpToFp fp32 0 false (bfxFp n code e0 e1)).bits

/-! ### The counter-based generator (R68) -/

def rotl32 (v c : Nat) : Nat := (v * 2 ^ c + v / 2 ^ (32 - c)) % 2 ^ 32

/-- One round on (x0, x1, x2, x3) with keys kA, kB. -/
def rngRound (x0 x1 x2 x3 ka kb : Nat) : Nat × Nat × Nat × Nat :=
  let a := x0 * 0x9A3F5B1D
  let b := x2 * 0xD4E17C2B
  (((b % 2 ^ 32).xor (rotl32 x3 7)).xor ka, (a / 2 ^ 32 + x2) % 2 ^ 32,
   ((a % 2 ^ 32).xor (rotl32 x1 19)).xor kb, (b / 2 ^ 32 + x0) % 2 ^ 32)

/-- Twelve rounds; `fuel` counts those left. -/
def rngFrom : Nat → Nat → Nat → Nat → Nat × Nat × Nat × Nat → Nat × Nat × Nat × Nat
  | 0, _, _, _, x => x
  | fuel + 1, r, k0, k1, (x0, x1, x2, x3) =>
    rngFrom fuel (r + 1) ((k0 + 0x6A21C3E7) % 2 ^ 32) ((k1 + 0x3B58D90F) % 2 ^ 32)
      (rngRound x0 x1 x2 x3 (if r % 2 = 0 then k0 else k1) (if r % 2 = 0 then k1 else k0))

/-- The generator on a 64-bit key and four counter words. -/
def rngWords (key x0 x1 x2 x3 : Nat) : Nat × Nat × Nat × Nat :=
  rngFrom 12 0 (key % 2 ^ 32) (key / 2 ^ 32 % 2 ^ 32) (x0, x1, x2, x3)

/-! ### Quantisation (R59, R60) -/

/-- A rounding mode of a quantisation: one of R53, or stochastic with key and index base. -/
inductive QMode where
  | rm (m : Nat)
  | stochastic (key base : Nat)
  deriving DecidableEq, Repr

/-- Magnitude of v rounded to an integer for element index i (R53, R60). -/
def quantMag (q : QMode) (i : Nat) (v : Dy) : Nat :=
  match q with
  | .rm m => (roundInt m v).1.natAbs
  | .stochastic key base =>
    let (n, d) := v.frac
    let x := (base + i) % 2 ^ 64
    let u := (rngWords key (x % 2 ^ 32) (x / 2 ^ 32) 0 0).1 % 2 ^ 24
    if n % d * 2 ^ 24 > u * d then n / d + 1 else n / d

/-- choose(A) of R59, for format magnitude width m. -/
def chooseExp (m : Nat) (a : Dy) : Nat :=
  let e := a.ea + 128
  let e := if Dy.lt ⟨(2 ^ m - 1 : Nat), e - 127 - m⟩ a then e + 1 else e
  if e > 254 then 254 else e.toNat

/-- The largest of some magnitudes. -/
def maxDy : List Dy → Option Dy
  | [] => none
  | a :: t => some (t.foldl (fun x y => if x.lt y then y else x) a)

/-- A quantised block: element codes, E0, E1. -/
structure Block where
  codes : List Nat
  e0 : Nat
  e1 : Nat
  deriving DecidableEq, Repr

/-- Quantises the data of a block into BFXn with split h; element t has index base + idx t (R59, R60). -/
def quantise (n h : Nat) (q : QMode) (idx : Nat → Nat) (xs : List Fp) : Block :=
  let m := n - 2
  let mag : Fp → Option Dy := fun x => match x with
    | .fin _ k e => if k = 0 then none else some ⟨k, e⟩
    | _ => none
  let bad : Fp → Bool := fun x => match x with
    | .fin .. => false
    | _ => true
  let nonfin := xs.any bad
  let emax : Option Int := ((xs.filterMap mag).map Dy.ea).foldl
    (fun (o : Option Int) e => some (match o with | none => e | some x => max x e)) none
  let cls : Fp → Bool := fun x =>
    if nonfin then bad x
    else match mag x, emax with
      | some a, some em => decide (em - h ≤ a.ea)
      | _, _ => false
  let e1 : Nat := if nonfin then 255 else
    match maxDy ((xs.filter cls).filterMap mag) with
    | some a => chooseExp m a
    | none => 0
  let e0 : Nat := match maxDy ((xs.filter fun x => !cls x).filterMap mag) with
    | some a => chooseExp m a
    | none => if e1 ≠ 255 then e1 else 0
  let code (t : Nat) (x : Fp) : Nat :=
    let sel := if cls x then 2 ^ (n - 2) else 0
    match x with
    | .inf neg => (if neg then 2 ^ (n - 1) else 0) + sel
    | .nan _ => sel + 1
    | .fin neg k e =>
      let ex : Int := if cls x then e1 else e0
      (if neg then 2 ^ (n - 1) else 0) + sel +
        min (quantMag q (idx t) ⟨if neg then -(k : Int) else k, e + 127 + m - ex⟩) (2 ^ m - 1)
  ⟨xs.zipIdx.map fun x => code x.2 x.1, e0, e1⟩

end Sys2Proof.Machine
end

