-- ==== Sys2Proof/Machine/Regs.lean ====
section
/-! DEFINITION. The system registers and the device register space: reads and writes (R50, R104, R160,
R287 to R290, R292, R317, R340, R342, R367, R372, R373). -/

namespace Sys2Proof.Machine

def natW (n : Nat) : Word := BitVec.ofNat 64 n
def bitW (b : Bool) (n : Nat) : Word := if b then natW (2 ^ n) else 0

/-- FMODE without its reserved bits (R50). -/
def maskFmode (v : Word) : Word := v &&& 0x3E7

/-- SQCTL without its reserved bits; DCOUNT above 256 is written as 256 (R104). -/
def maskSqctl (v : Word) : Word :=
  natW (slice v 47 32 * 2 ^ 32 + min (slice v 16 8) 256 * 2 ^ 8 + slice v 0 0)

/-- CLOSE of R104; 0 is read as 1. -/
def sqClose (v : Word) : Nat := if slice v 47 32 = 0 then 1 else slice v 47 32
def sqDcount (v : Word) : Nat := slice v 16 8
def sqDet (v : Word) : Bool := bitOf v 0

/-- The issue budget that 0 selects (R96, R104). -/
def txBudget (v : Word) : Nat := if slice v 31 0 = 0 then 0x10000 else slice v 31 0

/-- SSTAT (R289). -/
def State.sstat (s : State) (k : Nat) : Word :=
  let sl := s.slot k
  let (txn, sound) := match sl.work with
    | .role num _ => (true, match s.txn num with | some t => bitOf t.sub.record.dw8 18 | none => false)
    | _ => (false, false)
  let svc := match sl.work with | .handler _ => true | _ => false
  bitW svc 5 ||| bitW sound 4 ||| bitW txn 3 ||| bitW sl.inTrap 2 ||| bitW (s.secureOf k) 1 ||| bitW (s.privOf k) 0

/-- QDEPTH: on chip and in the ring, saturating (R317). -/
def Core.depth (c : Core) : Word :=
  natW ((List.finRange 4).foldl (fun n i =>
    n + min ((c.q[i]).length + c.ringCount[i]) 0xFFFF * 2 ^ (16 * i.val)) 0)

/-- A group entry as a doubleword (R160). -/
def Group.word (g : Group) : Word :=
  bitW g.v 63 ||| natW (g.phase.toNat * 2 ^ 32 + g.arrived.toNat * 2 ^ 16 + g.count.toNat)

/-- A write to a group entry sets V and COUNT (R160). -/
def Group.write (g : Group) (v : Word) : Group :=
  { g with v := bitOf v 63, count := BitVec.ofNat 16 (slice v 15 0) }

/-- FSSTAT (R340). -/
def Die.fsstat (d : Die) : Word := bitW d.busy 0 ||| bitW d.err 1 ||| natW (d.lost.toNat * 2 ^ 32)

/-- Registers 64 to 82 of a core (R288). -/
def State.readCoreReg (s : State) (core n : Nat) : Word :=
  let c := s.core core
  let cell := s.cell (cellOfCore core)
  match n with
  | 64 => c.sttile
  | 65 => c.stsem
  | 66 => c.stmem
  | 67 => c.stfault
  | 68 => c.stfetch
  | 69 => c.stfree
  | 70 => cell.stgate[0]
  | 71 => cell.stgate[1]
  | 72 => cell.stgate[2]
  | 73 => cell.stgate[3]
  | 74 => cell.stgate[4]
  | 75 => c.qage
  | 76 => c.qring[0]
  | 77 => c.qring[1]
  | 78 => c.qring[2]
  | 79 => c.qring[3]
  | 80 => c.depth
  | 81 => cell.wdog
  | 82 => c.stexec
  | _ => 0

/-- Part registers 128 to 134 and 448 to 455 (R288, R372).  DEDUCED (log 42): SQCTL reads as last written, also before the
write takes effect (R104). -/
def State.readPartReg (s : State) (n : Nat) : Word :=
  let p := s.part
  match n with
  | 128 => s.seq.newCtl.getD s.seq.sqctl
  | 129 => s.seq.txbudget
  | 130 => p.vrtb
  | 131 => natW (s.link.pod.k + (s.link.pod.n - 1) * 2 ^ 16)
  | 132 => p.fixctl
  | 133 => p.fixlast
  | 134 => p.incarn
  | 448 => bitW p.keyBusy 63 ||| natW (p.keyWord % 8 * 4096 + p.keyIndex % 4096)
  | 449 => 0
  | 450 => natW (p.reports.toNat * 2 ^ 32 + Config.fusedVersion.toNat)
  | 451 => bitW p.bootFail 7 ||| natW p.stage
  | 452 => natW (p.thermLimit * 2 ^ 48 + p.temp.toNat)
  | 453 => natW (p.power.toNat * 2 ^ 32 + p.pwrLimit)
  | 454 => Config.idLow
  | 455 => Config.idHigh
  | _ => 0

/-- A system register as slot k reads it (R288, R340). -/
def State.readReg (s : State) (k n : Nat) : Word :=
  let sl := s.slot k
  match n with
  | 0 => sl.fmode
  | 1 => sl.lc0
  | 2 => sl.lb0
  | 3 => sl.le0
  | 4 => sl.lc1
  | 5 => sl.lb1
  | 6 => sl.le1
  | 7 => sl.trapPc
  | 8 => sl.trapCause
  | 9 => sl.trapVal
  | 10 => s.sstat k
  | 11 => sl.estat
  | 12 => sl.spInit
  | 13 => sl.tpInit
  | 14 => sl.amBudget
  | 15 => natW (s.link.pod.k * 2 ^ 16 + placeLow k)
  | 16 => natW sl.ctx
  | 17 => natW s.cycle
  | 18 => sl.issues
  | 19 => (sl.grp[0]).zeroExtend 64
  | 20 => (sl.grp[1]).zeroExtend 64
  | 21 => (sl.grp[2]).zeroExtend 64
  | 22 => (sl.grp[3]).zeroExtend 64
  | 192 => (s.ctx sl.ctx).trapVec
  | 193 => (s.ctx sl.ctx).root
  | 194 => bitW (s.ctx sl.ctx).priv 0
  | 256 => (s.die (dieOfSlot k)).fsring
  | 257 => (s.die (dieOfSlot k)).fshead
  | 258 => (s.die (dieOfSlot k)).fstail
  | 259 => (s.die (dieOfSlot k)).fscmd
  | 260 => (s.die (dieOfSlot k)).fsarg
  | 261 => (s.die (dieOfSlot k)).fsstat
  | n => if n < 128 then s.readCoreReg (coreOf k) n else s.readPartReg n

/-! ### Which numbers are assigned, and to whom (R287, R288, R340, R372) -/

/-- Access of a register: U, P, S or F of the map. -/
inductive RegRead where
  | user
  | priv
  | secure
  deriving DecidableEq, Repr

/-- Read access, and write access if the register is writable at all. -/
structure RegAccess where
  rd : RegRead
  wr : Option RegRead
  deriving DecidableEq, Repr

/-- The access of a register on a core; none where the map does not assign it. -/
def regAccess (fsc : Bool) (n : Nat) : Option RegAccess :=
  if n ≤ 9 ∨ n = 11 then some ⟨.user, some .user⟩
  else if n = 10 ∨ (15 ≤ n ∧ n ≤ 18) ∨ n = 80 ∨ n = 131 ∨ n = 133 ∨ n = 134 then some ⟨.user, none⟩
  else if (12 ≤ n ∧ n ≤ 14) ∨ (19 ≤ n ∧ n ≤ 22) ∨ (64 ≤ n ∧ n ≤ 74) ∨ n = 82 ∨ n = 192 then
    some ⟨.user, some .priv⟩
  else if (75 ≤ n ∧ n ≤ 79) ∨ n = 81 ∨ (128 ≤ n ∧ n ≤ 130) ∨ n = 132 ∨ n = 193 ∨ n = 194 then
    some ⟨.priv, some .priv⟩
  else if n = 448 ∨ n = 449 ∨ n = 452 ∨ n = 453 then some ⟨.secure, some .secure⟩
  else if n = 450 ∨ n = 451 ∨ n = 454 ∨ n = 455 then some ⟨.secure, none⟩
  else if fsc ∧ (n = 256 ∨ n = 257 ∨ n = 259 ∨ n = 260) then some ⟨.user, some .user⟩
  else if fsc ∧ (n = 258 ∨ n = 261) then some ⟨.user, none⟩
  else none

/-- The cause with which an access of a class traps in a slot, if it does (R287). -/
def regTrap (priv secure : Bool) : RegRead → Option Nat
  | .user => none
  | .priv => if priv then none else some cPrivilege
  | .secure => if !secure then some cWorld else if priv then none else some cPrivilege

/-! ### Writes -/

/-- A write to SQCTL asks the open batch to close (R104). -/
def State.writeSqctl (s : State) (v : Word) : State :=
  s.modSeq fun q => { q with newCtl := some (maskSqctl v), closeAsked := true }

/-- A write to WDOG restarts the watchdog's count (R348). -/
def State.writeWdog (s : State) (cell : Nat) (v : Word) : State :=
  s.modCell cell fun c => { c with wdog := v, wdogCount := 0 }

/-- A write to QRING: discarded while the ring holds entries (R317). -/
def State.writeQring (s : State) (core : Nat) (q : Fin 4) (v : Word) : State :=
  s.modCore core fun c =>
    if c.ringCount[q] ≠ 0 then c
    else { c with qring := c.qring.set q (natW (slice v 59 12 * 4096 + slice v 4 0)) q.isLt }

/-- A write to KEYSEL (R367, R372). -/
def State.writeKeysel (s : State) (v : Word) : State :=
  s.modPart fun p => { p with keyIndex := slice v 11 0, keyWord := slice v 14 12 }

/-- A write to KEYDATA: the next doubleword of the key; the one that fills word 7 starts the
installation, which ends within 64 cclk (R367). -/
def State.writeKeydata (s : State) (v : Word) : State :=
  let w := s.part.keyWord % 8
  let data := (s.part.keyData ++ List.replicate 8 (0 : Word)).take 8
  let s := s.modPart fun p => { p with keyData := data.set w v, keyWord := (w + 1) % 8 }
  if w = 7 then
    let (n, s) := (s.modPart fun p => { p with keyBusy := true }).freeNat
    s.after (1 + n % 64) .keyInstallComplete 0
  else s

def clampNat (lo hi n : Nat) : Nat := max lo (min hi n)

/-- Registers 64 to 82 of a core written (R288, R328). -/
def State.writeCoreReg (s : State) (core n : Nat) (v : Word) : State :=
  match n with
  | 64 => s.modCore core fun c => { c with sttile := v }
  | 65 => s.modCore core fun c => { c with stsem := v }
  | 66 => s.modCore core fun c => { c with stmem := v }
  | 67 => s.modCore core fun c => { c with stfault := v }
  | 68 => s.modCore core fun c => { c with stfetch := v }
  | 69 => s.modCore core fun c => { c with stfree := v }
  | 70 => s.modCell (cellOfCore core) fun c => { c with stgate := c.stgate.set 0 v }
  | 71 => s.modCell (cellOfCore core) fun c => { c with stgate := c.stgate.set 1 v }
  | 72 => s.modCell (cellOfCore core) fun c => { c with stgate := c.stgate.set 2 v }
  | 73 => s.modCell (cellOfCore core) fun c => { c with stgate := c.stgate.set 3 v }
  | 74 => s.modCell (cellOfCore core) fun c => { c with stgate := c.stgate.set 4 v }
  | 75 => s.modCore core fun c => { c with qage := v }
  | 76 => s.writeQring core 0 v
  | 77 => s.writeQring core 1 v
  | 78 => s.writeQring core 2 v
  | 79 => s.writeQring core 3 v
  | 81 => s.writeWdog (cellOfCore core) v
  | 82 => s.modCore core fun c => { c with stexec := v }
  | _ => s

/-- Part registers written (R288, R372). -/
def State.writePartReg (s : State) (n : Nat) (v : Word) : State :=
  match n with
  | 128 => s.writeSqctl v
  | 129 => s.modSeq fun q => { q with txbudget := natW (slice v 31 0) }
  | 130 => s.modPart fun p => { p with vrtb := v }
  | 132 => s.modPart fun p => { p with fixctl := natW (slice v 63 12 * 4096 + slice v 0 0) }
  | 448 => s.writeKeysel v
  | 449 => s.writeKeydata v
  | 452 => s.modPart fun p => { p with thermLimit := clampNat 60 105 (slice v 63 48) }
  | 453 => s.modPart fun p => { p with pwrLimit := clampNat 600 2400 (slice v 31 0) }
  | _ => s

/-- A write to FSCMD issues the command that it encodes (R342). -/
def State.writeFscmd (s : State) (die : Nat) (v : Word) : State :=
  let ctx := slice v 63 48
  let op := slice v 47 44
  let verdict := slice v 43 42
  let page := slice (s.die die).fsarg 55 16
  let area := localAddr (s.die die).fsarg.toNat
  let s := s.modDie die fun d => { d with fscmd := natW (v.toNat - slice v 41 40 * 2 ^ 40) }
  let go (i : Instr) : State := (s.modDie die fun d => { d with busy := true, err := false }).thenDo i die
  match op with
  | 0 => if verdict < 2 then go (.reply die ctx page (verdict == 1)) else s.modDie die fun d => { d with err := true }
  | 1 => go (.replayall die)
  | 2 => go (.inval die ctx page (slice v 39 0))
  | 3 => go (.swout die ctx area)
  | 4 => go (.swin die ctx area)
  | 5 => go (.teardown die ctx)
  | _ => s.modDie die fun d => { d with err := true }

/-- A system register as slot k writes it. -/
def State.writeReg (s : State) (k n : Nat) (v : Word) : State :=
  let die := dieOfSlot k
  let ctx := (s.slot k).ctx
  match n with
  | 0 => s.modSlot k fun sl => { sl with fmode := maskFmode v }
  | 1 => s.modSlot k fun sl => { sl with lc0 := v }
  | 2 => s.modSlot k fun sl => { sl with lb0 := v }
  | 3 => s.modSlot k fun sl => { sl with le0 := v }
  | 4 => s.modSlot k fun sl => { sl with lc1 := v }
  | 5 => s.modSlot k fun sl => { sl with lb1 := v }
  | 6 => s.modSlot k fun sl => { sl with le1 := v }
  | 7 => s.modSlot k fun sl => { sl with trapPc := v }
  | 8 => s.modSlot k fun sl => { sl with trapCause := v &&& 0xFFFF }
  | 9 => s.modSlot k fun sl => { sl with trapVal := v }
  | 11 => s.modSlot k fun sl => { sl with estat := 0 }
  | 12 => s.modSlot k fun sl => { sl with spInit := v }
  | 13 => s.modSlot k fun sl => { sl with tpInit := v }
  | 14 => s.modSlot k fun sl => { sl with amBudget := v }
  | 19 => s.modSlot k fun sl => { sl with grp := sl.grp.set 0 (v.truncate 9) }
  | 20 => s.modSlot k fun sl => { sl with grp := sl.grp.set 1 (v.truncate 9) }
  | 21 => s.modSlot k fun sl => { sl with grp := sl.grp.set 2 (v.truncate 9) }
  | 22 => s.modSlot k fun sl => { sl with grp := sl.grp.set 3 (v.truncate 9) }
  | 192 => s.modCtx ctx fun c => { c with trapVec := v }
  | 193 => s.modCtx ctx fun c => { c with root := natW (slice v 59 12 * 4096) }
  | 194 => s.modCtx ctx fun c => { c with priv := bitOf v 0 }
  | 256 => s.modDie die fun d => { d with fsring := natW (slice v 59 12 * 4096 + slice v 4 0) }
  | 257 => s.modDie die fun d => { d with fshead := v }
  | 259 => s.writeFscmd die v
  | 260 => s.modDie die fun d => { d with fsarg := v }
  | n => if n < 128 then s.writeCoreReg (coreOf k) n v else s.writePartReg n v

/-- Whether a write to a register waits: KEYSEL and KEYDATA while an installation runs (R367), FSCMD
while the last command is unacknowledged (R342). -/
def State.regBusy (s : State) (k n : Nat) : Bool :=
  ((n == 448 || n == 449) && s.part.keyBusy) || (n == 259 && (s.die (dieOfSlot k)).busy)

/-! ### The device register space (R292, R373) -/

/-- 64 bits of a map given as the list of the set indices. -/
def mapWord (set : List Nat) (base : Nat) : Word :=
  natW ((List.range 64).foldl (fun n i => if set.contains (base + i) then n + 2 ^ i else n) 0)

/-- The map with the 64 bits from `base` written, where `may` allows the change. -/
def mapWrite (set : List Nat) (base : Nat) (v : Word) (may : Nat → Bool) : List Nat :=
  let kept := set.filter fun i => !(decide (base ≤ i) && decide (i < base + 64) && may i)
  kept ++ (((List.range 64).filter fun i => v.toNat.testBit i && may (base + i)).map (base + ·))

/-- Whether no slot of a context is dispatched or SAVED (R364). -/
def State.ctxIdle (s : State) (c : Nat) : Bool :=
  !(s.slots.any fun e => e.2.ctx == c && e.2.run != .free) && !(s.saved.any fun x => x.slot.ctx == c)

/-- Whether every slot of a cell is FREE (R364). -/
def State.cellIdle (s : State) (c : Nat) : Bool :=
  !(s.slots.any fun e => cellOf e.1 == c && e.1 < 49152 && e.2.run != .free)

/-- Whether an offset is reached only by secure privileged slots (R373). -/
def deviceSecure (off : Nat) : Bool := decide (0x80000000 ≤ off)

/-- A read of the device register space (R292, R373). -/
def State.deviceRead (s : State) (off : Nat) : Word :=
  if off < 0x800 then ((s.part.groups.get Group.reset (off / 8)).word)
  else if 0x10000 ≤ off ∧ off < 0x10000 + 7 * 8 then s.readPartReg (128 + (off - 0x10000) / 8)
  else if 0x1000000 ≤ off ∧ off < 0x1000000 + 3072 * 0x1000 then
    let n := 64 + off % 0x1000 / 8
    if n ≤ 82 then s.readCoreReg ((off - 0x1000000) / 0x1000) n else 0
  else if 0x80000000 ≤ off ∧ off < 0x80000080 then
    let i := (off - 0x80000000) / 16
    if h : i < 8 then (if off % 16 < 8 then s.part.ranges[i].1 else s.part.ranges[i].2) else 0
  else if 0x80000080 ≤ off ∧ off < 0x80000100 then mapWord s.part.secureCells ((off - 0x80000080) * 8)
  else if 0x80001000 ≤ off ∧ off < 0x80003000 then mapWord s.part.secureCtxs ((off - 0x80001000) * 8)
  else if 0x80003000 ≤ off ∧ off < 0x80003040 then s.readPartReg (448 + (off - 0x80003000) / 8)
  else 0

/-- The steps by which a device write to an own register acts; others act at once. -/
def deviceStep (off : Nat) (v : Word) : Option Instr :=
  if off < 0x800 then some (.groupEntryWrite (off / 8) v)
  else if off = 0x10000 then some (.sqctlWrite v)
  else if 0x1000000 ≤ off ∧ off < 0x1000000 + 3072 * 0x1000 then
    let core := (off - 0x1000000) / 0x1000
    match 64 + off % 0x1000 / 8 with
    | 76 => some (.qringWrite core 0 v)
    | 77 => some (.qringWrite core 1 v)
    | 78 => some (.qringWrite core 2 v)
    | 79 => some (.qringWrite core 3 v)
    | 81 => some (.wdogWrite (cellOfCore core) v)
    | _ => none
  else if off = 0x80003000 then some (.keyselWrite v)
  else if off = 0x80003008 then some (.keydataWrite v)
  else none

/-- A device write that is no step of its own (R292, R373). -/
def State.deviceWrite (s : State) (off : Nat) (v : Word) : State :=
  if 0x10000 ≤ off ∧ off < 0x10000 + 7 * 8 then s.writePartReg (128 + (off - 0x10000) / 8) v
  else if 0x1000000 ≤ off ∧ off < 0x1000000 + 3072 * 0x1000 then
    let n := 64 + off % 0x1000 / 8
    if n ≤ 82 then s.writeCoreReg ((off - 0x1000000) / 0x1000) n v else s
  else if 0x80000000 ≤ off ∧ off < 0x80000080 then
    let i := (off - 0x80000000) / 16
    let w := natW (slice v 50 16 * 65536)
    if h : i < 8 then
      let r := s.part.ranges[i]
      let r := if off % 16 < 8 then (w, r.2) else (r.1, w)
      s.modPart fun p => { p with ranges := p.ranges.set i r h }
    else s
  else if 0x80000080 ≤ off ∧ off < 0x80000100 then
    s.modPart fun p => { p with secureCells := mapWrite p.secureCells ((off - 0x80000080) * 8) v s.cellIdle }
  else if 0x80001000 ≤ off ∧ off < 0x80003000 then
    s.modPart fun p => { p with secureCtxs := mapWrite p.secureCtxs ((off - 0x80001000) * 8) v s.ctxIdle }
  else if 0x80003000 ≤ off ∧ off < 0x80003040 then s.writePartReg (448 + (off - 0x80003000) / 8) v
  else s

end Sys2Proof.Machine
end

