-- ==== Sys2Proof/Machine/Access.lean ====
section
/-! DEFINITION. Accesses of a slot: the checks of R215 in order, the formats of R216 to R220, and who
serves a load, a store or an atomic (R221 to R225). -/

namespace Sys2Proof.Machine

/-! ### Addresses (R73, R214) -/

/-- Start of the near window. -/
abbrev nearWindow : Nat := 0xFF80000000000000

/-- Whether an address is canonical (R214). -/
def canonical (a : Nat) : Bool := a / 2 ^ 55 % 512 == 0 || a / 2 ^ 55 % 512 == 511

/-- The 64 KiB page number VA[55:16]. -/
def pageOf (a : Nat) : Nat := a / 65536 % 2 ^ 40

/-- Local address of a near-window range of n bytes, if it lies wholly in one window (R73, R74). -/
def nearLocal (cell a n : Nat) : Option Nat :=
  let o := a - nearWindow
  if o + n ≤ 0x200000 then some (tileBase + cell * 0x200000 + o)
  else if 0x800000 ≤ o ∧ o + n ≤ 0x1000000 then some (vaultBase + cell * 0x800000 + (o - 0x800000))
  else none

/-- Whether an address lies in the range of the near window, hole included. -/
def isNear (a : Nat) : Bool := decide (nearWindow ≤ a) && decide (a < nearWindow + 0x1000000)

/-- What an access names after translation: virtual address, byte addresses, part, and the leaf, none in
the near window; `off` is the page offset, or the view offset on a region page. -/
structure Target where
  va : Word
  addrs : List Nat
  part : Nat
  leaf : Option Leaf
  off : Nat
  deriving DecidableEq, Repr

/-- The first-level TLB of a core for an access of a kind (R333). -/
def State.coreTlb (s : State) (core kind : Nat) : List Leaf :=
  if kind = 2 then (s.core core).itlb else (s.core core).dtlb

/-- The leaf that the core's data TLB, or for a fetch (kind 2) its instruction TLB, holds for an address;
else the slot asks for it (R331, R333). -/
def leafFor (va : Word) (page kind : Nat) : Act Leaf := fun s =>
  let sl := s.slot s.cur
  match sl.walkPoison with
  | some w => .error (.trap cUncorrectable w)
  | none => match (s.coreTlb (coreOf s.cur) kind).find? fun l => leafCovers l sl.ctx page with
    | some l => .ok (l, s)
    | none => .error (.miss page kind va)

/-- Walk level of a leaf (R329). -/
def leafLevel (l : Leaf) : Nat := match slice l.dw0 9 8 with | 0 => 4 | 1 => 3 | _ => 2

/-- Whether an address is a device register that only secure privileged slots reach, asked for by another (R373). -/
def deviceBarred (secure priv : Bool) (as : List Nat) : Bool :=
  !(secure && priv) && as.any fun a => match placeOf a with
    | .device off => deviceSecure off
    | _ => false

/-- Whether a non-secure agent may not reach a place or page (R365). -/
def State.worldFails (s : State) (secure : Bool) (leaf : Option Leaf) (as : List Nat) : Bool :=
  !secure && ((match leaf with
    | some l => lWorld l || decide (2048 ≤ lKey l)
    | none => false) || as.any fun a => match placeOf a with
    | .hbm => s.inSecureRange a
    | .vault c => s.part.secureCells.contains c
    | .tile c => s.part.secureCells.contains c
    | _ => false)

/-- Whether a leaf forbids an access of a kind: 0 read, 1 write, 2 fetch (R215). -/
def permFails (priv : Bool) (kind : Nat) (l : Leaf) : Bool :=
  (kind == 0 && !lRd l) || (kind == 1 && !lW l) || (kind == 2 && !lX l) || (!priv && !lU l)

/-- View offset of an address on a region page (R38). -/
def viewOff (l : Leaf) (va : Nat) : Nat := slice l.dw0 29 16 * 65536 + (va % 2 ^ 56 - l.vbase)

/-- Byte addresses of an access of n bytes at va through a leaf, or none if a byte lies at or past the
end of the region (R38), or the region's entry has come to disagree with the leaf (R32). -/
def State.leafAddrs (s : State) (l : Leaf) (va n : Nat) : Option (List Nat) :=
  if lRegion l = 0 then some (addrsFrom (localAddr (lFrame l) + (va % 2 ^ 56 - l.vbase)) n)
  else match s.leafRegion l with
    | none => none
    | some r =>
      let v := viewOff l va
      if viewSize r < v + n then none else some ((addrsFrom v n).map (viewByte r (lView l)))

/-- Page of the first byte at or past the end of a region page's region. -/
def State.overPage (s : State) (l : Leaf) (va : Nat) : Nat :=
  match s.leafRegion l with
  | none => pageOf va
  | some r => pageOf (va + (viewSize r - viewOff l va))

/-- Elements of a block whose first bit lies in byte b (R220). -/
def elemsInByte (n b : Nat) : List Nat := (List.range 32).filter fun e => n * e / 8 = b

/-- Where a BFX element load reads: element byte addresses, bit, scale addresses; none where the byte
starts no such element (R220, R42). `second` is `ld.wu`. -/
def State.bfxElem (s : State) (l : Leaf) (off : Nat) (second : Bool) : Option (List Nat × Nat × List Nat) :=
  let n := fmtBits (lFmt l)
  let k := off / (4 * n)
  let b := off % (4 * n)
  let e := (elemsInByte n b)[if second then 1 else 0]?
  let whole := if lRegion l = 0 then leafBytes l / (4 * n) else k + 1
  match e with
  | none => none
  | some e =>
    if whole ≤ k then none else
    let bit := n * e % 8
    let first := if lRegion l = 0 then localAddr (lFrame l) + off
      else match s.leafRegion l with | some r => viewByte r 0 off | none => 0
    some (addrsFrom first (if 8 < bit + n then 2 else 1), bit, addrsFrom (lScale l + 2 * k) 2)

/-- Steps 2 and 3 of R215, which come before translation and before any wait (R170): bad address, and near range. -/
def addrCheck (a : Word) (n : Nat) : Act Unit := fun s =>
  if !canonical a.toNat || !canonical (a + BitVec.ofNat 64 (n - 1)).toNat then .error (.trap cBadAddress a)
  else if isNear a.toNat && (nearLocal (cellOf s.cur) a.toNat n).isNone then .error (.trap cNearRange a)
  else .ok ((), s)

/-- Steps 2 to 5 of R215 for n bytes at a.  Of an element load (`elem`, with its second-element bit) from a BFX page only the
first byte's page counts (R220), and its scale bytes are checked with it: they are a fault where they lie in no memory, and else
in a world as every byte of the access (R44, R365).  DESIGN CHOICE (log 99): scale bytes in the device register space are no
fault; storage is read there. -/
def accessTo (a : Word) (n kind : Nat) (elem : Option Bool) : Act Target := fun s =>
  let k := s.cur
  let last := (a + BitVec.ofNat 64 (n - 1)).toNat
  let v := a.toNat
  if !canonical v || !canonical last then .error (.trap cBadAddress a)
  else if isNear v then
    match nearLocal (cellOf k) v n with
    | none => .error (.trap cNearRange a)
    | some p =>
      if s.worldFails (s.secureOf k) none [p] then .error (.trap cWorld a)
      else .ok (⟨a, addrsFrom p n, s.link.pod.k, none, 0⟩, s)
  else match leafFor a (pageOf v) kind s with
    | .error x => .error x
    | .ok (l, s) =>
      let n4 := decide (n = 4)
      let n := if elem.isSome && isBfx (lFmt l) then 1 else n
      let cross := v % 65536 + n > 65536
      match (if cross then leafFor a (pageOf last) kind s else .ok (l, s)) with
      | .error x => .error x
      | .ok (l2, s) =>
        let cut := 65536 - v % 65536
        let first := s.leafAddrs l v (if cross then cut else n)
        let second := if cross then s.leafAddrs l2 (v + cut) (n - cut) else some []
        match first, second with
        | none, _ => .error (.fault ⟨l.ctx, s.overPage l v, kind, leafLevel l, true⟩ a)
        | _, none => .error (.fault ⟨l2.ctx, s.overPage l2 (v + cut), kind, leafLevel l2, true⟩ a)
        | some x, some y =>
          let as := x ++ y
          let part := if lRegion l = 0 then addrPart (lFrame l) else s.link.pod.k
          let part2 := if lRegion l2 = 0 then addrPart (lFrame l2) else s.link.pod.k
          let sec := s.secureOf k
          let off := if lRegion l = 0 then v % 2 ^ 56 - l.vbase else viewOff l v
          let (bytes, sc) := match elem with
            | some second => if isBfx (lFmt l) && n4 then match s.bfxElem l off second with
                | some (as, _, sc) => (as, sc)
                | none => ([], [])
              else ([], [])
            | none => ([], [])
          if sc.any (fun x => placeOf x == .hole) then .error (.fault ⟨l.ctx, pageOf v, kind, leafLevel l, true⟩ a)
          else if s.worldFails sec (some l) (if part = s.link.pod.k then x ++ bytes ++ sc else []) ||
              s.worldFails sec (some l2) (if part2 = s.link.pod.k then y else []) ||
              deviceBarred sec (s.privOf k) as then .error (.trap cWorld a)
          else if permFails (s.privOf k) kind l || permFails (s.privOf k) kind l2 then .error (.trap cPermission a)
          else .ok (⟨a, as, part, some l, off⟩, s)

/-! ### The FIX field (R34, R332, R355) -/

/-- Whether two leaves are copies of one entry's translation. -/
def sameEntry (a b : Leaf) : Bool := a.ctx == b.ctx && a.entryAt == b.entryAt

/-- Changes every TLB copy of an entry in a cluster. -/
def State.modLeaves (s : State) (cl : Nat) (f : List Leaf → List Leaf) : State :=
  let s := s.modCluster cl fun c => { c with stlb := f c.stlb }
  { s with cores := s.cores.map fun c =>
      if clusterOf (cellOfCore c.1) = cl then (c.1, { c.2 with dtlb := f c.2.dtlb, itlb := f c.2.itlb }) else c }

/-- A page that a write before the cut made held-copy enters the fix's manifest (R355, R357). -/
def State.manifestPut (s : State) (l : Leaf) : State :=
  let f := s.fixArea
  let cap := 2 ^ (s.fixDword (f + 24) % 64)
  let n := s.fix.manifest
  if n < cap then
    let a := s.fixDword (f + 16) + 16 * n
    let dw0 := lFrame l % 2 ^ 60 + slice l.dw0 9 8 * 256
    let dw1 := pageOf l.vbase * 65536 + l.ctx % 65536
    (s.putHome ((addrsFrom (localAddr a) 16).zip (leBytes 8 dw0 ++ leBytes 8 dw1))).modFix fun x =>
      { x with manifest := n + 1 }
  else s.modFix fun x => { x with manifest := n + 1 }

/-- Whether a leaf's FIX field changes before a write, made after the cut or before it (R34, R355). -/
def fixNeeded (post : Bool) (l : Leaf) : Bool := lFix l == 0 || (lFix l == 2 && post)

/-- The FIX value that a write gives a leaf (R34, R355). -/
def State.fixValue (s : State) (post : Bool) : Nat := if s.fix.active ∧ !post then 2 else 1

/-- The change of a leaf's FIX field before a write: a compare-and-swap of the entry, and then of its TLB copies in the
cluster; an entry that holds the leaf no more leaves them, and one that is poisoned is named (R34, R331, R332, R355). -/
def State.fixEntry (s : State) (cluster count : Nat) (leaf : Leaf) : Option Nat × State :=
  let a := leaf.entryAt
  let s := s.l2Fetch 0 (a / 64)
  match s.homePoison (addrsFrom a 16) with
  | some p => (some p, s)
  | none =>
    let dw0 := BitVec.ofNat 64 (s.physNat a 8)
    let now : Leaf := { leaf with dw0 := dw0, dw1 := BitVec.ofNat 64 (s.physNat (a + 8) 8) }
    if !bitOf dw0 0 ∨ slice dw0 9 8 ≠ slice leaf.dw0 9 8 ∨ s.malformedLeaf now then
      (none, s.modLeaves cluster fun t => t.filter fun x => !sameEntry x leaf)
    else
      let post := s.isPost count
      let v := s.fixValue post
      let new : Leaf := if fixNeeded post now then { now with dw0 := setSlice dw0 13 12 v } else now
      let s := if new.dw0 = dw0 then s else
        let s := s.homeStore count false 0 none ((addrsFrom a 8).zip (leBytes 8 new.dw0.toNat))
        if v = 2 then s.manifestPut new else s
      (none, s.modLeaves cluster fun t => t.map fun x => if sameEntry x leaf then new else x)

/-! ### Who serves an access (R221) -/

inductive Server where
  | near
  | l1
  | view
  | remote (cell : Nat)
  | part (p : Nat)
  | device (off : Nat)
  deriving DecidableEq, Repr

/-- R221. -/
def serverOf (myPart myCell : Nat) (t : Target) : Server :=
  if t.part ≠ myPart then .part t.part
  else match t.addrs with
    | [] => .near
    | a :: _ => match placeOf a with
      | .hbm => match t.leaf with
        | some l => if lRegion l ≠ 0 ∧ lView l ≠ 0 then .view else .l1
        | none => .l1
      | .vault c => if c = myCell then .near else .remote c
      | .tile c => if c = myCell then .near else .remote c
      | .device o => .device o
      | .hole => .near

/-! ### Transactions (R112, R118) -/

/-- Whether a transaction is a follow (R117); a restart of a sounding is not. -/
def Txn.isFollow (t : Txn) : Bool := t.sub.parent.isSome && !t.sub.restart

/-- Whether a byte lies in a granule of a transaction's footprints (R101). -/
def Txn.holds (t : Txn) (part a : Nat) : Bool := t.wants.any fun w => w.2.gran == .mem ((part * 2 ^ 51 + a) / 256)

/-- Step 8 of R215: a role writes no translated address, and a follow keeps to its sets on TXN pages. -/
def txnCheck (t : Target) (write : Bool) : Act Unit := fun s =>
  match (s.slot s.cur).work, t.leaf with
  | .role num _, some l =>
    if write then .error (.trap cTxnEffect t.va)
    else match s.txn num with
      | some x =>
        if x.isFollow && lTxn l && t.addrs.any (fun a => !x.holds t.part a) then .error (.trap cSetMiss t.va)
        else .ok ((), s)
      | none => .ok ((), s)
  | _, _ => .ok ((), s)

/-- A write waits for its leaf's FIX field (R332) and for a pool frame (R355). -/
def writeReady (t : Target) : Act Unit := fun s =>
  let cell := cellOf s.cur
  let l := t.leaf.getD ⟨(s.slot s.cur).ctx, 0, 0, 0, 0⟩
  if t.leaf.isSome ∧ fixNeeded (s.afterCut cell) l then .error (.fixField l t.va)
  else if t.part = s.link.pod.k ∧ s.poolStops (s.cell cell).fixNo t.addrs then
    .error (.fault ⟨(s.slot s.cur).ctx, pageOf t.va.toNat, 1, 7, false⟩ t.va)
  else .ok ((), s)

/-! ### Formats of element accesses (R217 to R220) -/

/-- Element bytes of a byte format (R218). -/
def elemBytes (f : Nat) : Nat := fmtBits f / 8

/-- The bytes that an element store writes (R218): FTZ applied, rounded under RM. -/
def elemStore (f : Nat) (fmode v : Word) : Nat :=
  let rm := slice fmode 1 0
  let ftz := bitOf fmode 2
  let x := slice v 31 0
  match f with
  | 1 => ((fpToInt 8 rm (readFp fp32 ftz x)).1 % 256).toNat
  | 2 => (fpToFp bf16 rm ftz (readFp fp32 ftz x)).bits
  | 3 => x
  | _ => ((fpToInt 32 rm (readFp fp32 ftz x)).1 % 4294967296).toNat

/-- The register value that a load makes of its bytes and, for a BFX element, its two scale bytes
(R216 to R218, R220). -/
def decodeBytes (f : Dec) (v scale : Nat) : Word :=
  match f with
  | .zext => natW v
  | .sext n => wordOfInt (signedOf v (8 * n))
  | .elem 1 => natW (intToFp fp32 0 false (signedOf v 8)).bits
  | .elem 2 => natW (v * 65536)
  | .elem 3 => natW v
  | .elem _ => natW (intToFp fp32 0 false (signedOf v 32)).bits
  | .bfx f bit => natW (bfxToFp32 (fmtBits f) (v / 2 ^ bit % 2 ^ fmtBits f) (scale % 256) (scale / 256))

/-- A load's checks, steps 2 to 8 of R215: where it reads and how its value is made, with the scale
bytes of a BFX element. `stream` is a stream element, which never reaches a device register (R292). -/
def loadCheck (raw stream : Bool) (a : Word) (n : Nat) (unsigned : Bool) : Act (Target × Dec × List Nat) := do
  let t ← accessTo a n 0 (if raw then none else some unsigned)
  let s ← get
  match t.leaf with
  | none =>
    trapIf (a.toNat % n != 0) cMisaligned a
    pure (t, if raw || unsigned || n == 8 then .zext else .sext n, [])
  | some l =>
    match t.addrs with
    | a0 :: _ => match placeOf a0 with
      | .device _ =>
        trapIf (!raw || stream) cPermission a
        trapIf (n != 8 || a.toNat % 8 != 0) cMisaligned a
      | _ => pure ()
    | [] => pure ()
    if raw || lFmt l == 0 then
      trapIf (a.toNat % n != 0) cMisaligned a
      txnCheck t false
      pure (t, if raw || unsigned || n == 8 then .zext else .sext n, [])
    else if isBfx (lFmt l) then
      match (if n = 4 then s.bfxElem l t.off unsigned else none) with
      | none => trap cFormatAccess a
      | some (as, bit, sc) =>
        let t := { t with addrs := as }
        txnCheck t false
        pure (t, .bfx (lFmt l) bit, sc)
    else
      trapIf (elemBytes (lFmt l) != n) cFormatAccess a
      trapIf (a.toNat % n != 0) cMisaligned a
      txnCheck t false
      pure (t, .elem (lFmt l), [])

/-- A store's checks, steps 2 to 8 of R215, and the bytes that it writes. `stream` is a stream element,
which never reaches a device register (R292). -/
def storeCheck (raw stream : Bool) (a : Word) (n : Nat) (v : Word) : Act (Target × List Byte) := do
  let t ← accessTo a n 1 none
  let s ← get
  let low := leBytes n v.toNat
  match t.leaf with
  | none =>
    trapIf (a.toNat % n != 0) cMisaligned a
    writeReady t
    pure (t, low)
  | some l =>
    match t.addrs with
    | a0 :: _ => match placeOf a0 with
      | .device _ =>
        trapIf (!raw || stream) cPermission a
        trapIf (n != 8 || a.toNat % 8 != 0) cMisaligned a
      | _ => pure ()
    | [] => pure ()
    let bytes ←
      if raw || lFmt l == 0 then pure low
      else if isBfx (lFmt l) then trap cFormatStore a
      else do
        trapIf (elemBytes (lFmt l) != n) cFormatAccess a
        pure (leBytes n (elemStore (lFmt l) (s.slot s.cur).fmode v))
    trapIf (a.toNat % n != 0) cMisaligned a
    txnCheck t true
    writeReady t
    pure (t, bytes)

/-- An atomic's checks, steps 2 to 8 of R215 (R225). -/
def atomCheck (a : Word) (n : Nat) : Act Target := do
  let t ← accessTo a n 1 none
  match t.leaf with
  | none =>
    trapIf (a.toNat % n != 0) cMisaligned a
    writeReady t
    pure t
  | some l =>
    match t.addrs with
    | a0 :: _ => match placeOf a0 with
      | .device _ => trap cPermission a
      | _ => pure ()
    | [] => pure ()
    trapIf (isBfx (lFmt l)) cFormatStore a
    trapIf (!(lFmt l == 0 || (lFmt l == 4 && n == 4))) cFormatAccess a
    trapIf (a.toNat % n != 0) cMisaligned a
    txnCheck t true
    writeReady t
    pure t

end Sys2Proof.Machine
end

