-- ==== Sys2Proof/Machine/Operands.lean ====
section
/-! DEFINITION. Operands: registers in and out of stream mode, literals, predicates, and register runs
(R142, R143, R164, R189, R190). -/

namespace Sys2Proof.Machine

def Stream.budget (x : Stream) : Nat := slice x.dw5 15 12
/-- DIR: a write stream. -/
def Stream.writes (x : Stream) : Bool := bitOf x.dw5 8
def Stream.dec (x : Stream) : Bool := bitOf x.dw5 4
def Stream.sgn (x : Stream) : Bool := bitOf x.dw5 3
def Stream.bytes (x : Stream) : Nat := 2 ^ slice x.dw5 1 0

/-- Address of element e (R141, R231).  DEDUCED (log 93): it wraps modulo 2^64. -/
def Stream.addr (x : Stream) (e : Nat) : Word :=
  let i0 := e % x.count0
  let i1 := e / x.count0 % x.count1
  let i2 := e / (x.count0 * x.count1)
  x.dw0 + natW i2 * x.dw3 + natW i1 * x.dw2 + natW i0 * x.dw1

/-- TRAPVAL of a stream misuse: the register number. -/
def regNum (r : Reg) : Word := r.zeroExtend 64

/-! ### Reading -/

/-- A read of a read stream takes its next element (R142). -/
def takeElem (r : Reg) (i : Fin 8) (x : Stream) : Act Word := do
  trapIf x.writes cStreamMisuse (regNum r)
  match x.buf with
  | [] =>
    if x.total ≤ x.pos then
      modMe fun sl => sl.setStream i { x with done := true }
      pure 0
    else waitFor wMem
  | .val v :: t =>
    modMe fun sl => sl.setStream i { x with buf := t, pos := x.pos + 1 }
    pure v
  | .mark c a :: _ => trap c a
  | .declined :: _ => stop .declined
  | .coming .. :: _ => waitFor wMem
  | .push .. :: _ => waitFor wMem

/-- gN as an operand: a register in stream mode gives its next element (R142). -/
def readG (r : Reg) : Act Word := do
  let sl ← getSlot
  match streamIx r with
  | some i => if sl.streams[i].mapped then takeElem r i sl.streams[i] else pure (sl.g r)
  | none => pure (sl.g r)

/-- An operand that a literal may replace (R164). -/
def readOpnd : Opnd 5 → Act Word
  | .field r => readG r
  | .lit v => pure v

/-- A signed immediate of n bits, or the literal (R164, R196). -/
def imm {n : Nat} : Opnd n → Word
  | .field v => v.signExtend 64
  | .lit v => v

/-- gN, g(N+1), … as consecutive operands (R270). -/
def readRun (r : Reg) : Nat → Act (List Word)
  | 0 => pure []
  | n + 1 => do
    let v ← readG r
    let t ← readRun (r + 1) n
    pure (v :: t)

/-- pN as an operand. -/
def readP (p : PredIx) : Act Bool := do
  let sl ← getSlot
  pure (sl.p p)

/-! ### Writing -/

/-- A write to a write stream pushes one element, checked as the store of its size (R143). Past the last
element nothing is pushed (log 19); while the cell has a cut to take none is, so that its write streams drain first (R353). -/
def pushElem (i : Fin 8) (x : Stream) (v : Word) : Act Unit := do
  if x.total ≤ x.pos then pure ()
  else
    let s ← get
    if 64 ≤ x.buf.length ∨ (s.cell (cellOf s.cur)).cutBegun then waitFor wMem
    let (t, bs) ← storeCheck (!x.dec) true (x.addr x.pos) x.bytes v
    if t.part = s.link.pod.k then match s.lostWord t.addrs with
      | some a => trap cOwnerLost (natW a)
      | none => pure ()
    modMe fun sl => sl.setStream i
      { x with buf := x.buf ++ [.push t.va t.addrs t.part t.leaf (natW (leNat bs))], pos := x.pos + 1 }

/-- gN written: a register in stream mode takes a push (R143, R189). -/
def writeG (r : Reg) (v : Word) : Act Unit := do
  let sl ← getSlot
  match streamIx r with
  | some i =>
    if sl.streams[i].mapped then
      trapIf (!sl.streams[i].writes) cStreamMisuse (regNum r)
      pushElem i sl.streams[i] v
    else modMe fun sl => sl.setG r v
  | none => modMe fun sl => sl.setG r v

/-- Checks at issue that a later write to gN will stand: the push of a write stream is tried and
undone (R143). -/
def destReady (r : Reg) : Act Unit := fun s =>
  match writeG r 0 s with
  | .ok _ => .ok ((), s)
  | .error x => .error x

/-- pN written. -/
def writeP (p : PredIx) (b : Bool) : Act Unit := modMe fun sl => sl.setP p b

/-- Operation width of a form (R190). -/
def wdBits : Wd → Nat
  | .d64 => 64
  | .w32 => 32

end Sys2Proof.Machine
end

