-- ==== Sys2Proof/Machine/Flags.lean ====
section
/-! DEFINITION. Conditions and flags: condition codes of compares and branches (R174, R176, R198, R199),
the sticky flags of FMODE (R50 to R52), and the turns that a subnormal costs (R55). -/

namespace Sys2Proof.Machine

/-- cc of `cmp` on W-bit operands (R198). -/
def ccHolds (c : Cc) (w : Nat) (a b : Word) : Bool :=
  let s (x : Word) : Int := signedOf x.toNat w
  let u (x : Word) : Nat := x.toNat % 2 ^ w
  match c with
  | .eq => u a == u b
  | .ne => u a != u b
  | .lt => decide (s a < s b)
  | .le => decide (s a ≤ s b)
  | .gt => decide (s b < s a)
  | .ge => decide (s b ≤ s a)
  | .ltu => decide (u a < u b)
  | .leu => decide (u a ≤ u b)
  | .gtu => decide (u b < u a)
  | .geu => decide (u b ≤ u a)

/-- cc of `b.cc` on 64 bits (R206). -/
def bccHolds (c : Bcc) (a b : Word) : Bool :=
  match c with
  | .eq => a == b
  | .ne => a != b
  | .lt => a.slt b
  | .ge => !a.slt b
  | .ltu => a.ult b
  | .geu => !a.ult b

/-- cc of `fcmp`, from the order of two data (R199): a NaN makes only ne and un true. -/
def fccHolds (c : Fcc) (x y : Fp) : Bool :=
  let nan := isNan x || isNan y
  let o := fpCmp x y
  match c with
  | .eq => !nan && o == 0
  | .ne => nan || o != 0
  | .lt => !nan && decide (o < 0)
  | .le => !nan && decide (o ≤ 0)
  | .gt => !nan && decide (0 < o)
  | .ge => !nan && decide (0 ≤ o)
  | .un => nan
  | .ord => !nan

/-- Rounding mode and FTZ of an FMODE (R50). -/
def rmOf (fmode : Word) : Nat := slice fmode 1 0
def ftzOf (fmode : Word) : Bool := bitOf fmode 2

/-- Sticky flags set (R51, R52). -/
def setFlags (f : Nat) : Act Unit := modMe fun sl => { sl with fmode := sl.fmode ||| natW f }

/-- The four turns that a slot skips after it met a subnormal (R55). -/
def skipIf (b : Bool) : Act Unit := if b then modMe fun sl => { sl with skip := 4 } else pure ()

/-- Format of a scalar FP type. -/
def ftyFmt : Fty → FpFmt
  | .f32 => fp32
  | .bf16 => bf16

/-- Pattern of an FP operand: the low bits of the register (R190). -/
def fpBits (t : Fty) (v : Word) : Nat :=
  match t with
  | .f32 => v.toNat % 2 ^ 32
  | .bf16 => v.toNat % 2 ^ 16

end Sys2Proof.Machine
end

