-- ==== Sys2Proof/Machine/LoadStore.lean ====
section
/-! DEFINITION. Loads, stores and atomics from the slot's side (R71, R77, R78, R91 to R93, R213 to
R225): who serves them, and what waits for a reply. -/

namespace Sys2Proof.Machine

/-! ### Channels and replies -/

/-- Source number of a slot on the channels of R95, apart from the cells and slices. -/
def slotChan (k : Nat) : Nat := 0x100000 + k
/-- Channel number of a memory controller. -/
def ctrlChan (a : Nat) : Nat := 0x200000 + a / 0x1800000000 * 128 + pseudoChannel a
/-- Channel number of the device registers. -/
def deviceChan : Nat := 0x300000

/-- Reply address of the first engine: above those of the streams. -/
abbrev engBase : Nat := 0x200000
/-- Address of the acknowledgements of the first engine's writes. -/
abbrev ackBase : Nat := 0x210000

/-- Address of the head entry of the first core's first ring. -/
abbrev ringBase : Nat := 0x500000

/-- Cell that a reply address stands in. -/
def replyCell (a : Nat) : Nat :=
  if ringBase ≤ a then (a - ringBase) / 12
  else if 0x400000 ≤ a then cellOf (a - 0x400000)
  else if ackBase ≤ a then (a - ackBase) / 5
  else if engBase ≤ a then (a - engBase) / 5
  else if 0x20000 ≤ a then cellOf ((a - 0x20000) / 8) else cellOf a

/-- A reply to a slot or a stream, with its sender's fix count; nobody takes a reply to no slot. -/
def State.answerAt (s : State) (src a : Nat) (r : Reply) (count : Nat) : State :=
  if a = noSlot then s else s.send clsMemReply src (replyCell a) (.reply a r count)

/-- A reply of a home slice, a controller or another unit that belongs to no cell, which is never post-cut (R354). -/
def State.answer (s : State) (src a : Nat) (r : Reply) : State := s.answerAt src a r 0

/-- KEY of a target's page. -/
def Target.key (t : Target) : Nat := match t.leaf with | some l => lKey l | none => 0

/-- A region page's entry is cached once used (R37). -/
def useLeafRegion (t : Target) : Act Unit := act fun s => match t.leaf with
  | some l => if lRegion l ≠ 0 then s.useRegion (lRegion l) else s
  | none => s

/-! ### Virtual addresses of a line (R226, log 14) -/

/-- A 56-bit address in its canonical form (R214). -/
def canon (v : Nat) : Nat := if v % 2 ^ 56 < 2 ^ 55 then v % 2 ^ 56 else v % 2 ^ 56 + (2 ^ 64 - 2 ^ 56)

/-- View offset, in the row view, of the byte at offset o of a skewed region (R40). -/
def rowOffset (r : Region) (o : Nat) : Nat :=
  let e := ecodeBytes r.ecode
  let blk := o / (256 * e)
  let lane := o % (256 * e) / (16 * e)
  let u := o % (16 * e) / e
  let v := (lane + 16 - u) % 16
  elemView r 0 (blk / (r.nc / 16) * 16 + u) (blk % (r.nc / 16) * 16 + v) * e + o % e

/-- Virtual address of a line's first byte, and of all its bytes where a row view scatters them. -/
def State.lineVas (s : State) (t : Target) (l : Nat) : Nat × List Nat :=
  let ix := (t.addrs.findIdx? fun a => a / 64 = l).getD 0
  let va := (t.va.toNat + 2 ^ 64 + ix - t.addrs.getD ix 0 % 64) % 2 ^ 64
  match t.leaf with
  | some lf => match (if lRegion lf = 0 then none else s.region (lRegion lf)) with
    | some r => if 3 ≤ r.ecode then (va, []) else
      (va, (List.range 64).map fun b =>
        canon (lf.vbase + 2 ^ 56 + rowOffset r (64 * l + b - r.base) - slice lf.dw0 29 16 * 65536))
    | none => (va, [])
  | none => (va, [])

/-! ### Fills (R77) -/

/-- Lines of the addresses that hold a word with V 0. -/
def State.missing (s : State) (c : Nat) (as : List Nat) : List Nat :=
  (linesOf as).filter fun l => !(s.l1Valid c (as.filter fun a => a / 64 = l))

/-- Asks the home slice for a line, once. -/
def State.askFill (s : State) (c ctx budget : Nat) (t : Target) (l : Nat) : State :=
  if (s.cell c).fills.any fun f => f.line = l then s
  else
    let (va, vas) := s.lineVas t l
    (s.modCell c fun x => { x with fills := x.fills ++ [⟨l, t.key, budget, va, vas, ctx, 0⟩] }).send clsMemReq c
      (homeSlice (64 * l)) (msg (.fillRequest c l t.key (s.cell c).fixNo))

/-- Asks for lines; waits while a set has no way to use (R77). -/
def askFills (budget : Nat) (t : Target) (ls : List Nat) : Act Unit := fun s =>
  let c := cellOf s.cur
  let ctx := (s.slot s.cur).ctx
  if ls.any fun l => !s.l1Usable c l then .error (.wait wMem [])
  else .ok ((), ls.foldl (fun s l => s.askFill c ctx budget t l) s)

/-! ### Loads -/

/-- The scale bytes of a BFX element, read where they live in the step that reads the element (R44, log 20). -/
def readScale (scale : List Nat) (key : Nat) : Act Nat := fun s =>
  if scale = [] then .ok (0, s)
  else match s.lostWord scale with
    | some a => .error (.trap cOwnerLost (natW a))
    | none => match s.physPoison (s.cell (cellOf s.cur)).fixNo scale with
      | some a => .error (.trap cUncorrectable (natW a))
      | none =>
        let (bs, s) := (s.noteSoft scale).physRead (s.cell (cellOf s.cur)).fixNo key scale
        .ok (leNat bs, s)

/-- The other cell whose service slot reads the scale bytes of an element, if they lie in its near memory (R44, R93). -/
def State.scaleCell (s : State) (cell part : Nat) (scale : List Nat) : Option Nat :=
  if part ≠ s.link.pod.k then none
  else match scale with
    | [] => none
    | a :: _ => match placeOf a with
      | .vault d => if d = cell then none else some d
      | .tile d => if d = cell then none else some d
      | _ => none

/-- Traps if a word among those read is poisoned (R45). -/
def poisonTrap (p : Option Nat) : Act Unit :=
  match p with
  | some a => trap cUncorrectable (natW a)
  | none => pure ()

/-- Bytes of a hit in L1; the read counts toward the line's budget (R92). -/
def readL1 (as : List Nat) : Act Nat := do
  let s ← get
  let c := cellOf s.cur
  poisonTrap (s.l1Poison c as)
  act fun s => s.l1Read c as
  pure (leNat (s.l1Bytes c as))

/-- Bytes at the cell's own near port (R74). -/
def readNear (as : List Nat) : Act Nat := do
  let s ← get
  poisonTrap (s.poisonAt (s.cell (cellOf s.cur)).fixNo as)
  let count := (s.cell (cellOf s.cur)).fixNo
  act fun s => s.noteSoft as
  pure (leNat (as.map fun a => s.byte (s.redirect count a)))

/-- What a load finds: its bytes and scale bytes now, a fill to wait for, a request sent to another place, or one for each
of several lines. -/
inductive Found where
  | now (v scale : Nat)
  | filling
  | asked
  | parts
  deriving DecidableEq, Repr

/-- The part of a request that touches a line (R28). -/
def MemReq.onLine (q : MemReq) (l : Nat) : MemReq :=
  let zs := q.addrs.zipIdx.filter fun e => e.1 / 64 = l
  { q with addrs := zs.map (·.1), data := zs.filterMap fun e => q.data[e.2]?, piece := true }

/-- A load's request of a reply address, by who serves it, with the scale bytes of its element (R44, R91, R221). -/
def loadFrom (who : Nat) (h : Hint) (budget : Nat) (t : Target) (scale : List Nat) : Act Found := do
  useLeafRegion t
  let s ← get
  let k := s.cur
  let c := cellOf k
  let q (alloc : Bool) : MemReq :=
    ⟨who, c, false, alloc, t.addrs, [], t.key, (s.cell c).fixNo, scale, false, s.secureOf k, t.va⟩
  let ask (owner : Nat) : Act Found := do
    act fun s => s.send clsMemReq (slotChan k) owner (.remote owner (.mem s.link.pod.k (q false)))
    pure .asked
  match s.scaleCell c t.part scale, serverOf s.link.pod.k c t with
  | some d, .near => ask d
  | none, .near => do
    let v ← readNear t.addrs
    let e ← readScale scale t.key
    pure (.now v e)
  | other, .l1 =>
    if s.l1Valid c t.addrs then do
      let v ← readL1 t.addrs
      match other with
      | some d => ask d
      | none => do
        let e ← readScale scale t.key
        pure (.now v e)
    else match s.lostWord t.addrs with
      | some a => trap cOwnerLost (natW a)
      | none =>
        if h ≠ .none ∧ !s.l1Dirty c t.addrs then
          match other, linesOf t.addrs with
          | some d, _ => ask d
          | none, [_] => do
            act fun s => s.send clsMemReq c (homeSlice (t.addrs.headD 0)) (.read (q (h == .na)))
            pure .asked
          | none, ls => do
            act fun s => ls.foldl (fun s l => s.send clsMemReq c (homeSlice (64 * l)) (.read (MemReq.onLine (q (h == .na)) l))) s
            pure .parts
        else do
          askFills budget t (s.missing c t.addrs)
          pure .filling
  | _, .view => do
    act fun s => s.send clsMemReq c (ctrlChan (t.addrs.headD 0)) (msg (.viewEngineAccess (q false)))
    pure .asked
  | _, .remote owner => ask owner
  | _, .part p => do
    act fun s => s.toPart p (.mem s.link.pod.k (q false))
    pure .asked
  | _, .device off => do
    act fun s => s.answer deviceChan who (.value (s.deviceRead off))
    pure .asked

/-- A load of n bytes (R213, R216 to R221). -/
def loadOp (raw unsigned : Bool) (n : Nat) (h : Hint) (budget : Nat) (g : Guard) (o : Opnd 5) (b d : Reg) :
    State → Host.Outcome State Fault Refusal :=
  issue g (opLen g o) do
    let base ← readG b
    let a := base + (match o with | .field v => v.zeroExtend 64 * natW n | .lit w => w)
    let (t, f, sc) ← loadCheck raw false a n unsigned
    destReady d
    let k ← me
    match ← loadFrom k h budget t sc with
    | .now v e => do
      writeG d (decodeBytes f v e)
      pure .seq
    | .filling => pure (.leave (.fill d f t.addrs sc t.key) wMem)
    | .asked => pure (.leave (.load d f) wMem)
    | .parts => pure (.leave (.gather d f t.addrs [] sc t.key) wMem)

/-- Bytes, and whether zero-extended, of a load size (R178). -/
def ldBytes : LdSize → Nat × Bool
  | .b => (1, false)
  | .h => (2, false)
  | .w => (4, false)
  | .d => (8, false)
  | .bu => (1, true)
  | .hu => (2, true)
  | .wu => (4, true)

/-- Bytes of a store or raw size (R178). -/
def stBytes : StSize → Nat
  | .b => 1
  | .h => 2
  | .w => 4
  | .d => 8

def execLd (g : Guard) (z : LdSize) (h : Hint) (n : BitVec 4) (o : Opnd 5) (b d : Reg) :
    State → Host.Outcome State Fault Refusal :=
  loadOp false (ldBytes z).2 (ldBytes z).1 h n.toNat g o b d

def execLdRaw (g : Guard) (z : StSize) (h : Hint) (n : BitVec 4) (o : Opnd 5) (b d : Reg) :
    State → Host.Outcome State Fault Refusal :=
  loadOp true true (stBytes z) h n.toNat g o b d

/-! ### Stores -/

/-- Lines with a word that the bytes cover in part and whose V is 0 (R78). -/
def State.toMerge (s : State) (c : Nat) (as : List Nat) : List Nat :=
  s.missing c (as.filter fun a => !((addrsFrom (a / 4 * 4) 4).all fun x => as.contains x))

/-- A line present in L1 for a store that allocates without a fetch. -/
def State.l1Alloc (s : State) (c ctx : Nat) (t : Target) (l : Nat) : State :=
  if (s.l1 c l).isSome then s
  else
    let (va, vas) := s.lineVas t l
    s.setL1 c l (L1Line.blank va vas ctx t.key s.cycle)

/-- A plain store into L1 (R78). -/
def storeL1 (t : Target) (bytes : List Byte) : Act Next := do
  let s ← get
  let c := cellOf s.cur
  let ctx := (s.slot s.cur).ctx
  let as := t.addrs
  let ls := linesOf as
  match s.toMerge c as with
  | l :: m => do
    askFills 0 t (l :: m)
    pure (.leave (.refill (l :: m)) wMem)
  | [] =>
    let need := ls.foldl (fun n l => n + popMask (s.toRegister c l (maskOf l as))) 0
    if 32 < (s.cell c).regq.length + need then waitFor wMem
    else if ls.any fun l => !s.l1Usable c l then waitFor wMem
    else
      match ls.find? fun l => !(s.l1Room c l).1 with
      | some l => do
        act fun s => (s.l1Room c l).2
        pure (.leave (.room l) wMem)
      | none => do
        act fun s => ls.foldl (fun s l =>
          let s := ((s.l1Room c l).2).l1Alloc c ctx t l
          let m := s.toRegister c l (maskOf l as)
          (s.l1Put c l ((as.zip bytes).filter fun e => e.1 / 64 = l)).register c l m) s
        act fun s => s.sinkBy s.cur
        pure .seq

/-- The dirty words that the addresses touch, as their bytes in L1: they travel with an atomic (R224), and with a `.by` store
(R91, log 98). -/
def State.dirtyUnder (s : State) (c : Nat) (as : List Nat) : List (Nat × Byte) :=
  let ws := (as.map (· / 4)).dedup.filter fun w => s.l1Dirty c [4 * w]
  ws.flatMap fun w => (addrsFrom (4 * w) 4).zip (s.l1Bytes c (addrsFrom (4 * w) 4))

/-- A store's request of a reply address, by who serves it (R221, R91).  DEDUCED (log 98): the write-through of a `.by` store
carries a dirty word under it whole, since the word's D ends with it (R8, R91, R303). -/
def storeTo (who : Nat) (h : Hint) (t : Target) (bytes : List Byte) : Act Next := do
  useLeafRegion t
  let s ← get
  let k := s.cur
  let c := cellOf k
  let as := t.addrs
  let q (alloc : Bool) : MemReq :=
    ⟨who, c, true, alloc, as, bytes, t.key, (s.cell c).fixNo, [], false, s.secureOf k, t.va⟩
  match serverOf s.link.pod.k c t with
  | .near => do
    act fun s => (s.nearWrite (s.cell c).fixNo (as.zip bytes)).sinkBy k
    pure .seq
  | .l1 => do
    match s.lostWord as with
    | some a => trap cOwnerLost (natW a)
    | none =>
      if h = .bypass ∨ (h = .na ∧ !s.l1Dirty c as) then do
        let rest := (s.dirtyUnder c as).filter fun e => !as.contains e.1
        let w := { q (h == .na) with addrs := as ++ rest.map (·.1), data := bytes ++ rest.map (·.2) }
        act fun s => (linesOf as).foldl (fun s l => s.send clsMemReq c (homeSlice (64 * l))
          (msg (.writeThrough (MemReq.onLine w l)))) (s.l1Through c (h == .bypass) as)
        pure (.leave (.through (linesOf as).length (as.zip bytes)) wMem)
      else storeL1 t bytes
  | .view => do
    act fun s => s.send clsMemReq c (ctrlChan (as.headD 0)) (msg (.viewEngineAccess (q false)))
    pure (.leave .plain wMem)
  | .remote owner => do
    act fun s => s.send clsMemReq (slotChan k) owner (.remote owner (.mem s.link.pod.k (q false)))
    pure (.leave .plain wMem)
  | .part p => do
    act fun s => s.toPart p (.mem s.link.pod.k (q false))
    pure (.leave .plain wMem)
  | .device off => do
    if (off = 0x80003000 ∨ off = 0x80003008) ∧ s.part.keyBusy then waitFor wMem
    act fun s => match deviceStep off (natW (leNat bytes)) with
      | some i => s.thenDo i 0
      | none => s.deviceWrite off (natW (leNat bytes))
    act fun s => s.answer deviceChan who .done
    pure (.leave .plain wMem)

/-- A store of n bytes (R213, R216 to R221). -/
def storeOp (raw : Bool) (n : Nat) (h : Hint) (g : Guard) (o : Opnd 5) (b r : Reg) :
    State → Host.Outcome State Fault Refusal :=
  issue g (opLen g o) do
    let base ← readG b
    let a := base + (match o with | .field x => x.zeroExtend 64 * natW n | .lit w => w)
    addrCheck a n
    let v ← readG r
    let (t, bytes) ← storeCheck raw false a n v
    let k ← me
    storeTo k h t bytes

def execSt (g : Guard) (z : StSize) (h : Hint) (o : Opnd 5) (b s : Reg) :
    State → Host.Outcome State Fault Refusal :=
  storeOp false (stBytes z) h g o b s

def execStRaw (g : Guard) (z : StSize) (h : Hint) (o : Opnd 5) (b s : Reg) :
    State → Host.Outcome State Fault Refusal :=
  storeOp true (stBytes z) h g o b s

/-! ### Atomics (R223 to R225) -/

/-- Bytes of an atomic's size. -/
def aszBytes : Asz → Nat
  | .w => 4
  | .d => 8

/-- The value that an atomic writes; none where `acas` fails (R223). -/
def atomNew (op : AtomOp) (n old b compare : Nat) : Option Nat :=
  let m := 2 ^ (8 * n)
  let u := b % m
  let wrap (v : Int) : Nat := (v % m).toNat
  match op with
  | .add => some ((old + u) % m)
  | .min => some (wrap (min (signedOf old (8 * n)) (signedOf u (8 * n))))
  | .max => some (wrap (max (signedOf old (8 * n)) (signedOf u (8 * n))))
  | .minu => some (min old u)
  | .maxu => some (max old u)
  | .and => some (old &&& u)
  | .or => some (old ||| u)
  | .xor => some (old ^^^ u)
  | .swp => some u
  | .cas => if old = compare % m then some u else none

/-- The new value of a request's atomic. -/
def AtomReq.newValue (q : AtomReq) (old : Nat) : Option Nat := atomNew q.op (aszBytes q.size) old q.operand.toNat q.compare.toNat

/-- The register value of an atomic's old value (R223). -/
def atomResult (z : Asz) (old : Nat) : Word :=
  match z with
  | .w => wordOfInt (signedOf old 32)
  | .d => natW old

/-- An atomic at near memory: its old value (R74, R93). -/
def State.nearAtom (s : State) (q : AtomReq) : Nat × State :=
  let s := s.cow q.fixCount q.addrs
  let (old, ws) := s.atomEffect q.fixCount q.addrs s.byte (AtomReq.newValue q)
  (old, s.nearPut ws)

/-- The decrement of a join cell: what it leaves in dw0, and dw1 (R159). -/
def State.joinAtom (s : State) (count join : Nat) : Nat × Word × State :=
  let s := s.cow count (addrsFrom join 8)
  let (old, ws) := s.atomEffect count (addrsFrom join 8) s.byte fun n => some ((n + (2 ^ 64 - 1)) % 2 ^ 64)
  ((old + (2 ^ 64 - 1)) % 2 ^ 64, natW (leNat ((addrsFrom (join + 8) 8).map fun a => s.byte (s.redirect count a))), s.nearPut ws)

/-- An atomic (R223 to R225). -/
def atomOp (op : AtomOp) (g : Guard) (z : Asz) (b a d : Reg) : State → Host.Outcome State Fault Refusal :=
  issue g (formLen g) do
    let va ← readG a
    addrCheck va (aszBytes z)
    let x ← readG b
    let cmp ← (if op = .cas then readG d else pure 0)
    let t ← atomCheck va (aszBytes z)
    destReady d
    useLeafRegion t
    let s ← get
    let k := s.cur
    let c := cellOf k
    let q : AtomReq := ⟨k, c, op, z, t.addrs, x, cmp, [], t.key, false, (s.cell c).fixNo, s.secureOf k, va⟩
    match serverOf s.link.pod.k c t with
    | .l1 => match s.lostWord t.addrs with
      | some a => trap cOwnerLost (natW a)
      | none => do
        let q := { q with dirty := s.dirtyUnder c t.addrs }
        act fun s => ((linesOf t.addrs).foldl (fun s l => s.l1Forget c l (maskOf l t.addrs)) (s.l1Stale c t.addrs)).send
          clsMemReq c (homeSlice (t.addrs.headD 0)) (msg (.homeAtomic q))
        pure (.leave (.atom d z) wMem)
    | .view => do
      act fun s => s.send clsMemReq c (ctrlChan (t.addrs.headD 0)) (msg (.homeAtomic { q with view := true }))
      pure (.leave (.atom d z) wMem)
    | .remote owner => do
      act fun s => s.send clsMemReq (slotChan k) owner (.remote owner (.atom s.link.pod.k q))
      pure (.leave (.atom d z) wMem)
    | .part p => do
      act fun s => s.toPart p (.atom s.link.pod.k q)
      pure (.leave (.atom d z) wMem)
    | _ => do
      poisonTrap (s.poisonAt (s.cell c).fixNo t.addrs)
      let old ← actWith fun s => (s.noteSoft t.addrs).nearAtom q
      act fun s => s.sinkBy k
      writeG d (atomResult z old)
      pure .seq

def execAadd (g : Guard) (z : Asz) (b a d : Reg) := atomOp .add g z b a d
def execAmin (g : Guard) (z : Asz) (b a d : Reg) := atomOp .min g z b a d
def execAmax (g : Guard) (z : Asz) (b a d : Reg) := atomOp .max g z b a d
def execAminu (g : Guard) (z : Asz) (b a d : Reg) := atomOp .minu g z b a d
def execAmaxu (g : Guard) (z : Asz) (b a d : Reg) := atomOp .maxu g z b a d
def execAand (g : Guard) (z : Asz) (b a d : Reg) := atomOp .and g z b a d
def execAor (g : Guard) (z : Asz) (b a d : Reg) := atomOp .or g z b a d
def execAxor (g : Guard) (z : Asz) (b a d : Reg) := atomOp .xor g z b a d
def execAswp (g : Guard) (z : Asz) (b a d : Reg) := atomOp .swp g z b a d
def execAcas (g : Guard) (z : Asz) (b a d : Reg) := atomOp .cas g z b a d

end Sys2Proof.Machine
end

