-- ==== Sys2Proof/Machine/Order.lean ====
section
/-! DEFINITION. Ordering and view forms: `fence`, `acq`, `rel`, `invr`, `vsync` (R87 to R89, R226 to R228). -/

namespace Sys2Proof.Machine

/-- Whether every push of the slot's write streams has drained (R227). -/
def Slot.drained (sl : Slot) : Bool := sl.streams.toList.all fun x => !(x.mapped && x.writes && !x.buf.isEmpty)

/-- The stream without its oldest element. -/
def Stream.popped (x : Stream) : Stream := { x with buf := x.buf.tail, blocked := false }

/-- The work in a slot ends: its pushes drain on without it (R143, R146). -/
def State.orphan (s : State) (k : Nat) : State :=
  let sl := s.slot k
  if sl.drained then s
  else
    let n := (s.orphans.map fun (e : Nat × Nat × Slot) => e.1 + 1).foldl max 0
    { s with orphans := s.orphans.set n (k, sl) }

/-- Changes an ended work as if it were still in its slot; it goes once its last push has left. -/
def State.withOrphan (s : State) (n : Nat) (f : Nat → State → State) : State :=
  match s.orphans.find n with
  | none => s
  | some (k, sl) =>
    let s' := f k (s.setSlot k sl)
    let x := s'.slot k
    ({ s' with orphans := if x.drained then s'.orphans.del n else s'.orphans.set n (k, x) }).setSlot k (s.slot k)

/-- The scopes that act on the cache (R227). -/
def wideScope : Scope → Bool
  | .slot | .core | .cell => false
  | .cluster | .die | .part | .pod => true

/-- The region of gA and gB: all memory when both are g0, else [gA, gA + gB) (R226). -/
def regionOf (a b : Reg) : Act (Bool × Nat × Nat) := do
  let x ← readG a
  let n ← readG b
  if a = 0 ∧ b = 0 then pure (true, 0, 0)
  else do
    trapIf (decide (2 ^ 64 < x.toNat + n.toNat) || !canonical x.toNat) cBadAddress x
    pure (false, x.toNat, x.toNat + n.toNat)

/-- The slot leaves the rotation for an ordering form; the inspection of L1 takes 64 cclk (R227). -/
def orderLeave (acq rel wide all : Bool) (lo hi : Nat) : Act Next := do
  let s ← get
  let o : OrderOp := { acq := acq && wide, rel := rel && wide, all, lo, hi, ctx := (s.slot s.cur).ctx
                       due := s.cycle + (if wide then 64 else 0), relSent := false, todo := [], wait := [] }
  pure (.leave (.order o) wMem)

def execFence (g : Guard) (s : Scope) : State → Host.Outcome State Fault Refusal :=
  issue g (formLen g) (orderLeave true true (wideScope s) true 0 0)

def execAcq (g : Guard) (s : Scope) (b a : Reg) : State → Host.Outcome State Fault Refusal :=
  issue g (formLen g) do
    let (all, lo, hi) ← regionOf a b
    orderLeave true false (wideScope s) all lo hi

def execRel (g : Guard) (s : Scope) (b a : Reg) : State → Host.Outcome State Fault Refusal :=
  issue g (formLen g) do
    let (all, lo, hi) ← regionOf a b
    orderLeave false true (wideScope s) all lo hi

/-- The pending ordering form, or ordering part of an `exit`, renewed. -/
def withOrder (o : OrderOp) : Pend → Pend
  | .leaving _ => .leaving o
  | .rejoin _ c => .rejoin o c
  | _ => .order o

/-- One look at an ordering form: its copy-backs go out as they can, and it is done once the cache is
as R87 and R88 say. -/
def State.orderTick (s : State) (k : Nat) (o : OrderOp) : State × Bool :=
  let c := cellOf k
  let set (o : OrderOp) (s : State) : State := s.modSlot k fun sl => { sl with pend := withOrder o sl.pend }
  if !(s.slot k).drained ∨ s.cycle < o.due then (s, false)
  else
    let (s, o) :=
      if o.rel then
        let (s, o) := s.relSend c (if o.relSent then o else (s.cell c).relBegin o)
        (set o s, o)
      else (s, o)
    if o.rel ∧ !(s.cell c).relReady o then (s, false)
    else if o.acq ∧ !(s.cell c).acqReady o then (s, false)
    else (s, true)

/-- What an ordering form leaves in the cache when it is done (R87). -/
def State.orderDone (s : State) (k : Nat) (o : OrderOp) : State :=
  if o.acq then s.modCell (cellOf k) fun c => c.acquire o.all o.lo o.hi o.ctx false else s

/-- Whether an instruction-cache line lies in a region. -/
def ILine.inRegion (x : ILine) (all : Bool) (lo hi ctx : Nat) : Bool :=
  regionWords all lo hi ctx x.ctx x.va x.vas != 0

/-- `invr` (R89). -/
def execInvr (g : Guard) (b a : Reg) : State → Host.Outcome State Fault Refusal :=
  issue g (formLen g) do
    let (all, lo, hi) ← regionOf a b
    let sl ← getSlot
    modMyCell fun c => c.invr all lo hi sl.ctx
    act fun s => s.modCluster (clusterOf (cellOf s.cur)) fun c =>
      { c with icache := c.icache.filter fun x => !x.inRegion all lo hi sl.ctx }
    pure .seq

/-- Drops the cached entry of a region and writes back and invalidates the L2 lines of its stored
range (R228). -/
def State.vsyncRegion (s : State) (ix : Nat) : State :=
  let s := { s with regions := s.regions.del ix }
  match s.storedRegion ix with
  | none => s
  | some r =>
    let ls := (s.l2.map (·.1)).filter fun l => decide (r.base ≤ 64 * l + 63) && decide (64 * l < r.base + viewSize r)
    ls.foldl (fun s l => s.l2Evict l) s

/-- `vsync` (R228). -/
def execVsync (g : Guard) (a : Reg) : State → Host.Outcome State Fault Refusal :=
  issue g (formLen g) do
    let x ← readG a
    trapIf (x == 0 || decide (4096 ≤ x.toNat)) cBadRegion x
    let k ← me
    act fun s => (s.vsyncRegion x.toNat).answer deviceChan k .done
    pure (.leave .plain wMem)

end Sys2Proof.Machine
end

