-- ==== Sys2Proof/Machine/HomeEvents.lean ====
section
/-! DEFINITION. Events of the memory traffic: at home slices, view engines and service slots, and in
the L1 data cache when their messages come back (R39, R77, R80 to R86, R90, R93, R223). -/

namespace Sys2Proof.Machine

/-- An event of a part's agent. -/
abbrev Event := State → Host.Outcome State Fault Refusal

/-- Stops at an address that names no memory (R26). -/
def withMemory (as : List Nat) (k : Event) : Event := fun s =>
  match as.find? fun a => placeOf a == .hole with
  | some a => .fault (.noMemory a)
  | none => k s

/-! ### Reads and writes at home -/

/-- What a read of bytes at their home answers, with the scale bytes of a BFX element read in the same step (R44). -/
def State.readAnswer (s : State) (q : MemReq) : Reply × State :=
  let count := q.fixCount
  match s.lostWord (q.addrs ++ q.scale) with
  | some a => (.lost (natW a), s)
  | none =>
    if q.piece then
      let bad := q.addrs.filter fun a => (s.physPoison count [a]).isSome
      let (bs, s) := (s.noteSoft q.addrs).physRead count q.key q.addrs
      (.block (q.addrs.zip bs) bad, s)
    else match (s.physPoison count q.addrs).or (s.physPoison count q.scale) with
    | some a => (.poisoned (natW a), s)
    | none =>
      let (bs, s) := (s.noteSoft q.addrs).physRead count q.key q.addrs
      if q.scale = [] then (.value (natW (leNat bs)), s)
      else
        let (e, s) := (s.noteSoft q.scale).physRead count q.key q.scale
        (.elem (natW (leNat bs)) (leNat e), s)

/-- A read of an element whose scale bytes lie in another cell's near memory than its own: as the requester's L1 holds it
where it does, else at its home (R44); one whose bytes another service slot has read comes with them (R29, log 20). -/
def State.elemAnswer (s : State) (q : MemReq) : Reply × State :=
  if q.data ≠ [] then
    match s.physPoison q.fixCount q.scale with
    | some a => (.poisoned (natW a), s)
    | none =>
      let (e, s) := (s.noteSoft q.scale).physRead q.fixCount q.key q.scale
      (.elem (natW (leNat q.data)) (leNat e), s)
  else if q.scale ≠ [] ∧ s.l1Valid q.cell q.addrs then
    match s.physPoison q.fixCount q.scale with
    | some a => (.poisoned (natW a), s)
    | none =>
      let (e, s) := (s.noteSoft q.scale).physRead q.fixCount q.key q.scale
      (.elem (natW (leNat (s.l1Bytes q.cell q.addrs))) (leNat e), s)
  else s.readAnswer q

/-- A read at the home slice, which allocates where the request says so (R91). -/
def State.readHome (s : State) (q : MemReq) : Reply × State :=
  (if q.alloc then (linesOf (q.addrs.map (s.redirect q.fixCount))).foldl (fun s l => s.l2Fetch q.key l) s else s).readAnswer q

/-- A `.na` or `.by` load read at the home slice (R91). -/
def State.serveRead (s : State) (q : MemReq) : State :=
  let (r, s) := s.readHome q
  s.answer (homeSlice (q.addrs.headD 0)) q.slot r

/-- Registrations of words that name a cell end. -/
def State.endOwn (s : State) (cell : Nat) (as : List Nat) : State :=
  (linesOf as).foldl (fun s l => s.setTags l (s.tagMask l (maskOf l as) (· == s.myTag cell)) .empty) s

/-- Cell whose vault or tile store a lateral write names. -/
def nearCell (q : MemReq) : Nat :=
  match placeOf (q.addrs.headD 0) with
  | .vault c => c
  | .tile c => c
  | _ => 0

/-- A lateral write of an engine lands in another cell's near memory (R72, R75, R137). -/
def State.landLateral (s : State) (q : MemReq) : State :=
  let c := nearCell q
  (((s.nearWrite q.fixCount (q.addrs.zip q.data)).sink q.cell).send clsPush c q.cell
    (msg (.memoryReplyArrival q.slot .done)))

/-- A write at the home slice, whose writer's own registrations end without a notice where the writer is a cell of this part
(R84).  The scale bytes of a BFX block in near memory come with it, since both are one access (R44, log 99). -/
def State.writeHome (s : State) (own : Option Nat) (q : MemReq) : Reply × State :=
  match s.lostWord q.addrs with
  | some a => (.lost (natW a), s)
  | none =>
    let (bs, near) := (q.addrs.zip q.data).partition fun e => inHbm e.1
    let s := if q.alloc then (linesOf q.addrs).foldl (fun s l => s.l2Fetch q.key l) s else s
    let s := s.homeStore q.fixCount (!q.alloc) q.key own bs
    let s := match own with
      | some c => s.endOwn c (bs.map (·.1))
      | none => s
    (.done, if near = [] then s else s.nearWrite q.fixCount near)

/-- A write-through served at the home slice (R84). -/
def execWriteThrough (q : MemReq) : Event := withMemory q.addrs fun s =>
  let (r, s) := s.writeHome (some q.cell) q
  .next ((if r = .done then s.sinkFor q.cell q.slot else s).answer (homeSlice (q.addrs.headD 0)) q.slot r)

/-- A view engine reads or writes the stored array (R39). -/
def execViewEngineAccess (q : MemReq) : Event := withMemory q.addrs fun s =>
  let src := ctrlChan (q.addrs.headD 0)
  let count := q.fixCount
  if let some a := s.lostWord q.addrs then .next (s.answer src q.slot (.lost (natW a)))
  else if q.write then
    let bs := q.addrs.zip q.data
    let s := s.cow count q.addrs
    .next (((s.hbmWrite q.key (bs ++ s.mirror count bs)).sinkFor q.cell q.slot).answer src q.slot .done)
  else match s.poisonAt count q.addrs with
    | some a => .next (s.answer src q.slot (.poisoned (natW a)))
    | none =>
      let (bs, s) := (s.noteSoft q.addrs).hbmRead q.key (q.addrs.map (s.redirect count))
      .next (s.answer src q.slot (.value (natW (leNat bs))))

/-- The dirty words that travel with an atomic are written at home, but for those that are lost there (R224, R85). -/
def State.landDirty (s : State) (q : AtomReq) : State :=
  let bs := q.dirty.filter fun e => (s.lostWord [e.1]).isNone
  if bs = [] then s
  else
    let s := (linesOf (bs.map (·.1))).foldl (fun s l => s.l2Fetch q.key l) s
    (s.homeStore q.fixCount false q.key (some q.cell) bs).endOwn q.cell (bs.map (·.1))

/-- Bytes of a unit and of its copies under a key, as a function of their addresses: as storage holds them, or, where `l2` says so, as
their home does. -/
def State.bytesUnder (s : State) (l2 : Bool) (key : Nat) (as : List Nat) : (Nat → Byte) × State :=
  let all := as ++ (s.mirror 0 (as.map fun a => (a, 0))).map (·.1)
  let (bs, s') := s.hbmRead key all
  (fun a => match (if l2 then s.l2.find (a / 64) else none) with
    | some x => lineByte x.data a
    | none => (((all.zip bs).find? fun e => e.1 = a).map (·.2)).getD 0, s')

/-- The old value of an atomic at a home slice, a view engine or near memory, and the state it leaves
(R223, R224, R355). -/
def State.performAtom (s : State) (q : AtomReq) : Reply × State :=
  let near := match placeOf (q.addrs.headD 0) with | .hbm => false | _ => true
  if near then
    match s.poisonAt q.fixCount q.addrs with
    | some a => (.poisoned (natW a), s)
    | none => let (old, s) := (s.noteSoft q.addrs).nearAtom q; (.value (natW old), s)
  else if let some a := s.lostWord q.addrs then (.lost (natW a), s.landDirty q)
  else if q.view then
    match s.poisonAt q.fixCount q.addrs with
    | some a => (.poisoned (natW a), s)
    | none =>
      let (get, s) := ((s.noteSoft q.addrs).cow q.fixCount q.addrs).bytesUnder false q.key q.addrs
      let (old, ws) := s.atomEffect q.fixCount q.addrs get (AtomReq.newValue q)
      (.value (natW old), s.hbmWrite q.key ws)
  else
    let s := (linesOf q.addrs).foldl (fun s l => s.l2Fetch q.key l) (s.landDirty q)
    match s.physPoison q.fixCount q.addrs with
    | some a => (.poisoned (natW a), s)
    | none =>
      let (get, s) := (s.cow q.fixCount q.addrs).bytesUnder true q.key q.addrs
      let (old, ws) := s.atomEffect q.fixCount q.addrs get (AtomReq.newValue q)
      (.value (natW old), if ws = [] then s else (s.endLines none q.addrs).homePut false q.key ws)

/-- HOME_ATOMIC (R223). -/
def execHomeAtomic (q : AtomReq) : Event := withMemory q.addrs fun s =>
  let (r, s) := s.performAtom q
  let src := if q.view then ctrlChan (q.addrs.headD 0) else homeSlice (q.addrs.headD 0)
  .next ((s.sinkFor q.cell q.slot).answer src q.slot r)

/-! ### Fills -/

/-- Words of a line that are marked lost. -/
def State.lostMask (s : State) (l : Nat) : BitVec 16 := s.tagMask l (~~~0) (· == .lost)

/-- FILL_REQUEST (R77, R85). -/
def execFillRequest (cell line key fixCount : Nat) : Event := withMemory [64 * line] fun s =>
  let l' := s.redirect fixCount (64 * line) / 64
  let s := s.l2Fetch key l'
  let (d, p, s) := s.homeLine key l'
  .next (s.send clsMemReply (homeSlice (64 * line)) cell (msg (.fillDataArrival cell line d p (s.lostMask line))))

/-- The line after its fill: every word whose D is 0 is written (R77), but for those that the cell has acquired or written past
L1 since (R300, R302, log 74); a lost word stays absent (R85). -/
def L1Line.filled (x : L1Line) (f : FillReq) (data : LineData) (poison lost : BitVec 16) (t : Nat) : L1Line :=
  let m := ~~~x.d &&& ~~~lost &&& ~~~f.stale
  { x with
    data := Vector.ofFn fun i : Fin 16 => if m.getLsbD i then data[i] else x.data[i]
    v := (x.v ||| m) &&& ~~~(~~~x.d &&& lost), poison := (x.poison &&& ~~~m) ||| (poison &&& m)
    budget := if x.d = 0 ∧ x.o = 0 then f.budget else x.budget
    reads := if x.d = 0 ∧ x.o = 0 then 0 else x.reads
    va := f.va, vas := f.vas, ctx := f.ctx, used := t, key := f.key }

/-- Lines that a pending instruction waits for. -/
def Pend.lines : Pend → List Nat
  | .fill _ _ as _ _ => linesOf as
  | .refill ls => ls
  | _ => []

/-- Slots of a cell that wait for a line go on. -/
def State.wakeFill (s : State) (cell line : Nat) (lost : BitVec 16) : State :=
  s.slots.foldl (fun s e =>
    if cellOf e.1 = cell ∧ e.2.pend.lines.contains line then
      match e.2.pend with
      | .fill _ _ as _ _ => match as.find? fun a => a / 64 = line ∧ lost.getLsbD (wordIx a) with
        | some a => s.thenDo (.memoryReplyArrival e.1 (.lost (natW (a / 4 * 4)))) 0
        | none => s.thenDo (.memoryReplyArrival e.1 .done) 0
      | _ => s.thenDo (.memoryReplyArrival e.1 .done) 0
    else s) s

/-- FILL_DATA_ARRIVAL (R77, R90, R92).  While the set has no way that can be used, the data waits. -/
def execFillDataArrival (cell line : Nat) (data : LineData) (poison lost : BitVec 16) : Event := fun s =>
  match (s.cell cell).fills.find? fun f => f.line = line with
  | none => .next s
  | some f =>
    let (ok, s) := s.l1Room cell line
    if !ok then .next (s.after 1 (.fillDataArrival cell line data poison lost) 0)
    else
      let s := s.modCell cell fun c => { c with fills := c.fills.filter fun f => f.line ≠ line }
      let x := (s.l1 cell line).getD (L1Line.blank f.va f.vas f.ctx f.key s.cycle)
      .next ((s.setL1 cell line (x.filled f data poison lost s.cycle)).wakeFill cell line lost)

/-! ### Registrations -/

/-- REGISTRATION (R80, R86). -/
def execRegistration (cell line : Nat) (mask : BitVec 16) : Event := fun s =>
  let slice := homeSlice (64 * line)
  if (s.owners.find line).isNone ∧ 2048 ≤ (s.recordsOf slice).length then
    .next (s.send clsMemReply slice cell (msg (.registrationRetry cell line mask)))
  else
    let lost := s.lostMask line &&& mask
    let m := mask &&& ~~~lost
    let s := (s.endOthers line m (some cell)).setTags line m (s.myTag cell)
    let s := { s with owners := match s.owners.find line with
      | some r => s.owners.set line { r with recalled := false }
      | none => s.owners }
    let s := s.send clsMemReply slice cell (msg (.registrationAck cell line m))
    let s := if lost = 0 then s else s.send clsMemReply slice cell (msg (.ownershipLostNotice cell line lost))
    .next (s.recallOver slice)

/-- REGISTRATION_ACK (R80). -/
def execRegistrationAck (cell line : Nat) (mask : BitVec 16) : Event := fun s =>
  let s := s.unqueue cell line mask
  match s.l1 cell line with
  | none => .next (s.copyBackOf cell line 0 mask)
  | some x =>
    let gone := mask &&& ~~~x.d
    let s := s.setL1 cell line { x with o := x.o ||| (mask &&& x.d) }
    .next (if gone = 0 then s else s.copyBackOf cell line 0 gone)

/-- Notes whether the registrations of a line's words are on their way. -/
def Cell.markSent (line : Nat) (m : BitVec 16) (b : Bool) (c : Cell) : Cell :=
  let f (e : RegEntry) : RegEntry := if e.line == line && m.getLsbD e.word then { e with sent := b } else e
  { c with regq := c.regq.map f }

/-- REGISTRATION_RETRY (R86). -/
def execRegistrationRetry (cell line : Nat) (mask : BitVec 16) : Event := fun s =>
  .next ((s.modCell cell (Cell.markSent line mask false)).after 64 (.registrationResend cell line mask) 0)

/-- REGISTRATION_RESEND (R86). -/
def execRegistrationResend (cell line : Nat) (mask : BitVec 16) : Event := fun s =>
  let m := mask &&& (s.cell cell).regMask line
  if m = 0 then .next s
  else .next ((s.modCell cell (Cell.markSent line m true)).send clsMemReq cell (homeSlice (64 * line))
    (msg (.registration cell line m)))

/-- OWNERSHIP_LOST_NOTICE (R82). -/
def execOwnershipLostNotice (cell line : Nat) (mask : BitVec 16) : Event := fun s =>
  .next (s.l1Forget cell line mask)

/-- RECALL (R86): the words that are dirty and owned travel with their data, those registered anew included. -/
def execRecall (cell line : Nat) (mask : BitVec 16) : Event := fun s =>
  let m := match s.l1 cell line with
    | some x => mask &&& x.d &&& x.o
    | none => 0
  .next (s.copyBackOf cell line m (mask &&& ~~~m))

/-! ### Copy-backs -/

/-- COPY_BACK (R81). -/
def execCopyBack (cell line : Nat) (mask nodata : BitVec 16) (data : LineData) (poison : BitVec 16)
    (key fixCount : Nat) : Event := withMemory [64 * line] fun s =>
  let count := fixCount
  let mine := s.tagMask line mask (· == s.myTag cell)
  let bare := s.tagMask line nodata (· == s.myTag cell)
  let as := (addrsFrom (64 * line) 64).filter fun a => mine.getLsbD (wordIx a)
  let s := s.homeWrite count false key (as.map fun a => (a, lineByte data a))
  let s := s.poisonHome count line (poison &&& mine)
  let s := s.setTags line (mine ||| bare) .empty
  .next (s.send clsMemReply (homeSlice (64 * line)) cell (msg (.copyBackAck cell line mask (mask &&& ~~~mine))))

/-- A way that has come free lets a waiting store of its set go on. -/
def State.wakeRoom (s : State) (cell line : Nat) : State :=
  s.slots.foldl (fun s e => match e.2.pend with
    | .room l => if cellOf e.1 = cell ∧ l % 128 = line % 128 then s.thenDo (.memoryReplyArrival e.1 .done) 0 else s
    | _ => s) s

/-- COPY_BACK_ACK (R81, R90): O is cleared; an evicted line leaves its way. -/
def execCopyBackAck (cell line : Nat) (mask _dropped : BitVec 16) : Event := fun s =>
  let s := if (s.cell cell).cutLines.contains line then s.modCell cell fun c => { c with cutLines := c.cutLines.filter (· ≠ line) } else s
  match s.l1 cell line with
  | none => .next s
  | some x =>
    let x := { x with o := x.o &&& ~~~mask, copying := x.copying &&& ~~~mask }
    if x.evicting ∧ x.copying = 0 then
      if x.d = 0 then .next ((s.dropL1 cell line).wakeRoom cell line)
      else .next ((s.setL1 cell line { x with evicting := false }).wakeRoom cell line)
    else .next (s.setL1 cell line x)

/-! ### Another part's requests (R362) -/

/-- A reply to another part's slot. -/
def State.answerPart (s : State) (part : Nat) (a : Nat) (r : Reply) : State := s.toPart part (.reply a r 0 none)

/-- What another part asks of HBM, at the home slice; an element whose scale bytes lie in near memory goes on with its bytes
to the service slot of that memory (R29, R44, R362). -/
def State.serveFar (s : State) (part : Nat) : RemoteReq → State
  | .mem _ q =>
    if q.write then
      let (r, s) := s.writeHome none q
      s.answerPart part q.slot r
    else match s.scaleCell 1024 s.link.pod.k q.scale with
      | some d =>
        let (r, s) := s.readHome { q with scale := [] }
        (match r with
        | .value v => s.send clsMemReq (homeSlice (q.addrs.headD 0)) d
            (.remote d (.mem part { q with data := leBytes q.addrs.length v.toNat }))
        | r => s.answerPart part q.slot r)
      | none =>
        let (r, s) := s.readHome q
        s.answerPart part q.slot r
  | .atom _ q =>
    let (r, s) := s.performAtom { q with dirty := [] }
    s.answerPart part q.slot r
  | _ => s

/-! ### Remote near memory (R93) -/

/-- A service slot's reply to a part's slot, with its cell's fix count (R354).  A request from before its sender's cut that is
performed after the cell's is logged with its answer, which a rollback gives again: what it did is in the copies (R355, log
67). -/
def State.serviceAnswer (s : State) (core part a asked : Nat) (r : Reply) : State :=
  let s := if a < 0x20000 then s.logItem (cellOfCore core) asked (.served part a r) else s
  let count := (s.cell (cellOfCore core)).fixNo
  if part = s.link.pod.k then s.answerAt (slotChan (core * 16 + 15)) a r count else s.toPart part (.reply a r count (some (cellOfCore core)))

/-- The D-core service slot's handler performs the oldest remote access (R93). -/
def execRemoteAccess : Event := fun s =>
  let core := s.cur
  let cell := cellOfCore core
  match (s.core core).remIn with
  | [] => .next s
  | q :: rest =>
    let s := (s.modCore core fun c => { c with remIn := rest, lastRemote := true }).sink cell
    let wrote (p c a : Nat) (s : State) : State := if p = s.link.pod.k then s.sinkFor c a else s
    match q with
    | .mem p q => withMemory q.addrs (fun s =>
        if q.write then
          .next ((wrote p q.cell q.slot (s.nearWrite q.fixCount (q.addrs.zip q.data))).serviceAnswer core p q.slot q.fixCount .done)
        else match (if q.data = [] ∧ !q.addrs.any inHbm then s.scaleCell cell s.link.pod.k q.scale else none), s.poisonAt q.fixCount q.addrs with
          | some d, none =>
            let (bs, s) := (s.noteSoft q.addrs).physRead q.fixCount q.key q.addrs
            .next (s.send clsMemReq (slotChan (core * 16 + 15)) d (.remote d (.mem p { q with data := bs })))
          | some _, some a => .next (s.serviceAnswer core p q.slot q.fixCount (.poisoned (natW a)))
          | none, _ =>
            let (r, s) := s.elemAnswer q
            .next (s.serviceAnswer core p q.slot q.fixCount r)) s
    | .atom p q => withMemory q.addrs (fun s =>
        let (r, s) := s.performAtom q
        .next ((wrote p q.cell q.slot s).serviceAnswer core p q.slot q.fixCount r)) s
    | .join slot addr n =>
      let (left, cont, s) := s.joinAtom n addr
      .next (s.serviceAnswer core s.link.pod.k slot n (if left = 0 then .value cont else .done))
    | .sublist q => .next (s.after 0 (.gatherSublist q) 0)

end Sys2Proof.Machine
end

