-- ==== Sys2Proof/Machine/Streams.lean ====
section
/-! DEFINITION. Stream registers: the forms that map, end and steer them, the copy engine's refills and
drains, and the reads of several doublewords that descriptors and records need (R141 to R144, R231 to
R233). -/

namespace Sys2Proof.Machine

/-! ### Reading several doublewords (log 8) -/

/-- What a read of several doublewords gives: all of them, or how the slot leaves the rotation until more
have come. -/
inductive Words where
  | all (ws : List Word)
  | leave (n : Next)
  deriving DecidableEq, Repr

/-- Reads `n` doublewords from `a` on, each as a `ld.raw.d` would; `latched` came earlier.  DEDUCED (log 88): each of them counts
one read toward the read budget of its line (R92). -/
def readDwords : Nat → Word → List Word → Act Words
  | 0, _, _ => pure (.all [])
  | n + 1, a, w :: rest => do
    match ← readDwords n (a + 8) rest with
    | .all ws => pure (.all (w :: ws))
    | .leave x => pure (.leave x)
  | n + 1, a, [] => do
    let (t, _, _) ← loadCheck true false a 8 true
    let s ← get
    match ← loadFrom s.cur .none 0 t [] with
    | .now v _ => do
      modMe fun sl => { sl with latch := sl.latch ++ [natW v] }
      match ← readDwords n (a + 8) [] with
      | .all ws => pure (.all (natW v :: ws))
      | .leave x => pure (.leave x)
    | .filling => pure (.leave (.leave (.refill (s.missing (cellOf s.cur) t.addrs)) wMem))
    | _ => pure (.leave (.leave .latch wMem))

/-- Reads `n` doublewords for the issuing instruction. -/
def readRecord (a : Word) (n : Nat) : Act Words := do
  let sl ← getSlot
  readDwords n a sl.latch

/-! ### The stream forms (R232) -/

/-- Whether a descriptor is one that `smap` takes (R231, R232). -/
def Stream.valid (x : Stream) : Bool :=
  slice x.dw5 31 16 == 0 && slice x.dw5 11 9 == 0 && slice x.dw5 7 5 == 0 && slice x.dw5 2 2 == 0 &&
  decide (x.total < 2 ^ 48) && !(x.writes && x.budget != 0)

/-- Waits until a write stream has drained. -/
def untilDrained (x : Stream) : Act Unit :=
  if x.mapped ∧ x.writes ∧ x.buf ≠ [] then waitFor wMem else pure ()

/-- The stream with its buffer discarded; a value on its way reaches nobody. -/
def discardBuf (i : Fin 8) : Act Unit := act fun s =>
  (s.disownAll fun _ a => a == streamKey s.cur i.val).modSlot s.cur fun sl =>
    sl.setStream i { sl.streams[i] with buf := [], filling := false, blocked := false }

/-- `smap gD, gA`.  DESIGN CHOICE (log 89): an address that is no multiple of 16 is *bad stream* before the first doubleword is
read, and so before *bad address* and *near range* (R232). -/
def execSmap (g : Guard) (a d : Reg) : State → Host.Outcome State Fault Refusal :=
  issue g (formLen g) do
    let va ← readG a
    match streamIx d with
    | none => pure .seq
    | some i => do
      let sl ← getSlot
      untilDrained sl.streams[i]
      trapIf (va.toNat % 16 != 0) cBadStream va
      match ← readRecord va 6 with
      | .leave n => pure n
      | .all ws => do
        let x : Stream := { Stream.reset with
          mapped := true, dw0 := ws.getD 0 0, dw1 := ws.getD 1 0, dw2 := ws.getD 2 0, dw3 := ws.getD 3 0
          dw4 := ws.getD 4 0, dw5 := ws.getD 5 0 }
        trapIf (!x.valid) cBadStream va
        discardBuf i
        modMe fun sl => sl.setStream i x
        pure .seq

/-- `sunmap gA`. -/
def execSunmap (g : Guard) (a : Reg) : State → Host.Outcome State Fault Refusal :=
  issue g (formLen g) do
    match streamIx a with
    | none => pure .seq
    | some i => do
      let sl ← getSlot
      if !sl.streams[i].mapped then pure .seq
      else do
        untilDrained sl.streams[i]
        discardBuf i
        modMe fun sl => (sl.setStream i Stream.reset).setG a 0
        pure .seq

/-- Elements of the buffer that are here. -/
def Stream.held (x : Stream) : Nat := (x.buf.filter fun e => match e with | .coming .. => false | _ => true).length

/-- The status word of R233. -/
def Stream.status (x : Stream) : Word :=
  let mark := match x.buf with
    | .mark .. :: _ => true
    | .declined :: _ => true
    | _ => false
  if !x.mapped then 0
  else natW (x.pos * 2 ^ 16 + x.held * 2 ^ 8) ||| bitW mark 3 ||| bitW x.done 2 ||| bitW x.writes 1 ||| 1

/-- `sstat gD, gA`. -/
def execSstat (g : Guard) (a d : Reg) : State → Host.Outcome State Fault Refusal :=
  issue g (formLen g) do
    let sl ← getSlot
    writeG d (match streamIx a with | some i => sl.streams[i].status | none => 0)
    pure .seq

/-- `sskip gA, gB`; on a register not in stream mode it has no effect (log 21). -/
def execSskip (g : Guard) (b a : Reg) : State → Host.Outcome State Fault Refusal :=
  issue g (formLen g) do
    let n ← readG b
    match streamIx a with
    | none => pure .seq
    | some i => do
      let sl ← getSlot
      let x := sl.streams[i]
      if !x.mapped then pure .seq
      else do
        trapIf x.writes cStreamMisuse (regNum a)
        discardBuf i
        modMe fun sl => sl.setStream i { sl.streams[i] with pos := min x.total (x.pos + n.toNat) }
        pure .seq

/-- `spref gA`: the slot is held until the buffer is full or holds all up to T. -/
def execSpref (g : Guard) (a : Reg) : State → Host.Outcome State Fault Refusal :=
  issue g (formLen g) do
    match streamIx a with
    | none => pure .seq
    | some i => do
      let sl ← getSlot
      if !sl.streams[i].mapped then pure .seq
      else do
        trapIf sl.streams[i].writes cStreamMisuse (regNum a)
        discardBuf i
        pure (.leave (.prefetch i.val) wMem)

/-- Whether a prefetch is complete (R232). -/
def Stream.prefetched (x : Stream) : Bool := x.held == min 64 (x.total - x.pos)

/-! ### Refill and drain (R141, R143) -/

/-- Whether the copy engine refills a stream now: 16 places free, and then on to the end of the buffer or
the stream (R141). -/
def Stream.wants (x : Stream) : Bool :=
  x.mapped && !x.writes && !x.blocked &&
  (match x.buf.getLast? with | some (.coming ..) => false | _ => true) && decide (x.pos + x.buf.length < x.total) &&
  (decide (x.buf.length ≤ 48) || (x.filling && decide (x.buf.length < 64)))

/-- What one element's read gives. -/
inductive Elem where
  | here (e : SElem)
  | waits (e : SElem)
  | later
  deriving DecidableEq, Repr

/-- The read of the next element, as a load of the slot (R141). -/
def readElem (k : Nat) (i : Fin 8) (x : Stream) : Act Elem := do
  let a := x.addr (x.pos + x.buf.length)
  let (t, f, sc) ← loadCheck (!x.dec) true a x.bytes (!x.dec || x.sgn)
  match ← loadFrom (streamKey k i.val) .none x.budget t sc with
  | .now v e => pure (.here (.val (decodeBytes f v e)))
  | .filling => pure .later
  | .asked => pure (.waits (.coming f [] []))
  | .parts => pure (.waits (.coming f t.addrs []))

/-- Register of stream i. -/
def streamReg (i : Fin 8) : Reg := BitVec.ofNat 5 (20 + i.val)

/-- Up to `n` elements come, in sequence order, until one must wait. -/
def State.refill (k : Nat) (i : Fin 8) : Nat → State → Host.Outcome State Fault Refusal
  | 0, s => .next s
  | n + 1, s =>
    let x := (s.slot k).streams[i]
    if !x.wants then .next s
    else
      let put (e : SElem) (blocked : Bool) (s : State) : State := s.modSlot k fun sl =>
        let x := sl.streams[i]
        sl.setStream i { x with buf := x.buf ++ [e], blocked := blocked, filling := decide (x.buf.length < 63) }
      let block (s : State) : State := s.modSlot k fun sl => sl.setStream i { sl.streams[i] with blocked := true, faulted := false }
      let cl := clusterOf (cellOf k)
      let waiter (kind : Nat) : Waiter := ⟨.stream k (s.slot k).gen.toNat (streamReg i), kind, false, coreOf k⟩
      match readElem k i x { s with cur := k } with
      | .ok (.here e, s') => (put e false s').refill k i n
      | .ok (.waits e, s') => .next (put e true s')
      | .ok (.later, s') => .next (s'.modSlot k fun sl => sl.setStream i { sl.streams[i] with filling := true })
      | .error (.trap c v) => (put (.mark c v) false s).refill k i n
      | .error (.wait _ _) => .next s
      | .error (.miss page kind _) => .next ((block s).ask (s.slot k).ctx page (waiter kind))
      | .error (.fault f _) => .next ((block s).postFault cl f (waiter f.kind))
      | .error (.fixField _ _) => .next s
      | .error .declined => (put .declined false s).refill k i n
      | .error (.remote _ _) => .next s

/-- STREAM_REFILL of the stream that `cur` names, slot · 8 + stream (R141). -/
def execStreamRefill : Event := fun s =>
  let k := s.cur / 8
  let i : Fin 8 := ⟨s.cur % 8, Nat.mod_lt _ (by decide)⟩
  let held := (s.slot k).walkPoison
  match (s.modSlot k fun sl => { sl with walkPoison := none }).refill k i 64 with
  | .next s' => .next (s'.modSlot k fun sl => { sl with walkPoison := held })
  | r => r

/-- The oldest push of a stream is stored (R143).  DEDUCED (log 83): one to a word that has been lost since stores nothing, and the
slot takes *owner lost* at its next issue (R85). -/
def State.drainPush (k : Nat) (i : Fin 8) (s : State) : State :=
  let x := (s.slot k).streams[i]
  match x.buf with
  | .push va addrs part leaf v :: _ =>
    if x.blocked then s
    else
      let t : Target := ⟨va, addrs, part, leaf, 0⟩
      match storeTo (streamKey k i.val) .none t (leBytes addrs.length v.toNat) { s with cur := k } with
      | .ok (.seq, s') => s'.modSlot k fun sl => sl.setStream i sl.streams[i].popped
      | .ok (.leave .plain _, s') => s'.modSlot k fun sl => sl.setStream i { sl.streams[i] with blocked := true }
      | .ok (_, s') => s'
      | .error (.trap _ a) => s.modSlot k fun sl => { sl.setStream i x.popped with owed := some a }
      | .error _ => s
  | _ => s

/-- Number of the drains of ended work 0: above those of slots. -/
abbrev orphanBase : Nat := 0x100000

/-- STREAM_DRAIN of the stream that `cur` names, slot · 8 + stream, or of an ended work's (R143). -/
def execStreamDrain : Event := fun s =>
  let i : Fin 8 := ⟨s.cur % 8, Nat.mod_lt _ (by decide)⟩
  if orphanBase ≤ s.cur then .next (s.withOrphan ((s.cur - orphanBase) / 8) fun k s => s.drainPush k i)
  else .next (s.drainPush (s.cur / 8) i)

end Sys2Proof.Machine
end

