-- ==== Sys2Proof/Machine/Post.lean ====
section
/-! DEFINITION. Sending work and signals: where a form may run (R272), places (R271), task descriptors
(R278, R279), the outbound queues (R280, R309), deferral to commit (R112), and the end of work with its
reply route and join decrement (R158, R159, R279). -/

namespace Sys2Proof.Machine

/-! ### Where a form runs (R272) -/

/-- Traps a form that may not run in a role (`te`) or in a handler (`sm`). -/
def allowedIn (te sm : Bool) : Act Unit := do
  let sl ← getSlot
  match sl.work with
  | .role .. => trapIf te cTxnEffect 0
  | .handler _ => trapIf sm cService 0
  | _ => pure ()

/-- The issuing slot's role of a transaction: number and role code. -/
def myRole : Act (Option (Nat × Nat)) := do
  let sl ← getSlot
  match sl.work with
  | .role num r => pure (some (num, r))
  | _ => pure none

/-! ### Places (R271) -/

/-- Whether a place operand fails; `toSlot` is one that names a slot of any part. -/
def badPlace (mine parts : Nat) (toSlot : Bool) (a : Word) : Bool :=
  let p := a.toNat
  slice a 63 25 != 0 || placeRole p == 3 || (!toSlot && placeSlot p != 0) ||
  (if toSlot then decide (parts ≤ placePart p) else placePart p != mine)

/-- Traps a failing place operand. -/
def checkPlace (toSlot : Bool) (a : Word) : Act Unit := do
  let s ← get
  trapIf (badPlace s.link.pod.k s.link.pod.n toSlot a) cBadPlace a

/-- The place of slot k with its part. -/
def State.place (s : State) (k : Nat) : Nat := s.link.pod.k * 2 ^ 16 + placeLow k

/-! ### Task descriptors (R278, R279) -/

/-- KIND of a reply route. -/
def replyKind (r : Word) : Nat := slice r 63 62
/-- PLACE of a reply route. -/
def replyPlace (r : Word) : Nat := slice r 24 0

/-- Whether a reply route fails R279. -/
def badReply (mine parts : Nat) (r : Word) : Bool :=
  slice r 61 33 != 0 ||
  match replyKind r with
  | 0 => false
  | 1 => slice r 32 27 != 0 || badPlace mine parts true (natW (replyPlace r))
  | 2 => badPlace mine parts false (natW (replyPlace r))
  | _ => true

/-- Whether a descriptor fails R279. -/
def badDescriptor (mine parts : Nat) (ws : List Word) : Bool :=
  let pc := ws.getD 0 0
  let dw6 := ws.getD 6 0
  pc == 0 || pc.toNat % 4 != 0 || slice dw6 63 36 != 0 || slice dw6 35 34 == 3 || ws.getD 7 0 != 0 ||
  badReply mine parts (ws.getD 5 0)

/-- The task of a descriptor, in a context; its stamp comes with its acceptance (R316). -/
def descTask (ctx : Nat) (ws : List Word) : TaskMsg :=
  { pc := ws.getD 0 0, a0 := ws.getD 1 0, a1 := ws.getD 2 0, a2 := ws.getD 3 0, a3 := ws.getD 4 0
    reply := ws.getD 5 0, tag := (ws.getD 6 0).truncate 32, ctx := ctx, stamp := 0 }

/-- QUEUE of a descriptor. -/
def descQueue (ws : List Word) : Nat := slice (ws.getD 6 0) 33 32
/-- ROLE of a descriptor. -/
def descRole (ws : List Word) : Nat := slice (ws.getD 6 0) 35 34

/-- Reads and checks a descriptor. -/
def readDescriptor (va : Word) : Act Words := do
  trapIf (va.toNat % 64 != 0) cBadRecord va
  match ← readRecord va 8 with
  | .leave n => pure (.leave n)
  | .all ws => do
    let s ← get
    trapIf (badDescriptor s.link.pod.k s.link.pod.n ws) cBadRecord va
    pure (.all ws)

/-! ### The outbound queues (R230, R280, R309) -/

/-- Pushes that each write stream of a slot has taken so far. -/
def Slot.pushed (sl : Slot) : List Nat := sl.streams.toList.map fun x => if x.mapped && x.writes then x.pos else 0

/-- The slot whose work sent a message, as it stands or as it ended. -/
def State.senderSlot (s : State) (m : OutMsg) : Slot :=
  if (s.slot m.slot).gen = m.gen then s.slot m.slot
  else match s.orphans.find? fun (e : Nat × Nat × Slot) => e.2.1 = m.slot ∧ e.2.2.gen = m.gen with
    | some (_, _, sl) => sl
    | none => Slot.reset

/-- Whether an early push of a slot to a cell's near memory has not drained (R309). -/
def Slot.pushPends (sl : Slot) (after : List Nat) (cell : Nat) : Bool :=
  (sl.streams.toList.zip after).any fun (e : Stream × Nat) =>
    ((e.1.buf.zipIdx (e.1.pos - e.1.buf.length)).filter fun (p : SElem × Nat) => p.2 < e.2).any fun p =>
      match p.1 with
      | .push _ addrs _ _ _ => addrs.any fun a => placeOf a == .vault cell || placeOf a == .tile cell
      | _ => false

/-- A message enters the outbound task queue of its slot's core. -/
def State.enqueue (s : State) (m : OutMsg) : State :=
  s.modCore (coreOf m.slot) fun c => { c with outbox := c.outbox ++ [m] }

/-- Whether an outbound task queue has room (R280). -/
def State.outboxRoom (s : State) (core : Nat) : Bool := decide ((s.core core).outbox.length < 16)

/-- A message of the issuing slot; `releases` is set for `launch` and `callat` (R309). -/
def outMsg (part : Nat) (core : Option Nat) (releases : Bool) (m : CoreMsg) : Act OutMsg := do
  let s ← get
  let k := s.cur
  pure ⟨part, core, k, (s.slot k).gen, if releases then (s.slot k).pushed else [], ⟨(s.cell (cellOf k)).fixNo, m⟩⟩

/-- A deferred action enters the cell's commit queue of 64 entries (R112); a void has none (R115). -/
def defer (num r : Nat) (d : Deferred) : Act Unit := do
  let s ← get
  let cell := cellOf s.cur
  let n := ((s.seq.txns.filter fun (t : Txn) => t.cell = cell).map fun (t : Txn) => t.queue.length).sum
  trapIf (decide (64 ≤ n)) cTxnEffect 0
  act fun s => s.modTxn num fun t => if t.stage = .void then t else { t with queue := t.queue ++ [(r, d)] }

/-- The signal count rises by one and stops at 0xFFFE (R323). -/
def Slot.signal (sl : Slot) : Slot := { sl with signals := if sl.signals.toNat < 0xFFFE then sl.signals + 1 else sl.signals }

/-- The decrement carries the sender's signal count, itself included (R376). -/
def withSignals (n : Nat) : CoreMsg → CoreMsg
  | .decrement c x p _ => .decrement c x p n
  | m => m

/-- A message with its signal count. -/
def OutMsg.signals (m : OutMsg) (n : Nat) : OutMsg := { m with msg := { m.msg with msg := withSignals n m.msg.msg } }

/-- A signal: deferred in a role, else counted and put in the outbound queue, for whose room it waits
(R272, R280, R323). -/
def signalOut (part : Nat) (core : Nat) (releases : Bool) (m : CoreMsg) : Act Unit := do
  let o ← outMsg part (some core) releases m
  match ← myRole with
  | some (num, r) => defer num r (.post o)
  | none => do
    let s ← get
    if !s.outboxRoom (coreOf s.cur) then waitFor wMem
    modMe Slot.signal
    let sl ← getSlot
    act fun s => s.enqueue (o.signals sl.signals.toNat)

/-- A message leaves its core for the channel. -/
def State.leaveCore (core : Nat) (s : State) (m : OutMsg) : State :=
  match m.core with
  | none => (List.range 3072).foldl (fun (s : State) c => s.send clsTask core c (.core c m.msg)) s
  | some c =>
    if m.part = s.link.pod.k then s.send clsTask core c (.core c m.msg)
    else match m.msg.msg with
      | .mail slot mbox v ctx sender => s.toPart m.part (.mail slot mbox v ctx sender m.msg.fixCount)
      | _ => s

/-- Whether a message may not leave yet: a `launch` or `callat` whose slot still drains a push to the target cell (R309). -/
def State.heldBack (s : State) (m : OutMsg) : Bool :=
  (s.senderSlot m).pushPends m.after (match m.core with | some c => cellOfCore c | none => 0)

/-- The cores to which a slot's messages have been held, when a withdrawal of the slot follows them: it is held toward them too,
since it finds what the slot posted there earlier (R25, R281). -/
def behind (held : List OutMsg) (m : OutMsg) : List Nat :=
  match m.msg.msg with
  | .taskwd .. => ((held.filter fun h => h.slot = m.slot && (m.core.isNone || h.core = m.core)).filterMap fun h => h.core).dedup
  | _ => []

/-- A message goes from an outbound queue as far as it may; `held` are those before it that stay. -/
def State.departOne (core : Nat) (r : State × List OutMsg) (m : OutMsg) : State × List OutMsg :=
  if r.1.heldBack m then (r.1, r.2 ++ [m])
  else match behind r.2 m with
    | [] => (r.1.leaveCore core m, r.2)
    | cs =>
      let free := match m.core with
        | some _ => []
        | none => (List.range 3072).filter fun c => !cs.contains c
      (free.foldl (fun s c => s.leaveCore core { m with core := some c }) r.1, r.2 ++ cs.map fun c => { m with core := some c })

/-- All messages that may leave a core's outbound queues, in order. -/
def State.depart (s : State) (core : Nat) : State :=
  let (s, held) := (s.core core).outbox.foldl (State.departOne core) (s, [])
  let s := s.modCore core fun c => { c with outbox := held }
  let ams := (s.core core).amOut
  let s := s.modCore core fun c => { c with amOut := [] }
  ams.foldl (fun s (e : Nat × Nat × AmMsg) =>
    if e.1 = s.link.pod.k then s.send clsAm core e.2.1 (.am e.2.1 e.2.2)
    else s.toPart e.1 (.am e.2.1 e.2.2)) s

/-! ### The end of work (R158, R159, R212, R279) -/

/-- Virtual address, in its own cell, of an address of a vault (R73). -/
def vaultVa (cell a : Nat) : Word := natW (nearWindow + 0x800000 + (a - vaultBase - cell * 0x800000))

/-- A release or acquire at part scope inside an `exit`. -/
def partOrder (acq : Bool) (ctx t : Nat) : OrderOp :=
  { acq, rel := !acq, all := true, lo := 0, hi := 0, ctx, due := t + 64, relSent := false, todo := [], wait := [] }

/-- `exit` (R212): a transaction role's end is given by `endRole`. -/
def exitWork (endRole : Nat → State → State) : Act Next := do
  let sl ← getSlot
  let s ← get
  let leave : Next := .leave (.leaving (partOrder false sl.ctx s.cycle)) wMem
  match sl.work with
  | .role _ _ => do
    act fun s => endRole s.cur s
    pure .stay
  | .share _ _ _ => pure leave
  | .task reply =>
    if replyKind reply ≠ 0 then pure leave
    else do
      act fun s => s.exitSlot s.cur
      pure .stay
  | _ => do
    act fun s => s.exitSlot s.cur
    pure .stay

/-- Sends a task's reply route (R279). -/
def sendReply (reply : Word) : Act Unit := do
  let s ← get
  let k := s.cur
  let sl := s.slot k
  let p := replyPlace reply
  match replyKind reply with
  | 1 =>
    signalOut (placePart p) (placeCore p) false
      (CoreMsg.mail (placeKey p) (slice reply 26 25) (sl.g 4) sl.ctx (s.place k))
  | 2 =>
    signalOut (placePart p) (placeCell p * 3) false (CoreMsg.decrement (slice reply 32 25) sl.ctx (s.place k) 0)
  | _ => pure ()

/-- Slot k continues as the continuation of a range fork, after its last share (R159, log 23). -/
def State.continueFork (s : State) (k : Nat) (cont : Word) : State :=
  match (s.slot k).work with
  | .share cell join outer => s.modSlot k fun sl =>
      { (sl.setG 4 (vaultVa cell join)).setG 5 (natW join) with
        run := .run, pend := .none, faultWait := none, pc := cont, carry := [], work := outer }
  | _ => s

/-- What follows a join decrement: the last share acquires and then continues, another ends (R159). -/
def State.joined (s : State) (k : Nat) (last : Option Word) : State :=
  match last with
  | none => (s.modSlot k fun sl => { sl with run := .run, pend := .none }).exitSlot k
  | some cont => s.modSlot k fun sl =>
      { sl with run := .wait wMem, pend := .rejoin (partOrder true sl.ctx s.cycle) cont }

/-- The decrement of a share whose release is done (R159). -/
def State.joinDecrement (s : State) (k cell join : Nat) : State :=
  let count := (s.cell (cellOf k)).fixNo
  if cellOf k = cell then
    let (left, cont, s) := s.joinAtom count join
    (s.sink cell).joined k (if left = 0 then some cont else none)
  else (s.modSlot k fun sl => { sl with run := .wait wMem, pend := .joining }).send clsMemReq (slotChan k) cell
    (.remote cell (.join k join count))

/-- The release of an `exit` is done: the join decrement or the reply route follows. -/
def State.leaveDone (s : State) (k : Nat) : Host.Outcome State Fault Refusal :=
  let s := { s with cur := k }
  match (s.slot k).work with
  | .share cell join _ =>
    if cellOf k = cell ∧ s.poolStops (s.cell cell).fixNo (addrsFrom join 8) then .next (s.after 1 (.memoryReplyArrival k .done) 0)
    else .next (s.joinDecrement k cell join)
  | .task reply => match sendReply reply s with
    | .ok (_, s) => .next ((s.modSlot k fun sl => { sl with run := .run, pend := .none }).exitSlot k)
    | .error _ => .next (s.after 1 (.memoryReplyArrival k .done) 0)
  | _ => .next (s.exitSlot k)

end Sys2Proof.Machine
end

