-- ==== Sys2Proof/Machine/Replies.lean ====
section
/-! DEFINITION. MEMORY_REPLY_ARRIVAL: what a reply brings to the slot or stream that waits for it (R45,
R85, R146), and the ends of divides and square roots (R193, R203). -/

namespace Sys2Proof.Machine

/-- The reply's fault, if it has one: a trap with the word's address, or, where another part's memory is barred, with the
address that the access named (R45, R85, R365). -/
def replyTrap : Reply → Option (Nat × Word)
  | .poisoned a => some (cUncorrectable, a)
  | .lost a => some (cOwnerLost, a)
  | .barred a => some (cWorld, a)
  | .block _ (a :: _) => some (cUncorrectable, natW (a / 8 * 8))
  | _ => none

/-- The value of a reply. -/
def replyValue : Reply → Word
  | .value v => v
  | .elem v _ => v
  | .block bs _ => natW (leNat (bs.map (·.2)))
  | _ => 0

/-- The scale bytes that came with an element (R44). -/
def replyScale : Reply → Nat
  | .elem _ e => e
  | _ => 0

/-- The pieces that have come, with those of a reply. -/
def gathered (got : List (Nat × Byte)) : Reply → List (Nat × Byte)
  | .block bs _ => got ++ bs
  | _ => got

/-- The value of an access from its pieces, once all have come. -/
def pieced (as : List Nat) (got : List (Nat × Byte)) : Option Nat :=
  if as.all fun a => got.any fun e => e.1 = a then
    some (leNat (as.map fun a => ((got.find? fun e => e.1 = a).map (·.2)).getD 0))
  else none

/-- The slot goes on with its instruction, which has been counted (log 8). -/
def State.again (s : State) (k : Nat) : State :=
  s.modSlot k fun sl => { sl with run := .run, pend := .none, counted := true, pops := [] }

/-- A load's value reaches its register. -/
def State.finishLoad (s : State) (k : Nat) (d : Reg) (f : Dec) (v e : Nat) : Host.Outcome State Fault Refusal :=
  let w := decodeBytes f v e
  s.complete k (.write d w) (writeG d w)

/-- A load of several pieces has them all: it reads the scale bytes of its element where they live (R44, log 20). -/
def State.finishGather (s : State) (k : Nat) (d : Reg) (f : Dec) (v : Nat) (sc : List Nat) (key : Nat) :
    Host.Outcome State Fault Refusal :=
  match readScale sc key { s with cur := k } with
  | .ok (e, s) => s.finishLoad k d f v e
  | .error (.trap c a) => .next (s.trapEntry k c a)
  | .error _ => .next s

/-- A fill that a load waited for has come: the load reads L1 and the scale bytes of its element, goes on as an instruction
whose scale bytes a service slot reads, or asks again for a line that has gone. -/
def State.finishFill (s : State) (k : Nat) (d : Reg) (f : Dec) (as sc : List Nat) (key : Nat) :
    Host.Outcome State Fault Refusal :=
  let s := { s with cur := k }
  if s.l1Valid (cellOf k) as then
    if (s.scaleCell (cellOf k) s.link.pod.k sc).isSome then .next (s.again k)
    else
      let read : Act (Nat × Nat) := do
        let v ← readL1 as
        let e ← readScale sc key
        pure (v, e)
      match read s with
      | .ok ((v, e), s) => s.finishLoad k d f v e
      | .error (.trap c a) => .next (s.trapEntry k c a)
      | .error _ => .next s
  else if (s.missing (cellOf k) as).any fun l => !(s.cell (cellOf k)).fills.any fun q => q.line = l then
    .next (s.again k)
  else .next s

/-- A push of an ended work has been performed, or its word was lost: the next one may follow (R143). -/
def State.orphanReply (s : State) (a : Nat) : State :=
  let i : Fin 8 := ⟨a % 8, Nat.mod_lt _ (by decide)⟩
  match s.orphans.find? fun (e : Nat × Nat × Slot) => e.2.1 = (a - 0x20000) / 8 ∧ (e.2.2.streams[i]).blocked with
  | some (n, _, _) => s.withOrphan n fun k s => s.modSlot k fun sl => sl.setStream i (sl.streams[i]).popped
  | none => s

/-- A value reaches a stream. -/
def State.streamReply (s : State) (a : Nat) (r : Reply) : State :=
  let k := (a - 0x20000) / 8
  let i : Fin 8 := ⟨a % 8, Nat.mod_lt _ (by decide)⟩
  let x := (s.slot k).streams[i]
  if ofWrite r ∧ s.orphanWaits a then s.orphanReply a else
  let set (e : SElem) (s : State) : State := s.modSlot k fun sl =>
    sl.setStream i { sl.streams[i] with buf := sl.streams[i].buf.dropLast ++ [e], blocked := false }
  if x.writes then s.modSlot k fun sl =>
    let sl := sl.setStream i x.popped
    match r with
    | .lost a => { sl with owed := some a }
    | _ => sl
  else match x.buf.getLast?, replyTrap r with
    | some (.coming ..), some (c, v) => set (.mark c v) (s.disownAll fun _ x => x == a)
    | some (.coming f [] _), none => set (.val (decodeBytes f (replyValue r).toNat (replyScale r))) s
    | some (.coming f as got), none =>
      match pieced as (gathered got r) with
      | some v => set (.val (decodeBytes f v 0)) s
      | none => s.modSlot k fun sl => sl.setStream i
          { sl.streams[i] with buf := sl.streams[i].buf.dropLast ++ [.coming f as (gathered got r)] }
    | _, _ => s

/-- A reply from another part reaches the engine that waits for it (R137). -/
def State.engineReply (s : State) (a : Nat) (r : Reply) : State :=
  let f (x : Running) : Running := { x with latch := x.latch ++ [r], missing := x.missing.filter (· ≠ noSlot) }
  s.modCell ((a - engBase) / 5) fun c => c.modEng ⟨(a - engBase) % 5, Nat.mod_lt _ (by decide)⟩ fun y =>
    { y with cur := y.cur.map f }

/-- A write of an engine's operation is acknowledged; a word that was lost while it was on its way ends the operation where it
stands (R85, R137, log 81). -/
def State.engineAck (s : State) (a : Nat) (r : Reply) : State :=
  let f (x : Running) : Running :=
    let y := { x with acks := x.acks - 1 }
    match r, x.fault with
    | .lost w, none => { y with fault := some (x.at_, cOwnerLost, w), at_ := x.at_ + 2 ^ 40 }
    | _, _ => y
  s.modCell ((a - ackBase) / 5) fun c => c.modEng ⟨(a - ackBase) % 5, Nat.mod_lt _ (by decide)⟩ fun y =>
    { y with cur := y.cur.map f }

/-- A block of code that the fetch port asked another cell or part for goes to the slots that wait for it (R29, R155). -/
def State.fetchReply (s : State) (k : Nat) (r : Reply) : State :=
  let cl := clusterOf (cellOf k)
  match (s.cluster cl).freqs.find? fun q => q.slot = k ∧ q.sel.isSome, r with
  | some q, .block bs bad =>
    let words := (List.range 16).filter fun w => (bs.drop (4 * w)).take 4 |>.any fun e => bad.contains e.1
    s.thenDo (.fetchBlockDelivery cl q.ctx q.block none (bs.map (·.2)) words) (q.sel.getD 0)
  | some q, .barred a =>
    (s.modCluster cl fun c => { c with freqs := c.freqs.filter fun x => !(x.sel.isSome && x.ctx == q.ctx && x.block == q.block) }).trapEntry k cWorld a
  | _, _ => s

/-- MEMORY_REPLY_ARRIVAL (R146). -/
def execMemoryReplyArrival (k : Nat) (r : Reply) : Event := fun s =>
  if ringBase ≤ k then .next (s.modCore ((k - ringBase) / 4) fun c =>
    { c with ringRead := c.ringRead.set (k % 4) (.got r) (Nat.mod_lt _ (by decide)) })
  else if 0x400000 ≤ k then .next (s.fetchReply (k - 0x400000) r)
  else if ackBase ≤ k then .next (s.engineAck k r)
  else if engBase ≤ k then .next (s.engineReply k r)
  else if 0x20000 ≤ k then .next (s.streamReply k r)
  else
    let p := (s.slot k).pend
    let s := s.logReply k r
    match p, replyTrap r with
    | .none, _ => .next s
    | .gather .., some (c, a) => .next ((s.disownAll fun _ x => x == k).trapEntry k c a)
    | .through .., some (c, a) => .next ((s.disownAll fun _ x => x == k).trapEntry k c a)
    | _, some (c, a) => .next (s.trapEntry k c a)
    | .write d v, none => s.complete k p (writeG d v)
    | .fwrite d v fl sub, none => s.complete k p (do writeG d v; setFlags fl; skipIf sub)
    | .plain, none => s.complete k p (pure ())
    | .word d, none => s.complete k (.write d (replyValue r)) (writeG d (replyValue r))
    | .bar d _, none => s.complete k (.write d (replyValue r)) (writeG d (replyValue r))
    | .fix d _, none => s.complete k (.write d (replyValue r)) (writeG d (replyValue r))
    | .txwd d _ _, none => s.complete k (.write d (replyValue r)) (writeG d (replyValue r))
    | .atom d z, none =>
      let w := atomResult z (replyValue r).toNat
      s.complete k (.write d w) (writeG d w)
    | .load d f, none => s.finishLoad k d f (replyValue r).toNat (replyScale r)
    | .gather d f as got sc key, none =>
      match pieced as (gathered got r) with
      | some v => s.finishGather k d f v sc key
      | none => .next (s.modSlot k fun sl => { sl with pend := .gather d f as (gathered got r) sc key })
    | .through n bs, none =>
      if 1 < n then .next (s.modSlot k fun sl => { sl with pend := .through (n - 1) bs })
      else (s.l1Performed (cellOf k) bs).complete k .plain (pure ())
    | .fill d f as sc key, none => s.finishFill k d f as sc key
    | .refill _, none => .next (s.again k)
    | .room _, none => .next (s.again k)
    | .retry, none => .next (s.again k)
    | .latch, none => .next ((s.modSlot k fun sl => { sl with latch := sl.latch ++ [replyValue r] }).again k)
    | .prefetch _, none => s.complete k p (pure ())
    | .order o, none => (s.orderDone k o).complete k .plain (pure ())
    | .inspect, none => .next (s.modSlot k fun sl => { sl with run := .run, pend := .none })
    | .leaving _, none => s.leaveDone k
    | .joining, none => .next (s.joined k (match r with | .value cont => some cont | _ => none))
    | .rejoin o cont, none => .next ((s.orderDone k o).continueFork k cont)
    | _, none => .next s

/-- INTEGER_DIVIDE_COMPLETE of the slot that `cur` names (R193). -/
def execIntegerDivideComplete : Event := fun s =>
  match (s.slot s.cur).pend with
  | .write d v => s.complete s.cur (.write d v) (writeG d v)
  | _ => .next s

/-- FP_DIVIDE_COMPLETE of the slot that `cur` names (R203). -/
def execFpDivideComplete : Event := fun s =>
  match (s.slot s.cur).pend with
  | .fwrite d v fl sub => s.complete s.cur (.fwrite d v fl sub) (do writeG d v; setFlags fl; skipIf sub)
  | _ => .next s

end Sys2Proof.Machine
end

