-- ==== Sys2Proof/Machine/Geometry.lean ====
section
/-! DEFINITION. The geometry of tiles: their layout in the tile store (R42, R61, R125), the global tiles that
they stand for (R97, R99), and footprints (R101). -/

namespace Sys2Proof.Machine

/-! ### Tiles in the tile store (R125) -/

/-- Row length in bytes. -/
def rowBytes (plane : Bool) (fmt cols : Nat) : Nat :=
  if plane then (if isBfx fmt then cols / 32 * (4 * (fmtBits fmt + 1)) else cols)
  else if isBfx fmt then cols / 32 * (4 * fmtBits fmt + 2)
  else cols * elemBytes fmt

/-- Whether a format and layout are allowed, with that many columns (R125). -/
def layoutOk (plane : Bool) (fmt cols : Nat) : Bool :=
  decide (fmt ≤ 8) && (!plane || isBfx fmt || fmt == 1) && (!(plane || isBfx fmt) || cols % 32 == 0)

/-- Size in 256-byte units. -/
def tileUnits (plane : Bool) (fmt cols rows : Nat) : Nat := (rows * rowBytes plane fmt cols + 255) / 256

/-- Row length of a tile-table entry. -/
def Tile.rb (t : Tile) : Nat := rowBytes t.plane t.fmt t.cols
/-- Tile-store offset of a tile's first byte. -/
def Tile.at_ (t : Tile) : Nat := t.base * 256

/-- Local address of a byte of a cell's tile store. -/
def tileAddr (cell off : Nat) : Nat := tileBase + cell * 0x200000 + off

/-! ### Units of a global tile: one element, or one BFX block -/

/-- Bytes of a unit. -/
def unitBytes (fmt : Nat) : Nat := if isBfx fmt then blockBytes fmt else elemBytes fmt
/-- Units in a row. -/
def rowUnits (fmt cols : Nat) : Nat := if isBfx fmt then cols / 32 else cols
/-- Bytes of a row in global memory. -/
def globalRow (fmt cols : Nat) : Nat := rowUnits fmt cols * unitBytes fmt
/-- Distance between rows on a plain page (R99); `pitch` counts 16 bytes. -/
def rowPitch (fmt cols pitch : Nat) : Nat := if pitch = 0 then globalRow fmt cols else pitch * 16

/-- A global tile: shape, format, view, address of element (0, 0) and row distance (R97). -/
structure GTile where
  va : Word
  fmt : Nat
  view : Nat
  rows : Nat
  cols : Nat
  pitch : Nat
  deriving DecidableEq, Repr

/-- View index of unit (r, b) minus that of unit (0, 0), counted in units, where VA stands at index q0 of the
region (R99); none where the unit leaves the region.  The rows of a BFX tile run along the blocks. -/
def regionStep (g : Region) (geom : Bool) (t : GTile) (q0 r b : Nat) : Option Int :=
  if 3 ≤ g.ecode then
    let per := if geom then g.nr / 32 else g.nc / 32
    let lines := if geom then g.nc else g.nr
    if per ≤ q0 % per + b ∨ lines ≤ q0 / per + r then none
    else some ((q0 + r * per + b : Nat) - (q0 : Nat) : Int)
  else
    let (i0, j0) := viewElem g t.view q0
    let (i, j) := if t.view = 1 then (i0 + b, j0 + r) else (i0 + r, j0 + b)
    if g.nr ≤ i ∨ g.nc ≤ j then none
    else some ((elemView g t.view i j : Int) - (elemView g t.view i0 j0 : Int))

/-- Bytes of a region's element, or of its BFX block. -/
def regionUnit (g : Region) : Nat := if 3 ≤ g.ecode then blockBytes (g.ecode + 2) else ecodeBytes g.ecode

/-- Distance in bytes from VA to unit (r, b) (R99); `l` is the leaf of VA, `g` its region. -/
def unitOffset (t : GTile) (l : Leaf) (g : Option Region) (r b : Nat) : Option Int :=
  let u := unitBytes t.fmt
  if lRegion l = 0 then some ((r * rowPitch t.fmt t.cols t.pitch + b * u : Nat) : Int)
  else match g with
    | none => none
    | some g => (regionStep g (lGeom l) t (viewOff l t.va.toNat / regionUnit g) r b).map (· * (regionUnit g : Int))

/-- Address of the unit that VA names: on a region page the first byte of the region element that VA lies in (R38, R99). -/
def unitStart (t : GTile) (l : Leaf) (g : Option Region) : Word :=
  match g with
  | some g => if lRegion l = 0 then t.va else t.va - natW (viewOff l t.va.toNat % regionUnit g)
  | none => t.va

/-- Virtual address of unit (r, b). -/
def unitVa (t : GTile) (l : Leaf) (g : Option Region) (r b : Nat) : Option Word :=
  (unitOffset t l g r b).map fun o => unitStart t l g + wordOfInt o

/-- Rows and units of a tile in element order (R133). -/
def unitsOf (fmt rows cols : Nat) : List (Nat × Nat) :=
  (List.range rows).flatMap fun r => (List.range (rowUnits fmt cols)).map fun b => (r, b)

/-- Tile offset of unit (r, b) of a row-form tile, and that of its scale bytes. -/
def unitOff (fmt cols r b : Nat) : Nat := r * rowBytes false fmt cols + b * unitBytes fmt
def scaleOff (fmt cols r b : Nat) : Nat := r * rowBytes false fmt cols + cols / 32 * blockBytes fmt + 2 * b

/-! ### Bytes of a bound descriptor (R99, R100) -/

/-- Pod physical address of a virtual address on a plain page, through captured leaves. -/
def podByte (ls : List Leaf) (va : Nat) : Option Nat :=
  (ls.find? fun l => leafCovers l l.ctx (pageOf va)).map fun l => lFrame l + (va % 2 ^ 56 - l.vbase)

/-- View offset of unit (r, b) of a tile on a region page: that of its region element (R99), wherever the later pages of the tile
stand in the region. -/
def unitView (t : GTile) (l : Leaf) (g : Region) (r b : Nat) : Option Nat :=
  let v := viewOff l t.va.toNat
  (unitOffset t l (some g) r b).map fun o => (((v - v % regionUnit g : Nat) : Int) + o).toNat

/-- Pod address of byte v of a region's view; none at or past its end. -/
def podView (mine : Nat) (l : Leaf) (g : Region) (v : Nat) : Option Nat :=
  if viewSize g ≤ v then none else some (mine * 2 ^ 51 + viewByte g (lView l) v)

/-- Pod address of the first scale byte of the block of a format that starts at a virtual address, at a view offset on a region page;
none where no block starts there (R42, R44).  A raw plain page takes the descriptor's format.  DEDUCED (log 105): R100 has VA be the
start of a block; a row that PITCH puts elsewhere makes the record a bad one too. -/
def podScale (mine : Nat) (ls : List Leaf) (fmt va : Nat) (v : Option Nat) : Option Nat :=
  match ls.find? fun l => leafCovers l l.ctx (pageOf va) with
  | none => none
  | some l =>
    let n4 := blockBytes fmt
    let off := v.getD (va % 2 ^ 56 - l.vbase)
    if n4 = 0 ∨ off % n4 ≠ 0 ∨ (lRegion l = 0 ∧ leafBytes l / n4 ≤ off / n4) then none
    else some ((if lRegion l = 0 then addrPart (lFrame l) else mine) * 2 ^ 51 + lScale l + 2 * (off / n4))

/-- The global tile of a descriptor (R97). -/
def TileDesc.gtile (d : TileDesc) : GTile :=
  { va := d.va, fmt := slice d.dw1 27 24, view := slice d.dw1 29 28, rows := slice d.dw1 11 0
    cols := slice d.dw1 23 12, pitch := slice d.dw1 63 47 }
/-- Target handle of a descriptor. -/
def TileDesc.handle (d : TileDesc) : Nat := 32 + slice d.dw1 34 30
/-- Tile-store offset of a descriptor's tile, in 256-byte units (R98). -/
def TileDesc.base (d : TileDesc) : Nat := 0x1000 + slice d.dw1 46 35
/-- Size of a descriptor's tile in 256-byte units. -/
def TileDesc.units (d : TileDesc) : Nat :=
  let t := TileDesc.gtile d
  tileUnits false t.fmt t.cols t.rows

/-- Leaf of a descriptor's VA. -/
def firstLeaf (b : TileBind) : Leaf :=
  (b.leaves.find? fun l => leafCovers l l.ctx (pageOf b.desc.va.toNat)).getD ⟨0, 0, 0, 0, 0⟩

/-- Bytes of one unit of a bound tile: tile-store offset within the tile, and pod address. -/
def unitPairs (mine : Nat) (b : TileBind) (r u : Nat) : List (Nat × Option Nat) :=
  let t := TileDesc.gtile b.desc
  let l := firstLeaf b
  let v := b.region.bind fun g => unitView t l g r u
  match unitVa t l b.region r u with
  | none => [(0, none)]
  | some va =>
    let data := (List.range (unitBytes t.fmt)).map fun i =>
      (unitOff t.fmt t.cols r u + i, match b.region with
        | some g => v.bind fun v => podView mine l g (v + i)
        | none => podByte b.leaves (va + natW i).toNat)
    if isBfx t.fmt then
      let sc := podScale mine b.leaves t.fmt va.toNat v
      data ++ [(scaleOff t.fmt t.cols r u, sc), (scaleOff t.fmt t.cols r u + 1, sc.map (· + 1))]
    else data

/-- Bytes of a bound tile: tile-store offset within the tile, and pod address. -/
def bindBytes (mine : Nat) (b : TileBind) : List (Nat × Nat) :=
  let t := TileDesc.gtile b.desc
  ((unitsOf t.fmt t.rows t.cols).flatMap fun e => unitPairs mine b e.1 e.2).filterMap fun e =>
    e.2.map fun a => (e.1, a)

/-- Granules of a bound tile's footprint (R101): on a region page that is not BFX, those of every stored
16 × 16 block with an element of the tile. -/
def footprint (mine : Nat) (b : TileBind) : List Nat :=
  let as := (bindBytes mine b).map (·.2)
  match b.region with
  | some g =>
    if 3 ≤ g.ecode then (as.map (· / 256)).dedup
    else
      let e := ecodeBytes g.ecode
      let base := mine * 2 ^ 51 + g.base
      let blocks := (as.map fun a => (a - base) / (256 * e)).dedup
      blocks.flatMap fun k => (List.range e).map fun i => base / 256 + k * e + i
  | none => (as.map (· / 256)).dedup

end Sys2Proof.Machine
end

