-- ==== Sys2Proof/Machine/TxnCheck.lean ====
section
/-! DEFINITION. Transaction records: reading, checking and translating them (R96 to R101, R273, R274). -/

namespace Sys2Proof.Machine

/-! ### The record (R96, R97) -/

/-- NRD and NWR. -/
def nRead (ws : List Word) : Nat := slice (ws.getD 8 0) 4 0
def nWrite (ws : List Word) : Nat := slice (ws.getD 8 0) 12 8

/-- Index of the first offending doubleword of a header (R100); `follow` is set for `txsubf` (R274). -/
def headerOffence (follow : Bool) (ws : List Word) : Option Nat :=
  let w (i : Nat) : Word := ws.getD i 0
  let bad (i : Nat) : Bool :=
    if i = 0 then (w 0 == 0 && w 1 == 0 && w 2 == 0) || (w 0).toNat % 4 != 0
    else if i ≤ 2 then (w i).toNat % 4 != 0
    else if i = 8 then
      slice (w 8) 31 30 != 0 || slice (w 8) 17 13 != 0 || slice (w 8) 7 5 != 0 || decide (16 < nRead ws) ||
      decide (16 < nWrite ws) || (bitOf (w 8) 18 && (nWrite ws != 0 || follow))
    else if i = 9 then (w 9).toNat % 16 != 0
    else decide (10 ≤ i) && w i != 0
  (List.range 16).find? bad

/-- The descriptors among doublewords 16 on. -/
def descriptors : List Word → List TileDesc
  | a :: b :: rest => ⟨a, b⟩ :: descriptors rest
  | _ => []

/-- The record of a header and its entries. -/
def makeRecord (ws : List Word) : TxRec :=
  let ds := descriptors (ws.drop 16)
  { pcd := ws.getD 0 0, pcc := ws.getD 1 0, pca := ws.getD 2 0, a0 := ws.getD 3 0, a1 := ws.getD 4 0
    a2 := ws.getD 5 0, a3 := ws.getD 6 0, dw7 := ws.getD 7 0, dw8 := ws.getD 8 0, out := ws.getD 9 0
    reads := ds.take (nRead ws), writes := (ds.drop (nRead ws)).take (nWrite ws) }

/-- Whether a descriptor's own fields fail R100. -/
def badFields (d : TileDesc) : Bool :=
  let t := TileDesc.gtile d
  t.view == 3 || decide (8 < t.fmt) || t.rows == 0 || t.cols == 0 || (isBfx t.fmt && t.cols % 32 != 0) ||
  decide (0x2000 < TileDesc.base d + TileDesc.units d)

/-- Whether two descriptors' tiles overlap in the tile store. -/
def tilesOverlap (a b : TileDesc) : Bool :=
  decide (TileDesc.base a < TileDesc.base b + TileDesc.units b) &&
  decide (TileDesc.base b < TileDesc.base a + TileDesc.units a)

/-- Whether a descriptor clashes with an earlier one: a handle twice in a set, or in both with descriptors
that differ, or distinct handles whose tiles overlap (R100). -/
def clashes (sameSet : Bool) (d e : TileDesc) : Bool :=
  if TileDesc.handle d = TileDesc.handle e then sameSet || d != e else tilesOverlap d e

/-! ### Pages of a tile (R100) -/

/-- Pages of the units of a tile, first to last byte; none where a unit leaves its region. -/
def tilePages (t : GTile) (l : Leaf) (g : Option Region) : Option (List Nat) :=
  (unitsOf t.fmt t.rows t.cols).foldl (fun r e => match r, unitVa t l g e.1 e.2 with
    | some ps, some va =>
      let p := pageOf va.toNat
      let q := pageOf (va + natW (unitBytes t.fmt - 1)).toNat
      some ((if ps.contains p then ps else ps ++ [p]) ++ (if p = q ∨ ps.contains q then [] else [q]))
    | _, _ => none) (some [])

/-- Whether a unit's bytes are canonical addresses outside the near window. -/
def unitReach (t : GTile) (l : Leaf) (g : Option Region) : Bool :=
  (unitsOf t.fmt t.rows t.cols).all fun e => match unitVa t l g e.1 e.2 with
    | some va =>
      let z := (va + natW (unitBytes t.fmt - 1)).toNat
      canonical va.toNat && canonical z && !isNear va.toNat && !isNear z
    | none => false

/-- Leaves of pages, for an access of a kind. -/
def leavesFor (kind : Nat) : List Nat → Act (List Leaf)
  | [] => pure []
  | p :: rest => do
    let l ← leafFor (natW (p * 65536)) p kind
    let t ← leavesFor kind rest
    pure (if t.contains l then t else l :: t)

/-- Whether a page disagrees with a descriptor's FMT, VIEW or PITCH (R100). -/
def pageDiffers (t : GTile) (l : Leaf) (g : Option Region) : Bool :=
  lView l != t.view ||
  match g with
  | none => (lFmt l != 0 && lFmt l != t.fmt) || t.view != 0 ||
      (t.pitch != 0 && decide (t.pitch * 16 < globalRow t.fmt t.cols))
  | some g => t.pitch != 0 ||
      (if lFmt l = 0 then !fmtAgrees g.ecode t.fmt || (t.fmt == 0 && g.ecode != 0) else lFmt l != t.fmt)

/-- Whether, on a region page, VA is not the start of a BFX block, or not at a corner that a tiled view allows (R100). -/
def badOrigin (t : GTile) (l : Leaf) (g : Option Region) : Bool :=
  match g with
  | none => false
  | some g =>
    let v := viewOff l t.va.toNat
    (isBfx t.fmt && v % unitBytes t.fmt != 0) ||
    (t.view == 2 && (let (i, j) := viewElem g 2 (v / regionUnit g); i % 32 != 0 || j % 32 != 0))

/-- Whether a pod address is memory that a tile may reach (R100). -/
def tileMay (a : Nat) : Bool :=
  match placeOf (localAddr a) with
  | .hbm => true
  | .vault _ => true
  | _ => false

/-- What a check has still to ask another part, or its result with the answers that are left. -/
inductive Checked (α : Type) where
  | ask (part : Nat) (as : List Nat)
  | ok (x : α) (answers : List Word)

/-- The parts that hold bytes of a tile and are not this one, with those bytes. -/
def farBytes (mine : Nat) (as : List Nat) : List (Nat × List Nat) :=
  let far := as.filter fun a => addrPart a != mine
  ((far.map addrPart).dedup).map fun p => (p, (far.filter fun a => addrPart a = p).map localAddr)

/-- Which part has still to be asked whether its secure ranges hold bytes of a tile, and what the answers so far say (R365). -/
def asked : List (Nat × List Nat) → List Word → Checked Bool
  | [], ws => .ok true ws
  | (p, as) :: _, [] => .ask p as
  | _ :: rest, w :: ws => if w = 0 then asked rest ws else .ok false ws

/-- Checks one descriptor at `va` and translates it (R100); a non-secure slot asks every other part that the tile reaches for its
secure ranges, and `answers` came earlier (R365, log 107). -/
def checkTile (write : Bool) (va : Word) (d : TileDesc) (answers : List Word) : Act (Checked TileBind) := do
  let t := TileDesc.gtile d
  trapIf (!canonical d.va.toNat || isNear d.va.toNat) cBadRecord va
  trapIf (badFields d) cBadRecord (va + 8)
  let kind := if write then 1 else 0
  let l0 ← leafFor d.va (pageOf d.va.toNat) kind
  let s ← get
  let g := if lRegion l0 = 0 then none else s.region (lRegion l0)
  trapIf (badOrigin t l0 g || !unitReach t l0 g) cBadRecord va
  match tilePages t l0 g with
  | none => trap cBadRecord va
  | some ps => do
    let ls ← leavesFor kind ps
    let s ← get
    let k := s.cur
    let b : TileBind := ⟨d, ls, g⟩
    let mine := s.link.pod.k
    let pairs := (unitsOf t.fmt t.rows t.cols).flatMap fun e => unitPairs mine b e.1 e.2
    trapIf (ls.any fun l => permFails (s.privOf k) kind l || s.worldFails (s.secureOf k) (some l) [] ||
      lRegion l != lRegion l0) cBadRecord va
    trapIf (pairs.any fun e => match e.2 with
      | some a => !tileMay a || (addrPart a == mine && s.worldFails (s.secureOf k) none [localAddr a])
      | none => true) cBadRecord va
    match asked (if s.secureOf k then [] else farBytes mine (pairs.filterMap (·.2))) answers with
    | .ask p as => pure (.ask p as)
    | .ok good answers => do
      trapIf (!good) cBadRecord va
      trapIf (ls.any fun l => pageDiffers t l g) cBadRecord (va + 8)
      act fun s => if lRegion l0 = 0 then s else s.useRegion (lRegion l0)
      pure (.ok b answers)

/-- Checks descriptors in order; `seen` are the earlier ones with their set. -/
def checkTiles : List (Bool × TileDesc) → Word → List (Bool × TileDesc) → List Word → Act (Checked (List TileBind))
  | [], _, _, ws => pure (.ok [] ws)
  | (w, d) :: rest, va, seen, ws => do
    match ← checkTile w va d ws with
    | .ask p as => pure (.ask p as)
    | .ok b ws => do
      trapIf (seen.any fun e => clashes (e.1 == w) d e.2) cBadRecord (va + 8)
      match ← checkTiles rest (va + 16) (seen ++ [(w, d)]) ws with
      | .ask p as => pure (.ask p as)
      | .ok t ws => pure (.ok (b :: t) ws)

/-- A record that is read and checked, or how the slot leaves the rotation until more of it has come. -/
inductive RecordRead where
  | sub (x : Submission)
  | leave (n : Next)
  deriving DecidableEq, Repr

/-- Reads, checks and translates the record at `va` (R100, R273, R274).  DESIGN CHOICE (log 110): a secure AFFCELL of a non-secure
slot's record is an offence of doubleword 8, found after those of the header (R365). -/
def readTransaction (follow : Bool) (va : Word) : Act RecordRead := do
  trapIf (va.toNat % 64 != 0) cBadRecord va
  match ← readRecord va 16 with
  | .leave n => pure (.leave n)
  | .all head => do
    match headerOffence follow head with
    | some i => trap cBadRecord (va + natW (8 * i))
    | none => do
      match ← readRecord va (16 + 2 * (nRead head + nWrite head)) with
      | .leave n => pure (.leave n)
      | .all ws => do
        let r := makeRecord ws
        let s ← get
        trapIf (bitOf r.dw8 19 && !s.secureOf s.cur && s.part.secureCells.contains (slice r.dw8 29 20)) cBadRecord (va + 64)
        let asks ← checkTiles ((r.reads.map fun d => (false, d)) ++ r.writes.map fun d => (true, d)) (va + 128) []
          ((s.slot s.cur).latch.drop (16 + 2 * (nRead head + nWrite head)))
        let s ← get
        let k := s.cur
        match asks with
        | .ask p as => do
          act fun s => s.toPart p (.ask s.link.pod.k k as)
          pure (.leave (.leave .latch wMem))
        | .ok bs _ =>
          pure (.sub
            { record := r, reads := bs.take r.reads.length, writes := bs.drop r.reads.length, slot := k
              ctx := (s.slot k).ctx, priv := s.privOf k, secure := s.secureOf k, parent := none
              restart := false, fixCount := (s.cell (cellOf k)).fixNo })

end Sys2Proof.Machine
end

