-- ==== Sys2Proof/Machine/Commit.lean ====
section
/-! DEFINITION. The life of a transaction after its record: locks, pushes, tiles, the end of roles, commit and
drains, outcomes (R101, R105, R106, R109 to R114). -/

namespace Sys2Proof.Machine

/-- Channel numbers of the sequencer and of a BLM. -/
def seqChan : Nat := 0x300001
def blmChan (b : Nat) : Nat := 0x400000 + b

/-- The newest fix whose bound this part knows, with the bound: before fix go the bound that has come, and before that the one
that this part's own report gives, which no other part's can lower (R351, log 101). -/
def State.fixLine (s : State) : Nat × Nat :=
  if s.fix.active ∧ (s.fix.phase = 2 ∨ s.fix.phase = 3) then (s.fix.want, s.fix.next) else (s.fix.no, s.fix.bound)

/-- Whether a number is at or past the bound of a fix whose fix go is still to come (R351, log 101). -/
def State.pastLine (s : State) (num : Nat) : Bool :=
  s.fix.active && (s.fix.phase == 2 || s.fix.phase == 3) && decide (s.fix.next ≤ num)

/-- The fix count of what a transaction does (R123, R354, R355): its number decides. -/
def State.txnFix (s : State) (num : Nat) : Nat := if num < s.fixLine.2 then s.fixLine.1 - 1 else s.fixLine.1

/-- Every numbered transaction, lowest number first, as the list stands in order of numbering. -/
def State.numbered (s : State) : List Txn := s.seq.txns.filter fun (t : Txn) => t.stage ≠ .accepted

/-! ### Locks (R101, R106) -/

/-- Key of the page that names a bound tile. -/
def bindKey (b : TileBind) : Nat := lKey (firstLeaf b)

/-- Locks of a submission on a cell, by part · 4096 + BLM: its footprints, then its area granules. -/
def locksOf (mine cell : Nat) (x : Submission) : List (Nat × LockWant) :=
  let ws := x.writes.flatMap fun (b : TileBind) => (footprint mine b).map fun g => (g, bindKey b)
  let rs := x.reads.flatMap fun (b : TileBind) => (footprint mine b).map fun g => (g, bindKey b)
  let all := ws ++ rs
  let mem := ((all.map (·.1)).dedup).map fun g =>
    let key := ((all.find? fun e => e.1 = g).map (·.2)).getD 0
    (granPart mine (.mem g) * 4096 + blmOf (.mem g),
      (⟨.mem g, ws.any fun e => e.1 = g, rs.any fun e => e.1 = g, key⟩ : LockWant))
  let ds := x.record.reads ++ x.record.writes
  let units := (ds.flatMap fun (d : TileDesc) => (List.range (TileDesc.units d)).map (TileDesc.base d + ·)).dedup
  let area := (ds.map TileDesc.handle).dedup.map (Gran.handle cell) ++ units.map (Gran.unit cell)
  mem ++ area.map fun g => (mine * 4096 + blmOf g, ⟨g, true, false, 0⟩)

/-- Sends a transaction's lock requests to the merge gates, one for each BLM (R106). -/
def State.sendLocks (s : State) (num cell : Nat) (ws : List (Nat × LockWant)) : State :=
  let mine := s.link.pod.k
  ((ws.map (·.1)).dedup).foldl (fun (s : State) b =>
    let m : LockMsg := .request num (mine * 1024 + cell) (b % 4096) ((ws.filter fun w => w.1 = b).map (·.2))
    let die := dieOfBlm (b % 4096)
    if b / 4096 = mine then s.send clsLock seqChan die (msg (.mergeGateReceive die mine m))
    else s.toPart (b / 4096) (.lock die mine m)) s

/-- Sends a batch's close marker to every merge gate of the pod (R106). -/
def State.sendClose (s : State) (global : Nat) : State :=
  let mine := s.link.pod.k
  let s := (List.range 4).foldl (fun (s : State) d =>
    s.send clsLock seqChan d (msg (.mergeGateReceive d mine (.close global)))) s
  (List.range 4).foldl (fun (s : State) d => s.broadcast (.lock d mine (.close global))) s

/-! ### Tiles of a transaction (R98, R110) -/

/-- Bindings of a transaction, read set first. -/
def Txn.binds (t : Txn) : List TileBind := t.sub.reads ++ t.sub.writes

/-- Area granules of a descriptor's tile: its handle, and the units that it occupies (R101). -/
def tileArea (cell : Nat) (d : TileDesc) : List Gran :=
  .handle cell (TileDesc.handle d) :: (List.range (TileDesc.units d)).map fun i => .unit cell (TileDesc.base d + i)

/-- Whether every area granule of a tile is granted. -/
def Txn.holdsArea (t : Txn) (d : TileDesc) : Bool := (tileArea t.cell d).all t.granted.contains

/-- Granules of memory that hold a byte of a bound tile. -/
def byteGrans (mine : Nat) (b : TileBind) : List Gran := (((bindBytes mine b).map fun e => e.2 / 256).dedup).map .mem

/-- All grants of a tile: its footprint's and its area's. -/
def tileGrants (mine cell : Nat) (b : TileBind) : List Gran := (footprint mine b).map .mem ++ tileArea cell b.desc

/-- The tile-table entry that a descriptor binds. -/
def bindTile (d : TileDesc) (st : TileState) : Tile :=
  let t := TileDesc.gtile d
  { state := st, v := true, plane := false, fmt := t.fmt, view := t.view, hold := 0, cols := t.cols
    rows := t.rows, base := TileDesc.base d, gva := t.va, pitch := t.pitch, size := TileDesc.units d }

/-- Changes a handle of a cell. -/
def State.modTile (s : State) (cell t : Nat) (f : Tile → Tile) : State :=
  s.modCell cell fun c => c.setTiles [t] f

/-- A handle of a cell. -/
def Cell.tile (c : Cell) (t : Nat) : Tile := if h : t < 64 then c.tiles[t] else Tile.reset

/-- Handles that a set of descriptors names. -/
def handlesOf (ds : List TileDesc) : List Nat := (ds.map TileDesc.handle).dedup

/-- Poison marks on doublewords that are written at their home: in storage, and in an L2 line that holds them (R45). -/
def State.putPoison (s : State) (ds : List Nat) : State :=
  let bits (l : Nat) : BitVec 16 := ds.foldl (fun m d => if d / 8 = l then m ||| BitVec.ofNat 16 (3 * 4 ^ (d % 8)) else m) 0
  { s with
    poison := (s.poison ++ ds).dedup
    l2 := s.l2.map fun (e : Nat × L2Line) => (e.1, { e.2 with poison := e.2.poison ||| bits e.1 }) }

/-- Bytes of a granule that a bound tile has. -/
def bytesIn (mine : Nat) (b : TileBind) : Gran → List (Nat × Nat)
  | .mem g => (bindBytes mine b).filter fun e => e.2 / 256 = g
  | _ => []

/-- Puts a pushed granule's bytes into a read-set tile (R110). -/
def State.applyPush (s : State) (t : Txn) (b : TileBind) (x : Gran) (data : List Byte) (poison : List Nat) : State :=
  let h := TileDesc.handle b.desc
  let base := tileAddr t.cell (TileDesc.base b.desc * 256)
  let es := bytesIn s.link.pod.k b x
  let s := if ((s.cell t.cell).tile h).v ∧ ((s.cell t.cell).tile h).state ≠ .empty then s
    else s.modTile t.cell h fun _ => bindTile b.desc .filling
  let s := s.nearWrite (s.txnFix t.num) (es.map fun e => (base + e.1, data.getD (e.2 % 256) 0))
  let bad := (es.filter fun e => poison.contains (e.2 % 256 / 8)).map fun e => (base + e.1) / 8
  { s with poison := (s.poison ++ s.mirrorMarks (s.txnFix t.num) bad).dedup }

/-- The bytes of a write-only tile are cleared to zero (R110). -/
def State.clearTile (s : State) (num cell t : Nat) : State :=
  let x := (s.cell cell).tile t
  let as := addrsFrom (tileAddr cell x.at_) (x.rows * x.rb)
  (s.nearWrite (s.txnFix num) (as.map fun a => (a, 0))).clearPoison as

/-- Bound tiles of a write set that are not in the read set. -/
def Txn.writeOnly (t : Txn) : List TileBind :=
  t.sub.writes.filter fun (b : TileBind) => !(handlesOf t.sub.record.reads).contains (TileDesc.handle b.desc)

/-- A grant has come: tiles whose area is granted take their pushes and become READY, and write-only ones are bound, and
cleared with their last grant (R110). -/
def State.settleTiles (s : State) (num : Nat) (x : Gran) : State :=
  match s.txn num with
  | none => s
  | some t =>
    let mine := s.link.pod.k
    let s := t.sub.reads.foldl (fun (s : State) (b : TileBind) =>
      let h := TileDesc.handle b.desc
      if !t.holdsArea b.desc then s
      else
        let s := (t.pushes.filter fun p => p.1 = h).foldl (fun (s : State) p => s.applyPush t b p.2.1 p.2.2.1 p.2.2.2) s
        let s := s.modTxn num fun t => { t with pushes := t.pushes.filter fun p => p.1 ≠ h }
        if (byteGrans mine b).all t.granted.contains ∧ ((s.cell t.cell).tile h).state = .filling then
          s.modTile t.cell h fun x => { x with state := .ready }
        else s) s
    t.writeOnly.foldl (fun (s : State) (b : TileBind) =>
      let h := TileDesc.handle b.desc
      if !t.holdsArea b.desc then s
      else
        let s := if ((s.cell t.cell).tile h).v then s else s.modTile t.cell h fun _ => bindTile b.desc .empty
        let gs := tileGrants mine t.cell b
        if gs.contains x ∧ gs.all t.granted.contains then
          s.after ((TileDesc.units b.desc + 3) / 4) (.writeOnlyTileClear t.cell num (BitVec.ofNat 6 h)) 0
        else s) s

/-! ### Outcomes (R114) -/

/-- The two doublewords of an outcome. -/
def outcomeWords (num : Word) (v : Verdict) : List Byte :=
  leBytes 8 num.toNat ++ leBytes 8 (v.issues % 2 ^ 32 * 2 ^ 32 + v.cause * 2 ^ 16 + v.role * 2 ^ 8 + v.status)

/-- What prevents the write of an outcome through a leaf, as a cause, world before permission (R114, R365, log 25). -/
def outcomeBar (s : State) (x : Submission) (l : Leaf) : Option Nat :=
  let a := localAddr (lFrame l) + (x.record.out.toNat % 2 ^ 56 - l.vbase)
  if s.worldFails x.secure (some l) (if addrPart (lFrame l) = s.link.pod.k then [a] else []) then some cWorld
  else if !lW l || (!x.priv && !lU l) then some cPermission
  else if lRegion l ≠ 0 ∨ isBfx (lFmt l) then some cFormatStore
  else none

/-- Writes the outcome of a submission, or reports that it cannot be written (R114); no code is stated for a translation that
is missing or malformed (log 25), nor for a unit that needs a pool frame while there is none, where the write may not wait
(log 84). -/
def State.writeOutcome (s : State) (x : Submission) (cell num : Nat) (n : Word) (v : Verdict) : State :=
  let out := x.record.out
  let fail (c : Nat) (s : State) : State :=
    s.report (dieOf cell) 0xA c x.ctx (placeLow x.slot) out n
  if out = 0 then s
  else if !canonical out.toNat then fail cBadAddress s
  else if isNear out.toNat then fail cNearRange s
  else match s.walk x.ctx (pageOf out.toNat) with
    | (.fault _ _, s) =>
      let (w, s) := s.freeWord
      fail (w.toNat % 32) s
    | (.poison a, s) => fail cUncorrectable (s.walkSoft (clusterOf cell) a)
    | (.leaf l, s) => match outcomeBar s x l with
      | some c => fail c s
      | none =>
        let a := lFrame l + (out.toNat % 2 ^ 56 - l.vbase)
        if addrPart a = s.link.pod.k ∧ s.poolStops (s.txnFix num) (addrsFrom (localAddr a) 16) then
          let (w, s) := s.freeWord
          fail (w.toNat % 32) s
        else if addrPart a = s.link.pod.k then
          s.physWrite (s.txnFix num) (lKey l) ((addrsFrom (localAddr a) 16).zip (outcomeWords n v))
        else
          s.toPart (addrPart a) (.outcome (lKey l) (s.txnFix num) ((addrsFrom (localAddr a) 16).zip (outcomeWords n v)) x.secure
            ⟨s.link.pod.k, dieOf cell, x.ctx, placeLow x.slot, out, n⟩)

/-- A transaction whose last entry has been released is finished (R114). -/
def State.finishTxn (s : State) (num : Nat) : State :=
  match s.txn num with
  | none => s
  | some t => match t.verdict with
    | none => s
    | some v =>
      if (t.stage = .committed ∨ t.stage = .void) ∧ t.queue = [] ∧ t.drains = [] ∧
          t.wants.all (fun w => t.released.contains w.2.gran) then
        (s.modTxn num fun t => { t with stage := .finished }).writeOutcome t.sub t.cell num (natW num) v
      else s

/-- An entry of a transaction is gone: a handle that a void held is unbound with it (R115), and with the last entry the
transaction has finished (R114). -/
def State.noteReleased (s : State) (num : Nat) (g : Gran) : State :=
  let s := s.modTxn num fun t => { t with released := if t.released.contains g then t.released else t.released ++ [g] }
  match s.txn num, g with
  | some t, .handle _ h =>
    let s := if t.stage = .void ∧ t.granted.contains g then
        s.modTile t.cell h fun x => { x with v := false, state := .empty }
      else s
    s.finishTxn num
  | _, _ => s.finishTxn num

/-! ### Drains (R113) -/

/-- Tiles whose bytes have all been acknowledged become EMPTY; with the last the handles are unbound and the area granules
released. -/
def State.drainCheck (s : State) (num : Nat) : State :=
  match s.txn num with
  | none => s
  | some t =>
    let mine := s.link.pod.k
    let open_ := t.drains.map (·.1)
    let s := t.sub.writes.foldl (fun (s : State) (b : TileBind) =>
      if (byteGrans mine b).any open_.contains then s
      else s.modTile t.cell (TileDesc.handle b.desc) fun x =>
        if x.state = .draining then { x with state := .empty } else x) s
    if t.drains = [] then
      let s := s.modCell t.cell fun c => c.setTiles (recHandles t.sub.record) fun x => { x with v := false, state := .empty }
      let area := (t.wants.map fun w => w.2.gran).filter fun g => match g with | .mem _ => false | _ => true
      (area.foldl (fun (s : State) g => s.releaseGran num g) s).finishTxn num
    else s

/-- The bytes of a write set as they stand in the tiles, in record order: pod address, byte, and whether it is
poisoned. -/
def State.drainBytes (s : State) (t : Txn) : List (Nat × Byte × Bool) :=
  t.sub.writes.flatMap fun (b : TileBind) =>
    let base := tileAddr t.cell (TileDesc.base b.desc * 256)
    (bindBytes s.link.pod.k b).map fun e => (e.2, s.byte (base + e.1), s.poison.contains ((base + e.1) / 8))

/-- Where the tiles of a write set hold their bytes. -/
def State.drainAddrs (s : State) (t : Txn) : List Nat :=
  t.sub.writes.flatMap fun (b : TileBind) =>
    (bindBytes s.link.pod.k b).map fun e => tileAddr t.cell (TileDesc.base b.desc * 256) + e.1

/-- A drained byte at its local address, and the doublewords that carry poison. -/
def landing (e : Nat × Byte × Bool) : Nat × Byte := (localAddr e.1, e.2.1)
def landingPoison (es : List (Nat × Byte × Bool)) : List Nat :=
  (es.filter fun (e : Nat × Byte × Bool) => e.2.2).map fun (e : Nat × Byte × Bool) => localAddr e.1 / 8

/-- Sends the writes of one granule to their homes: each of the four lines of an HBM granule to its own slice, or one vault
granule (R28, R113). -/
def State.drainGran (s : State) (t : Txn) (w : LockWant) (all : List (Nat × Byte × Bool)) : State :=
  let mine := s.link.pod.k
  match w.gran with
  | .mem g =>
    let es := all.filter fun (e : Nat × Byte × Bool) => e.1 / 256 = g
    if es = [] then s.releaseGran t.num w.gran
    else if granPart mine w.gran ≠ mine then
      let s := s.modTxn t.num fun x => { x with drains := x.drains ++ [(w.gran, 1)] }
      s.toPart (granPart mine w.gran) (.drain mine t.cell t.num w.gran (es.map landing) (landingPoison es) w.key)
    else
      let groups := match placeOf (localAddr (g * 256)) with
        | .hbm => (es.map fun (e : Nat × Byte × Bool) => e.1 / 64).dedup.map fun l => es.filter fun (e : Nat × Byte × Bool) => e.1 / 64 = l
        | _ => [es]
      let s := s.modTxn t.num fun x => { x with drains := x.drains ++ [(w.gran, groups.length)] }
      groups.foldl (fun (s : State) (b : List (Nat × Byte × Bool)) =>
        s.send clsMemReq t.cell (homeSlice ((b.map landing).headD (0, 0)).1) (.drain mine t.cell t.num w.gran
          (b.map landing) (landingPoison b) w.key)) s
  | _ => s

/-- A drained write lands at its home and is acknowledged (R84, R113). -/
def State.landDrain (s : State) (fromPart cell num : Nat) (x : Gran) (bytes : List (Nat × Byte)) (poison : List Nat)
    (key : Nat) : State :=
  let count := (s.txnFix num)
  let s := s.physWrite count key bytes
  let s := s.putPoison (s.mirrorMarks count poison)
  if fromPart = s.link.pod.k then
    s.send clsMemReply (homeSlice ((bytes.map (·.1)).headD 0)) cell (msg (.drainAck cell num x))
  else s.toPart fromPart (.drained cell num x)

/-! ### Commit (R112, R113) -/

/-- The leaves of a write set are marked written before its drain takes effect, as of the transaction's number (R34, R332,
R355, log 33).  DESIGN CHOICE (log 33): a poisoned entry keeps its FIX, and the drain goes on. -/
def State.fixPages (s : State) (t : Txn) : State :=
  ((t.sub.writes.flatMap fun (b : TileBind) => b.leaves).dedup).foldl
    (fun (s : State) l => (s.fixEntry (clusterOf t.cell) (s.txnFix t.num) l).2) s

/-- Steps 2 to 5 of R113.  A write-only tile that has not been cleared yet drains as zeros. -/
def State.commitDrain (s : State) (num : Nat) : State :=
  match s.txn num with
  | none => s
  | some t =>
    let shared := t.wants.filter fun w => !w.2.excl
    let s := shared.foldl (fun (s : State) w => s.releaseGran num w.2.gran) s
    let early := (t.writeOnly.map fun b => TileDesc.handle b.desc).filter fun h => ((s.cell t.cell).tile h).state == .empty
    let s := early.foldl (fun (s : State) h => s.clearTile num t.cell h) s
    let wr := handlesOf t.sub.record.writes
    let rd := (handlesOf t.sub.record.reads).filter fun h => !wr.contains h
    let s := s.modCell t.cell fun c =>
      (c.setTiles wr fun x => { x with state := .draining }).setTiles rd fun x => { x with state := .empty }
    let s := s.noteSoft (s.drainAddrs t)
    let all := s.drainBytes t
    let s := s.fixPages t
    let excl := t.wants.filter fun w => w.2.excl && (match w.2.gran with | .mem _ => true | _ => false)
    (excl.foldl (fun (s : State) w => s.drainGran t w.2 all) s).drainCheck num

/-- Performs the deferred actions that may go, and then goes on with the commit (R112, R113). -/
def State.commitGo (num : Nat) : Nat → State → State
  | 0, s => s
  | n + 1, s => match s.txn num with
    | none => s
    | some t =>
      let pop (s : State) : State := s.modTxn num fun t => { t with queue := t.queue.tail }
      match t.queue with
      | [] => s.commitDrain num
      | (_, .follow x) :: _ => ((pop s).acceptSub { x with parent := some num }).commitGo num n
      | (_, .post m) :: _ =>
        if s.outboxRoom (coreOf m.slot) then
          ((pop s).enqueue { m with msg := { m.msg with fixCount := s.txnFix num } }).commitGo num n
        else s

/-- The deferred actions of one role in program order, each with the role's signal count (R323). -/
def roleQueue (q : List (Nat × Deferred)) (r : Nat) : List (Nat × Deferred) :=
  ((q.filter fun e => e.1 = r).foldl (fun (a : List (Nat × Deferred) × Nat) e => match e.2 with
    | .post m => (a.1 ++ [(r, .post (m.signals (min (a.2 + 1) 0xFFFE)))], a.2 + 1)
    | .follow x => (a.1 ++ [(r, .follow x)], a.2)) ([], 0)).1

/-- The transaction commits (R113). -/
def State.commit (s : State) (num : Nat) : State :=
  let s := s.modTxn num fun t => { t with
    stage := .committed, verdict := some ⟨0, 0, 0xFF, 0⟩
    queue := roleQueue t.queue 0 ++ roleQueue t.queue 1 ++ roleQueue t.queue 2 }
  match s.txn num with
  | none => s
  | some t => s.commitGo num (t.queue.length + 1)

/-- The role that slot k runs ends; the last one commits (R113). -/
def State.endRole (k : Nat) (s : State) : State :=
  match (s.slot k).work with
  | .role num _ =>
    let n := (s.slot k).issues.toNat + if (s.slot k).counted then 0 else 1
    let s := (s.exitSlot k).modTxn num fun t =>
      { t with roles := t.roles.map fun r => if r.slot = k then { r with ended := true, issues := n } else r }
    match s.txn num with
    | some t => if t.stage = .dispatched ∧ t.roles.all (·.ended) then s.commit num else s
    | none => s
  | _ => s

/-! ### Dispatch (R111) -/

/-- Program slots that a dispatch may take: FREE, and not held by a SWIN (R319, R346). -/
def State.dispatchable (s : State) (k : Nat) : Bool :=
  (s.slot k).run == .free &&
  !(s.ctxOps.any fun o => o.kind == 4 && o.left.contains k)

/-- The lowest-numbered FREE program slot of a core (R319). -/
def State.freeSlot (s : State) (core : Nat) : Option Nat :=
  ((List.range 15).map (core * 16 + ·)).find? s.dispatchable

/-- Entry PCs that a record names, by role. -/
def entries (r : TxRec) : List (Nat × Word) := [(0, r.pcd), (1, r.pcc), (2, r.pca)].filter fun e => e.2 ≠ 0

/-- The start of a role in its slot (R111). -/
def Slot.startRole (sl : Slot) (x : Submission) (num r : Nat) (pc : Word) : Slot :=
  { sl with
    run := .run, pend := .none, counted := false, pc := pc
    regs := ((((Vector.replicate 32 (0 : Word)).set 4 x.record.a0).set 5 x.record.a1).set 6 x.record.a2).set 7 x.record.a3
    pw := 1, lc0 := 0, lc1 := 0, fmode := 0, mbWord := Vector.replicate 4 0, mbCount := Vector.replicate 4 0
    inTrap := false, issues := 0, signals := 0, gen := sl.gen + 1, ctx := x.ctx, work := .role num r, fork := none
    fblock := none, carry := [], streams := Vector.replicate 8 Stream.reset, skip := 0, faultWait := none
    walkPoison := none, latch := [], pops := [], owed := none, ending := false }

/-- Whether a transaction may dispatch now: every grant has come, and each role it names finds a slot on a core
that has not dispatched in this cclk (R111, R319).  DEDUCED: one of a context that is switched out waits for its SWIN (log 36), and one
past the bound of a fix for fix go (log 101). -/
def State.txnReady (s : State) (t : Txn) : Bool :=
  t.stage == .numbered && t.wants.all (fun w => t.granted.contains w.2.gran) && !(s.ctx t.sub.ctx).out &&
  !((s.cell t.cell).cutBegun && decide (s.fix.next ≤ t.num)) && !s.pastLine t.num &&
  (entries t.sub.record).all fun e =>
    (s.freeSlot (t.cell * 3 + e.1)).isSome && (s.core (t.cell * 3 + e.1)).dispatched != s.cycle + 1

/-- Region of a bound tile: its lowest and one past its highest virtual byte address (R111). -/
def tileRegion (b : TileBind) : Nat × Nat :=
  let t := TileDesc.gtile b.desc
  let vs := (unitsOf t.fmt t.rows t.cols).filterMap fun e => (unitVa t (firstLeaf b) b.region e.1 e.2).map (·.toNat)
  (vs.foldl min b.desc.va.toNat, vs.foldl max b.desc.va.toNat + unitBytes t.fmt)

/-- The transaction dispatches: the cell's L1 is inspected and each role starts (R111). -/
def State.dispatchTxn (s : State) (t : Txn) : State :=
  let s := t.sub.reads.foldl (fun (s : State) (b : TileBind) =>
    let (lo, hi) := tileRegion b
    s.modCell t.cell fun c => c.acquire false lo hi t.sub.ctx true) s
  let s := s.modTxn t.num fun t => { t with stage := .dispatched }
  (entries t.sub.record).foldl (fun (s : State) e =>
    let core := t.cell * 3 + e.1
    match s.freeSlot core with
    | none => s
    | some k =>
      let s := (s.modSlot k fun sl => sl.startRole t.sub t.num e.1 e.2).modCore core fun c =>
        { c with dispatched := s.cycle + 1 }
      let s := s.modTxn t.num fun t => { t with roles := t.roles ++ [⟨e.1, k, false, 0⟩] }
      if t.lastGrant + 64 ≤ s.cycle then s
      else (s.modSlot k fun sl => { sl with run := .wait wMem, pend := .inspect }).after
        (t.lastGrant + 64 - s.cycle) (.memoryReplyArrival k .done) 0) s

end Sys2Proof.Machine
end

