-- ==== Sys2Proof/Machine/Txn.lean ====
section
/-! DEFINITION. Transactions: the instruction forms (R273 to R277) and the events of sequencer, merge gates, bank
lock managers and executing cells (R102 to R121). -/

namespace Sys2Proof.Machine

/-! ### Instructions -/

/-- `txsub gA` (R273). -/
def execTxsub (g : Guard) (a : Reg) : State → Host.Outcome State Fault Refusal :=
  issue g (formLen g) do
    let va ← readG a
    allowedIn true true
    match ← readTransaction false va with
    | .leave n => pure n
    | .sub x => do
      let s ← get
      if 64 ≤ s.seq.waiting.length then waitFor wMem
      act fun s => s.modSeq fun q => { q with waiting := q.waiting ++ [x] }
      pure (.leave .plain wMem)

/-- Whether slot k runs a sounding that has not executed `txsubf` yet (R117). -/
def State.mayFollow (s : State) (num : Nat) : Bool :=
  match s.txn num with
  | some t => bitOf t.sub.record.dw8 18 && !t.soundingDone
  | none => false

/-- `txsubf gA` (R274). -/
def execTxsubf (g : Guard) (a : Reg) : State → Host.Outcome State Fault Refusal :=
  issue g (formLen g) do
    let va ← readG a
    allowedIn false true
    let s ← get
    match ← myRole with
    | none => trap cTxnEffect 0
    | some (num, r) => do
      trapIf (!s.mayFollow num) cTxnEffect 0
      match ← readTransaction true va with
      | .leave n => pure n
      | .sub x => do
        defer num r (.follow x)
        act fun s => (s.modTxn num fun t => { t with soundingDone := true }).answer seqChan s.cur .done
        pure (.leave .plain wMem)

/-- `txend` (R275). -/
def execTxend (g : Guard) : State → Host.Outcome State Fault Refusal :=
  issue g (formLen g) do
    match ← myRole with
    | none => trap cTxnEffect 0
    | some _ => do
      act fun s => State.endRole s.cur s
      pure .stay

/-- `txnum gD` (R275). -/
def execTxnum (g : Guard) (d : Reg) : State → Host.Outcome State Fault Refusal :=
  issue g (formLen g) do
    match ← myRole with
    | none => writeG d (~~~0)
    | some (num, _) => writeG d (natW num)
    pure .seq

/-- `txwd gD, gA, gB` (R276). -/
def execTxwd (g : Guard) (b a d : Reg) : State → Host.Outcome State Fault Refusal :=
  issue g (formLen g) do
    let tag ← readG a
    let mask ← readG b
    allowedIn true false
    destReady d
    act fun s => s.send clsLock (slotChan s.cur) seqChan
      (.step (.sequencerWithdrawal s.cur (tag.truncate 32) (mask.truncate 32) (s.slot s.cur).ctx) (s.cell (cellOf s.cur)).fixNo)
    pure (.leave (.txwd d [] 0) wMem)

/-- The sequencer's answer about a number (R277). -/
def State.txState (s : State) (a : Word) : Word :=
  let n := s.link.pod.n
  let q := s.seq
  let nextNum := (q.batch * n + s.link.pod.k) * 256
  if a = ~~~0 then
    let left := s.numbered.filter fun (t : Txn) => t.stage ≠ .finished
    natW (left.foldl (fun m (t : Txn) => min m t.num) nextNum)
  else
    let g := a.toNat / 256
    if g % n ≠ s.link.pod.k then 4
    else if q.batch ≤ g / n then 0
    else if q.sizes.get 0 (g / n) ≤ a.toNat % 256 then 5
    else match s.txn a.toNat with
      | none => 5
      | some t => match t.stage with
        | .finished => 3
        | .accepted => 0
        | .numbered => 1
        | .dispatched => 2
        | .committed => 2
        | .void => if t.roles = [] then 1 else 2

/-- `txq gD, gA` (R277). -/
def execTxq (g : Guard) (a d : Reg) : State → Host.Outcome State Fault Refusal :=
  issue g (formLen g) do
    let x ← readG a
    destReady d
    act fun s => s.answer seqChan s.cur (.value (s.txState x))
    pure (.leave (.word d) wMem)

/-! ### The sequencer (R102 to R105, R119) -/

/-- Entries of the open batch: follows and restarts, then new submissions. -/
def Sequencer.open_ (q : Sequencer) : List Txn × List Txn :=
  let xs := q.txns.filter fun (t : Txn) => t.stage = .accepted
  (xs.filter fun (t : Txn) => t.sub.parent.isSome, xs.filter fun (t : Txn) => t.sub.parent.isNone)

/-- Whether the sequencer holds its requests, since a merge gate's buffer for this part is full (R108). -/
def State.gateHeld (s : State) : Bool :=
  s.sched.flight.any fun f => decide (f.due ≤ s.cycle) && match f.parcel with
    | .step (.mergeGateReceive _ p _) _ => p == s.link.pod.k
    | _ => false

/-- Whether the open batch takes a new submission now (R103, R108). -/
def State.takesSub (s : State) : Bool :=
  let q := s.seq
  let n := q.open_.2.length
  !s.gateHeld && if sqDet q.sqctl then decide (n < sqDcount q.sqctl) else decide (q.open_.1.length + n < 256)

/-- SUBMISSION_ACCEPT: the head of the input queue, at most one in a cclk (R102). -/
def execSubmissionAccept : Event := fun s =>
  match s.seq.waiting with
  | [] => .next s
  | x :: rest =>
    if s.takesSub then
      .next (((s.modSeq fun q => { q with waiting := rest }).acceptSub x).answer seqChan x.slot .done)
    else .next s

/-- Whether a sounding or follow of the batch before holds the open one (R119). -/
def State.batchHeld (s : State) : Bool :=
  s.numbered.any fun (t : Txn) => t.batch + 1 == s.seq.batch && (bitOf t.sub.record.dw8 18 || t.isFollow) &&
    (t.stage == .numbered || t.stage == .dispatched || (t.stage == .committed && t.queue.any fun e => match e.2 with
      | .follow _ => true
      | .post _ => false))

/-- Whether a fix asks for empty batches (R351). -/
def State.fixCloses (s : State) : Bool :=
  s.fix.active && s.fix.phase == 3 && !sqDet s.seq.sqctl && decide (s.seq.batch < s.fix.next / 256 / s.link.pod.n)

/-- Whether the open batch closes in this cclk (R103, R104, R108, R119). -/
def State.batchDue (s : State) : Bool :=
  let q := s.seq
  let timer := decide (q.opened + sqClose q.sqctl ≤ s.cycle)
  !s.batchHeld && !s.gateHeld && (q.closeAsked || s.fixCloses ||
    if sqDet q.sqctl then
      (if sqDcount q.sqctl = 0 then timer else decide (sqDcount q.sqctl ≤ q.open_.2.length))
    else decide (256 ≤ q.open_.1.length + q.open_.2.length) || timer)

/-- Puts an entry before the first that a test says it precedes. -/
def insertBy {α : Type} (before : α → α → Bool) (x : α) : List α → List α
  | [] => [x]
  | y :: t => if before x y then x :: y :: t else y :: insertBy before x t

/-- A stable sort. -/
def sortBy {α : Type} (before : α → α → Bool) (xs : List α) : List α :=
  xs.foldl (fun a x => insertBy before x a) []

/-- Deterministic order: ORDKEY, then place (R105). -/
def ordBefore (x y : Txn) : Bool :=
  let key (t : Txn) : Nat := slice t.sub.record.dw7 63 32 * 2 ^ 16 + placeLow t.sub.slot
  decide (key x < key y)

/-- Entries of a batch in order (R105, R119). -/
def Sequencer.batchOrder (q : Sequencer) : List Txn :=
  sortBy (fun (x y : Txn) => decide (x.sub.parent.getD 0 < y.sub.parent.getD 0)) q.open_.1 ++
  (if sqDet q.sqctl then sortBy ordBefore q.open_.2 else q.open_.2)

/-- An entry numbered: a withdrawal that found it accepted makes it void at once (R120). -/
def Txn.number (mine batch num : Nat) (t : Txn) : Txn :=
  { t with batch := batch, num := num, wants := locksOf mine t.cell t.sub
           stage := if t.verdict.isSome then .void else .numbered }

/-- This part's count of closed batches reaches the coordinator (R351); the bound will not be below what it gives. -/
def State.fixReport (s : State) : State :=
  let s := s.modFix fun f => { f with phase := 2, next := s.link.pod.n * s.seq.batch * 256 }
  if s.link.pod.k = 0 then s.modFix fun f => { f with reports := f.reports ++ [(0, s.seq.batch)] }
  else s.toPart 0 (.fixReport s.link.pod.k s.seq.batch)

/-- BATCH_CLOSE (R103 to R106, R119, R120).  DEDUCED (log 102): a batch that a fix closes is empty, and what has been
accepted, follows and restarts included, waits for a later one (R351). -/
def execBatchClose : Event := fun s =>
  let q := s.seq
  let mine := s.link.pod.k
  let global := q.batch * s.link.pod.n + mine
  let taken := if s.fixCloses && !q.closeAsked then [] else q.batchOrder.take 256
  let done := taken.zipIdx.map fun (e : Txn × Nat) => e.1.number mine q.batch (global * 256 + e.2)
  let rest := q.batchOrder.drop taken.length
  let s := s.modSeq fun q => { q with
    txns := (q.txns.filter fun (t : Txn) => t.stage ≠ .accepted) ++ done ++ rest
    sizes := q.sizes.set q.batch done.length, batch := q.batch + 1, opened := s.cycle
    sqctl := q.newCtl.getD q.sqctl, newCtl := none, closeAsked := false }
  let s := (done.filter fun (t : Txn) => t.stage = .void).foldl (fun (s : State) (t : Txn) => s.tellVoid t) s
  let s := done.foldl (fun (s : State) (t : Txn) => s.sendLocks t.num t.cell t.wants) s
  let s := s.sendClose global
  .next (if s.fix.active ∧ s.fix.phase = 1 then s.fixReport else s)

/-! ### Withdrawal (R120, R121, R276) -/

/-- Whether a withdrawal selects a task or transaction (R120). -/
def tagMatch (tag mask t : W32) : Bool := (t ^^^ tag) &&& mask == 0

/-- TAG of a record. -/
def TxRec.tag (r : TxRec) : W32 := r.dw7.truncate 32

/-- A `txwd` whose selected transactions are all decided is answered. -/
def State.txwdCheck (s : State) (k : Nat) : State :=
  match (s.slot k).pend with
  | .txwd _ [] n => s.answer seqChan k (.value (natW n))
  | _ => s

/-- SEQUENCER_WITHDRAWAL (R120, R121); `cur` is the fix count of the form that asked (R354). -/
def execSequencerWithdrawal (k : Nat) (tag mask : W32) (ctx : Nat) : Event := fun s =>
  let fixCount := s.cur
  let sel (t : Txn) : Bool := t.sub.ctx == ctx && tagMatch tag mask (TxRec.tag t.sub.record)
  let waiting := s.seq.txns.filter fun (t : Txn) => sel t && t.stage == .accepted && t.verdict.isNone
  let nums := (s.numbered.filter fun (t : Txn) => sel t && t.stage == TxnStage.numbered).map fun (t : Txn) => t.num
  let mark (t : Txn) : Txn := if waiting.contains t then { t with verdict := some ⟨1, 0, 0xFF, 0⟩ } else t
  let s := if sqDet s.seq.sqctl then s.modSeq fun q => { q with txns := q.txns.map mark }
    else
      let s := s.modSeq fun q => { q with txns := q.txns.filter fun (t : Txn) => !waiting.contains t }
      let s := if s.fix.active ∧ s.fix.want ≤ fixCount then
          s.modFix fun f => { f with gone := f.gone ++ waiting.map fun (t : Txn) => t.sub }
        else s
      waiting.foldl (fun (s : State) (t : Txn) => s.writeOutcome t.sub t.cell s.fix.bound (~~~0) ⟨6, 0, 0xFF, 0⟩) s
  let s := nums.foldl (fun (s : State) n => match s.txn n with
    | some t => s.send clsLock seqChan (0x1000 + t.cell) (.step (.withdrawalNotice t.cell n) fixCount)
    | none => s) s
  let s := s.modSlot k fun sl => match sl.pend with
    | .txwd d _ n => { sl with pend := .txwd d nums (n + waiting.length) }
    | _ => sl
  .next (s.txwdCheck k)

/-- WITHDRAWAL_NOTICE at the executing cell (R120, R121); `cur` is the fix count of the form that asked: one from after its cut
begins the cell's, and waits for it (R354). -/
def execWithdrawalNotice (cell num : Nat) : Event := fun s =>
  if s.cutFirst cell s.cur then .next ((s.beginCut cell).after 1 (.withdrawalNotice cell num) s.cur) else
  let s := match s.txn num with
    | some t => if t.stage = TxnStage.numbered ∧ t.cell = cell then s.voidTxn num ⟨1, 0, 0xFF, 0⟩ else s
    | none => s
  let gone := match s.txn num with
    | some t => t.stage == TxnStage.void && t.roles.isEmpty
    | none => false
  let ks := (s.slots.filter fun (e : Nat × Slot) => match e.2.pend with
    | .txwd _ ns _ => ns.contains num
    | _ => false).map fun (e : Nat × Slot) => e.1
  .next (ks.foldl (fun (s : State) k => (s.modSlot k fun sl => match sl.pend with
    | .txwd d ns n => { sl with pend := .txwd d (ns.filter (· ≠ num)) (if gone then n + 1 else n) }
    | _ => sl).txwdCheck k) s)

/-! ### Merge gates (R107, R108) -/

/-- MERGE_GATE_RECEIVE: the buffer of a source part takes a message. -/
def execMergeGateReceive (die fromPart : Nat) (q : LockMsg) : Event := fun s =>
  .next (s.modDie die fun d => { d with gate := d.gate.set fromPart (d.gate.get [] fromPart ++ [q]) })

/-- Lock requests that a BLM holds or that are on their way to it. -/
def State.blmLoad (s : State) (b : Nat) : Nat :=
  ((s.blm b).entries.map fun e => e.num).dedup.length +
  (s.sched.flight.filter fun f => match f.parcel with
    | .step (.blmRequestArrival x (.request _ _ _)) _ => x == b
    | _ => false).length

/-- Whether a merge gate has all of a batch of a part: its close marker has come, or the buffer is full, so that the marker
cannot come before it forwards (R107, R108, R122, log 76). -/
def Die.hasBatch (d : Die) (p g : Nat) : Bool :=
  let q := d.gate.get [] p
  q.any (fun m => match m with | .close x => x == g | _ => false) || decide (1024 ≤ q.length)

/-- The next message that a merge gate may forward, with its source part: the head of the source of the next
global batch once all of it is there, unless its BLM is full (R107, R108).  DEDUCED (log 101): between this part's report and the bound
of a fix a gate forwards no batch that may lie past the bound. -/
def State.gateNext (s : State) (die : Nat) : Option (Nat × LockMsg) :=
  let d := s.die die
  let p := d.nextGlobal % s.link.pod.n
  if s.fix.phase = 2 ∧ s.pastLine (d.nextGlobal * 256) then none else
  match d.gate.get [] p with
  | .request num c b ws :: _ =>
    if num / 256 = d.nextGlobal ∧ d.hasBatch p d.nextGlobal ∧ s.blmLoad b < 4096 then some (p, .request num c b ws) else none
  | .close g :: _ => if g = d.nextGlobal then some (p, .close g) else none
  | [] => none

/-- BLMs of a die: those of its pseudo-channels and of its vaults (R28, R29). -/
def blmsOfDie (die : Nat) : List Nat :=
  (List.range 128).map (die * 128 + ·) ++ (List.range 256).map (512 + die * 256 + ·)

/-- MERGE_GATE_FORWARD of the die that `cur` names (R107). -/
def execMergeGateForward : Event := fun s =>
  let die := s.cur
  match s.gateNext die with
  | none => .next s
  | some (p, m) =>
    let s := s.modDie die fun d => { d with gate := d.gate.set p (d.gate.get [] p).tail }
    match m with
    | .request num c b ws => .next (s.send clsLock (0x2000 + die) (blmChan b) (msg (.blmRequestArrival b (.request num c ws))))
    | .close g =>
      let safe := g * 256 + 0xFF
      let s := s.modDie die fun d => { d with nextGlobal := g + 1, safe := some safe }
      .next ((blmsOfDie die).foldl (fun (s : State) b =>
        s.send clsLock (0x2000 + die) (blmChan b) (msg (.blmRequestArrival b (.safe safe)))) s)

/-! ### Bank lock managers (R109) -/

/-- Whether a transaction is known to be void. -/
def State.isVoid (s : State) (num : Nat) : Bool :=
  s.seq.foreignVoids.contains num || match s.txn num with
    | some t => t.stage == .void
    | none => false

/-- BLM_REQUEST_ARRIVAL (R107, R109). -/
def execBlmRequestArrival (blm : Nat) (q : BlmMsg) : Event := fun s =>
  match q with
  | .safe n => .next (s.modBlm blm fun b => { b with safe := some n })
  | .request num cell ws =>
    let v := s.isVoid num
    let new := ws.map fun (w : LockWant) => (⟨num, cell, w.gran, w.excl, w.read, w.key, false, v⟩ : LockEntry)
    .next (s.modBlm blm fun b => { b with entries := b.entries ++ new })

/-- Whether a waiting entry may be granted (R109). -/
def Blm.grantable (b : Blm) (e : LockEntry) : Bool :=
  !e.granted && (match b.safe with | some n => decide (e.num ≤ n) | none => false) &&
  b.entries.all fun x => x.gran != e.gran || decide (e.num ≤ x.num) || (!e.excl && x.granted && !x.excl)

/-- The entry that a BLM grants next, the earliest that it may; a void one only while no release has been done in
this cclk (R109). -/
def State.grantNext (s : State) (blm : Nat) : Option LockEntry :=
  let b := s.blm blm
  b.entries.find? fun e => b.grantable e && !(e.void && b.releasedAt == s.cycle + 1)

/-- An entry leaves a BLM; the part of its transaction learns of it. -/
def State.dropEntry (s : State) (blm num : Nat) (x : Gran) : State :=
  let s := s.modBlm blm fun b => { b with
    entries := b.entries.filter fun e => !(e.num == num && e.gran == x)
    releases := b.releases.filter fun r => r != (num, x), releasedAt := s.cycle + 1 }
  let p := num / 256 % s.link.pod.n
  if p = s.link.pod.k then s.noteReleased num x
  else s.toPart p (.removed num x)

/-- A granule's 256 bytes at its home, with the doublewords that are poisoned (R110). -/
def State.readGran (s : State) (count key g : Nat) : List Byte × List Nat × State :=
  let as := addrsFrom (localAddr (g * 256)) 256
  let s := s.noteSoft as
  let bad := (List.range 32).filter fun i => (s.physPoison count (addrsFrom (localAddr (g * 256) + 8 * i) 8)).isSome
  let (bs, s) := s.physRead count key as
  (bs, bad, s)

/-- Sends a grant to a cell of this part: a bare one on the lock channel, one with data on the data-push channel, over the lateral
network from a vault (R25, R72, R110). -/
def State.sendGrant (s : State) (blm cell : Nat) (data : List Byte) (i : Instr) : State :=
  if data = [] then s.send clsLock (blmChan blm) cell (msg i)
  else if blm < 512 then s.send clsPush (blmChan blm) cell (msg i)
  else s.sendIn clsPush (blmChan blm) cell (lateralTime (blm - 512) cell 256) (msg i)

/-- BLM_GRANT of the BLM that `cur` names (R109, R110): a grant goes on the lock channel, one with data on the data-push
channel (R25). -/
def execBlmGrant : Event := fun s =>
  let blm := s.cur
  match s.grantNext blm with
  | none => .next s
  | some e =>
    if e.void then .next (s.dropEntry blm e.num e.gran)
    else
      let s := s.modBlm blm fun b => { b with entries := b.entries.map fun x =>
        if x.num = e.num ∧ x.gran = e.gran then { x with granted := true } else x }
      let mine := s.link.pod.k
      let count := (s.txnFix e.num)
      let (data, bad, s) := match e.read, e.gran with
        | true, .mem g => s.readGran count e.key g
        | _, _ => ([], [], s)
      if e.cell / 1024 = mine then
        .next (s.sendGrant blm (e.cell % 1024) data (.grantPushArrival (e.cell % 1024) e.num e.gran data bad))
      else .next (s.toPart (e.cell / 1024) (.push (e.cell % 1024) e.num e.gran data bad))

/-- BLM_RELEASE: a granted entry is removed (R109); with the last one the outcome is written (R114). -/
def execBlmRelease (blm num : Nat) (x : Gran) : Event := fun s =>
  if (s.blm blm).entries.any fun e => e.num = num ∧ e.gran = x ∧ e.granted then .next (s.dropEntry blm num x)
  else .next (s.modBlm blm fun b => { b with releases := b.releases.filter fun r => r != (num, x) })

/-! ### The executing cell (R110, R111, R113, R116) -/

/-- GRANT_PUSH_ARRIVAL (R110). -/
def execGrantPushArrival (cell num : Nat) (x : Gran) (data : List Byte) (poison : List Nat) : Event := fun s =>
  match s.txn num with
  | none => .next s
  | some t =>
    let s := s.modTxn num fun t => { t with
      granted := if t.granted.contains x then t.granted else t.granted ++ [x], lastGrant := s.cycle
      pushes := if data = [] ∨ t.stage ≠ .numbered ∨ t.cell ≠ cell then t.pushes
        else t.pushes ++ ((t.sub.reads.filter fun b => bytesIn s.link.pod.k b x ≠ []).map fun b =>
          (TileDesc.handle b.desc, x, data, poison)) }
    if t.stage = .numbered then .next (s.settleTiles num x)
    else .next (s.releaseGran num x)

/-- WRITE_ONLY_TILE_CLEAR (R110). -/
def execWriteOnlyTileClear (cell num : Nat) (t : TileIx) : Event := fun s =>
  let x := (s.cell cell).tile t.toNat
  match s.txn num with
  | some tx =>
    if (tx.stage = .numbered ∨ tx.stage = .dispatched) ∧ x.v ∧ x.state = .empty then
      .next ((s.clearTile num cell t.toNat).modTile cell t.toNat fun x => { x with state := .ready })
    else .next s
  | none => .next s

/-- TXN_DISPATCH (R111). -/
def execTxnDispatch (cell num : Nat) : Event := fun s =>
  match s.txn num with
  | some t => if t.cell = cell ∧ s.txnReady t then .next (s.dispatchTxn t) else .next s
  | none => .next s

/-- DRAIN_ACK (R113). -/
def execDrainAck (cell num : Nat) (x : Gran) : Event := fun s =>
  match s.txn num with
  | some t =>
    if t.cell ≠ cell then .next s
    else
      let left := (((t.drains.find? fun d => d.1 = x).map (·.2)).getD 0) - 1
      let ds := if left = 0 then t.drains.filter (fun d => d.1 ≠ x)
        else t.drains.map (fun d => if d.1 = x then (x, left) else d)
      let s := s.modTxn num fun t => { t with drains := ds }
      .next ((if left = 0 then s.releaseGran num x else s).drainCheck num)
  | none => .next s

/-- TXN_BUDGET_OVERRUN of the role's slot that `cur` names (R116). -/
def execTxnBudgetOverrun : Event := fun s =>
  let sl := s.slot s.cur
  match sl.work with
  | .role num r => .next (s.voidTxn num ⟨2, 29, r, sl.issues.toNat⟩)
  | _ => .next s

/-- Issues that a role may make (R96, R116). -/
def State.budgetOf (s : State) (num : Nat) : Nat :=
  match s.txn num with
  | some t => if slice t.sub.record.dw8 63 32 = 0 then txBudget s.seq.txbudget else slice t.sub.record.dw8 63 32
  | none => txBudget s.seq.txbudget

/-- SQCTL_WRITE (R103, R104). -/
def execSqctlWrite (v : Word) : Event := fun s => .next (s.writeSqctl v)

end Sys2Proof.Machine
end

