-- ==== Sys2Proof/Machine/Tasks.lean ====
section
/-! DEFINITION. Work and signals: launches, tasks, counters, range forks, barriers, semaphores, mailboxes and
active messages (R153, R154, R158 to R161, R229, R230, R278 to R286, R314 to R326). -/

namespace Sys2Proof.Machine

/-! ### Launches and tasks (R280) -/

def execExit (g : Guard) : State → Host.Outcome State Fault Refusal :=
  issue g (formLen g) (exitWork State.endRole)

/-- `launch gD, gA` (R280). -/
def execLaunch (g : Guard) (a d : Reg) : State → Host.Outcome State Fault Refusal :=
  issue g (formLen g) do
    let p ← readG a
    let args ← readRun d 2
    allowedIn false true
    checkPlace false p
    let pc := args.getD 0 0
    trapIf (pc == 0 || pc.toNat % 4 != 0) cMisaligned pc
    let sl ← getSlot
    signalOut (placePart p.toNat) (placeCore p.toNat) true
      (.launch ⟨pc, args.getD 1 0, 0, 0, 0, 0, 0, sl.ctx, 0⟩)
    pure .seq

/-- `callat` and `tpost`: the descriptor's task goes to a queue of the core named (R280). -/
def postTask (releases : Bool) (queue : List Word → Nat) (g : Guard) (a d : Reg) :
    State → Host.Outcome State Fault Refusal :=
  issue g (formLen g) do
    let p ← readG a
    let va ← readG d
    checkPlace false p
    match ← readDescriptor va with
    | .leave n => pure n
    | .all ws => do
      let sl ← getSlot
      signalOut (placePart p.toNat) (placeCore p.toNat) releases (.task (queue ws) (descTask sl.ctx ws))
      pure .seq

def execCallat (g : Guard) (a d : Reg) : State → Host.Outcome State Fault Refusal :=
  postTask true descQueue g a d

def execTpost (g : Guard) (q : BitVec 2) (a d : Reg) : State → Host.Outcome State Fault Refusal :=
  postTask false (fun _ => q.toNat) g a d

/-- `taskwd gA` (R281). -/
def execTaskwd (g : Guard) (a : Reg) : State → Host.Outcome State Fault Refusal :=
  issue g (formLen g) do
    let x ← readG a
    allowedIn true false
    let s ← get
    let sl ← getSlot
    let o ← outMsg s.link.pod.k none false (.taskwd (x.truncate 32) ((x >>> 32).truncate 32) sl.ctx)
    if !s.outboxRoom (coreOf s.cur) then waitFor wMem
    act fun s => s.enqueue o
    pure .seq

/-! ### Dependence counters (R282) -/

/-- A counter that holds nothing. -/
def Counter.reset : Counter := ⟨0, none⟩

/-- A core of a role sets a counter: of those of one cclk the one of the last role holds (R323). -/
def Cell.setCounter (c : Cell) (now role n : Nat) (x : Counter) : Cell :=
  if c.dcAt.get 0 n / 4 = now + 1 ∧ role < c.dcAt.get 0 n % 4 then c
  else { c with dc := c.dc.set n x, dcAt := c.dcAt.set n (4 * (now + 1) + role) }

/-- `dcset dcN, gA, gD`: with COUNT 0 nothing is bound, whatever gD holds (R282). -/
def execDcset (g : Guard) (n : BitVec 8) (a d : Reg) : State → Host.Outcome State Fault Refusal :=
  issue g (formLen g) do
    let x ← readG a
    let va ← readG d
    allowedIn true false
    trapIf (slice x 63 16 != 0) cBadRecord x
    let s ← get
    let put (b : Option (Nat × Nat × TaskMsg)) : Act Unit := do
      modMyCell fun c => c.setCounter s.cycle (roleOf s.cur) n.toNat ⟨x.truncate 16, b⟩
      act fun s => s.sinkBy s.cur
    if d = 0 ∨ x = 0 then do
      put none
      pure .seq
    else match ← readDescriptor va with
      | .leave n => pure n
      | .all ws => do
        let sl ← getSlot
        put (some (descRole ws, descQueue ws, descTask sl.ctx ws))
        pure .seq

/-- `dcdec dcN, gA` (R282). -/
def execDcdec (g : Guard) (n : BitVec 8) (a : Reg) : State → Host.Outcome State Fault Refusal :=
  issue g (formLen g) do
    let p ← readG a
    checkPlace false p
    let s ← get
    signalOut (placePart p.toNat) (placeCell p.toNat * 3) false
      (.decrement n.toNat (s.slot s.cur).ctx (s.place s.cur) 0)
    pure .seq

/-- A decrement reaches a counter (R282, R323, R376). -/
def State.decrement (s : State) (cell counter ctx sender signals : Nat) : State :=
  let x := (s.cell cell).dc.get Counter.reset counter
  let s := s.sink cell
  let set (x : Counter) (s : State) : State := s.modCell cell fun c => { c with dc := c.dc.set counter x }
  if x.count = 0 then
    s.report (dieOf cell) 6 24 ctx sender (natW (cell * 256 + counter)) (natW signals)
  else if x.count = 1 then
    match x.bound with
    | none => set Counter.reset s
    | some (r, q, t) => (set Counter.reset s).send clsTask (cell * 3) (cell * 3 + r)
        (.core (cell * 3 + r) ⟨(s.cell cell).fixNo, .task q { t with stamp := s.cycle }⟩)
  else set { x with count := x.count - 1 } s

/-! ### Semaphores (R162, R285) -/

/-- A semaphore of a cell. -/
def Cell.semOf (c : Cell) (n : BitVec 5) : BitVec 16 := c.sem[n.toNat]'n.isLt
/-- A semaphore of a cell written. -/
def Cell.setSem (c : Cell) (n : BitVec 5) (v : BitVec 16) : Cell := { c with sem := c.sem.set n.toNat v n.isLt }

/-- The issuing cell's semaphore written. -/
def putSem (n : BitVec 5) (v : BitVec 16) : Act Unit := do
  modMyCell fun c => c.setSem n v
  act fun s => s.sinkBy s.cur

def execSemadd (g : Guard) (n : BitVec 5) (a d : Reg) : State → Host.Outcome State Fault Refusal :=
  issue g (formLen g) do
    let x ← readG a
    let c ← getCell
    let old := c.semOf n
    writeG d (old.zeroExtend 64)
    putSem n (old + x.truncate 16)
    pure .seq

def execSemset (g : Guard) (n : BitVec 5) (a : Reg) : State → Host.Outcome State Fault Refusal :=
  issue g (formLen g) do
    let x ← readG a
    putSem n (x.truncate 16)
    pure .seq

def execSemwait (g : Guard) (n : BitVec 5) (a d : Reg) : State → Host.Outcome State Fault Refusal :=
  issue g (formLen g) do
    let x ← readG a
    let v : BitVec 16 := x.truncate 16
    let c ← getCell
    let k ← me
    let old := c.semOf n
    if v = 0 then do
      writeG d (old.zeroExtend 64)
      pure .seq
    else if old.toNat < v.toNat ∨ !c.firstFor true n.toNat k then stop (.wait wSem [(true, n.toNat)])
    else do
      writeG d ((old - v).zeroExtend 64)
      putSem n (old - v)
      pure .seq

/-! ### Mailboxes (R286) -/

/-- `msend gD, gA, mbN`. -/
def execMsend (g : Guard) (m : BitVec 2) (a d : Reg) : State → Host.Outcome State Fault Refusal :=
  issue g (formLen g) do
    let p ← readG a
    let v ← readG d
    checkPlace true p
    let s ← get
    signalOut (placePart p.toNat) (placeCore p.toNat) false
      (.mail (placeKey p.toNat) m.toNat v (s.slot s.cur).ctx (s.place s.cur))
    pure .seq

/-- A mailbox counter. -/
def Slot.mail (sl : Slot) (m : BitVec 2) : BitVec 16 := sl.mbCount[m.toNat]'m.isLt

/-- `mrecv gD, mbN`. -/
def execMrecv (g : Guard) (m : BitVec 2) (d : Reg) : State → Host.Outcome State Fault Refusal :=
  issue g (formLen g) do
    let sl ← getSlot
    if sl.mail m = 0 then waitFor wSem
    writeG d (sl.mbWord[m.toNat]'m.isLt)
    modMe fun sl => { sl with mbCount := sl.mbCount.set m.toNat (sl.mail m - 1) m.isLt }
    act fun s => s.sinkBy s.cur
    pure .seq

/-- `mpoll gD, mbN`. -/
def execMpoll (g : Guard) (m : BitVec 2) (d : Reg) : State → Host.Outcome State Fault Refusal :=
  issue g (formLen g) do
    let sl ← getSlot
    writeG d ((sl.mail m).zeroExtend 64)
    pure .seq

/-- A mailbox takes a word, or only a count. -/
def Slot.deliver (sl : Slot) (m : Nat) (v : Option Word) : Slot :=
  let i : Fin 4 := ⟨m % 4, Nat.mod_lt _ (by decide)⟩
  { sl with mbWord := match v with | some w => sl.mbWord.set i w i.isLt | none => sl.mbWord
            mbCount := sl.mbCount.set i (sl.mbCount[i] + 1) i.isLt }

/-- Whether a slot holds work of a context. -/
def Slot.runs (sl : Slot) (ctx : Nat) : Bool :=
  (match sl.run with | .run => true | .wait _ => true | _ => false) && sl.ctx == ctx

/-! ### Images of saved slots (R345) -/

/-- A saved slot's record in its save area. -/
def Saved.at_ (x : Saved) : Nat := x.area + (15 * coreOf x.key + slotOf x.key) * 1024

/-- Bytes of a saved slot's record (R345). -/
def Saved.bytes (x : Saved) : List Byte :=
  let sl := x.slot
  let dw (w : Word) : List Byte := leBytes 8 w.toNat
  let dws (ws : List Word) : List Byte := ws.flatMap dw
  let word (l : List (BitVec 16)) : Word := natW ((l.zipIdx).foldl (fun n (e : BitVec 16 × Nat) => n + e.1.toNat * 2 ^ (16 * e.2)) 0)
  let grp : Word := natW ((sl.grp.toList.zipIdx).foldl (fun n (e : BitVec 9 × Nat) => n + e.1.toNat * 2 ^ (9 * e.2)) 0)
  let bits (l : List Bool) : Nat := (l.zipIdx).foldl (fun n (e : Bool × Nat) => if e.1 then n + 2 ^ e.2 else n) 0
  let st := x.st + x.cause * 8 + (if sl.inTrap then 256 else 0) + sl.gen.toNat * 2 ^ 16 + sl.ctx * 2 ^ 48
  dw sl.pc ++ dws (sl.regs.toList.drop 1) ++ dw (natW (sl.pw.toNat + sl.fmode.toNat % 2 ^ 32 * 2 ^ 32)) ++
  dws [sl.lc0, sl.lb0, sl.le0, sl.lc1, sl.lb1, sl.le1, sl.trapPc, sl.trapCause, sl.trapVal, sl.estat, natW st] ++
  dws sl.mbWord.toList ++ dw (word sl.mbCount.toList) ++ dw grp ++
  dws [sl.issues, sl.spInit, sl.tpInit, sl.amBudget] ++
  (sl.fdata.toList.flatMap fun w => leBytes 4 w.toNat) ++
  (((sl.carry.map fun (e : W32 × Bool) => e.1) ++ List.replicate 4 0).take 4).flatMap (fun (w : W32) => leBytes 4 w.toNat) ++
  (sl.streams.toList.flatMap fun t => dws [t.dw0, t.dw1, t.dw2, t.dw3, t.dw4, t.dw5]) ++
  (sl.streams.toList.flatMap fun t => dw (natW t.pos)) ++
  dw (natW (bits (sl.streams.toList.map (·.mapped)) + bits (sl.streams.toList.map (·.done)) * 256)) ++
  dws [sl.pc, match sl.faultWait with | some w => w.va | none => 0,
       match sl.faultWait with | some w => natW w.kind | none => 0]

/-- Writes a saved slot's record to its area. -/
def State.writeImage (s : State) (x : Saved) : State :=
  s.physWrite s.fix.no 0 ((addrsFrom x.at_ x.bytes.length).zip x.bytes)

/-- Whether a saved slot is that of a place and context. -/
def Saved.isOf (x : Saved) (key ctx : Nat) : Bool := x.key == key && x.slot.ctx == ctx

/-- Changes a slot saved with its context, and its record with it. -/
def State.modSaved (s : State) (key ctx : Nat) (f : Saved → Saved) : State :=
  let s := { s with saved := s.saved.map fun (x : Saved) => if x.isOf key ctx then f x else x }
  match s.saved.find? fun (x : Saved) => x.isOf key ctx with
  | some x => s.writeImage x
  | none => s

/-- A mailbox word arrives: at the slot, at its saved image, or nowhere, with a report (R286, R388). -/
def State.deliverMail (s : State) (k mbox : Nat) (v : Word) (ctx sender : Nat) : State :=
  let s := s.sinkBy k
  if (s.slot k).runs ctx then s.modSlot k fun sl => sl.deliver mbox (some v)
  else if s.saved.any fun x => x.isOf k ctx then
    s.modSaved k ctx fun x => { x with slot := x.slot.deliver mbox (some v) }
  else s.report (dieOfSlot k) 0xB 0 ctx (placeLow k) (natW sender) (natW mbox)

/-! ### Barriers (R161) -/

/-- An entry of the group table. -/
def State.group (s : State) (n : Nat) : Group := s.part.groups.get Group.reset n

/-- Whether a slot is a member of a group. -/
def Slot.inGroup (sl : Slot) (n : BitVec 8) : Bool :=
  sl.grp.toList.any fun x => x.getLsbD 8 && x.toNat % 256 == n.toNat

/-- An arrival that a cell makes before its cut counts in the group image of the fix too (R353). -/
def State.imageArrival (s : State) (n : Nat) : State :=
  if s.fix.active ∧ s.fix.phase = 6 ∧ !s.afterCut (cellOf s.cur) then
    let bump (g : Group) : Group :=
      if g.arrived.toNat + 1 < g.count.toNat then { g with arrived := g.arrived + 1 }
      else { g with phase := g.phase + 1, arrived := 0 }
    s.modFix fun f => { f with images := f.images.map fun p =>
      if p.no = f.want then { p with groups := p.groups.set n (bump (p.groups.get Group.reset n)) } else p }
  else s

/-- A phase of group n completes: every member that waits is released once all turns of this cclk are over (R146, R161), one
whose cell has a cut to take before the last arrival's only then (R354); one that is saved has the phase in its image (R344).
-/
def State.completePhase (s : State) (n : Nat) : Word × State :=
  let g := s.group n
  let ph := g.phase + 1
  let w : Word := ph.zeroExtend 64
  let s := s.modPart fun p => { p with groups := p.groups.set n { g with phase := ph, arrived := 0 } }
  let waits (sl : Slot) : Bool := match sl.pend with | .bar _ m => m == n | _ => false
  let ks := (s.slots.filter fun (e : Nat × Slot) => waits e.2).map fun (e : Nat × Slot) => e.1
  let early (k : Nat) : Bool := s.fix.active && s.fix.phase == 6 && decide ((s.cell (cellOf k)).fixNo < (s.cell (cellOf s.cur)).fixNo)
  let s := ks.foldl (fun (s : State) k =>
    if early k then (s.beginCut (cellOf k)).modFix fun f => { f with barWaits := f.barWaits ++ [(k, w)] }
    else s.after 0 (.memoryReplyArrival k (.value w)) 0) s
  let held := (s.saved.filter fun x => waits x.slot).map fun x => (x.key, x.slot.ctx)
  let done (x : Saved) : Saved := match x.slot.pend with
    | .bar d _ => { x with st := 7, slot := { (x.slot.setG d w).goOn x.slot.ilen .seq with pend := .none } }
    | _ => x
  (w, held.foldl (fun (s : State) (e : Nat × Nat) => s.modSaved e.1 e.2 done) s)

/-- `bar gD, bgN`. -/
def execBar (g : Guard) (n : BitVec 8) (d : Reg) : State → Host.Outcome State Fault Refusal :=
  issue g (formLen g) do
    allowedIn true true
    let s ← get
    let sl ← getSlot
    let x := s.group n.toNat
    trapIf (!x.v || !sl.inGroup n || x.count == 0 || decide (46080 < x.count.toNat)) cBadGroup (n.zeroExtend 64)
    destReady d
    act fun s => s.imageArrival n.toNat
    if x.arrived.toNat + 1 < x.count.toNat then do
      act fun s => s.modPart fun p => { p with groups := p.groups.set n.toNat { x with arrived := x.arrived + 1 } }
      pure (.leave (.bar d n.toNat) wSem)
    else do
      let w ← actWith fun s => s.completePhase n.toNat
      writeG d w
      pure .seq

/-- `barq gD, bgN`. -/
def execBarq (g : Guard) (n : BitVec 8) (d : Reg) : State → Host.Outcome State Fault Refusal :=
  issue g (formLen g) do
    let s ← get
    let x := s.group n.toNat
    trapIf (!x.v) cBadGroup (n.zeroExtend 64)
    writeG d (x.phase.zeroExtend 64)
    pure .seq

/-- GROUP_ENTRY_WRITE (R160, R292). -/
def execGroupEntryWrite (n : Nat) (v : Word) : Event := fun s =>
  .next (s.modPart fun p => { p with groups := p.groups.set n ((p.groups.get Group.reset n).write v) })

/-! ### Active messages (R153, R154, R229, R230) -/

/-- Whether the place of an `amsend` fails (R229). -/
def badAmPlace (parts : Nat) (a : Word) : Bool :=
  let p := a.toNat
  slice a 63 25 != 0 || placeRole p == 3 || placeSlot p != 15 || decide (parts ≤ placePart p)

/-- `amsend gD, gA, gB` (R229, R230). -/
def execAmsend (g : Guard) (b a d : Reg) : State → Host.Outcome State Fault Refusal :=
  issue g (formLen g) do
    let p ← readG a
    let pc ← readG b
    let ws ← readRun d 4
    allowedIn true false
    let s ← get
    let k := s.cur
    trapIf (badAmPlace s.link.pod.n p) cBadPlace p
    trapIf (pc.toNat % 4 != 0) cMisaligned pc
    if 16 ≤ (s.core (coreOf k)).amOut.length then waitFor wMem
    let m : AmMsg := ⟨pc, ws.getD 0 0, ws.getD 1 0, ws.getD 2 0, ws.getD 3 0, (s.slot k).ctx, s.place k,
      (s.cell (cellOf k)).fixNo⟩
    act fun s => s.modCore (coreOf k) fun c =>
      { c with amOut := c.amOut ++ [(placePart p.toNat, placeCore p.toNat, m)] }
    pure .seq

/-- The start state of R149. -/
def Slot.start (sl : Slot) (ctx : Nat) (pc a0 a1 a2 a3 : Word) (work : Work) : Slot :=
  { Slot.reset with
    run := .run, pc := pc, spInit := sl.spInit, tpInit := sl.tpInit, amBudget := sl.amBudget, grp := sl.grp
    regs := ((((((Vector.replicate 32 (0 : Word)).set 2 sl.spInit).set 3 sl.tpInit).set 4 a0).set 5 a1).set 6 a2).set 7 a3
    gen := sl.gen + 1, ctx := ctx, work := work }

/-- ACTIVE_MESSAGE_START on the core that `cur` names (R154). -/
def execActiveMessageStart : Event := fun s =>
  let core := s.cur
  let k := core * 16 + 15
  match (s.core core).amIn with
  | [] => .next s
  | m :: rest =>
    if (s.slot k).run = .free ∧ !(s.ctx m.ctx).out then
      let s := (s.modCore core fun c => { c with amIn := rest, lastRemote := false }).sink (cellOfCore core)
      .next (s.modSlot k fun sl => sl.start m.ctx m.pc m.w0 m.w1 m.w2 m.w3 (.handler m.sender))
    else .next s

/-- HANDLER_BUDGET_OVERRUN of the slot that `cur` names (R154). -/
def execHandlerBudgetOverrun : Event := fun s =>
  match (s.slot s.cur).work with
  | .handler sender => .next (s.endHandler s.cur 29 sender)
  | _ => .next s

/-! ### Queues and rings (R316 to R318) -/

/-- Capacity of a ring, and the local address of its entry i (R317). -/
def ringCap (q : Word) : Nat := 2 ^ (slice q 3 0 + 6)
def ringEntry (q : Word) (i : Nat) : Nat := localAddr (slice q 59 12 * 4096) + i % ringCap q * 64

/-- Bytes of a ring entry (R317). -/
def ringBytes (t : TaskMsg) : List Byte :=
  [t.pc, t.a0, t.a1, t.a2, t.a3, t.reply, natW (t.ctx * 2 ^ 48 + t.tag.toNat), natW t.stamp].flatMap fun w =>
    leBytes 8 w.toNat

/-- The task of a ring entry. -/
def ringTask (bs : List Byte) : TaskMsg :=
  let w (i : Nat) : Nat := leNat ((bs.drop (8 * i)).take 8)
  { pc := natW (w 0), a0 := natW (w 1), a1 := natW (w 2), a2 := natW (w 3), a3 := natW (w 4), reply := natW (w 5)
    tag := BitVec.ofNat 32 (w 6), ctx := w 6 / 2 ^ 48, stamp := w 7 }

/-- Whether no access of a ring reaches an entry: it lies in secure memory, which the non-secure world does not reach, or outside HBM
(R317, R365, log 82). -/
def State.ringBarred (s : State) (a : Nat) : Bool := !inHbm a || s.worldFails false none (addrsFrom a 64)

/-- Reply address of a ring's head entry. -/
def ringKey (core : Nat) (q : Fin 4) : Nat := ringBase + core * 4 + q.val

/-- A request of a core's ring, under key 0 and in the non-secure world (R317). -/
def State.ringReq (s : State) (core key a : Nat) (bs : List Byte) : MemReq :=
  ⟨key, cellOfCore core, bs ≠ [], false, addrsFrom a 64, bs, 0, (s.cell (cellOfCore core)).fixNo, [], true, false, natW a⟩

/-- Writes a ring entry by a write-through to its home slice, in order with what its cell sends there (R25, R95, R317). -/
def State.ringPut (s : State) (core : Nat) (q : Fin 4) (i : Nat) (t : TaskMsg) : State :=
  let a := ringEntry (s.core core).qring[q] i
  let cell := cellOfCore core
  if s.ringBarred a then s
  else (s.l1Settle cell (addrsFrom a 64)).send clsMemReq cell (homeSlice a)
    (msg (.writeThrough (s.ringReq core noSlot a (ringBytes t))))

/-- Bytes of a ring entry that its cell has sent and that have still to be written. -/
def State.ringSent (s : State) (cell a : Nat) : Option (List Byte) :=
  let mine : Instr → Option (List Byte)
    | .writeThrough q => if q.cell = cell ∧ q.slot = noSlot ∧ q.addrs.head? = some a then some q.data else none
    | _ => none
  ((s.sched.now.filterMap fun e => mine e.1) ++ s.sched.flight.filterMap fun f => match f.parcel with
    | .step i _ => mine i
    | _ => none).getLast?

/-- What the read of a ring entry brings: its task; one that is poisoned, lost, or barred is discarded with a report (R318, R388,
log 82). -/
def State.ringTake (s : State) (core : Nat) (q : Fin 4) (a : Nat) (r : Reply) : Option TaskMsg × State :=
  let cell := cellOfCore core
  let gone (c ctx : Nat) : Option TaskMsg × State :=
    (none, s.report (dieOf cell) 0xE c ctx (placeLow (core * 16)) (natW a) (natW q.val))
  match r with
  | .block bs bad =>
    let es := bs.map (·.2)
    if bad = [] then (some (ringTask es), s)
    else gone cUncorrectable (if bad.any fun b => a + 48 ≤ b ∧ b < a + 56 then 0 else leNat ((es.drop 48).take 8) / 2 ^ 48)
  | .lost _ => gone cOwnerLost 0
  | .barred _ => gone cWorld 0
  | _ => gone cUncorrectable 0

/-- A ring entry as its home holds it, with what its cell has sent there already. -/
def State.ringGet (s : State) (core : Nat) (q : Fin 4) (i : Nat) : Option TaskMsg × State :=
  let a := ringEntry (s.core core).qring[q] i
  if s.ringBarred a then s.ringTake core q a (.barred 0)
  else match s.ringSent (cellOfCore core) a with
    | some bs => (some (ringTask bs), s)
    | none =>
      let (r, s) := s.readAnswer (s.ringReq core noSlot a [])
      s.ringTake core q a r

/-- The read of a ring's head goes to its home slice (R317, R318). -/
def State.ringAsk (s : State) (core : Nat) (q : Fin 4) : State :=
  let c := s.core core
  let a := ringEntry c.qring[q] c.ringHead[q]
  let set (x : RingRead) (s : State) : State := s.modCore core fun c => { c with ringRead := c.ringRead.set q x }
  if s.ringBarred a then set (.got (.barred 0)) s
  else (set .asked s).sendIn clsMemReq (cellOfCore core) (homeSlice a) 0 (.read (s.ringReq core (ringKey core q) a []))

/-- Whether a queue takes a new entry, and the state with it (R318). -/
def State.pushTask (s : State) (core : Nat) (q : Fin 4) (t : TaskMsg) : Option State :=
  let c := s.core core
  if c.q[q].length < 64 ∧ c.ringCount[q] = 0 then
    some (s.modCore core fun c => { c with q := c.q.set q (c.q[q] ++ [t]) })
  else if bitOf c.qring[q] 4 ∧ c.ringCount[q] < ringCap c.qring[q] ∧
      !s.poolStops (s.cell (cellOfCore core)).fixNo (addrsFrom (ringEntry c.qring[q] (c.ringHead[q] + c.ringCount[q])) 64) then
    some ((s.ringPut core q (c.ringHead[q] + c.ringCount[q]) t).modCore core fun c =>
      { c with ringCount := c.ringCount.set q (c.ringCount[q] + 1) })
  else none

/-- RING_TO_CHIP_MOVE of the queue that `cur` names, core · 4 + queue: the head entry, which has come from its home slice, joins the
queue on the chip (R318). -/
def execRingToChipMove : Event := fun s =>
  let core := s.cur / 4
  let q : Fin 4 := ⟨s.cur % 4, Nat.mod_lt _ (by decide)⟩
  let c := s.core core
  match c.ringRead[q] with
  | .got r =>
    let (t, s) := s.ringTake core q (ringEntry c.qring[q] c.ringHead[q]) r
    .next (s.modCore core fun c => { c with
      ringRead := c.ringRead.set q .idle
      ringHead := c.ringHead.set q ((c.ringHead[q] + 1) % ringCap c.qring[q])
      ringCount := c.ringCount.set q (c.ringCount[q] - 1), ringAt := c.ringAt.set q (s.cycle + 4)
      q := match t with | some t => c.q.set q (c.q[q] ++ [t]) | none => c.q })
  | _ => .next s

/-- A write to a queue's ring register (R317). -/
def execQringWrite (core q : Nat) (v : Word) : Event := fun s =>
  .next (s.writeQring core ⟨q % 4, Nat.mod_lt _ (by decide)⟩ v)

/-! ### Removal from queues (R324, R327) -/

/-- The entries of a ring, in order; poisoned ones are discarded. -/
def State.ringAll (s : State) (core : Nat) (q : Fin 4) : List TaskMsg × State :=
  let c := s.core core
  (List.range c.ringCount[q]).foldl (fun (r : List TaskMsg × State) i =>
    match r.2.ringGet core q (c.ringHead[q] + i) with
    | (some t, s) => (r.1 ++ [t], s)
    | (none, s) => (r.1, s)) ([], s)

/-- Removes the tasks that a test selects from a queue, ring part included, with their number. -/
def State.filterQueue (s : State) (core : Nat) (q : Fin 4) (gone : TaskMsg → Bool) : Nat × State :=
  let (ts, s) := s.ringAll core q
  let keep := ts.filter fun t => !gone t
  let chip := (s.core core).q[q]
  let left := chip.filter fun t => !gone t
  let n := ts.length - keep.length + (chip.length - left.length)
  let s := if keep.length = (s.core core).ringCount[q] then s
    else (((keep.zipIdx).foldl (fun (s : State) (e : TaskMsg × Nat) =>
        s.ringPut core q ((s.core core).ringHead[q] + e.2) e.1) s).disownAll fun _ x => x == ringKey core q).modCore core fun c =>
      { c with ringCount := c.ringCount.set q keep.length, ringRead := c.ringRead.set q .idle }
  (n, s.modCore core fun c => { c with q := c.q.set q left })

/-- Removes tasks from all four queues. -/
def State.filterQueues (s : State) (core : Nat) (gone : TaskMsg → Bool) : Nat × State :=
  (List.finRange 4).foldl (fun (r : Nat × State) q =>
    let (n, s) := r.2.filterQueue core q gone
    (r.1 + n, s)) (0, s)

/-! ### The inbox (R314, R315, R354) -/

/-- Children of a core in a job's spanning tree (R314). -/
def jobChildren (root count core : Nat) : List Nat :=
  let q := (core + 3072 - root) % 3072
  (((List.range 4).map fun i => 4 * q + 1 + i).filter (· < count)).map fun c => (root + c) % 3072

/-- What a message at the head of an inbox does; none while it cannot move on (R315). -/
def State.accept (s : State) (core : Nat) (m : CoreMsg) : Option State :=
  let cell := cellOfCore core
  let room := (s.core core).fifo.length < 16
  let stamp (t : TaskMsg) : TaskMsg := if t.stamp = 0 then { t with stamp := s.cycle } else t
  let fifo (t : TaskMsg) (s : State) : State := s.modCore core fun c => { c with fifo := c.fifo ++ [stamp t] }
  match m with
  | .jobLaunch root n t =>
    if room then
      let s := (jobChildren root n core).foldl (fun (s : State) c =>
        s.sendWithin clsTask core c 100 (.core c ⟨(s.cell cell).fixNo, .jobLaunch root n t⟩)) s
      some (fifo { t with a1 := natW ((core + 3072 - root) % 3072), a2 := natW n, a3 := 0 } s)
    else none
  | .launch t => if room then some (fifo t s) else none
  | .task q t => s.pushTask core ⟨q % 4, Nat.mod_lt _ (by decide)⟩ (stamp t)
  | .mail k mbox v ctx sender => some (s.deliverMail k mbox v ctx sender)
  | .decrement n ctx sender signals => some (s.decrement cell n ctx sender signals)
  | .taskwd tag mask ctx =>
    let gone (t : TaskMsg) : Bool := t.ctx == ctx && tagMatch tag mask t.tag
    let (_, s) := s.filterQueues core gone
    some (s.modCore core fun c => { c with inbox := c.inbox.filter fun (x : Sent) => match x.msg with
      | .task _ t => !gone t
      | _ => true })

/-- Context of a message. -/
def msgCtx : CoreMsg → Nat
  | .jobLaunch _ _ t => t.ctx
  | .launch t => t.ctx
  | .task _ t => t.ctx
  | .mail _ _ _ c _ => c
  | .decrement _ c _ _ => c
  | .taskwd _ _ c => c

/-- Launches and tasks of a context added to what its teardown has discarded here (R327). -/
def Core.countTear (c : Core) (ctx l t : Nat) : Core :=
  { c with tears := c.tears.map fun x => if x.ctx = ctx then { x with launches := x.launches + l, tasks := x.tasks + t } else x }

/-- A discarded message counted for the teardown report: launches and tasks (R327). -/
def Core.countGone (c : Core) (m : CoreMsg) : Core :=
  match m with
  | .jobLaunch .. => c.countTear (msgCtx m) 1 0
  | .launch _ => c.countTear (msgCtx m) 1 0
  | .task .. => c.countTear (msgCtx m) 0 1
  | _ => c

/-- Whether a teardown of a context has reached a core and is not complete (R327). -/
def Core.tearing (c : Core) (ctx : Nat) : Bool := c.tears.any fun x => x.ctx == ctx

/-- Whether the head of an inbox, and so all of it, has come in this cclk. -/
def Core.justCame (c : Core) (now : Nat) : Bool := c.landed.1 == now && decide ((c.inbox ++ c.arriving).length ≤ c.landed.2)

/-- The decrements of a counter that came in the cclk of one just accepted, and stand behind it, act in that cclk too (R282, R377).
DEDUCED (log 104): R315 has an inbox accept one message in a cclk. -/
def State.alsoDecrements (s : State) (core n : Nat) (came : Bool) : List Sent → State
  | [] => s
  | m :: rest =>
    let cell := cellOfCore core
    match m.msg with
    | .decrement n' ctx _ _ =>
      if !came || n' ≠ n || s.cutFirst cell m.fixCount || (s.core core).tearing ctx then s
      else
        let popped := s.modCore core fun c => { c with inbox := rest }
        match popped.accept core m.msg with
        | none => s
        | some s' => (s'.sink cell).alsoDecrements core n came rest
    | _ => s

/-- INBOX_ACCEPT of the core that `cur` names (R315). -/
def execInboxAccept : Event := fun s =>
  let core := s.cur
  let cell := cellOfCore core
  match (s.core core).inbox with
  | [] => .next s
  | m :: rest =>
    if s.cutFirst cell m.fixCount then .next (s.beginCut cell)
    else
      let popped := s.modCore core fun c => { c with inbox := rest }
      if (s.core core).tearing (msgCtx m.msg) then .next (popped.modCore core fun c => c.countGone m.msg)
      else match popped.accept core m.msg with
        | none => .next s
        | some s' => .next (match m.msg with
          | .decrement n _ _ _ => (s'.sink cell).alsoDecrements core n ((s.core core).justCame s.cycle) rest
          | _ => s'.sink cell)

/-! ### Dispatch (R319 to R322) -/

/-- Effective priority of a queue's head (R321). -/
def effPriority (c : Core) (now k : Nat) (t : TaskMsg) : Nat :=
  if 0 < k ∧ c.qage ≠ 0 ∧ c.qage.toNat < now - t.stamp then k - 1 else k

/-- The better of two heads: effective priority, then stamp, then number (R321). -/
def betterHead (c : Core) (now : Nat) (x y : Nat × TaskMsg) : Bool :=
  let p := effPriority c now x.1 x.2
  let q := effPriority c now y.1 y.2
  decide (p < q) || (p == q && (decide (x.2.stamp < y.2.stamp) || (x.2.stamp == y.2.stamp && decide (x.1 < y.1))))

/-- The head that the dispatcher takes from the task queues; heads of contexts that are switched out stay
(R321, R344). -/
def State.pickHead (s : State) (core : Nat) : Option (Nat × TaskMsg) :=
  let c := s.core core
  let heads := (List.finRange 4).filterMap fun i => match c.q[i] with
    | t :: _ => if (s.ctx t.ctx).out then none else some (i.val, t)
    | [] => none
  heads.foldl (fun b x => match b with
    | none => some x
    | some y => if betterHead c s.cycle x y then some x else some y) none

/-- A queue without its head. -/
def Core.popQueue (c : Core) (k : Nat) : Core :=
  let q : Fin 4 := ⟨k % 4, Nat.mod_lt _ (by decide)⟩
  { c with q := c.q.set q c.q[q].tail }

/-- Work that the dispatcher may take now: the launch FIFO, then the queues (R319). -/
def State.nextWork (s : State) (core : Nat) : Option (TaskMsg × Option Nat) :=
  match (s.core core).fifo with
  | t :: _ => if (s.ctx t.ctx).out then (s.pickHead core).map fun e => (e.2, some e.1) else some (t, none)
  | [] => (s.pickHead core).map fun e => (e.2, some e.1)

/-- TASK_DISPATCH on the core that `cur` names (R158, R319). -/
def execTaskDispatch : Event := fun s =>
  let core := s.cur
  match s.nextWork core, s.freeSlot core with
  | some (t, q), some k =>
    if (s.core core).dispatched = s.cycle + 1 then .next s
    else
      let s := s.modCore core fun c => { (match q with
        | none => { c with fifo := c.fifo.tail }
        | some q => c.popQueue q) with dispatched := s.cycle + 1 }
      .next (s.modSlot k fun sl => sl.start t.ctx t.pc t.a0 t.a1 t.a2 t.a3 (.task t.reply))
  | _, _ => .next s

/-! ### Range forks (R159, R283, R325, R326) -/

/-- Core j of a range fork's search: the issuer's cluster, then its die, then the rest of the part, by ascending
core index (R159). -/
def forkCore (core j : Nat) : Nat :=
  let cell := cellOfCore core
  let r := core % 3
  let cl := clusterOf cell
  let d := dieOf cell
  if j < 4 then (cl * 4 + j) * 3 + r
  else if j < 256 then
    let i := j - 4
    (d * 256 + if i < cl * 4 - d * 256 then i else i + 4) * 3 + r
  else
    let i := j - 256
    (if i < d * 256 then i else i + 256) * 3 + r

/-- Cclk after the issue in which a search reaches its core j, and in which its level ends (R325). -/
def forkAt (j : Nat) : Nat × Nat :=
  if j < 4 then (2 * (j + 1), 8)
  else if j < 256 then (8 + ((j - 3) * 40 + 251) / 252, 48)
  else (48 + ((j - 255) * 152 + 767) / 768, 200)

/-- Cores of the search that are reached in a cclk after the issue. -/
def forkNow (t : Nat) : List Nat :=
  (if t ≤ 8 then List.range 4 else if t ≤ 48 then (List.range 252).map (4 + ·) else (List.range 768).map (256 + ·)).filter
    fun j => (forkAt j).1 = t

/-- Index of a core in the search. -/
def forkIndex (core c : Nat) : Nat := ((List.range 1024).find? fun j => forkCore core j = c).getD 0

/-- Slots that a fork wants beside the issuer's (R159). -/
def Fork.wanted (f : Fork) : Nat := max 1 (min ((f.n + f.grain - 1) / f.grain) 46080) - 1

/-- `rfork gD, gA` (R159, R283): the issuer waits until the search has ended (log 23). -/
def execRfork (q : Pg) (a d : Reg) : State → Host.Outcome State Fault Refusal :=
  issue (.pred q.sense q.pred) 12 do
    let j ← readG a
    let ws ← readRun d 5
    allowedIn true true
    let body := ws.getD 2 0
    let cont := ws.getD 4 0
    trapIf (j.toNat % 16 != 0) cMisaligned j
    trapIf (body.toNat % 4 != 0) cMisaligned body
    trapIf (cont.toNat % 4 != 0) cMisaligned cont
    let s ← get
    let k := s.cur
    match (if nearWindow + 0x800000 ≤ j.toNat then nearLocal (cellOf k) j.toNat 16 else none) with
    | none => trap cNearRange j
    | some p => do
      trapIf (s.worldFails (s.secureOf k) none [p]) cWorld j
      if s.poolStops (s.cell (cellOf k)).fixNo (addrsFrom p 16) then waitFor wMem
      let f : Fork := ⟨(ws.getD 0 0).toNat, max 1 (ws.getD 1 0).toNat, body, ws.getD 3 0, cont, j, s.cycle, []⟩
      modMe fun sl => { sl with fork := some f }
      act fun s => if f.wanted = 0 then s.after 8 .rforkShareStart k else s
      pure (.leave .plain wMem)

/-- RFORK_CLAIM: the search of slot k reaches a core, which has not dispatched a role in this cclk (R319, R325). -/
def execRforkClaim (k core : Nat) : Event := fun s =>
  match (s.slot k).fork with
  | none => .next s
  | some f =>
    let home := coreOf k
    let j := forkIndex home core
    let c := s.core core
    let busy := decide (c.dispatched = s.cycle + 1) && decide (c.forked ≠ s.cycle + 1)
    let free := if busy then [] else ((List.range 15).map (core * 16 + ·)).filter s.dispatchable
    let mine := free.take (f.wanted - f.claimedSlots.length)
    let s := mine.foldl (fun (s : State) i => s.modSlot i fun sl => { sl with run := .claimed k }) s
    let s := if mine = [] then s
      else s.modCore core fun c => { c with dispatched := s.cycle + 1, forked := s.cycle + 1 }
    let f := { f with claimedSlots := f.claimedSlots ++ mine }
    let s := s.modSlot k fun sl => { sl with fork := some f }
    let enough := decide (f.wanted ≤ f.claimedSlots.length)
    if f.wanted ≠ 0 ∧ (enough ∨ j = 1023) then
      .next (s.after (f.started + (forkAt j).2 - s.cycle) .rforkShareStart k)
    else .next s

/-- Bounds of share i of k (R159). -/
def shareBound (n k i : Nat) : Word := natW (i * n / k)

/-- A share starts in the slot that its fork claimed: before its cell's cut only where the issuer's is still to come, and logged where
the cell's is over (R311, R326, R352, R354). -/
def State.startShare (s : State) (q : ShareStart) : State :=
  let cell := cellOf q.slot
  if s.cutFirst cell q.fixCount then (s.beginCut cell).sendIn clsOwn 0 0 1 (.share q)
  else (s.logItem cell q.fixCount (.share q)).modSlot q.slot fun x => x.start q.ctx q.body q.lo q.hi q.arg q.join q.outer

/-- RFORK_SHARE_START: the search of the slot that `cur` names has ended (R159, R326). -/
def execRforkShareStart : Event := fun s =>
  let k := s.cur
  let sl := s.slot k
  match sl.fork with
  | none => .next s
  | some f =>
    let cell := cellOf k
    let n := f.claimedSlots.length + 1
    let join := (nearLocal cell f.joinVa.toNat 16).getD 0
    let outer : Work := .share cell join sl.work
    let s := (s.nearWrite (s.cell cell).fixNo
      ((addrsFrom join 16).zip (leBytes 8 n ++ leBytes 8 f.cont.toNat))).sink cell
    let s := (f.claimedSlots.zipIdx 1).foldl (fun (s : State) (e : Nat × Nat) =>
      s.startShare ⟨e.1, sl.ctx, f.body, shareBound f.n n e.2, shareBound f.n n (e.2 + 1), f.arg, f.joinVa, outer, (s.cell cell).fixNo⟩) s
    .next (s.modSlot k fun sl =>
      { ((((sl.setG 4 0).setG 5 (shareBound f.n n 1)).setG 6 f.arg).setG 7 f.joinVa) with
        run := .run, pend := .none, pc := f.body, carry := [], work := outer, fork := none })

end Sys2Proof.Machine
end

