-- ==== Sys2Proof/Machine/Engine.lean ====
section
/-! DEFINITION. Tiles and engine commands: the tile-table forms (R124 to R129, R236, R237, R239) and the issue of
a command into its engine's queue (R127, R128, R130, R131, R151, R152, R235). -/

namespace Sys2Proof.Machine

/-! ### Naming tiles (R127, R237) -/

/-- How an instruction uses a tile: read, written wholly, or both (R127). -/
inductive Use where
  | src
  | dst
  | both
  deriving DecidableEq, Repr

/-- Whether a tile's state lets an instruction issue (R127, R128). -/
def Tile.may (t : Tile) : Use → Bool
  | .src => t.state == .ready && decide (t.hold < 63)
  | .dst => (t.state == .ready || t.state == .empty) && t.hold == 0
  | .both => t.state == .ready && t.hold == 0

/-- Handles that the issuing slot's transaction received; none outside a role (R97, R237). -/
def myHandles : Act (Option (List Nat)) := do
  let s ← get
  match ← myRole with
  | none => pure none
  | some (num, _) => pure (some (match s.txn num with | some t => recHandles t.sub.record | none => []))

/-- Handles t32 to t63 that an engine form names must be those of the slot's own transaction (R237). -/
def handleRule (hs : List Nat) : Act Unit := do
  let mine := (← myHandles).getD []
  match hs.find? fun h => decide (32 ≤ h) && !mine.contains h with
  | some h => trap cTxnEffect (natW h)
  | none => pure ()

/-- Every named tile must be bound: the first that is not (R127). -/
def needBound (hs : List Nat) : Act Unit := do
  let c ← getCell
  match hs.find? fun h => !(c.tile h).v with
  | some h => trap cBadTile (natW h)
  | none => pure ()

/-- Waits until the tiles that an instruction names are as it needs, in the order of the waiters (R127, R162). -/
def tilesReady (us : List (Nat × Use)) : Act Unit := do
  let c ← getCell
  let k ← me
  let bad := us.filter fun (u : Nat × Use) => !((c.tile u.1).may u.2 && c.firstFor false u.1 k)
  if bad ≠ [] then stop (.wait wTile (bad.map fun (u : Nat × Use) => (false, u.1)))

/-- Reads operands; where they cannot be read yet, or their read traps, the checks that need none of them and the issue
conditions come first (R170). -/
def readLate {α : Type} (read : Act α) (checks : Act Unit) : Act α := fun s =>
  match read s with
  | .ok r => .ok r
  | .error e => match checks s with
    | .error c => .error c
    | .ok _ => .error e

/-- A register operand, if it can be read now: the checks that need it alone come before the wait for another (R170). -/
def peekG (r : Reg) : Act (Option Word) := fun s =>
  match readG r s with
  | .ok (v, s) => .ok (some v, s)
  | .error _ => .ok (none, s)

/-! ### Tile-table forms (R236, R239) -/

/-- R237 for the tile-table forms; `binds` is set for `tbind`, `tfree` and `tmark`. -/
def tableRule (binds : Bool) (h : Nat) : Act Unit := do
  if 32 ≤ h then
    match ← myHandles with
    | none => trapIf binds cTxnEffect (natW h)
    | some hs => do
      trapIf binds cBadTile (natW h)
      trapIf (!hs.contains h) cTxnEffect (natW h)

/-- The frame of a tile-table form. -/
def tableForm (q : Pg) (body : Act Next) : State → Host.Outcome State Fault Refusal :=
  issue (.pred q.sense q.pred) 12 body

/-- `tbind` (R126, R236). -/
def execTbind (q : Pg) (view : BitVec 2) (plane : Bool) (fmt : BitVec 4) (cols rows : BitVec 12) (b a : Reg)
    (td : TileIx) : State → Host.Outcome State Fault Refusal :=
  tableForm q do
    let h := td.toNat
    let size := tileUnits plane fmt.toNat cols.toNat rows.toNat
    let badPlaceOf (w : Word) : Bool := slice w 63 30 != 0 || decide (0x100000 < slice w 12 0 * 256 + size * 256)
    let bad := rows == 0 || cols == 0 || decide (9 ≤ fmt.toNat) || view == 3 || !layoutOk plane fmt.toNat cols.toNat
    let (gva, w) ← readLate (do
      let gva ← readG a
      let w ← readG b
      pure (gva, w)) (do
      let _ ← peekG a
      let w := (← peekG b).getD 0
      trapIf (badPlaceOf w || bad) cBadTile (natW h)
      tableRule true h
      let c ← getCell
      if (c.tile h).v then tilesReady [(h, .dst)])
    trapIf (badPlaceOf w || bad) cBadTile (natW h)
    tableRule true h
    let c ← getCell
    if (c.tile h).v then tilesReady [(h, .dst)]
    modMyCell fun c => c.setTiles [h] fun _ =>
      { state := .empty, v := true, plane := plane, fmt := fmt.toNat, view := view.toNat, hold := 0
        cols := cols.toNat, rows := rows.toNat, base := slice w 12 0, gva := gva, pitch := slice w 29 13, size := size }
    pure .seq

/-- A form that changes a bound tile's entry once no operation uses it. -/
def changeTile (q : Pg) (td : TileIx) (f : Tile → Tile) : State → Host.Outcome State Fault Refusal :=
  tableForm q do
    let h := td.toNat
    tableRule true h
    needBound [h]
    tilesReady [(h, .dst)]
    modMyCell fun c => c.setTiles [h] f
    pure .seq

def execTfree (q : Pg) (td : TileIx) : State → Host.Outcome State Fault Refusal :=
  changeTile q td fun t => { t with v := false }

def execTmarkR (q : Pg) (td : TileIx) : State → Host.Outcome State Fault Refusal :=
  changeTile q td fun t => { t with state := .ready }

def execTmarkE (q : Pg) (td : TileIx) : State → Host.Outcome State Fault Refusal :=
  changeTile q td fun t => { t with state := .empty }

/-- STATE as R124 codes it. -/
def TileState.code : TileState → Nat
  | .empty => 0
  | .filling => 1
  | .ready => 2
  | .draining => 3

/-- Doubleword n of a tile-table entry (R124). -/
def Tile.dword (t : Tile) (n : Nat) : Word :=
  match n with
  | 0 => natW (t.state.code * 2 ^ 62 + (if t.v then 2 ^ 61 else 0) + (if t.plane then 2 ^ 60 else 0) +
      t.fmt * 2 ^ 56 + t.view * 2 ^ 54 + t.hold * 2 ^ 48 + t.cols * 2 ^ 36 + t.rows * 2 ^ 24 + t.base)
  | 1 => t.gva
  | _ => natW (t.pitch * 2 ^ 47 + t.size * 2 ^ 34)

def execTstate (q : Pg) (dw : BitVec 2) (d : Reg) (td : TileIx) : State → Host.Outcome State Fault Refusal :=
  tableForm q do
    tableRule false td.toNat
    let c ← getCell
    writeG d ((c.tile td.toNat).dword dw.toNat)
    pure .seq

def execTwait (q : Pg) (td : TileIx) : State → Host.Outcome State Fault Refusal :=
  tableForm q do
    let h := td.toNat
    tableRule false h
    needBound [h]
    let c ← getCell
    let k ← me
    if (c.tile h).state ≠ .ready ∨ !c.firstFor false h k then stop (.wait wTile [(false, h)])
    pure .seq

/-! ### The issue of an engine form (R152, R235) -/

/-- Role code of the cores that an engine serves (R151). -/
def engRole : Eng → Nat
  | .copy => 0
  | .conv => 1
  | .table => 1
  | .matrix => 2
  | .vector => 2

/-- The frame of an engine form: the engine role rule comes before the guard (R152, R170). -/
def engineForm (e : Eng) (x : Ext) (body : Act Next) (s : State) : Host.Outcome State Fault Refusal :=
  if roleOf s.cur ≠ engRole e then s.stopped (.trap cWrongEngine (natW (roleOf s.cur)))
  else issue (.pred x.sense x.pred) 12 body s

/-- The issue conditions of an engine form: its tiles, and room in its queue (R127, R130). -/
def mayEnter (e : Eng) (us : List (Nat × Use)) : Act Unit := do
  tilesReady us
  let c ← getCell
  if 8 ≤ (c.eng[engIx e]).queue.length ∨ c.cutBegun then waitFor wMem

/-- The issue cclk of R235: tile states change, a status predicate is cleared, and the command enters its queue
with what it captured; `hs` are the tiles that it names.  DEDUCED (log 91): a tile that the form both reads and writes takes
no HOLD, in any form. -/
def enterQueue (e : Eng) (x : Ext) (op : Instr) (vals : List Word) (hs : List Nat) (us : List (Nat × Use)) :
    Act Unit := do
  mayEnter e us
  let c ← getCell
  let s ← get
  let k := s.cur
  let sl ← getSlot
  let txn ← myRole
  let srcs := (us.filter fun (u : Nat × Use) => u.2 == Use.src).map fun (u : Nat × Use) => u.1
  let dsts := (us.filter fun (u : Nat × Use) => u.2 != Use.src).map fun (u : Nat × Use) => u.1
  let cmd : Cmd :=
    { op := op, slot := k, gen := sl.gen, ctx := sl.ctx, priv := s.privOf k, secure := s.secureOf k, fmode := sl.fmode
      vals := vals, tiles := hs.map fun h => (h, c.tile h), srcs := srcs, dsts := dsts
      gate := (x.gcount.toNat, x.gsem.toNat), done := x.done, txn := txn }
  modMyCell fun c =>
    ((c.setTiles dsts fun t => { t with state := .filling }).setTiles srcs fun t => { t with hold := t.hold + 1 }).modEng
      (engIx e) fun y => { y with queue := y.queue ++ [cmd] }
  match x.done with
  | .pred p => modMe fun sl => sl.setP p false
  | _ => pure ()

/-- Operands of an engine form that its checks do not need: the checks come first, and the issue conditions before an operand
that cannot be read (R170, R235). -/
def operandsAfter (e : Eng) (us : List (Nat × Use)) (check : Act Unit) (vals : Act (List Word)) : Act (List Word) := do
  let vs ← readLate vals (do
    check
    mayEnter e us)
  check
  pure vs

/-- The uses of tiles by a form: sources, and a destination that is also read where `also` says so or where it is a
source too (R127). -/
def usesOf (also : Bool) (d : Nat) (srcs : List Nat) : List (Nat × Use) :=
  (d, if also || srcs.contains d then Use.both else Use.dst) :: ((srcs.filter (· ≠ d)).dedup.map fun h => (h, Use.src))

/-! ### Address ranges (R135, R237) -/

/-- Traps the first extreme that lies outside −2^55 to 2^55 − 1 (R135). -/
def checkRange (lo hi : Int) : Act Unit := do
  let bad (v : Int) : Bool := decide (v < -(2 ^ 55)) || decide ((2 ^ 55 : Int) ≤ v)
  trapIf (bad lo) 11 (wordOfInt lo)
  trapIf (bad hi) 11 (wordOfInt hi)

/-- Whether a byte range of exact addresses lies wholly in one window of the near window, which begins at −2^55. -/
def inNear (lo hi : Int) : Bool :=
  decide (-(2 ^ 55) ≤ lo) && decide (lo ≤ hi) && decide (hi < -(2 ^ 55) + 0x1000000) &&
    (nearLocal 0 (wordOfInt lo).toNat (hi - lo + 1).toNat).isSome

/-- A role writes to no memory but its cell's own near window (R112, R237). -/
def memoryRule (lo hi : Int) : Act Unit := do
  match ← myRole with
  | some _ => trapIf (!inNear lo hi) cTxnEffect (wordOfInt lo)
  | none => pure ()

/-- The tile of a handle of the issuing slot's cell. -/
def getTile (h : Nat) : Act Tile := do
  let c ← getCell
  pure (c.tile h)

end Sys2Proof.Machine
end

