-- ==== Sys2Proof/Machine/EngineMem.lean ====
section
/-! DEFINITION. What an engine command reads and writes: its tiles, and memory through its issuing slot's
translations (R45, R118, R134, R137, R240). -/

namespace Sys2Proof.Machine

/-- A command in progress and where it runs. -/
structure Job where
  cell : Nat
  eng : Eng
  r : Running
  deriving DecidableEq, Repr

/-- Reply address of an engine, and that for the acknowledgements of its writes. -/
def engKey (cell : Nat) (e : Eng) : Nat := engBase + cell * 5 + (engIx e).val
def engAck (cell : Nat) (e : Eng) : Nat := ackBase + cell * 5 + (engIx e).val

/-- Cause *copy address overflow*. -/
abbrev cCopyRange : Nat := cCopyOverflow

/-- Tile n of a command, in the order in which it names them, as captured at issue (R235). -/
def Job.tile (x : Job) (n : Nat) : Tile := ((x.r.cmd.tiles[n]?).map fun (e : Nat × Tile) => e.2).getD Tile.reset

/-- Operand value n of a command. -/
def Job.val (x : Job) (n : Nat) : Word := x.r.cmd.vals.getD n 0

def Job.rm (x : Job) : Nat := rmOf x.r.cmd.fmode
def Job.ftz (x : Job) : Bool := ftzOf x.r.cmd.fmode

/-! ### Tiles -/

/-- Bytes of the tile store of the issuing slot's cell from a local address on, as they stand for a reader on its cell's side of
the cut; a poisoned word ends the operation (R45, R355). -/
def storeRead (a n : Nat) : Act (List Byte) := do
  let s ← get
  let as := addrsFrom a n
  poisonTrap (s.poisonAt (s.cell (cellOf s.cur)).fixNo as)
  act fun s => s.noteSoft as
  let count := (s.cell (cellOf s.cur)).fixNo
  pure (as.map fun a => s.byte (s.redirect count a))

/-- A page fault of an element's own access: the operation waits for it, or ends as the answer said (R134, R339). -/
def Job.pageFault {α : Type} (x : Job) (va : Nat) (f : PageFault) : Act α :=
  if x.r.declined then trap cDeclined (natW va) else stop (.fault f (natW va))

/-- A write after the cut waits for a pool frame when none is left (R355). -/
def Job.poolRule (x : Job) (va : Nat) (part : Nat) (as : List Nat) : Act Unit := do
  let s ← get
  if part = s.link.pod.k ∧ s.poolStops (s.cell x.cell).fixNo as then
    x.pageFault va ⟨x.r.cmd.ctx, pageOf va, 3, 7, false⟩

/-- Writes bytes of the cell's tile store. -/
def Job.storeWrite (x : Job) (a : Nat) (bs : List Byte) : Act Unit := do
  let s ← get
  x.poolRule (nearWindow + (a - tileAddr x.cell 0)) s.link.pod.k (addrsFrom a bs.length)
  act fun s => (s.nearWrite (s.cell x.cell).fixNo ((addrsFrom a bs.length).zip bs)).sink x.cell

/-- Local address of byte o of a tile. -/
def Job.at_ (x : Job) (t : Tile) (o : Nat) : Nat := tileAddr x.cell (t.at_ + o)

/-- Byte offset of element (i, j) of a row-form tile that is not BFX. -/
def elemOff (t : Tile) (i j : Nat) : Nat := i * t.rb + j * elemBytes t.fmt

/-- Element (i, j) as a pattern. -/
def Job.elem (x : Job) (t : Tile) (i j : Nat) : Act Nat := do
  let bs ← storeRead (x.at_ t (elemOff t i j)) (elemBytes t.fmt)
  pure (leNat bs)

/-- Element (i, j) written. -/
def Job.putElem (x : Job) (t : Tile) (i j v : Nat) : Act Unit :=
  x.storeWrite (x.at_ t (elemOff t i j)) (leBytes (elemBytes t.fmt) v)

/-! ### Blocks of 32 elements (R42, R61, R125) -/

/-- Element codes of a block, with its two exponents. -/
structure Codes where
  codes : List Nat
  e0 : Nat
  e1 : Nat
  deriving DecidableEq, Repr

/-- The planes of a record in order: bit of the code that each holds (R61). -/
def planeBits (fmt : Nat) : List Nat :=
  if isBfx fmt then List.range (fmtBits fmt - 2) ++ [fmtBits fmt - 1, fmtBits fmt - 2] else List.range 8

/-- Words of a record. -/
def recordWords (fmt : Nat) : Nat := (planeBits fmt).length + if isBfx fmt then 1 else 0

/-- Byte offset of record (i, b) of a plane-form tile. -/
def recordOff (t : Tile) (i b : Nat) : Nat := i * t.rb + b * (4 * recordWords t.fmt)

/-- The codes of a packed block of n-bit elements (R42). -/
def unpackBlock (n v : Nat) : List Nat := (List.range 32).map fun e => v / 2 ^ (n * e) % 2 ^ n

/-- The packed value of codes of n bits. -/
def packBlock (n : Nat) (cs : List Nat) : Nat := cs.zipIdx.foldl (fun v (c : Nat × Nat) => v + c.1 % 2 ^ n * 2 ^ (n * c.2)) 0

/-- Codes from the words of a record. -/
def codesOfWords (fmt : Nat) (ws : List Nat) : Codes :=
  let bits := planeBits fmt
  let code (e : Nat) : Nat := (bits.zip ws).foldl (fun v (p : Nat × Nat) => v + p.2 / 2 ^ e % 2 * 2 ^ p.1) 0
  let x := ws.getD bits.length 0
  ⟨(List.range 32).map code, if isBfx fmt then x % 256 else 0, if isBfx fmt then x / 256 % 256 else 0⟩

/-- Words of a record from codes (R61). -/
def wordsOfCodes (fmt : Nat) (c : Codes) : List Nat :=
  (planeBits fmt).map (fun b => c.codes.zipIdx.foldl (fun v (e : Nat × Nat) => v + e.1 / 2 ^ b % 2 * 2 ^ e.2) 0) ++
  if isBfx fmt then [c.e0 + c.e1 * 256] else []

/-- 32-bit words of bytes. -/
def words32 (bs : List Byte) : List Nat := (List.range (bs.length / 4)).map fun i => leNat ((bs.drop (4 * i)).take 4)

/-- Block (i, b) of a BFX or INT8 tile of either layout. -/
def Job.block (x : Job) (t : Tile) (i b : Nat) : Act Codes := do
  if t.plane then
    let bs ← storeRead (x.at_ t (recordOff t i b)) (4 * recordWords t.fmt)
    pure (codesOfWords t.fmt (words32 bs))
  else if isBfx t.fmt then
    let n := blockBytes t.fmt
    let bs ← storeRead (x.at_ t (i * t.rb + b * n)) n
    let sc ← storeRead (x.at_ t (i * t.rb + t.cols / 32 * n + 2 * b)) 2
    pure ⟨unpackBlock (fmtBits t.fmt) (leNat bs), leNat sc % 256, leNat sc / 256⟩
  else
    let bs ← storeRead (x.at_ t (i * t.rb + 32 * b)) 32
    pure ⟨bs.map (·.toNat), 0, 0⟩

/-- Block (i, b) written. -/
def Job.putBlock (x : Job) (t : Tile) (i b : Nat) (c : Codes) : Act Unit := do
  if t.plane then x.storeWrite (x.at_ t (recordOff t i b)) ((wordsOfCodes t.fmt c).flatMap (leBytes 4))
  else if isBfx t.fmt then
    let n := blockBytes t.fmt
    x.storeWrite (x.at_ t (i * t.rb + b * n)) (leBytes n (packBlock (fmtBits t.fmt) c.codes))
    x.storeWrite (x.at_ t (i * t.rb + t.cols / 32 * n + 2 * b)) (leBytes 2 (c.e0 + c.e1 * 256))
  else x.storeWrite (x.at_ t (i * t.rb + 32 * b)) (c.codes.map (BitVec.ofNat 8))

/-! ### Memory (R134, R137) -/

/-- The leaf that the issuing slot's core holds for an address; else the engine asks for it, or ends as the answer
said (R331, R339). -/
def Job.leaf (x : Job) (va : Nat) : Act Leaf := fun s =>
  match (s.coreTlb (coreOf x.r.cmd.slot) 0).find? fun l => leafCovers l x.r.cmd.ctx (pageOf va) with
  | some l => .ok (l, s)
  | none =>
    if x.r.declined then .error (.trap cDeclined (natW va))
    else match x.r.walkPoison with
      | some w => .error (.trap cUncorrectable w)
      | none => .error (.miss (pageOf va) 3 (natW va))

/-- A run of bytes within one page or window: virtual address, local addresses, part, and the leaf. -/
structure Piece where
  va : Nat
  addrs : List Nat
  part : Nat
  leaf : Option Leaf
  deriving DecidableEq, Repr

/-- The format and view that the page of a tile's element must have: its own format or raw, and its own view
(R240). -/
abbrev Want := Option (Nat × Nat)

/-- Whether a page disagrees with what an element wants (R240; DEDUCED, log 78: in every form *format access*). -/
def wantFails (w : Want) (l : Leaf) : Bool :=
  match w with
  | none => false
  | some (f, v) => (lFmt l != 0 && lFmt l != f) || lView l != v

/-- A follow's engine access keeps to its sets on TXN pages (R118). -/
def Job.setMiss (x : Job) (l : Leaf) (part : Nat) (as : List Nat) : Act Unit := fun s =>
  match x.r.cmd.txn with
  | none => .ok ((), s)
  | some (num, _) => match s.txn num with
    | some t =>
      if t.isFollow && lTxn l && as.any (fun a => !t.holds part a) then .error (.trap cSetMiss 0) else .ok ((), s)
    | none => .ok ((), s)

/-- The piece of at most n bytes at a virtual address, checked (R74, R134, R215, R240). -/
def Job.piece (x : Job) (write : Bool) (w : Want) (va n : Nat) : Act Piece := do
  let s ← get
  let mine := s.link.pod.k
  trapIf (!canonical va) cBadAddress (natW va)
  if isNear va then
    match nearLocal x.cell va n with
    | none => trap cNearRange (natW va)
    | some p => do
      trapIf (s.worldFails x.r.cmd.secure none [p]) cWorld (natW va)
      if write then x.poolRule va mine (addrsFrom p n)
      trapIf (match w with | some (_, v) => v != 0 | none => false) cFormatAccess (natW va)
      pure ⟨va, addrsFrom p n, mine, none⟩
  else do
    let l ← x.leaf va
    let n := min n (65536 - va % 65536)
    let s ← get
    match s.leafAddrs l va n with
    | none => x.pageFault va ⟨l.ctx, s.overPage l va, 3, leafLevel l, true⟩
    | some as => do
      let part := if lRegion l = 0 then addrPart (lFrame l) else mine
      trapIf (s.worldFails x.r.cmd.secure (some l) (if part = mine then as else [])) cWorld (natW va)
      trapIf (permFails x.r.cmd.priv (if write then 1 else 0) l) cPermission (natW va)
      trapIf (as.any fun a => match placeOf a with | .device _ => true | _ => false) cPermission (natW va)
      trapIf (wantFails w l) cFormatAccess (natW va)
      x.setMiss l part as
      act fun s => if lRegion l = 0 then s else s.useRegion (lRegion l)
      if write then
        if fixNeeded (s.afterCut x.cell) l then stop (.fixField l (natW va))
        x.poolRule va part as
      pure ⟨va, as, part, some l⟩

/-- The pieces of n bytes at a virtual address, in order; `fuel` counts the pieces left. -/
def Job.pieces (x : Job) (write : Bool) (w : Want) : Nat → Nat → Nat → Act (List Piece)
  | 0, _, _ => pure []
  | fuel + 1, va, n =>
    if n = 0 then pure []
    else do
      let p ← x.piece write w va n
      let rest ← x.pieces write w fuel ((va + p.addrs.length) % 2 ^ 64) (n - p.addrs.length)
      pure (p :: rest)

/-- All pieces of n bytes at a virtual address. -/
def Job.span (x : Job) (write : Bool) (w : Want) (va : Word) (n : Nat) : Act (List Piece) :=
  x.pieces write w (n / 65536 + 3) va.toNat n

/-- Whether a piece is served by the view engine. -/
def Piece.viewed (p : Piece) : Bool :=
  match p.leaf with
  | some l => lRegion l != 0 && lView l != 0
  | none => false

/-- KEY of a piece's page. -/
def Piece.key (p : Piece) : Nat := match p.leaf with | some l => lKey l | none => 0

/-- Changes the command in progress. -/
def Job.modR (x : Job) (f : Running → Running) : Act Unit := act fun s =>
  s.modCell x.cell fun c => c.modEng (engIx x.eng) fun y => { y with cur := y.cur.map f }

/-- The command in progress as it stands now. -/
def Job.now (x : Job) : Act Job := fun s =>
  match ((s.cell x.cell).eng[engIx x.eng]).cur with
  | some r => .ok ({ x with r := r }, s)
  | none => .ok (x, s)

/-- The reply to this element's next request to another part, which is sent if it has not been, once no write of the
operation is unacknowledged. -/
def Job.remoteReply (x : Job) (part : Nat) (q : MemReq) : Act Reply := do
  let y ← x.now
  match y.r.latch[y.r.used]? with
  | none => do
    if y.r.acks ≠ 0 then waitFor wMem
    let s ← get
    stop (.remote part (.mem s.link.pod.k q))
  | some a => do
    x.modR fun (r : Running) => { r with used := r.used + 1 }
    pure a

/-- The bytes of that reply. -/
def Job.remote (x : Job) (part : Nat) (q : MemReq) : Act (List Byte) := do
  match ← x.remoteReply part q with
  | .poisoned w => trap cUncorrectable w
  | .block _ (w :: _) => trap cUncorrectable (natW (w / 8 * 8))
  | .lost w => trap cOwnerLost w
  | .barred w => trap cWorld w
  | .block bs [] => pure (bs.map (·.2))
  | .value v => pure (leBytes 8 v.toNat)
  | .elem v _ => pure (leBytes 8 v.toNat)
  | .done => pure []

/-- Where the strip in hand reads or writes (R69, R72). -/
def Job.touch (x : Job) (reads : Bool) (p : Piece) : Act Unit := do
  let s ← get
  if p.part = s.link.pod.k then x.modR fun (r : Running) => { r with touched := r.touched ++ [(reads, p.addrs.headD 0)] }

/-- A request of the operation for bytes of a piece. -/
def Job.request (x : Job) (s : State) (who : Nat) (p : Piece) (bs : List Byte) : MemReq :=
  ⟨who, x.cell, bs != [], false, p.addrs, bs, p.key, (s.cell x.cell).fixNo, [], bs == [], x.r.cmd.secure, natW p.va⟩

/-- Reads a piece where it lives; nothing is allocated (R137). -/
def Job.readPiece (x : Job) (p : Piece) : Act (List Byte) := do
  x.touch true p
  let s ← get
  let count := (s.cell x.cell).fixNo
  if p.part ≠ s.link.pod.k then x.remote p.part (x.request s (engKey x.cell x.eng) p [])
  else match s.lostWord p.addrs with
    | some a => trap cOwnerLost (natW a)
    | none =>
      if p.viewed then do
        poisonTrap (s.poisonAt count p.addrs)
        actWith fun s => (s.noteSoft p.addrs).hbmRead p.key (p.addrs.map (s.redirect count))
      else do
        poisonTrap (s.physPoison count p.addrs)
        actWith fun s => (s.noteSoft p.addrs).physRead count p.key p.addrs

/-- Reads pieces in order. -/
def Job.readPieces (x : Job) (ps : List Piece) : Act (List Byte) :=
  ps.foldlM (fun bs p => do
    let t ← x.readPiece p
    pure (bs ++ t)) []

/-- Reads n bytes at a virtual address. -/
def Job.read (x : Job) (w : Want) (va : Word) (n : Nat) : Act (List Byte) := do
  let ps ← x.span false w va n
  x.readPieces ps

/-- Sends a write of the operation, which lands behind those that it sent before, after one of another class in a later cclk, and
is acknowledged (R95, R136, R306). -/
def Job.post (x : Job) (cls dst least : Nat) (p : Parcel) : Act Unit := do
  let y ← x.now
  act fun s =>
    let other := s.sched.flight.any fun f => f.src == x.cell && f.due == y.r.lastDue && f.cls != cls
    s.sendFrom cls x.cell dst least (y.r.lastDue + if other then 1 else 0) p
  let s ← get
  let due := (s.sched.flight.getLast?.map fun f => f.due).getD 0
  x.modR fun (r : Running) => { r with acks := r.acks + 1, lastDue := max r.lastDue due }

/-- Writes bytes of near memory: of this cell at once, while no earlier write of the operation is on its way, and else behind
them (R72, R136). -/
def Job.writeNear (x : Job) (count cell : Nat) (q : MemReq) : Act Unit := do
  let y ← x.now
  if cell = x.cell ∧ y.r.acks = 0 then act fun s => (s.nearWrite count (q.addrs.zip q.data)).sink x.cell
  else x.post clsPush cell (if cell = x.cell then 1 else lateralTime x.cell cell q.data.length) (.lateral q)

/-- Writes a piece: at near memory, by a write-through for each line that it touches, at the view engine, or over the lateral
network (R28, R72, R84, R137).  DEDUCED (log 99): a `whole` one, a BFX block with its scale bytes, is a single write-through to the
slice of its first HBM line, which writes its bytes wherever they live, since R44 makes it one access. -/
def Job.writePiece (x : Job) (whole : Bool) (p : Piece) (bs : List Byte) : Act Unit := do
  x.touch false p
  let s ← get
  let count := (s.cell x.cell).fixNo
  let q := x.request s (engAck x.cell x.eng) p bs
  if p.part ≠ s.link.pod.k then do
    let _ ← x.remote p.part (x.request s (engKey x.cell x.eng) p bs)
  else match s.lostWord p.addrs with
    | some a => trap cOwnerLost (natW a)
    | none =>
      if p.viewed then x.post clsMemReq (ctrlChan (p.addrs.headD 0)) 1 (msg (.viewEngineAccess q))
      else match p.addrs.find? inHbm with
        | some a => do
          act fun s => s.l1Settle x.cell (p.addrs.filter inHbm)
          if whole then x.post clsMemReq (homeSlice a) 1 (msg (.writeThrough q))
          else (linesOf p.addrs).forM fun l => x.post clsMemReq (homeSlice (64 * l)) 1 (msg (.writeThrough (MemReq.onLine q l)))
        | none =>
          let cell (a : Nat) : Nat := match placeOf a with
            | .vault c => c
            | .tile c => c
            | _ => x.cell
          x.writeNear count (((p.addrs.map cell).find? (· ≠ x.cell)).getD x.cell) q

/-- Writes pieces in order. -/
def Job.writePieces (x : Job) (ps : List Piece) (bs : List Byte) : Act Unit := do
  let _ ← ps.foldlM (fun (i : Nat) (p : Piece) => do
    x.writePiece false p ((bs.drop i).take p.addrs.length)
    pure (i + p.addrs.length)) 0
  pure ()

/-- Writes bytes at a virtual address. -/
def Job.write (x : Job) (w : Want) (va : Word) (bs : List Byte) : Act Unit := do
  let ps ← x.span true w va bs.length
  x.writePieces ps bs

/-! ### What a command does -/

/-- What an engine does for a command: its units of work in element order, the index of each for ESTAT, the bytes of
the tile store that each writes, and how long it takes: `open_` adds a source's latency, which is open (log 7).  A copy
command goes strip by strip: for a unit `strip` gives the destination row, its 256-byte unit, and what it costs, of which the
engine does `rate` in a cclk; `time` then is what comes before the first strip, and the source's latency before the strip of
unit `first` (R136, R238). -/
structure Plan where
  units : Nat
  index : Nat → Nat
  run : Nat → Act Unit
  wrote : Nat → List (Nat × Nat)
  open_ : Bool
  time : Nat
  strip : Option (Nat → Nat × Nat × Nat) := none
  rate : Nat := 128
  first : Nat := 0

/-- The operation ends faulted at an element, with what came before it done. -/
def Job.endAt (x : Job) (i cause : Nat) (v : Word) : Act Unit := x.modR fun r => { r with fault := some (i, cause, v) }

/-- A part of an operation whose fault is noted at element i. -/
def Job.noting (x : Job) (i : Nat) (body : Act Unit) : Act Unit := fun s =>
  match body s with
  | .error (.trap c v) => if c = cSetMiss then .error (.trap c v) else x.endAt i c v s
  | r => r

/-- ⌈n / d⌉. -/
def ceilDiv (n d : Nat) : Nat := (n + d - 1) / d

/-- Units that appear while the operation runs: from the eighth cclk after its start, `rate` in each, and the finish in the cclk
after the last (R75, R238, R260, R269, log 7). -/
def Plan.paced (p : Plan) (rate : Nat) : Plan :=
  { p with
    units := p.units + 1
    run := fun u => if u < p.units then p.run u else pure ()
    wrote := fun u => if u < p.units then p.wrote u else []
    time := 7
    strip := some fun u => (0, if u < p.units then u / rate else p.units, if u < p.units then 1 else rate)
    rate := rate }

end Sys2Proof.Machine
end

