-- ==== Sys2Proof/Machine/Copy.lean ====
section
/-! DEFINITION. The copy engine: tiles to and from memory, fills, gathers and scatters, halos and rotated copies
(R133 to R140, R237, R240 to R245). -/

namespace Sys2Proof.Machine

/-- Whether a byte address lies outside −2^55 to 2^55 − 1 (R135). -/
def rangeBad (v : Int) : Bool := decide (v < -(2 ^ 55)) || decide ((2 ^ 55 : Int) ≤ v)

/-! ### `cp.ld` and `cp.st` (R240) -/

/-- The global tile of a command: its captured operands, or those of the entry. -/
def globalTile (t : Tile) (vals : List Word) : GTile :=
  { va := vals.getD 0 t.gva, fmt := t.fmt, view := t.view, rows := t.rows, cols := t.cols
    pitch := match vals[1]? with | some b => slice b 16 0 | none => t.pitch }

/-- Lowest and highest byte of a global tile on a plain page (R135, R240). -/
def globalSpan (g : GTile) : Int × Int :=
  (g.va.toInt, g.va.toInt + (((g.rows - 1) * rowPitch g.fmt g.cols g.pitch + globalRow g.fmt g.cols : Nat) : Int) - 1)

/-- Operands of an explicit form. -/
def readPair : Option (Reg × Reg) → Act (List Word)
  | none => pure []
  | some (a, b) => do
    let va ← readG a
    let p ← readG b
    pure [va, p]

/-- The issue of a copy between a tile and its global tile. -/
def copyForm (out : Bool) (x : Ext) (e : Option (Reg × Reg)) (td : TileIx) (op : Instr) :
    State → Host.Outcome State Fault Refusal :=
  engineForm .copy x do
    let h := td.toNat
    let us := [(h, if out then Use.src else Use.dst)]
    let vals ← readLate (readPair e) (do
      handleRule [h]
      let t ← getTile h
      if out ∧ t.v ∧ (← myRole).isSome then pure ()
      else do
        needBound [h]
        let p ← match e with
          | none => pure 0
          | some (a, b) => do
            let _ ← peekG a
            let p ← peekG b
            pure (p.getD 0)
        trapIf (t.plane || slice p 63 17 != 0) cBadTile (natW h)
      mayEnter .copy us)
    handleRule [h]
    let t ← getTile h
    let (lo, hi) := globalSpan (globalTile t vals)
    if out ∧ t.v then memoryRule lo hi
    needBound [h]
    trapIf (t.plane || slice (vals.getD 1 0) 63 17 != 0) cBadTile (natW h)
    checkRange lo hi
    enterQueue .copy x op vals [h] us
    pure .seq

def execCpLd (x : Ext) (e : Option (Reg × Reg)) (td : TileIx) : State → Host.Outcome State Fault Refusal :=
  copyForm false x e td (.cpLd x e td)

def execCpSt (x : Ext) (e : Option (Reg × Reg)) (td : TileIx) : State → Host.Outcome State Fault Refusal :=
  copyForm true x e td (.cpSt x e td)

/-- Virtual address of unit (r, b) of a global tile (R99). -/
def Job.locate (x : Job) (g : GTile) (r b : Nat) : Act Word := do
  let va := g.va.toNat
  let l ← if isNear va then pure ⟨x.r.cmd.ctx, 0, 0, 0, 0⟩ else x.leaf va
  let s ← get
  match unitOffset g l (if lRegion l = 0 then none else s.region (lRegion l)) r b with
  | none => x.pageFault va ⟨l.ctx, s.overPage l va, 3, leafLevel l, true⟩
  | some o => do
    trapIf (rangeBad (g.va.toInt + o)) cBadAddress (wordOfInt (g.va.toInt + o))
    pure (wordOfInt (g.va.toInt + o))

/-- The two scale bytes of the block at an address, which must start a block of a page of the tile's format
(R44, R240). -/
def Job.scale (x : Job) (out : Bool) (fmt : Nat) (va : Word) (ps : List Piece) : Act (List Piece) := do
  match ps.head?.bind fun (p : Piece) => p.leaf with
  | none => trap cFormatAccess va
  | some l => do
    let s ← get
    let n := blockBytes fmt
    let off := if lRegion l = 0 then va.toNat % 2 ^ 56 - l.vbase else viewOff l va.toNat
    trapIf (lFmt l != fmt || off % n != 0 || (lRegion l == 0 && decide (leafBytes l / n ≤ off / n))) cFormatAccess va
    let as := addrsFrom (lScale l + 2 * (off / n)) 2
    let part := if lRegion l = 0 then addrPart (lFrame l) else s.link.pod.k
    if as.any fun a => placeOf a == .hole then x.pageFault va.toNat ⟨l.ctx, pageOf va.toNat, 3, leafLevel l, true⟩
    trapIf (s.worldFails x.r.cmd.secure none (if part = s.link.pod.k then as else [])) cWorld va
    x.setMiss l part as
    if out then x.poolRule va.toNat part as
    pure [⟨va.toNat, as, part, some l⟩]

/-- Pieces that one access covers: those of one part and key count as one, wherever they live (R44, log 99). -/
def joinPieces (ps : List Piece) : List Piece :=
  match ps with
  | [] => []
  | p :: rest =>
    if rest.all fun (q : Piece) => q.part == p.part && q.key == p.key && !q.viewed && !p.viewed
    then [{ p with addrs := ps.flatMap fun (q : Piece) => q.addrs }]
    else ps

/-- Unit (r, b) moves: an element, or a BFX block with its scales in one access. -/
def Job.copyUnit (x : Job) (out : Bool) (t : Tile) (g : GTile) (r b : Nat) : Act Unit := do
  let va ← x.locate g r b
  let n := unitBytes t.fmt
  let ps ← x.span out (some (t.fmt, t.view)) va n
  let sc ← if isBfx t.fmt then x.scale out t.fmt va ps else pure []
  let data := x.at_ t (unitOff t.fmt t.cols r b)
  let scales := x.at_ t (scaleOff t.fmt t.cols r b)
  if out then do
    let bs ← storeRead data n
    let ss ← storeRead scales (2 * sc.length)
    match joinPieces (ps ++ sc) with
    | [p] => x.writePiece (sc != []) p (bs ++ ss)
    | ps => x.writePieces ps (bs ++ ss)
  else do
    let bs ← x.readPieces (joinPieces (ps ++ sc))
    x.storeWrite data (bs.take n)
    x.storeWrite scales (bs.drop n)

/-- A copy between a tile and its global tile.  Its strips are cut at the addresses of a plain page (log 79). -/
def Job.copyPlan (x : Job) (out : Bool) : Plan :=
  let t := x.tile 0
  let g := globalTile t x.r.cmd.vals
  let per := rowUnits t.fmt t.cols
  let n := unitBytes t.fmt
  { units := t.rows * per
    index := fun u => u / per * t.cols + u % per * if isBfx t.fmt then 32 else 1
    run := fun u => x.copyUnit out t g (u / per) (u % per)
    wrote := fun u =>
      if out then [] else
      (x.at_ t (unitOff t.fmt t.cols (u / per) (u % per)), n) ::
        if isBfx t.fmt then [(x.at_ t (scaleOff t.fmt t.cols (u / per) (u % per)), 2)] else []
    open_ := false
    time := if out then 8 else 0
    strip := some fun u =>
      let a := if out then (g.va + natW (u / per * rowPitch t.fmt t.cols g.pitch + u % per * n)).toNat
        else x.at_ t (unitOff t.fmt t.cols (u / per) (u % per))
      (u / per, a / 256, n + if isBfx t.fmt then 2 else 0) }

/-! ### `cp.2d` and `fill` (R241, R242) -/

/-- Address of tile row r. -/
def rowAddr (base stride : Word) (row0 : Int) (r : Nat) : Int := base.toInt + (row0 + r) * stride.toInt

def execCp2d (x : Ext) (out : Bool) (row0 : BitVec 16) (b a : Reg) (td : TileIx) :
    State → Host.Outcome State Fault Refusal :=
  engineForm .copy x do
    let h := td.toNat
    let us := [(h, if out then Use.src else Use.dst)]
    let (base, stride) ← readLate (do
      let base ← readG a
      let stride ← readG b
      pure (base, stride)) (do
      handleRule [h]
      needBound [h]
      mayEnter .copy us)
    handleRule [h]
    let t ← getTile h
    let first := rowAddr base stride row0.toInt 0
    let last := rowAddr base stride row0.toInt (t.rows - 1)
    let lo := min first last
    let hi := max first last + t.rb - 1
    if out ∧ t.v then memoryRule lo hi
    needBound [h]
    checkRange lo hi
    enterQueue .copy x (.cp2d x out row0 b a td) [base, stride] [h] us
    pure .seq

/-- The row-form tiles whose rows move element by element; the rows of others move in the smallest runs of bytes that their
blocks have. -/
def byElement (t : Tile) : Bool := !t.plane && !isBfx t.fmt

/-- Bytes that move at a time. -/
def moveBytes (t : Tile) : Nat := if byElement t then elemBytes t.fmt else if t.plane then 4 else 2

/-- Column of the first element whose data byte o of a row belongs to. -/
def columnAt (t : Tile) (o : Nat) : Nat :=
  if byElement t then o / elemBytes t.fmt
  else if t.plane then o / (4 * recordWords t.fmt) * 32
  else
    let data := t.cols / 32 * blockBytes t.fmt
    if o < data then o / blockBytes t.fmt * 32 else (o - data) / 2 * 32

def Job.rowsPlan (x : Job) (out : Bool) (row0 : BitVec 16) : Plan :=
  let t := x.tile 0
  let e := moveBytes t
  let per := t.rb / e
  let a (u : Nat) : Word := wordOfInt (rowAddr (x.val 0) (x.val 1) row0.toInt (u / per) + (u % per * e : Nat))
  let o (u : Nat) : Nat := x.at_ t (u / per * t.rb + u % per * e)
  { units := t.rows * per
    index := fun u => u / per * t.cols + columnAt t (u % per * e)
    run := fun u =>
      if out then do
        let bs ← storeRead (o u) e
        x.write none (a u) bs
      else do
        let bs ← x.read none (a u) e
        x.storeWrite (o u) bs
    wrote := fun u => if out then [] else [(o u, e)]
    open_ := false
    time := if out then 8 else 0
    strip := some fun u => (u / per, (if out then (a u).toNat else o u) / 256, e) }

def execFill (x : Ext) (a : Reg) (td : TileIx) : State → Host.Outcome State Fault Refusal :=
  engineForm .copy x do
    let h := td.toNat
    let check : Act Unit := do
      handleRule [h]
      needBound [h]
      let t ← getTile h
      trapIf (!byElement t) cBadTile (natW h)
    let vs ← operandsAfter .copy [(h, .dst)] check (do
      let v ← readG a
      pure [v])
    enterQueue .copy x (.fill x a td) vs [h] [(h, .dst)]
    pure .seq

def Job.fillPlan (x : Job) : Plan :=
  let t := x.tile 0
  let e := elemBytes t.fmt
  { units := t.rows * t.cols
    index := fun u => u
    run := fun u => x.putElem t (u / t.cols) (u % t.cols) (x.val 0).toNat
    wrote := fun u => [(x.at_ t (elemOff t (u / t.cols) (u % t.cols)), e)]
    open_ := false
    time := 2
    strip := some fun u => (u / t.cols, x.at_ t (elemOff t (u / t.cols) (u % t.cols)) / 256, e) }

/-! ### `gather` and `scatter` (R138, R243) -/

/-- The issue of a gather or scatter. -/
def listForm (out : Bool) (x : Ext) (b a : Reg) (td ta : TileIx) (op : Instr) :
    State → Host.Outcome State Fault Refusal :=
  engineForm .copy x do
    let h := td.toNat
    let i := ta.toNat
    let us := [(h, if out then Use.src else Use.dst), (i, .src)]
    let check : Act Unit := do
      handleRule [h, i]
      if out then allowedIn true false
      needBound [h, i]
      let t ← getTile h
      let l ← getTile i
      trapIf (l.plane || l.fmt != 4 || decide (l.rows < t.rows) || h == i) cBadTile (natW i)
    let (base, stride) ← readLate (do
      let base ← readG a
      let stride ← readG b
      pure (base, stride)) (do
      check
      mayEnter .copy us)
    check
    enterQueue .copy x op [base, stride] [h, i] us
    pure .seq

def execGather (x : Ext) (b a : Reg) (td ta : TileIx) : State → Host.Outcome State Fault Refusal :=
  listForm false x b a td ta (.gather x b a td ta)

def execScatter (x : Ext) (b a : Reg) (td ta : TileIx) : State → Host.Outcome State Fault Refusal :=
  listForm true x b a td ta (.scatter x b a td ta)

/-- Address of list position j. -/
def Job.listAddr (x : Job) (j : Nat) : Int := (x.val 0).toInt + x.r.index.getD j 0 * (x.val 1).toInt

/-- The list is read first; a poisoned index ends the operation at its element, and an address out of range at
element 0 (R135, R138). -/
def Job.readList (x : Job) : Act Unit := do
  let t := x.tile 0
  let l := x.tile 1
  let (_, ws) ← (List.range t.rows).foldlM (fun (p : Bool × List Int) j => do
    let s ← get
    let a := x.at_ l (j * l.rb)
    match (if p.1 then s.poisonAt (s.cell x.cell).fixNo (addrsFrom a 4) else none) with
    | some w => do
      x.endAt j cUncorrectable (natW w)
      pure (false, p.2)
    | none =>
      if p.1 then do
        let v ← x.elem l j 0
        pure (true, p.2 ++ [signedOf v 32])
      else pure p) (true, [])
  let addr (i : Int) : Int := (x.val 0).toInt + i * (x.val 1).toInt
  match ws.find? fun i => rangeBad (addr i) || rangeBad (addr i + t.rb - 1) with
  | some i => x.endAt 0 cCopyRange (wordOfInt (addr i))
  | none => x.modR fun r => { r with index := ws }

/-- The cell, other than this one, whose vault or tile store holds a row wholly (R138). -/
def Job.owner (x : Job) (mine : Nat) (ps : List Piece) : Option Nat :=
  let near (p : Piece) : Option Nat := if p.part ≠ mine then none else match placeOf (p.addrs.headD 0) with
    | .vault c => some c
    | .tile c => some c
    | _ => none
  match ps.head?.bind near with
  | some c => if c ≠ x.cell ∧ ps.all (fun (p : Piece) => near p == some c) then some c else none
  | none => none

/-- A row that another cell owns joins that cell's sub-list. -/
def addRow (subs : List (Nat × List (Nat × List Nat))) (c j : Nat) (as : List Nat) : List (Nat × List (Nat × List Nat)) :=
  if subs.any fun (e : Nat × List (Nat × List Nat)) => e.1 = c then
    subs.map fun (e : Nat × List (Nat × List Nat)) => if e.1 = c then (c, e.2 ++ [(j, as)]) else e
  else subs ++ [(c, [(j, as)])]

/-- Before a row goes to another part, that part is asked whether it will take it, since the rows behind it may not move if it
does not (R133). -/
def Job.probe (x : Job) (ps : List Piece) : Act Unit := do
  let s ← get
  (ps.filter fun (p : Piece) => p.part != s.link.pod.k).forM fun p => do
    match ← x.remoteReply p.part (x.request s (engKey x.cell x.eng) p []) with
    | .lost w => trap cOwnerLost w
    | .barred w => trap cWorld w
    | _ => pure ()

/-- Row j is translated and checked, and joins its owner's sub-list if another cell owns it. -/
def Job.checkRow (x : Job) (out : Bool) (j : Nat) : Act Unit := do
  let t := x.tile 0
  let ps ← x.span out none (wordOfInt (x.listAddr j)) t.rb
  let s ← get
  if out then
    let _ ← storeRead (x.at_ t (j * t.rb)) t.rb
    match s.lostWord ((ps.filter fun (p : Piece) => p.part == s.link.pod.k).flatMap fun (p : Piece) => p.addrs) with
    | some a => trap cOwnerLost (natW a)
    | none => x.probe ps
  match x.owner s.link.pod.k ps with
  | some c => x.modR fun r => { r with subs := addRow r.subs c j (ps.flatMap fun (p : Piece) => p.addrs) }
  | none => pure ()

/-- The sub-lists leave for their owners (R138). -/
def Job.sendLists (x : Job) (out : Bool) : Act Unit := fun s =>
  let t := x.tile 0
  let s := x.r.subs.foldl (fun (s : State) (e : Nat × List (Nat × List Nat)) =>
    let row (j : Nat) : List Byte := (addrsFrom (x.at_ t (j * t.rb)) t.rb).map fun a => s.byte (s.redirect (s.cell x.cell).fixNo a)
    let data := if out then e.2.map fun (p : Nat × List Nat) => row p.1 else []
    s.send clsMemReq x.cell e.1 (.remote e.1 (.sublist ⟨x.cell, e.1, out, e.2, data, (s.cell x.cell).fixNo⟩))) s
  x.modR (fun r => { r with missing := r.subs.map fun (e : Nat × List (Nat × List Nat)) => e.1, sent := true }) s

/-- The bytes of strip q of a row of n bytes whose destination is at `a`: where they begin in the row, and how many there are
(R136). -/
def rowStrip (a n q : Nat) : Nat × Nat :=
  let lo := min n (256 * q - a % 256)
  (lo, min n (256 * (q + 1) - a % 256) - lo)

/-- Strips that a row of n bytes has at most. -/
def rowStrips (n : Nat) : Nat := n / 256 + 2

/-- Address of the destination of row j. -/
def Job.rowDest (x : Job) (out : Bool) (j : Nat) : Nat :=
  if out then (wordOfInt (x.listAddr j)).toNat else x.at_ (x.tile 0) (j * (x.tile 0).rb)

/-- Row j is read whole before its first strip is written, since a faulting row stays as it was; its owner has moved it, or
sent it (R133, R138). -/
def Job.takeRow (x : Job) (out : Bool) (j : Nat) : Act Unit := do
  let t := x.tile 0
  if x.r.got.any fun (e : Nat × List Byte) => e.1 = j then
    trapIf ((x.r.got.any fun (e : Nat × List Byte) => e.1 = j && e.2 == [])) cUncorrectable (wordOfInt (x.listAddr j))
  else do
    let bs ← if out then do
        let bs ← storeRead (x.at_ t (j * t.rb)) t.rb
        let ps ← x.span true none (wordOfInt (x.listAddr j)) t.rb
        let s ← get
        match s.lostWord ((ps.filter fun (p : Piece) => p.part == s.link.pod.k).flatMap fun (p : Piece) => p.addrs) with
        | some a => trap cOwnerLost (natW a)
        | none => pure bs
      else x.read none (wordOfInt (x.listAddr j)) t.rb
    x.modR fun r => { r with got := r.got ++ [(j, bs)] }

/-- Strip q of row j moves, unless the row's owner writes it. -/
def Job.moveStrip (x : Job) (out : Bool) (j q : Nat) : Act Unit := do
  let far := x.r.subs.any fun (e : Nat × List (Nat × List Nat)) => e.2.any fun (p : Nat × List Nat) => p.1 = j
  if out ∧ far then pure ()
  else do
    if q = 0 then x.takeRow out j
    let y ← x.now
    let t := x.tile 0
    let (lo, n) := rowStrip (x.rowDest out j) t.rb q
    match y.r.got.find? fun (e : Nat × List Byte) => e.1 = j with
    | some (_, row) =>
      let bs := (row.drop lo).take n
      if bs = [] then pure ()
      else if out then x.write none (wordOfInt (x.listAddr j) + natW lo) bs
      else x.storeWrite (x.at_ t (j * t.rb + lo)) bs
    | none => pure ()

/-- A gather or scatter: the list, the checks of its rows, the sub-lists, and then the rows, strip by strip (R136). -/
def Job.listPlan (x : Job) (out : Bool) : Plan :=
  let t := x.tile 0
  let n := t.rows
  let per := rowStrips t.rb
  let live (y : Job) (j : Nat) : Bool :=
    decide (j < y.r.index.length) && match y.r.fault with | some (f, _) => decide (j < f) | none => true
  let row (u : Nat) : Nat := (u - n - 2) / per
  { units := n + 2 + n * per
    index := fun u => if u = 0 ∨ u = n + 1 then 0 else if u ≤ n then u - 1 else row u
    run := fun u => do
      let y ← x.now
      if u = 0 then y.readList
      else if u ≤ n then (if live y (u - 1) then y.noting (u - 1) (y.checkRow out (u - 1)) else pure ())
      else if u = n + 1 then y.sendLists out
      else if live y (row u) then y.moveStrip out (row u) ((u - n - 2) % per) else pure ()
    wrote := fun u => if out ∨ u < n + 2 ∨ (u - n - 2) % per ≠ 0 then [] else [(x.at_ t (row u * t.rb), t.rb)]
    open_ := false
    time := 8
    strip := some fun u => (u, 0, if u < n + 2 then 0 else (rowStrip (x.rowDest out (row u)) t.rb ((u - n - 2) % per)).2)
    first := n + 2 }

/-- The acknowledgement or the rows of a cell reach the requester's copy engine. -/
def Running.answered (c : Nat) (rows : List (Nat × List Byte)) (r : Running) : Running :=
  { r with missing := r.missing.filter (· ≠ c), got := r.got ++ rows }

/-- GATHER_SUBLIST: a sub-list at its owner's copy engine, or the answer at the requester (R138). -/
def execGatherSublist (q : Sublist) : Event := withMemory (q.rows.flatMap (·.2)) fun s =>
  let answer (rows : List (Nat × List Byte)) (s : State) : State := s.modCell q.requester fun c =>
    c.modEng 0 fun y => { y with cur := y.cur.map (Running.answered q.owner rows) }
  if q.scatter then
    if q.data = [] then .next (answer [] s)
    else
      let count := q.fixCount
      let s := (q.rows.zip q.data).foldl (fun (s : State) (e : (Nat × List Nat) × List Byte) =>
        s.nearWrite count (e.1.2.zip e.2)) s
      .next ((s.sink q.owner).send clsMemReply q.owner q.requester (msg (.gatherSublist { q with data := [] })))
  else if q.data = [] then
    let row (e : Nat × List Nat) : List Byte :=
      if (s.poisonAt q.fixCount e.2).isSome then [] else e.2.map fun a => s.byte (s.redirect q.fixCount a)
    let s' := s.noteSoft (q.rows.flatMap fun (e : Nat × List Nat) => e.2)
    let n := (q.rows.map fun (e : Nat × List Nat) => e.2.length).sum
    .next (s'.sendIn clsPush q.owner q.requester (lateralTime q.owner q.requester n)
      (msg (.gatherSublist { q with data := q.rows.map row })))
  else .next (answer ((q.rows.zip q.data).map fun (e : (Nat × List Nat) × List Byte) => (e.1.1, e.2)) s)

/-! ### `halo` (R139, R244) -/

def execHalo (x : Ext) (w : BitVec 3) (td : TileIx) : State → Host.Outcome State Fault Refusal :=
  engineForm .copy x do
    let h := td.toNat
    handleRule [h]
    allowedIn true false
    needBound [h]
    let t ← getTile h
    let n := 3 * (w.toNat + 1)
    trapIf (!byElement t || decide (t.rows < n) || decide (t.cols < n)) cBadTile (natW h)
    enterQueue .copy x (.halo x w td) [] [h] [(h, .src)]
    pure .seq

/-- A border sent one way: rows and columns of the sender, the row and column at which they land, and the receiver's
mailbox (R139). -/
structure Border where
  cell : Nat
  rows : Nat × Nat
  cols : Nat × Nat
  atRow : Nat
  atCol : Nat
  mbox : Nat
  deriving DecidableEq, Repr

/-- The borders that a cell sends, in the order north, south, east, west (R23, R139). -/
def borders (cell w rows cols : Nat) : List Border :=
  let x := cell % 32
  let y := cell / 32
  (if 0 < y then [⟨cell - 32, (w, w), (w, cols - 2 * w), rows - w, w, 2⟩] else []) ++
  (if y < 31 then [⟨cell + 32, (rows - 2 * w, w), (w, cols - 2 * w), 0, w, 0⟩] else []) ++
  (if x < 31 then [⟨cell + 1, (w, rows - 2 * w), (cols - 2 * w, w), w, 0, 3⟩] else []) ++
  (if 0 < x then [⟨cell - 1, (w, rows - 2 * w), (w, w), w, cols - w, 1⟩] else [])

/-- The strips of a border: a row of it, a column and how many elements; cut at the 256-byte units of the neighbour's tile, whose
place in its tile store is a multiple of 256 (R136, log 79). -/
def Border.strips (t : Tile) (b : Border) : List (Nat × Nat × Nat) :=
  let e := elemBytes t.fmt
  (List.range b.rows.2).flatMap fun i =>
    let n := b.cols.2 * e
    (List.range (rowStrips n)).filterMap fun q =>
      let (lo, len) := rowStrip (elemOff t (b.atRow + i) b.atCol) n q
      if len = 0 then none else some (i, lo / e, len / e)

/-- A strip of a border is read and sent, up to a poisoned element, at which the operation ends; the operation waits for the
acknowledgement of every strip (R133, R136, R139).  The index is that of the element's place at the neighbour (log 80).  The last
strip of several waits for the others, so that it says whether all of them have landed. -/
def Job.sendStrip (x : Job) (td : TileIx) (b : Border) (p : Nat × Nat × Nat) (several last : Bool) : Act Unit := do
  let y ← x.now
  let t := x.tile 0
  let e := elemBytes t.fmt
  let (i, j0, n) := p
  if y.r.fault.isSome then pure ()
  else do
    if last && several && y.r.acks != 0 then waitFor wMem
    let s ← get
    let src (j : Nat) : Nat := x.at_ t (elemOff t (b.rows.1 + i) (b.cols.1 + j))
    let js := (List.range n).map (j0 + ·)
    let bad := js.find? fun j => (s.poisonAt (s.cell x.cell).fixNo (addrsFrom (src j) e)).isSome
    let good := js.takeWhile fun j => some j != bad
    let rows := good.map fun j =>
      (elemOff t (b.atRow + i) (b.atCol + j), (addrsFrom (src j) e).map fun a => s.byte (s.redirect (s.cell x.cell).fixNo a))
    if s.worldFails x.r.cmd.secure none [tileAddr b.cell 0] then
      x.endAt (b.atRow * t.cols + b.atCol) cWorld (natW (nearWindow + (t.at_ + elemOff t b.atRow b.atCol)))
    else do
      act fun s => s.noteSoft (good.flatMap fun j => addrsFrom (src j) e)
      let landed := !(y.r.got.any fun (e : Nat × List Byte) => e.1 = b.cell)
      if rows ≠ [] then
        x.post clsPush b.cell (lateralTime x.cell b.cell (rows.length * e)) (msg (.haloArrival
          ⟨x.cell, b.cell, td, x.r.cmd.slot, x.r.cmd.ctx, b.mbox, t.dword 0, rows, last && bad.isNone, last || bad.isSome, landed,
            (s.cell x.cell).fixNo⟩))
      match bad with
      | some j => x.endAt ((b.atRow + i) * t.cols + b.atCol + j) cUncorrectable (natW (src j / 8 * 8))
      | none => pure ()

def Job.haloPlan (x : Job) (w : BitVec 3) (td : TileIx) : Plan :=
  let t := x.tile 0
  let us := (borders x.cell (w.toNat + 1) t.rows t.cols).flatMap fun b =>
    let ps := b.strips t
    ps.zipIdx.map fun (p : (Nat × Nat × Nat) × Nat) => (b, p.1, decide (1 < ps.length), decide (p.2 + 1 = ps.length))
  { units := us.length
    index := fun _ => 0
    run := fun u => match us[u]? with
      | some (b, p, several, last) => x.sendStrip td b p several last
      | none => pure ()
    wrote := fun _ => []
    open_ := false
    time := 8
    strip := some fun u => (u, 0, match us[u]? with | some (_, p, _, _) => p.2.2 * elemBytes t.fmt | none => 0) }

/-- ROWS, COLS, FMT and LAYOUT of a tile as dw0 holds them. -/
def shapeOf (dw0 : Word) : Nat × Nat := (slice dw0 60 56, slice dw0 47 24)

/-- HALO_ARRIVAL: a strip of a border at its receiver, or a neighbour's acknowledgement at the sender.  A border is counted once,
at its last strip, when all of it has landed, and is reported once, at its last, when some of it has not (R136, R139, R388). -/
def execHaloArrival (q : HaloMsg) : Event := fun s =>
  if q.rows = [] then
    .next (s.modCell q.fromCell fun c => c.modEng 0 fun y =>
      { y with cur := y.cur.map fun (r : Running) => { r with
          acks := r.acks - 1, got := if q.landed then r.got else r.got ++ [(q.toCell, [])] } })
  else if s.cutFirst q.toCell q.fixCount then
    .next ((s.beginCut q.toCell).after 1 (.haloArrival q) 0)
  else
    let t := (s.cell q.toCell).tile q.tile.toNat
    let k := q.toCell * 48 + q.slot % 48
    let ack (landed : Bool) (s : State) : State :=
      s.send clsPush q.toCell q.fromCell (msg (.haloArrival { q with rows := [], landed := landed }))
    let report (s : State) : State :=
      if q.last then s.report (dieOf q.toCell) 0xC cBadTile q.ctx (placeLow k) (natW (s.place q.slot)) (natW q.mbox) else s
    if (s.slot k).runs q.ctx ∧ t.v ∧ shapeOf (t.dword 0) = shapeOf q.dw0 then
      let base := tileAddr q.toCell t.at_
      let bs := q.rows.flatMap fun (e : Nat × List Byte) => (addrsFrom (base + e.1) e.2.length).zip e.2
      let s := (s.nearWrite q.fixCount bs).sink q.fromCell
      .next (ack true (if !q.landed then report s
      else if q.whole then
        ((s.logItem q.toCell q.fixCount (.halo k q.mbox)).sink q.toCell).modSlot k fun sl => sl.deliver q.mbox none
      else s))
    else .next (ack false (report s))

/-! ### `cprot` (R140, R245) -/

/-- The packed limits d, n, d0, s0. -/
def cpD (v : Word) : Nat := slice v 47 36
def cpN (v : Word) : Nat := slice v 35 24
def cpD0 (v : Word) : Nat := slice v 23 12
def cpS0 (v : Word) : Nat := slice v 11 0

/-- Whether a tile is one that `cprot` reads or writes. -/
def rotatable (t : Tile) : Bool := !t.plane && (t.fmt == 2 || t.fmt == 3)

/-- The tile checks of `cprot`, on TD first and then on TA, with the limits where they are known (R170, R245). -/
def rotateChecks (h i : Nat) (limits : Option Word) : Act Unit := do
  let t ← getTile h
  let u ← getTile i
  let bad (f : Word → Bool) : Bool := limits.any f
  trapIf (!t.v || !rotatable t || (u.v && rotatable u && (t.fmt != u.fmt || t.cols != u.cols)) ||
    bad fun v => slice v 63 48 != 0 || cpD v % 2 != 0 || decide (cpD v < 2) || decide (t.cols < cpD v) || cpN v == 0 ||
      decide (t.rows < cpD0 v + cpN v)) cBadTile (natW h)
  trapIf (!u.v || !rotatable u || bad fun v => decide (u.rows < cpS0 v + cpN v)) cBadTile (natW i)

def execCprot (x : Ext) (split : Bool) (b a : Reg) (td ta : TileIx) : State → Host.Outcome State Fault Refusal :=
  engineForm .copy x do
    let h := td.toNat
    let i := ta.toNat
    let (v, table) ← readLate (do
      let v ← readG a
      let table ← readG b
      pure (v, table)) (do
      handleRule [h, i]
      rotateChecks h i (← peekG a)
      mayEnter .copy (usesOf true h [i]))
    handleRule [h, i]
    rotateChecks h i (some v)
    checkRange table.toInt (table.toInt + 4 * cpD v - 1)
    enterQueue .copy x (.cprot x split b a td ta) [v, table] [h, i] (usesOf true h [i])
    pure .seq

/-- One rotated pair (R140): patterns of the tile's format. -/
def rotatePair (fmt rm : Nat) (ftz : Bool) (c s x y : Nat) : Nat × Nat :=
  let f := if fmt = 2 then bf16 else fp32
  let rd (v : Nat) : Fp := readFp fp32 ftz v
  let px := readFp f ftz x
  let py := readFp f ftz y
  let p := (fpMul fp32 rm ftz (rd s) py).bits
  let x' := (fpFma fp32 rm ftz (rd c) px (negFp (rd p))).bits
  let q := (fpMul fp32 rm ftz (rd c) py).bits
  let y' := (fpFma fp32 rm ftz (rd s) px (rd q)).bits
  let out (v : Nat) : Nat := if fmt = 2 then (fpToFp bf16 rm ftz (rd v)).bits else v
  (out x', out y')

/-- Element j of a rotated row of patterns. -/
def rotateElem (split : Bool) (fmt rm : Nat) (ftz : Bool) (d : Nat) (table : Nat → Nat × Nat) (row : List Nat) (j : Nat) : Nat :=
  let g (n : Nat) : Nat := row.getD n 0
  if d ≤ j then g j
  else
    let k := if split then j % (d / 2) else j / 2
    let (ix, iy) := if split then (k, k + d / 2) else (2 * k, 2 * k + 1)
    let (c, s) := table k
    let (x', y') := rotatePair fmt rm ftz c s (g ix) (g iy)
    if j = ix then x' else y'

/-- Columns of the source that element j of a row reads. -/
def rotateSources (split : Bool) (d j : Nat) : List Nat :=
  if d ≤ j then [j] else if split then [j % (d / 2), j % (d / 2) + d / 2] else [j / 2 * 2, j / 2 * 2 + 1]

/-- The table and all rows are read before any is written; a poisoned source ends the operation at the first element that
reads it.  What is to be written stays with the command. -/
def Job.rotate (x : Job) (split : Bool) : Act Unit := do
  let v := x.val 0
  let t := x.tile 0
  let u := x.tile 1
  let e := elemBytes t.fmt
  trapIf ((x.val 1).toNat % 8 != 0) cMisaligned (x.val 1)
  let tb ← x.read none (x.val 1) (4 * cpD v)
  let ws := words32 tb
  let s ← get
  let at_ (i j : Nat) : Nat := x.at_ u (elemOff u (cpS0 v + i) j)
  let elems := (List.range (cpN v)).flatMap fun i => (List.range t.cols).map fun j => (i, j)
  let bad := elems.find? fun (p : Nat × Nat) =>
    (s.poisonAt (s.cell x.cell).fixNo ((rotateSources split (cpD v) p.2).flatMap fun j => addrsFrom (at_ p.1 j) e)).isSome
  let good := match bad with | some b => elems.takeWhile (fun p => p != b) | none => elems
  let count := (s.cell x.cell).fixNo
  let row (i : Nat) : List Nat := (List.range t.cols).map fun j =>
    leNat ((addrsFrom (at_ i j) e).map fun a => s.byte (s.redirect count a))
  let out := good.map fun (p : Nat × Nat) => (p.1 * t.cols + p.2, leBytes e (rotateElem split t.fmt x.rm x.ftz (cpD v)
    (fun k => (ws.getD (2 * k) 0, ws.getD (2 * k + 1) 0)) (row p.1) p.2))
  act fun s => s.noteSoft (good.flatMap fun p => addrsFrom (at_ p.1 p.2) e)
  x.modR fun (r : Running) => { r with got := out }
  match bad with
  | some (i, j) => x.endAt ((cpD0 v + i) * t.cols + j) cUncorrectable (natW (at_ i j / 8 * 8))
  | none => pure ()

/-- Element n of a rotated copy is written. -/
def Job.putRotated (x : Job) (n : Nat) : Act Unit := do
  let y ← x.now
  let t := x.tile 0
  match y.r.got.find? fun (e : Nat × List Byte) => e.1 = n with
  | some (_, bs) => x.storeWrite (x.at_ t (elemOff t (cpD0 (x.val 0) + n / t.cols) (n % t.cols))) bs
  | none => pure ()

/-- A rotated copy: 32 pairs, so 64 elements, in a cclk, from 8 cclk after the table has come (R238). -/
def Job.cprotPlan (x : Job) (split : Bool) : Plan :=
  let v := x.val 0
  let t := x.tile 0
  { units := 1 + cpN v * t.cols
    index := fun u => if u = 0 then 0 else cpD0 v * t.cols + (u - 1)
    run := fun u => if u = 0 then x.rotate split else x.putRotated (u - 1)
    wrote := fun u => if u = 0 then [(x.at_ t (cpD0 v * t.rb), cpN v * t.rb)] else []
    open_ := false
    time := 8
    strip := some fun u =>
      if u = 0 then (cpN v, 0, 0)
      else ((u - 1) / t.cols, x.at_ t (elemOff t (cpD0 v + (u - 1) / t.cols) ((u - 1) % t.cols)) / 256,
        if (u - 1) % t.cols < cpD v then 1 else 0)
    rate := 64 }

end Sys2Proof.Machine
end

