-- ==== Sys2Proof/Machine/Conv.lean ====
section
/-! DEFINITION. The conversion and table-interpolation engines (R58 to R61, R66, R67, R246 to R252). -/

namespace Sys2Proof.Machine

/-! ### Issue -/

/-- The issue of a form that reads tile TA and writes another tile TD; every failure names TD (R246 to R249). -/
def convForm (x : Ext) (op : Instr) (vals : Act (List Word)) (td ta : TileIx) (ok : Tile → Tile → Bool) :
    State → Host.Outcome State Fault Refusal :=
  engineForm .conv x do
    let h := td.toNat
    let i := ta.toNat
    let us := [(h, Use.dst), (i, .src)]
    let vs ← operandsAfter .conv us (do
      handleRule [h, i]
      let t ← getTile h
      let u ← getTile i
      trapIf (!t.v || !u.v || h == i || !ok t u) cBadTile (natW h)) vals
    enterQueue .conv x op vs [h, i] us
    pure .seq

def sameShape (t u : Tile) : Bool := t.rows == u.rows && t.cols == u.cols

/-- Formats INT8, BF16, FP32 and INT32. -/
def byteFmt (f : Nat) : Bool := decide (1 ≤ f) && decide (f ≤ 4)

/-- Row and plane form of one BFX or INT8 shape (R246). -/
def planePair (row plane : Tile) : Bool :=
  sameShape row plane && !row.plane && plane.plane && row.fmt == plane.fmt && (isBfx row.fmt || row.fmt == 1)

def execCvPlane (x : Ext) (td ta : TileIx) : State → Host.Outcome State Fault Refusal :=
  convForm x (.cvPlane x td ta) (pure []) td ta fun t u => planePair u t

def execCvUnplane (x : Ext) (td ta : TileIx) : State → Host.Outcome State Fault Refusal :=
  convForm x (.cvUnplane x td ta) (pure []) td ta planePair

def execCvQ (x : Ext) (m : QSel) (h : BitVec 5) (td ta : TileIx) : State → Host.Outcome State Fault Refusal :=
  convForm x (.cvQ x m h td ta)
    (match m with
      | .rnd _ => pure []
      | .stochastic a b => do
        let base ← readG a
        let key ← readG b
        pure [base, key])
    td ta fun t u => sameShape t u && !u.plane && (u.fmt == 2 || u.fmt == 3) && isBfx t.fmt

def execCvF (x : Ext) (m : RndSel) (td ta : TileIx) : State → Host.Outcome State Fault Refusal :=
  convForm x (.cvF x m td ta) (pure []) td ta fun t u =>
    sameShape t u && !t.plane && !u.plane && byteFmt t.fmt && (byteFmt u.fmt || isBfx u.fmt)

def execCvTr (x : Ext) (td ta : TileIx) : State → Host.Outcome State Fault Refusal :=
  convForm x (.cvTr x td ta) (pure []) td ta fun t u =>
    !t.plane && !u.plane && t.fmt == u.fmt && !isBfx t.fmt && t.rows == u.cols && t.cols == u.rows

/-! ### Values -/

/-- Mode of a rounding selection (R53, R181). -/
def rndMode (captured : Nat) : RndSel → Nat
  | .rm => captured
  | .ne => 0
  | .tz => 1
  | .up => 2
  | .dn => 3

/-- A value on its way through a conversion. -/
inductive CvVal where
  | fp (x : Fp)
  | int (v : Int)
  deriving DecidableEq, Repr

/-- Saturation to n signed bits. -/
def satInt (n : Nat) (v : Int) : Int := max (-(2 ^ (n - 1) : Nat)) (min ((2 ^ (n - 1) : Nat) - 1) v)

/-- The n-bit pattern of an integer. -/
def intPat (n : Nat) (v : Int) : Nat := (v % (2 ^ n : Nat)).toNat

/-- The value of an element of a byte format, FTZ applied. -/
def elemVal (fmt : Nat) (ftz : Bool) (v : Nat) : CvVal :=
  match fmt with
  | 1 => .int (signedOf v 8)
  | 2 => .fp (readFp bf16 ftz v)
  | 4 => .int (signedOf v 32)
  | _ => .fp (readFp fp32 ftz v)

/-- R248: the pattern that a value becomes. -/
def convTo (fmt rm : Nat) (ftz : Bool) (x : CvVal) : Nat :=
  match x, fmt with
  | .fp x, 1 => intPat 8 (fpToInt 8 rm x).1
  | .fp x, 2 => (fpToFp bf16 rm ftz x).bits
  | .fp x, 4 => intPat 32 (fpToInt 32 rm x).1
  | .fp x, _ => (fpToFp fp32 rm ftz x).bits
  | .int v, 1 => intPat 8 (satInt 8 v)
  | .int v, 2 => (intToFp bf16 rm ftz v).bits
  | .int v, 4 => intPat 32 (satInt 32 v)
  | .int v, _ => (intToFp fp32 rm ftz v).bits

/-! ### Effects -/

/-- Blocks of a tile in element order, before they are paced: one in a cclk (R238). -/
def blockPlan (t : Tile) (run : Nat → Nat → Act Unit) : Plan :=
  { units := t.rows * (t.cols / 32)
    index := fun u => 32 * u
    run := fun u => run (u / (t.cols / 32)) (u % (t.cols / 32))
    wrote := fun _ => [], open_ := false, time := 0 }

/-- Elements of a row-form tile in element order, before they are paced. -/
def elemPlan (x : Job) (t : Tile) (run : Nat → Nat → Act Unit) : Plan :=
  { units := t.rows * t.cols
    index := fun u => u
    run := fun u => run (u / t.cols) (u % t.cols)
    wrote := fun u => [(x.at_ t (elemOff t (u / t.cols) (u % t.cols)), elemBytes t.fmt)], open_ := false, time := 0 }

/-- `cv.plane` and `cv.unplane`. -/
def Job.replanePlan (x : Job) : Plan :=
  let p := blockPlan (x.tile 0) fun i b => do
    let c ← x.block (x.tile 1) i b
    x.putBlock (x.tile 0) i b c
  { p with wrote := fun u => if u = 0 then [(x.at_ (x.tile 0) 0, (x.tile 0).rows * (x.tile 0).rb)] else [] }.paced 1

def Job.quantPlan (x : Job) (m : QSel) (h : BitVec 5) : Plan :=
  let t := x.tile 0
  let u := x.tile 1
  let f := if u.fmt = 2 then bf16 else fp32
  let q : QMode := match m with
    | .rnd r => .rm (rndMode x.rm r)
    | .stochastic _ _ => .stochastic (x.val 1).toNat (x.val 0).toNat
  let p := blockPlan t fun i b => do
    let vs ← (List.range 32).mapM fun e => x.elem u i (32 * b + e)
    let k := quantise (fmtBits t.fmt) h.toNat q (fun e => i * t.cols + 32 * b + e) (vs.map (readFp f x.ftz))
    x.putBlock t i b ⟨k.codes, k.e0, k.e1⟩
  { p with wrote := fun u => if u = 0 then [(x.at_ t 0, t.rows * t.rb)] else [] }.paced 1

/-- The value of element (i, j) of a row-form BFX tile; only its own bytes and its block's scales are read. -/
def Job.bfxElem (x : Job) (t : Tile) (i j : Nat) : Act Fp := do
  let n := fmtBits t.fmt
  let bit := n * (j % 32)
  let o := i * t.rb + j / 32 * (4 * n)
  let bs ← storeRead (x.at_ t (o + bit / 8)) ((bit + n - 1) / 8 + 1 - bit / 8)
  let sc ← storeRead (x.at_ t (scaleOff t.fmt t.cols i (j / 32))) 2
  pure (bfxFp n (leNat bs / 2 ^ (bit % 8) % 2 ^ n) (leNat sc % 256) (leNat sc / 256))

/-- One element of `cv.f`: from BFX to FP32 nothing is flushed. -/
def Job.convElem (x : Job) (rm : Nat) (i j : Nat) : Act Unit := do
  let t := x.tile 0
  let u := x.tile 1
  if isBfx u.fmt then
    let v ← x.bfxElem u i j
    x.putElem t i j (convTo t.fmt rm (x.ftz && t.fmt != 3) (.fp v))
  else
    let v ← x.elem u i j
    x.putElem t i j (convTo t.fmt rm x.ftz (elemVal u.fmt x.ftz v))

def Job.convPlan (x : Job) (m : RndSel) : Plan :=
  let t := x.tile 0
  (elemPlan x t (x.convElem (rndMode x.rm m))).paced 64

def Job.transPlan (x : Job) : Plan :=
  let t := x.tile 0
  (elemPlan x t fun i j => do
    let v ← x.elem (x.tile 1) j i
    x.putElem t i j v).paced 64

/-! ### Tables (R66, R67, R251, R252) -/

def execTiLoad (x : Ext) (t : BitVec 2) (a : Reg) : State → Host.Outcome State Fault Refusal :=
  engineForm .table x do
    let vs ← operandsAfter .table [] (pure ()) (do
      let va ← readG a
      pure [va])
    enterQueue .table x (.tiLoad x t a) vs [] []
    pure .seq

/-- Whether TD and TA of `ti.eval` agree (R252). -/
def tablePair (r : Fty) (t u : Tile) : Bool :=
  !t.plane && !u.plane && (u.fmt == 2 || u.fmt == 3) && t.fmt == (match r with | .f32 => 3 | .bf16 => 2) && sameShape t u

def execTiEval (x : Ext) (r : Fty) (t : BitVec 2) (td ta : TileIx) : State → Host.Outcome State Fault Refusal :=
  engineForm .table x do
    let h := td.toNat
    let i := ta.toNat
    handleRule [h, i]
    needBound [h, i]
    let d ← getTile h
    let u ← getTile i
    trapIf (!tablePair r d u) cBadTile (natW h)
    enterQueue .table x (.tiEval x r t td ta) [] [h, i] (usesOf false h [i])
    pure .seq

/-- A table of a cell. -/
def Cell.tableOf (c : Cell) (t : BitVec 2) : Interp := c.interp[t.toNat]'t.isLt
def Cell.setTable (c : Cell) (t : BitVec 2) (v : Interp) : Cell := { c with interp := c.interp.set t.toNat v t.isLt }

/-- Whether an image's header fails R66. -/
def badHeader (ws : List Nat) : Bool :=
  match unpack fp32 (ws.getD 0 0), unpack fp32 (ws.getD 1 0) with
  | .fin a m d, .fin b n e => !(finDy a m d).lt (finDy b n e) || ws.getD 2 0 != 0 || ws.getD 3 0 != 0
  | _, _ => true

/-- The image comes and replaces the table whole; a fault leaves the table invalid (R251). -/
def Job.loadTable (x : Job) (t : BitVec 2) : Act Unit := do
  x.noting 0 do
    trapIf ((x.val 0).toNat % 16 != 0) cBadTable (x.val 0)
    let bs ← x.read none (x.val 0) 3088
    let ws := words32 bs
    trapIf (badHeader ws) cBadTable (x.val 0)
    act fun s => s.modCell x.cell fun c => c.setTable t ⟨true, x.r.cmd.ctx, ws.map (BitVec.ofNat 32)⟩
  let y ← x.now
  if y.r.fault.isSome then act fun s => s.modCell x.cell fun c => c.setTable t ⟨false, 0, []⟩

def Job.tableLoadPlan (x : Job) (t : BitVec 2) : Plan :=
  { units := 1, index := fun _ => 0, run := fun _ => x.loadTable t, wrote := fun _ => [], open_ := true, time := ceilDiv 3088 64 }

/-- Word n of a table. -/
def Interp.word (p : Interp) (n : Nat) : Nat := (p.words.getD n 0).toNat

/-- R67 on a datum: the FP32 result. -/
def interpolate (p : Interp) (ftz : Bool) (x : Fp) : Nat :=
  let rd (v : Nat) : Fp := readFp fp32 ftz v
  let poly (seg : Nat) (t : Nat) : Nat :=
    let c (i : Nat) : Fp := rd (p.word (4 + 3 * seg + i))
    let u := (fpFma fp32 0 ftz (c 2) (rd t) (c 1)).bits
    (fpFma fp32 0 ftz (rd u) (rd t) (c 0)).bits
  match x, unpack fp32 (p.word 0), unpack fp32 (p.word 1) with
  | .inf neg, _, _ => poly (if neg then 0 else 255) (infPat fp32 neg)
  | .fin a m d, .fin la lm le, .fin ha hm he =>
    let lo := finDy la lm le
    let n := ((finDy a m d).sub lo).mul ⟨256, 0⟩
    let w := (finDy ha hm he).sub lo
    let num := n.n * 2 ^ (n.e - w.e).toNat
    let den := w.n * 2 ^ (w.e - n.e).toNat
    let seg := min (num / den).toNat 255
    poly seg (roundQ fp32 0 ftz (num - seg * den) den.toNat).bits
  | _, _, _ => canonNan fp32

/-- One element of `ti.eval`. -/
def Job.evalElem (x : Job) (r : Fty) (n : BitVec 2) (i j : Nat) : Act Unit := do
  let t := x.tile 0
  let u := x.tile 1
  let s ← get
  let p := (s.cell x.cell).tableOf n
  trapIf (!p.valid || p.ctx != x.r.cmd.ctx) cBadTable 0
  let v ← x.elem u i j
  let y := interpolate p x.ftz (readFp (if u.fmt = 2 then bf16 else fp32) x.ftz v)
  x.putElem t i j (match r with
    | .f32 => y
    | .bf16 => (fpToFp bf16 0 x.ftz (readFp fp32 x.ftz y)).bits)

def Job.evalPlan (x : Job) (r : Fty) (n : BitVec 2) : Plan :=
  (elemPlan x (x.tile 0) (x.evalElem r n)).paced 32

end Sys2Proof.Machine
end

