-- ==== Sys2Proof/Machine/Matrix.lean ====
section
/-! DEFINITION. The matrix engine: block products into an accumulator tile, and the accumulator read out (R62 to R65,
R253 to R260). -/

namespace Sys2Proof.Machine

/-! ### Issue -/

/-- Magnitude planes of a plane-form format (R253). -/
def planesOf (fmt : Nat) : Nat := if isBfx fmt then fmtBits fmt - 2 else 8

/-- Declared planes; 0 declares all. -/
def declared (fmt p : Nat) : Nat := if p = 0 then planesOf fmt else p

/-- Whether a tile is a matrix operand with p planes declared (R254). -/
def matrixOperand (u : Tile) (p : Nat) : Bool :=
  u.plane && (isBfx u.fmt || u.fmt == 1) && u.cols % 32 == 0 && decide (p ≤ planesOf u.fmt)

def execMma (x : Ext) (z : Bool) (bp ap : BitVec 4) (td ta tb : TileIx) : State → Host.Outcome State Fault Refusal :=
  engineForm .matrix x do
    let h := td.toNat
    let i := ta.toNat
    let j := tb.toNat
    handleRule [h, i, j]
    needBound [h, i, j]
    let t ← getTile h
    let u ← getTile i
    let v ← getTile j
    trapIf (t.plane || !(t.fmt == 3 || t.fmt == 4)) cBadTile (natW h)
    trapIf (!matrixOperand u ap.toNat) cBadTile (natW i)
    trapIf (!matrixOperand v bp.toNat || v.cols != u.cols) cBadTile (natW j)
    trapIf (h == i || h == j || (t.fmt == 4) != (u.fmt == 1 && v.fmt == 1) || t.rows != u.rows || t.cols != v.rows)
      cBadTile (natW h)
    enterQueue .matrix x (.mma x z bp ap td ta tb) [] [h, i, j] (usesOf (!z) h [i, j])
    pure (.leave .plain wExec)

/-! ### Block products (R62, R63, R65) -/

/-- Words of record (i, kb) as the engine reads them: undeclared planes are not read and count as 0. -/
def Job.planeWords (x : Job) (t : Tile) (p i kb : Nat) : Act (List Nat) :=
  (List.range (recordWords t.fmt)).mapM fun w =>
    if w < planesOf t.fmt - declared t.fmt p then pure 0
    else do
      let bs ← storeRead (x.at_ t (recordOff t i kb + 4 * w)) 4
      pure (leNat bs)

/-- An exact integer as a datum. -/
def intFp (v : Int) : Fp := .fin (decide (v < 0)) v.natAbs 0

/-- The 32 data of a record. -/
def recordData (fmt : Nat) (ws : List Nat) : List Fp :=
  let c := codesOfWords fmt ws
  if isBfx fmt then c.codes.map fun v => bfxFp (fmtBits fmt) v c.e0 c.e1 else c.codes.map fun v => intFp (signedOf v 8)

/-- V of one k-block. -/
def blockSum (xs ys : List Fp) : Fp :=
  let ps := (xs.zip ys).map fun (p : Fp × Fp) => (fpProd p.1 p.2).1
  let has (neg : Bool) : Bool := ps.contains (.inf neg)
  if ps.any isNan || (has true && has false) then .nan false
  else if has true then .inf true
  else if has false then .inf false
  else
    let v := ps.foldl (fun (v : Dy) p => match p with | .fin a m e => v.add (finDy a m e) | _ => v) ⟨0, 0⟩
    .fin (decide (v.n < 0)) v.n.natAbs v.e

/-- The accumulator after one k-block; `int` is set for INT32. -/
def accStep (int ftz : Bool) (acc : Nat) (v : Fp) : Nat :=
  match v with
  | .fin neg m e =>
    if int then intPat 32 ((acc : Int) + (finDy neg m e).n * 2 ^ e.toNat)
    else if m = 0 then acc
    else (fpAdd fp32 0 ftz (readFp fp32 ftz acc) v).bits
  | _ => (fpAdd fp32 0 ftz (readFp fp32 ftz acc) v).bits

/-- Indexes of an output block along one side. -/
def blockSpan (b n : Nat) : List Nat := (List.range (min 64 (n - 64 * b))).map (64 * b + ·)

/-- Output block (bi, bj): it is written only once the whole product is there (R256, R257). -/
def Job.mmaBlock (x : Job) (z : Bool) (bp ap bi bj : Nat) : Act Unit := do
  let t := x.tile 0
  let u := x.tile 1
  let v := x.tile 2
  let rows := blockSpan bi t.rows
  let cols := blockSpan bj t.cols
  let first ← rows.mapM fun i => cols.mapM fun j => if z then pure 0 else x.elem t i j
  let last ← (List.range (u.cols / 32)).foldlM (fun (acc : List (List Nat)) kb => do
    let ws ← rows.mapM fun i => x.planeWords u ap i kb
    let vs ← cols.mapM fun j => x.planeWords v bp j kb
    let as := ws.map (recordData u.fmt)
    let bs := vs.map (recordData v.fmt)
    pure ((acc.zip as).map fun (p : List Nat × List Fp) => (p.1.zip bs).map fun (q : Nat × List Fp) =>
      accStep (t.fmt == 4) x.ftz q.1 (blockSum p.2 q.2))) first
  (rows.zip last).forM fun (p : Nat × List Nat) => (cols.zip p.2).forM fun (q : Nat × Nat) => x.putElem t p.1 q.1 q.2

/-! ### Time (R258) -/

/-- Word w of record (i, kb) as it stands. -/
def Job.planeWord (x : Job) (s : State) (t : Tile) (i kb w : Nat) : Nat :=
  leNat ((addrsFrom (x.at_ t (recordOff t i kb + 4 * w)) 4).map s.byte)

/-- Declared planes that some record of the rows holds, in one k-block. -/
def Job.livePlanes (x : Job) (s : State) (t : Tile) (p : Nat) (rows : List Nat) (kb : Nat) : Nat :=
  let m := planesOf t.fmt
  ((List.range m).filter fun w => decide (m - declared t.fmt p ≤ w) && rows.any fun i => x.planeWord s t i kb w != 0).length

/-- Whether a record of the rows has a half-block whose E is 255. -/
def Job.nonFinite (x : Job) (s : State) (t : Tile) (rows : List Nat) (kb : Nat) : Bool :=
  isBfx t.fmt && rows.any fun i =>
    let w := x.planeWord s t i kb (planesOf t.fmt + 2)
    w % 256 == 255 || w / 256 % 256 == 255

/-- Cclk of an output block of an `mma`. -/
def Job.blockTime (x : Job) (s : State) (bp ap bi bj : Nat) : Nat :=
  let t := x.tile 0
  let u := x.tile 1
  let v := x.tile 2
  let rows := blockSpan bi t.rows
  let cols := blockSpan bj t.cols
  let cost (kb : Nat) : Nat :=
    if x.nonFinite s u rows kb || x.nonFinite s v cols kb then declared u.fmt ap * declared v.fmt bp + 32
    else max 1 (x.livePlanes s u ap rows kb * x.livePlanes s v bp cols kb)
  4 + ((List.range (u.cols / 32)).map cost).sum

/-- An `mma`: 16 cclk, and then its output blocks, each written at the end of its own time (R254, R256, R258). -/
def Job.mmaPlan (x : Job) (s : State) (z : Bool) (bp ap : Nat) : Plan :=
  let t := x.tile 0
  let per := ceilDiv t.cols 64
  { units := ceilDiv t.rows 64 * per
    index := fun u => 64 * (u / per) * t.cols + 64 * (u % per)
    run := fun u => x.mmaBlock z bp ap (u / per) (u % per)
    wrote := fun u => if u = 0 then [(x.at_ t 0, t.rows * t.rb)] else []
    open_ := false
    time := 16
    strip := some fun u => (u, 0, x.blockTime s bp ap (u / per) (u % per))
    rate := 1 }

/-! ### `macc.rd` (R260) -/

/-- FMT of a destination of `macc.rd`. -/
def maccFmt : MaccTy → Nat
  | .f32 => 3
  | .bf16 => 2
  | .i32 => 4

def execMaccRd (x : Ext) (t : MaccTy) (m : RndSel) (sc : Option Reg) (td ta : TileIx) :
    State → Host.Outcome State Fault Refusal :=
  engineForm .matrix x do
    let h := td.toNat
    let i := ta.toNat
    let us := usesOf false h [i]
    let vs ← operandsAfter .matrix us (do
      handleRule [h, i]
      needBound [h, i]
      let d ← getTile h
      let u ← getTile i
      trapIf (d.plane || d.fmt != maccFmt t || !sameShape d u) cBadTile (natW h)
      trapIf (u.plane || !(u.fmt == 3 || u.fmt == 4)) cBadTile (natW i)) (match sc with
      | none => pure []
      | some a => do
        let v ← readG a
        pure [v])
    enterQueue .matrix x (.maccRd x t m sc td ta) vs [h, i] us
    pure .seq

/-- One element of `macc.rd`. -/
def maccElem (fmt dst rm : Nat) (ftz : Bool) (scale : Option Word) (v : Nat) : Nat :=
  let x : Fp := if fmt = 4 then intFp (signedOf v 32) else readFp fp32 ftz v
  let s : Fp := match scale with
    | some w => readFp fp32 ftz (slice w 31 0)
    | none => .fin false 1 0
  match dst with
  | 4 => intPat 32 (fpToInt 32 rm (fpProd x s).1).1
  | 2 => (fpMul bf16 rm ftz x s).bits
  | _ => (fpMul fp32 rm ftz x s).bits

def Job.maccPlan (x : Job) (m : RndSel) : Plan :=
  let t := x.tile 0
  (elemPlan x t fun i j => do
    let v ← x.elem (x.tile 1) i j
    x.putElem t i j (maccElem (x.tile 1).fmt t.fmt (rndMode x.rm m) x.ftz x.r.cmd.vals.head? v)).paced 64

end Sys2Proof.Machine
end

