-- ==== Sys2Proof/Machine/Integer.lean ====
section
/-! DEFINITION. The integer families: ALU, multiply and divide, bit count, `sel`, immediates, bit fields,
compares and predicates (R192 to R200). -/

namespace Sys2Proof.Machine

/-! ### Shared frames -/

/-- gD := f(gA, gB), with a literal for gB allowed. -/
def binOp (g : Guard) (b : Opnd 5) (a d : Reg) (f : Word → Word → Word) :
    State → Host.Outcome State Fault Refusal :=
  issue g (opLen g b) do
    let x ← readG a
    let y ← readOpnd b
    writeG d (f x y)
    pure .seq

/-- gD := f(gA), in a form without a literal. -/
def unOp (g : Guard) (a d : Reg) (f : Word → Word) : State → Host.Outcome State Fault Refusal :=
  issue g (formLen g) do
    let x ← readG a
    writeG d (f x)
    pure .seq

/-- gD := f(gA, imm). -/
def immOp (g : Guard) (i : Opnd 14) (a d : Reg) (f : Word → Word → Word) :
    State → Host.Outcome State Fault Refusal :=
  issue g (opLen g i) do
    let x ← readG a
    writeG d (f x (imm i))
    pure .seq

/-- pD := f(gA, gB). -/
def cmpOp (g : Guard) (b : Opnd 5) (a : Reg) (p : PredIx) (f : Word → Word → Bool) :
    State → Host.Outcome State Fault Refusal :=
  issue g (opLen g b) do
    let x ← readG a
    let y ← readOpnd b
    writeP p (f x y)
    pure .seq

/-- pD := f(pA, pB). -/
def predOp (g : Guard) (b a d : PredIx) (f : Bool → Bool → Bool) : State → Host.Outcome State Fault Refusal :=
  issue g (formLen g) do
    let x ← readP a
    let y ← readP b
    writeP d (f x y)
    pure .seq

/-- s(x) and u(x) of R192. -/
def sOf (w : Wd) (x : Word) : Int := signedOf x.toNat (wdBits w)
def uOf (w : Wd) (x : Word) : Nat := x.toNat % 2 ^ wdBits w
/-- sext(trunc_W(res), W) of R192. -/
def res (w : Wd) (v : Int) : Word := sextTrunc (wdBits w) v
/-- sh of R192. -/
def shOf (w : Wd) (y : Word) : Nat := y.toNat % wdBits w

/-! ### ALU (R192) -/

def aluAdd (w : Wd) (x y : Word) : Word := res w (sOf w x + sOf w y)
def aluSub (w : Wd) (x y : Word) : Word := res w (sOf w x - sOf w y)
def aluShl (w : Wd) (x y : Word) : Word := res w (uOf w x * 2 ^ shOf w y : Nat)
def aluShr (w : Wd) (x y : Word) : Word := res w (uOf w x / 2 ^ shOf w y : Nat)
def aluSar (w : Wd) (x y : Word) : Word := res w ((sOf w x).fdiv (2 ^ shOf w y))
def aluRol (w : Wd) (x y : Word) : Word :=
  res w (uOf w x * 2 ^ shOf w y + uOf w x / 2 ^ (wdBits w - shOf w y) : Nat)
def aluMin (w : Wd) (x y : Word) : Word := res w (min (sOf w x) (sOf w y))
def aluMax (w : Wd) (x y : Word) : Word := res w (max (sOf w x) (sOf w y))
def aluMinu (w : Wd) (x y : Word) : Word := res w (min (uOf w x) (uOf w y) : Nat)
def aluMaxu (w : Wd) (x y : Word) : Word := res w (max (uOf w x) (uOf w y) : Nat)
def aluMul (w : Wd) (x y : Word) : Word := res w (sOf w x * sOf w y)
def aluMulh (x y : Word) : Word := wordOfInt ((sOf .d64 x * sOf .d64 y).fdiv (2 ^ 64))
def aluMulhu (x y : Word) : Word := natW (x.toNat * y.toNat / 2 ^ 64)
def aluMadd (w : Wd) (x y d : Word) : Word := res w (sOf w d + sOf w x * sOf w y)

def execAdd (g : Guard) (w : Wd) (b : Opnd 5) (a d : Reg) := binOp g b a d (aluAdd w)
def execSub (g : Guard) (w : Wd) (b : Opnd 5) (a d : Reg) := binOp g b a d (aluSub w)
def execAnd (g : Guard) (b : Opnd 5) (a d : Reg) := binOp g b a d (· &&& ·)
def execOr (g : Guard) (b : Opnd 5) (a d : Reg) := binOp g b a d (· ||| ·)
def execXor (g : Guard) (b : Opnd 5) (a d : Reg) := binOp g b a d (· ^^^ ·)
def execAndn (g : Guard) (b : Opnd 5) (a d : Reg) := binOp g b a d fun x y => x &&& ~~~y
def execOrn (g : Guard) (b : Opnd 5) (a d : Reg) := binOp g b a d fun x y => x ||| ~~~y
def execShl (g : Guard) (w : Wd) (b : Opnd 5) (a d : Reg) := binOp g b a d (aluShl w)
def execShr (g : Guard) (w : Wd) (b : Opnd 5) (a d : Reg) := binOp g b a d (aluShr w)
def execSar (g : Guard) (w : Wd) (b : Opnd 5) (a d : Reg) := binOp g b a d (aluSar w)
def execRol (g : Guard) (w : Wd) (b : Opnd 5) (a d : Reg) := binOp g b a d (aluRol w)
def execMin (g : Guard) (w : Wd) (b : Opnd 5) (a d : Reg) := binOp g b a d (aluMin w)
def execMax (g : Guard) (w : Wd) (b : Opnd 5) (a d : Reg) := binOp g b a d (aluMax w)
def execMinu (g : Guard) (w : Wd) (b : Opnd 5) (a d : Reg) := binOp g b a d (aluMinu w)
def execMaxu (g : Guard) (w : Wd) (b : Opnd 5) (a d : Reg) := binOp g b a d (aluMaxu w)
def execMul (g : Guard) (w : Wd) (b : Opnd 5) (a d : Reg) := binOp g b a d (aluMul w)
def execMulh (g : Guard) (b : Opnd 5) (a d : Reg) := binOp g b a d aluMulh
def execMulhu (g : Guard) (b : Opnd 5) (a d : Reg) := binOp g b a d aluMulhu

def execMadd (g : Guard) (w : Wd) (b : Opnd 5) (a d : Reg) : State → Host.Outcome State Fault Refusal :=
  issue g (opLen g b) do
    let x ← readG a
    let y ← readOpnd b
    let z ← readG d
    writeG d (aluMadd w x y z)
    pure .seq

/-! ### Division (R192, R193) -/

/-- q and r of the signed division. -/
def divS (w : Wd) (x y : Word) : Int × Int :=
  if sOf w y = 0 then ((2 ^ wdBits w : Nat) - 1, sOf w x)
  else ((sOf w x).tdiv (sOf w y), (sOf w x).tmod (sOf w y))

/-- q and r of the unsigned division. -/
def divU (w : Wd) (x y : Word) : Int × Int :=
  if uOf w y = 0 then ((2 ^ wdBits w : Nat) - 1, uOf w x)
  else ((uOf w x / uOf w y : Nat), (uOf w x % uOf w y : Nat))

/-- cclk from issue to result of a divide (R193). -/
def divTime (w : Wd) : Nat := match w with | .w32 => 40 | .d64 => 72

/-- A divide leaves the rotation; its result is in gD after its time (R193). -/
def divOp (g : Guard) (w : Wd) (b : Opnd 5) (a d : Reg) (f : Word → Word → Int) :
    State → Host.Outcome State Fault Refusal :=
  issue g (opLen g b) do
    let x ← readG a
    let y ← readOpnd b
    destReady d
    let k ← me
    act fun s => s.after (divTime w) .integerDivideComplete k
    pure (.leave (.write d (res w (f x y))) wExec)

def execDiv (g : Guard) (w : Wd) (b : Opnd 5) (a d : Reg) := divOp g w b a d fun x y => (divS w x y).1
def execDivu (g : Guard) (w : Wd) (b : Opnd 5) (a d : Reg) := divOp g w b a d fun x y => (divU w x y).1
def execRem (g : Guard) (w : Wd) (b : Opnd 5) (a d : Reg) := divOp g w b a d fun x y => (divS w x y).2
def execRemu (g : Guard) (w : Wd) (b : Opnd 5) (a d : Reg) := divOp g w b a d fun x y => (divU w x y).2

/-! ### Bit count, extension, selection (R194, R195) -/

/-- Leading zeros of u(x): W less the bits that its value takes. -/
def clzOf (w : Wd) (x : Word) : Nat := if uOf w x = 0 then wdBits w else wdBits w - 1 - (uOf w x).log2
/-- Trailing zeros of u(x). -/
def ctzOf (w : Wd) (x : Word) : Nat :=
  ((List.range (wdBits w)).find? fun i => (uOf w x).testBit i).getD (wdBits w)
/-- One bits of u(x). -/
def popcOf (w : Wd) (x : Word) : Nat := ((List.range (wdBits w)).filter fun i => (uOf w x).testBit i).length

/-- Bits of an extension width. -/
def wxBits (x : Wx) : Nat := match x with | .b => 8 | .h => 16 | .w => 32

def execClz (g : Guard) (w : Wd) (a d : Reg) := unOp g a d fun x => natW (clzOf w x)
def execCtz (g : Guard) (w : Wd) (a d : Reg) := unOp g a d fun x => natW (ctzOf w x)
def execPopc (g : Guard) (w : Wd) (a d : Reg) := unOp g a d fun x => natW (popcOf w x)
def execSext (g : Guard) (x : Wx) (a d : Reg) := unOp g a d fun v => wordOfInt (sextN v (wxBits x))
def execZext (g : Guard) (x : Wx) (a d : Reg) := unOp g a d fun v => natW (zextN v (wxBits x))

def execSel (g : Guard) (p : PredIx) (b : Opnd 5) (a d : Reg) : State → Host.Outcome State Fault Refusal :=
  issue g (opLen g b) do
    let x ← readG a
    let y ← readOpnd b
    let c ← readP p
    writeG d (if c then x else y)
    pure .seq

/-! ### Immediates and bit fields (R196, R197) -/

def execAddi (g : Guard) (i : Opnd 14) (a d : Reg) := immOp g i a d (· + ·)
def execAndi (g : Guard) (i : Opnd 14) (a d : Reg) := immOp g i a d (· &&& ·)
def execOri (g : Guard) (i : Opnd 14) (a d : Reg) := immOp g i a d (· ||| ·)
def execXori (g : Guard) (i : Opnd 14) (a d : Reg) := immOp g i a d (· ^^^ ·)

def shiftL (w : Wd) (k : Nat) (x : Word) : Word := res w (uOf w x * 2 ^ k : Nat)
def shiftR (w : Wd) (k : Nat) (x : Word) : Word := res w (uOf w x / 2 ^ k : Nat)
def shiftA (w : Wd) (k : Nat) (x : Word) : Word := res w ((sOf w x).fdiv (2 ^ k))

def execShli (g : Guard) (w : Wd) (k : BitVec 6) (a d : Reg) := unOp g a d (shiftL w k.toNat)
def execShri (g : Guard) (w : Wd) (k : BitVec 6) (a d : Reg) := unOp g a d (shiftR w k.toNat)
def execSari (g : Guard) (w : Wd) (k : BitVec 6) (a d : Reg) := unOp g a d (shiftA w k.toNat)

def execLi (g : Guard) (i : Opnd 14) (d : Reg) : State → Host.Outcome State Fault Refusal :=
  issue g (opLen g i) do
    writeG d (imm i)
    pure .seq

def execLpc (g : Guard) (i : Opnd 14) (d : Reg) : State → Host.Outcome State Fault Refusal :=
  issue g (opLen g i) do
    let sl ← getSlot
    writeG d (sl.pc + 4 * imm i)
    pure .seq

/-- Field length of `extr` and `ins`: the field L holds len - 1 (R173). -/
def fieldLen (l : BitVec 6) : Nat := l.toNat + 1

def execExtr (g : Guard) (l p : BitVec 6) (a d : Reg) :=
  unOp g a d fun x => natW (slice x (p.toNat + fieldLen l - 1) p.toNat)

def execIns (g : Guard) (l p : BitVec 6) (a d : Reg) : State → Host.Outcome State Fault Refusal :=
  issue g (formLen g) do
    let x ← readG a
    let z ← readG d
    writeG d (setSlice z (p.toNat + fieldLen l - 1) p.toNat (slice x (fieldLen l - 1) 0))
    pure .seq

/-! ### Compares and predicates (R198 to R200) -/

def execCmp (g : Guard) (c : Cc) (w : Wd) (b : Opnd 5) (a : Reg) (p : PredIx) :=
  cmpOp g b a p (ccHolds c (wdBits w))

def execCmpi (g : Guard) (c : Cc) (i : Opnd 10) (a : Reg) (p : PredIx) : State → Host.Outcome State Fault Refusal :=
  issue g (opLen g i) do
    let x ← readG a
    writeP p (ccHolds c 64 x (imm i))
    pure .seq

/-- Whether `fcmp` sets NV (R199). -/
def fcmpNv (c : Fcc) (x y : Fp) : Bool :=
  match c with
  | .lt | .le | .gt | .ge => isNan x || isNan y
  | _ => isSig x || isSig y

def execFcmp (g : Guard) (c : Fcc) (t : Fty) (b : Opnd 5) (a : Reg) (p : PredIx) :
    State → Host.Outcome State Fault Refusal :=
  issue g (opLen g b) do
    let x ← readG a
    let y ← readOpnd b
    let sl ← getSlot
    let u := readFp (ftyFmt t) (ftzOf sl.fmode) (fpBits t x)
    let v := readFp (ftyFmt t) (ftzOf sl.fmode) (fpBits t y)
    writeP p (fccHolds c u v)
    setFlags (nvIf (fcmpNv c u v))
    pure .seq

def execPand (g : Guard) (b a d : PredIx) := predOp g b a d (· && ·)
def execPor (g : Guard) (b a d : PredIx) := predOp g b a d (· || ·)
def execPxor (g : Guard) (b a d : PredIx) := predOp g b a d Bool.xor
def execPandn (g : Guard) (b a d : PredIx) := predOp g b a d fun x y => x && !y

def execPget (g : Guard) (d : Reg) : State → Host.Outcome State Fault Refusal :=
  issue g (formLen g) do
    let sl ← getSlot
    writeG d ((sl.pw ||| 1).zeroExtend 64)
    pure .seq

def execPset (g : Guard) (a : Reg) : State → Host.Outcome State Fault Refusal :=
  issue g (formLen g) do
    let x ← readG a
    modMe fun sl => sl.setPw (x.truncate 16)
    pure .seq

end Sys2Proof.Machine
end

