-- ==== Sys2Proof/Machine/ScalarFp.lean ====
section
/-! DEFINITION. Scalar floating point: MAJ 0x14 to 0x17 (R55, R201 to R205). -/

namespace Sys2Proof.Machine

/-- Whether an operand is subnormal while FTZ is 0 (R55). -/
def meetsSub (t : Fty) (ftz : Bool) (vs : List Word) : Bool :=
  !ftz && vs.any fun v => isSub (ftyFmt t) (fpBits t v)

/-- gD := result, with its flags and the turns that a subnormal costs. -/
def finishFp (d : Reg) (r : FRes) (sub : Bool) : Act Next := do
  writeG d (natW r.bits)
  setFlags r.flags
  skipIf sub
  pure .seq

/-- A two-operand form: f on data, under RM and FTZ (R201). -/
def fpBin (g : Guard) (t : Fty) (b : Opnd 5) (a d : Reg) (f : FpFmt → Nat → Bool → Fp → Fp → FRes) :
    State → Host.Outcome State Fault Refusal :=
  issue g (opLen g b) do
    let x ← readG a
    let y ← readOpnd b
    let sl ← getSlot
    let ftz := ftzOf sl.fmode
    let fm := ftyFmt t
    let r := f fm (rmOf sl.fmode) ftz (readFp fm ftz (fpBits t x)) (readFp fm ftz (fpBits t y))
    finishFp d r (meetsSub t ftz [x, y] || (!ftz && r.sub))

def execFadd (g : Guard) (t : Fty) (b : Opnd 5) (a d : Reg) := fpBin g t b a d fpAdd
def execFsub (g : Guard) (t : Fty) (b : Opnd 5) (a d : Reg) :=
  fpBin g t b a d fun f rm ftz x y => fpAdd f rm ftz x (negFp y)
def execFmul (g : Guard) (t : Fty) (b : Opnd 5) (a d : Reg) := fpBin g t b a d fpMul

/-- The pattern of a datum that is finite, zero or infinite, as an operand was read (R202). -/
def patOf (f : FpFmt) (ftz : Bool) (x : Nat) : Nat :=
  if ftz && isSub f x then signBit f (x.testBit (f.p + 7)) else x

/-- Whether x precedes y, −0 below +0 (R202). -/
def fpBelow (f : FpFmt) (x y : Nat) : Bool :=
  let o := fpCmp (unpack f x) (unpack f y)
  decide (o < 0) || (o == 0 && x.testBit (f.p + 7) && !y.testBit (f.p + 7))

/-- `fmin` and `fmax` (R202). -/
def fpMinMax (wantMax : Bool) (f : FpFmt) (ftz : Bool) (x y : Nat) : FRes :=
  let x := patOf f ftz x
  let y := patOf f ftz y
  let nv := nvIf (isSig (unpack f x) || isSig (unpack f y))
  if isNan (unpack f x) then
    if isNan (unpack f y) then ⟨canonNan f, nv, false⟩ else ⟨y, nv, false⟩
  else if isNan (unpack f y) then ⟨x, nv, false⟩
  else if fpBelow f x y then ⟨if wantMax then y else x, nv, false⟩ else ⟨if wantMax then x else y, nv, false⟩

def minMaxOp (wantMax : Bool) (g : Guard) (t : Fty) (b : Opnd 5) (a d : Reg) :
    State → Host.Outcome State Fault Refusal :=
  issue g (opLen g b) do
    let x ← readG a
    let y ← readOpnd b
    let sl ← getSlot
    finishFp d (fpMinMax wantMax (ftyFmt t) (ftzOf sl.fmode) (fpBits t x) (fpBits t y)) false

def execFmin (g : Guard) (t : Fty) (b : Opnd 5) (a d : Reg) := minMaxOp false g t b a d
def execFmax (g : Guard) (t : Fty) (b : Opnd 5) (a d : Reg) := minMaxOp true g t b a d

/-- Leaves the rotation for 39 cclk (R203). -/
def leaveFp (d : Reg) (r : FRes) (sub : Bool) : Act Next := do
  destReady d
  let k ← me
  act fun s => s.after 39 .fpDivideComplete k
  pure (.leave (.fwrite d (natW r.bits) r.flags sub) wExec)

def execFdiv (g : Guard) (t : Fty) (b : Opnd 5) (a d : Reg) : State → Host.Outcome State Fault Refusal :=
  issue g (opLen g b) do
    let x ← readG a
    let y ← readOpnd b
    let sl ← getSlot
    let ftz := ftzOf sl.fmode
    let fm := ftyFmt t
    let r := fpDiv fm (rmOf sl.fmode) ftz (readFp fm ftz (fpBits t x)) (readFp fm ftz (fpBits t y))
    leaveFp d r (meetsSub t ftz [x, y] || (!ftz && r.sub))

def execFsqrt (g : Guard) (t : Fty) (a d : Reg) : State → Host.Outcome State Fault Refusal :=
  issue g (formLen g) do
    let x ← readG a
    let sl ← getSlot
    let ftz := ftzOf sl.fmode
    let r := fpSqrt (ftyFmt t) (rmOf sl.fmode) ftz (readFp (ftyFmt t) ftz (fpBits t x))
    leaveFp d r (meetsSub t ftz [x] || (!ftz && r.sub))

/-- A fused form: f on the product's factors and the addend gD (R201). -/
def fusedOp (g : Guard) (t : Fty) (b : Opnd 5) (a d : Reg) (negProd negAdd : Bool) :
    State → Host.Outcome State Fault Refusal :=
  issue g (opLen g b) do
    let x ← readG a
    let y ← readOpnd b
    let z ← readG d
    let sl ← getSlot
    let ftz := ftzOf sl.fmode
    let fm := ftyFmt t
    let u := readFp fm ftz (fpBits t x)
    let w := readFp fm ftz (fpBits t z)
    let r := fpFma fm (rmOf sl.fmode) ftz (if negProd then negFp u else u)
      (readFp fm ftz (fpBits t y)) (if negAdd then negFp w else w)
    finishFp d r (meetsSub t ftz [x, y, z] || (!ftz && r.sub))

def execFma (g : Guard) (t : Fty) (b : Opnd 5) (a d : Reg) := fusedOp g t b a d false false
def execFms (g : Guard) (t : Fty) (b : Opnd 5) (a d : Reg) := fusedOp g t b a d false true
def execFnma (g : Guard) (t : Fty) (b : Opnd 5) (a d : Reg) := fusedOp g t b a d true false

/-- Sign bit of a type. -/
def tySign (t : Fty) : Nat := match t with | .f32 => 2 ^ 31 | .bf16 => 2 ^ 15

def execFabs (g : Guard) (t : Fty) (a d : Reg) := unOp g a d fun x => natW (fpBits t x % tySign t)
def execFneg (g : Guard) (t : Fty) (a d : Reg) := unOp g a d fun x => natW ((fpBits t x).xor (tySign t))

/-- The class bit of a pattern (R204). -/
def fclassOf (f : FpFmt) (x : Nat) : Nat :=
  match unpack f x with
  | .nan sig => if sig then 8 else 9
  | .inf neg => if neg then 0 else 7
  | .fin neg m _ =>
    if m = 0 then (if neg then 3 else 4)
    else if isSub f x then (if neg then 2 else 5)
    else (if neg then 1 else 6)

def execFclass (g : Guard) (t : Fty) (a d : Reg) :=
  unOp g a d fun x => natW (2 ^ fclassOf (ftyFmt t) (fpBits t x))

/-- A conversion's result (R205): value, flags, and whether it met a subnormal. -/
def fcvtRes (k : CvtKind) (rm : Nat) (ftz : Bool) (x : Word) : Word × Nat × Bool :=
  let fromInt (f : FpFmt) (v : Int) : Word × Nat × Bool :=
    let r := intToFp f rm ftz v
    (natW r.bits, r.flags, !ftz && r.sub)
  let toInt (n : Nat) (t : Fty) : Word × Nat × Bool :=
    let (v, fl) := fpToInt n rm (readFp (ftyFmt t) ftz (fpBits t x))
    (wordOfInt v, fl, meetsSub t ftz [x])
  let toFp (f : FpFmt) (t : Fty) : Word × Nat × Bool :=
    let r := fpToFp f rm ftz (readFp (ftyFmt t) ftz (fpBits t x))
    (natW r.bits, r.flags, meetsSub t ftz [x] || (!ftz && r.sub))
  match k with
  | .f32bf16 => toFp fp32 .bf16
  | .bf16f32 => toFp bf16 .f32
  | .f32i32 => fromInt fp32 (sextN x 32)
  | .f32i64 => fromInt fp32 (sextN x 64)
  | .bf16i32 => fromInt bf16 (sextN x 32)
  | .bf16i64 => fromInt bf16 (sextN x 64)
  | .i32f32 => toInt 32 .f32
  | .i64f32 => toInt 64 .f32
  | .i32bf16 => toInt 32 .bf16
  | .i64bf16 => toInt 64 .bf16

def execFcvt (g : Guard) (k : CvtKind) (a d : Reg) : State → Host.Outcome State Fault Refusal :=
  issue g (formLen g) do
    let x ← readG a
    let sl ← getSlot
    let (v, fl, sub) := fcvtRes k (rmOf sl.fmode) (ftzOf sl.fmode) x
    writeG d v
    setFlags fl
    skipIf sub
    pure .seq

end Sys2Proof.Machine
end

