-- ==== Sys2Proof/Machine/Vector.lean ====
section
/-! DEFINITION. The vector engine: element-wise forms, masks, broadcasts, reductions and conversions (R261 to R269). -/

namespace Sys2Proof.Machine

/-! ### Types -/

/-- FMT of an element type. -/
def vtyFmt : Vty → Nat
  | .f32 => 3
  | .bf16 => 2
  | .i32 => 4
  | .i8 => 1

def ftyFmtCode : Fty → Nat
  | .f32 => 3
  | .bf16 => 2
def ityFmt : Ity → Nat
  | .i32 => 4
  | .i8 => 1
/-- Width of an integer type. -/
def ityBits : Ity → Nat
  | .i32 => 32
  | .i8 => 8
def vsatFmt : VSat → Nat
  | .f t => ftyFmtCode t
  | .i t _ => ityFmt t
def vfmaFmt : VFmaTy → Nat
  | .f t => ftyFmtCode t
  | .i32 _ => 4
def vcmpFmt : VCmp → Nat
  | .f t _ => ftyFmtCode t
  | .i t _ => ityFmt t

/-- Floating-point type of a format. -/
def fmtFp (f : Nat) : FpFmt := if f = 2 then bf16 else fp32

/-- Elements per cclk (R269). -/
def vecRate (fmt : Nat) : Nat := if fmt = 3 ∨ fmt = 4 then 64 else 128

/-! ### Issue (R261, R262) -/

/-- Shape of an operand that BR selects (R261). -/
def brShape (b : Br) (r c : Nat) : Nat × Nat :=
  match b with
  | .full => (r, c)
  | .row => (1, c)
  | .col => (r, 1)
  | .sc => (1, 1)

/-- Element that BR selects for D(i, j). -/
def brAt (b : Br) (i j : Nat) : Nat × Nat :=
  match b with
  | .full => (i, j)
  | .row => (0, j)
  | .col => (i, 0)
  | .sc => (0, 0)

/-- What a vector form asks of its tiles: formats of source and destination, whether TD may be a source too, the
shape of TA for TD's and of TD for TA's, whether TD is read, and the mask's handle. -/
structure VRule where
  src : Nat
  dst : Nat
  alias_ : Bool
  shapeA : Nat × Nat → Nat × Nat
  shapeD : Nat × Nat → Option (Nat × Nat)
  readsD : Bool
  mask : Option TileIx

/-- A form whose TA and TD have one shape and format. -/
def plainRule (fmt : Nat) (mk : Option TileIx) : VRule :=
  ⟨fmt, fmt, true, fun s => s, fun _ => none, false, mk⟩

/-- Whether a tile is row form, of a format and shape. -/
def rowTile (t : Tile) (fmt : Nat) (shape : Nat × Nat) : Bool :=
  !t.plane && t.fmt == fmt && t.rows == shape.1 && t.cols == shape.2

/-- The checks of a vector form on its tiles: TD, TA, TB, and then the mask (R235, R261, R262). -/
def vectorChecks (rule : VRule) (h i : Nat) (bs hs : List Nat) (tb : Option (TileIx × Br)) : Act Unit := do
  handleRule hs
  needBound hs
  let d ← getTile h
  let a ← getTile i
  let shape := (d.rows, d.cols)
  trapIf (!rowTile d rule.dst ((rule.shapeD (a.rows, a.cols)).getD shape) ||
    (!rule.alias_ && ((i :: bs).contains h))) cBadTile (natW h)
  trapIf (!rowTile a rule.src (if (rule.shapeD (a.rows, a.cols)).isSome then (a.rows, a.cols) else rule.shapeA shape))
    cBadTile (natW i)
  match tb with
  | some (b, br) => do
    let t ← getTile b.toNat
    trapIf (!rowTile t rule.src (brShape br d.rows d.cols)) cBadTile (natW b.toNat)
  | none => pure ()
  match rule.mask with
  | some m => do
    let t ← getTile m.toNat
    trapIf (!rowTile t 1 shape) cBadTile (natW m.toNat)
  | none => pure ()

/-- The issue of a vector form; `tb` comes with its BR. -/
def vectorForm (x : Ext) (op : Instr) (rule : VRule) (vals : Act (List Word)) (td ta : TileIx)
    (tb : Option (TileIx × Br)) : State → Host.Outcome State Fault Refusal :=
  engineForm .vector x do
    let h := td.toNat
    let i := ta.toNat
    let bs := match tb with | some (b, _) => [b.toNat] | none => []
    let ms := match rule.mask with | some m => [m.toNat] | none => []
    let hs := [h, i] ++ bs ++ ms
    let us := usesOf rule.readsD h (i :: (bs ++ ms))
    let vs ← operandsAfter .vector us (vectorChecks rule h i bs hs tb) vals
    enterQueue .vector x op vs hs us
    pure .seq

/-- The rule of a masked form. -/
def VRule.masked (r : VRule) : VRule := { r with readsD := r.readsD || r.mask.isSome }

/-- One operand value. -/
def scalar (a : Reg) : Act (List Word) := do
  let v ← readG a
  pure [v]

/-- A form with one source tile. -/
def vec1 (x : Ext) (op : Instr) (fmt : Nat) (mk : Option TileIx) (vals : Act (List Word)) (td ta : TileIx) :
    State → Host.Outcome State Fault Refusal :=
  vectorForm x op (plainRule fmt mk).masked vals td ta none

/-- A form with two source tiles. -/
def vec2 (x : Ext) (op : Instr) (fmt : Nat) (br : Br) (mk : Option TileIx) (td ta tb : TileIx) :
    State → Host.Outcome State Fault Refusal :=
  vectorForm x op (plainRule fmt mk).masked (pure []) td ta (some (tb, br))

def execVadd (x : Ext) (t : VSat) (br : Br) (mk : Option TileIx) (td ta tb : TileIx) :
    State → Host.Outcome State Fault Refusal :=
  vec2 x (.vadd x t br mk td ta tb) (vsatFmt t) br mk td ta tb

def execVsub (x : Ext) (t : VSat) (br : Br) (mk : Option TileIx) (td ta tb : TileIx) :
    State → Host.Outcome State Fault Refusal :=
  vec2 x (.vsub x t br mk td ta tb) (vsatFmt t) br mk td ta tb

def execVmul (x : Ext) (t : VSat) (br : Br) (mk : Option TileIx) (td ta tb : TileIx) :
    State → Host.Outcome State Fault Refusal :=
  vec2 x (.vmul x t br mk td ta tb) (vsatFmt t) br mk td ta tb

def execVfma (x : Ext) (t : VFmaTy) (br : Br) (mk : Option TileIx) (td ta tb : TileIx) :
    State → Host.Outcome State Fault Refusal :=
  vectorForm x (.vfma x t br mk td ta tb) { plainRule (vfmaFmt t) mk with readsD := true } (pure []) td ta (some (tb, br))

def execVmin (x : Ext) (t : Vty) (br : Br) (mk : Option TileIx) (td ta tb : TileIx) :
    State → Host.Outcome State Fault Refusal :=
  vec2 x (.vmin x t br mk td ta tb) (vtyFmt t) br mk td ta tb

def execVmax (x : Ext) (t : Vty) (br : Br) (mk : Option TileIx) (td ta tb : TileIx) :
    State → Host.Outcome State Fault Refusal :=
  vec2 x (.vmax x t br mk td ta tb) (vtyFmt t) br mk td ta tb

def execVabs (x : Ext) (t : VSat) (mk : Option TileIx) (td ta : TileIx) : State → Host.Outcome State Fault Refusal :=
  vec1 x (.vabs x t mk td ta) (vsatFmt t) mk (pure []) td ta

def execVneg (x : Ext) (t : VSat) (mk : Option TileIx) (td ta : TileIx) : State → Host.Outcome State Fault Refusal :=
  vec1 x (.vneg x t mk td ta) (vsatFmt t) mk (pure []) td ta

def execVcmp (x : Ext) (c : VCmp) (br : Br) (mk : Option TileIx) (td ta tb : TileIx) :
    State → Host.Outcome State Fault Refusal :=
  vectorForm x (.vcmp x c br mk td ta tb) { (plainRule (vcmpFmt c) mk).masked with dst := 1 } (pure []) td ta (some (tb, br))

def execVsel (x : Ext) (t : Vty) (br : Br) (tm td ta tb : TileIx) : State → Host.Outcome State Fault Refusal :=
  vectorForm x (.vsel x t br tm td ta tb) (plainRule (vtyFmt t) (some tm)) (pure []) td ta (some (tb, br))

def execVscale (x : Ext) (t : VSat) (mk : Option TileIx) (a : Reg) (td ta : TileIx) :
    State → Host.Outcome State Fault Refusal :=
  vec1 x (.vscale x t mk a td ta) (vsatFmt t) mk (scalar a) td ta

def execVaddsc (x : Ext) (t : VSat) (mk : Option TileIx) (a : Reg) (td ta : TileIx) :
    State → Host.Outcome State Fault Refusal :=
  vec1 x (.vaddsc x t mk a td ta) (vsatFmt t) mk (scalar a) td ta

/-- FMT of a reduction. -/
def vredFmt : VRedOp → Nat
  | .sum t => vsatFmt t
  | .min t => vtyFmt t
  | .max t => vtyFmt t

def execVred (x : Ext) (o : VRedOp) (cols : Bool) (mk : Option TileIx) (td ta : TileIx) :
    State → Host.Outcome State Fault Refusal :=
  vectorForm x (.vred x o cols mk td ta)
    { (plainRule (vredFmt o) mk).masked with
      alias_ := false, shapeD := fun s => some (if cols then (1, s.2) else (s.1, 1)) } (pure []) td ta none

def execVcvt (x : Ext) (u t : Vty) (m : RndSel) (mk : Option TileIx) (td ta : TileIx) :
    State → Host.Outcome State Fault Refusal :=
  vectorForm x (.vcvt x u t m mk td ta)
    { (plainRule (vtyFmt t) mk).masked with
      dst := vtyFmt u, alias_ := elemBytes (vtyFmt u) == elemBytes (vtyFmt t) } (pure []) td ta none

def execVmov (x : Ext) (t : Vty) (mk : Option TileIx) (td ta : TileIx) : State → Host.Outcome State Fault Refusal :=
  vec1 x (.vmov x t mk td ta) (vtyFmt t) mk (pure []) td ta

/-- BR of `vbcast`. -/
def bcastBr : BcastBr → Br
  | .row => .row
  | .col => .col
  | .sc => .sc

def execVbcast (x : Ext) (t : Vty) (br : BcastBr) (mk : Option TileIx) (td ta : TileIx) :
    State → Host.Outcome State Fault Refusal :=
  vectorForm x (.vbcast x t br mk td ta)
    { (plainRule (vtyFmt t) mk).masked with
      alias_ := false, shapeA := fun s => brShape (bcastBr br) s.1 s.2 } (pure []) td ta none

def execVand (x : Ext) (t : Vty) (br : Br) (mk : Option TileIx) (td ta tb : TileIx) :
    State → Host.Outcome State Fault Refusal :=
  vec2 x (.vand x t br mk td ta tb) (vtyFmt t) br mk td ta tb

def execVor (x : Ext) (t : Vty) (br : Br) (mk : Option TileIx) (td ta tb : TileIx) :
    State → Host.Outcome State Fault Refusal :=
  vec2 x (.vor x t br mk td ta tb) (vtyFmt t) br mk td ta tb

def execVxor (x : Ext) (t : Vty) (br : Br) (mk : Option TileIx) (td ta tb : TileIx) :
    State → Host.Outcome State Fault Refusal :=
  vec2 x (.vxor x t br mk td ta tb) (vtyFmt t) br mk td ta tb

def execVshl (x : Ext) (t : Ity) (sat : Bool) (mk : Option TileIx) (a : Reg) (td ta : TileIx) :
    State → Host.Outcome State Fault Refusal :=
  vec1 x (.vshl x t sat mk a td ta) (ityFmt t) mk (scalar a) td ta

def execVshr (x : Ext) (t : Ity) (arith : Bool) (mk : Option TileIx) (a : Reg) (td ta : TileIx) :
    State → Host.Outcome State Fault Refusal :=
  vec1 x (.vshr x t arith mk a td ta) (ityFmt t) mk (scalar a) td ta

def execVmuli (x : Ext) (t : Ity) (sat : Bool) (sh : BitVec 6) (mk : Option TileIx) (a : Reg) (td ta : TileIx) :
    State → Host.Outcome State Fault Refusal :=
  vec1 x (.vmuli x t sat sh mk a td ta) (ityFmt t) mk (scalar a) td ta

def execVclamp (x : Ext) (t : Vty) (mk : Option TileIx) (b a : Reg) (td ta : TileIx) :
    State → Host.Outcome State Fault Refusal :=
  vec1 x (.vclamp x t mk b a td ta) (vtyFmt t) mk (do
    let lo ← readG a
    let hi ← readG b
    pure [lo, hi]) td ta

/-! ### Element values (R263, R265, R266) -/

/-- An exact integer saturated or wrapped to w bits. -/
def fixInt (w : Nat) (sat : Bool) (v : Int) : Nat := intPat w (if sat then satInt w v else v)

/-- Rounding and FTZ of a command. -/
structure VMode where
  rm : Nat
  ftz : Bool
  deriving DecidableEq, Repr

/-- An FP operation on patterns of one type. -/
def vfp (m : VMode) (t : Fty) (f : FpFmt → Nat → Bool → Fp → Fp → FRes) (a b : Nat) : Nat :=
  let p := ftyFmt t
  (f p m.rm m.ftz (readFp p m.ftz a) (readFp p m.ftz b)).bits

/-- An integer operation on patterns. -/
def vint (t : Ity) (sat : Bool) (f : Int → Int → Int) (a b : Nat) : Nat :=
  fixInt (ityBits t) sat (f (signedOf a (ityBits t)) (signedOf b (ityBits t)))

def vaddElem (m : VMode) (t : VSat) (a b : Nat) : Nat :=
  match t with
  | .f t => vfp m t fpAdd a b
  | .i t sat => vint t sat (· + ·) a b

def vsubElem (m : VMode) (t : VSat) (a b : Nat) : Nat :=
  match t with
  | .f t => vfp m t (fun p rm ftz x y => fpAdd p rm ftz x (negFp y)) a b
  | .i t sat => vint t sat (· - ·) a b

def vmulElem (m : VMode) (t : VSat) (a b : Nat) : Nat :=
  match t with
  | .f t => vfp m t fpMul a b
  | .i t sat => vint t sat (· * ·) a b

def vfmaElem (m : VMode) (t : VFmaTy) (a b d : Nat) : Nat :=
  match t with
  | .f t =>
    let p := ftyFmt t
    (fpFma p m.rm m.ftz (readFp p m.ftz a) (readFp p m.ftz b) (readFp p m.ftz d)).bits
  | .i32 sat => fixInt 32 sat (signedOf a 32 * signedOf b 32 + signedOf d 32)

/-- Signed minimum or maximum. -/
def pickInt (wantMax : Bool) (x y : Int) : Int := if wantMax then max x y else min x y

/-- Minimum or maximum of two patterns (R202). -/
def vminElem (wantMax : Bool) (m : VMode) (t : Vty) (a b : Nat) : Nat :=
  match t with
  | .f32 => (fpMinMax wantMax fp32 m.ftz a b).bits
  | .bf16 => (fpMinMax wantMax bf16 m.ftz a b).bits
  | .i32 => vint .i32 false (pickInt wantMax) a b
  | .i8 => vint .i8 false (pickInt wantMax) a b

/-- Sign bit of an FP type. -/
def vsign : Fty → Nat
  | .f32 => 2 ^ 31
  | .bf16 => 2 ^ 15

def vabsElem (t : VSat) (a : Nat) : Nat :=
  match t with
  | .f t => a % vsign t
  | .i t sat => fixInt (ityBits t) sat (signedOf a (ityBits t)).natAbs

def vnegElem (t : VSat) (a : Nat) : Nat :=
  match t with
  | .f t => a.xor (vsign t)
  | .i t sat => fixInt (ityBits t) sat (-signedOf a (ityBits t))

def vcmpElem (m : VMode) (c : VCmp) (a b : Nat) : Nat :=
  let r := match c with
    | .f t c => fccHolds c (readFp (ftyFmt t) m.ftz a) (readFp (ftyFmt t) m.ftz b)
    | .i t c => ccHolds c (ityBits t) (natW a) (natW b)
  if r then 1 else 0

/-- The FP scalar of a register: its low bits. -/
def fpScalar (t : Fty) (s : Word) : Nat := fpBits t s

def vscaleElem (m : VMode) (t : VSat) (s : Word) (a : Nat) : Nat :=
  match t with
  | .f t => vfp m t fpMul a (fpScalar t s)
  | .i t sat => fixInt (ityBits t) sat (signedOf a (ityBits t) * sextN s 32)

def vaddscElem (m : VMode) (t : VSat) (s : Word) (a : Nat) : Nat :=
  match t with
  | .f t => vfp m t fpAdd a (fpScalar t s)
  | .i t sat => fixInt (ityBits t) sat (signedOf a (ityBits t) + sextN s (ityBits t))

def vshlElem (t : Ity) (sat : Bool) (s : Word) (a : Nat) : Nat :=
  fixInt (ityBits t) sat (signedOf a (ityBits t) * 2 ^ (s.toNat % ityBits t))

def vshrElem (t : Ity) (arith : Bool) (s : Word) (a : Nat) : Nat :=
  let k := s.toNat % ityBits t
  if arith then intPat (ityBits t) ((signedOf a (ityBits t)).fdiv (2 ^ k)) else a / 2 ^ k

def vmuliElem (t : Ity) (sat : Bool) (sh : Nat) (s : Word) (a : Nat) : Nat :=
  let p := signedOf a (ityBits t) * sextN s 32
  fixInt (ityBits t) sat (if sh = 0 then p else (p + 2 ^ (sh - 1)).fdiv (2 ^ sh))

def vclampElem (m : VMode) (t : Vty) (lo hi : Word) (a : Nat) : Nat :=
  let low (s : Word) : Nat := s.toNat % 2 ^ fmtBits (vtyFmt t)
  vminElem false m t (vminElem true m t a (low lo)) (low hi)

/-! ### Reductions (R267) -/

/-- Two partials, either of which may be absent. -/
def joinOpt {α : Type} (f : α → α → α) : Option α → Option α → Option α
  | some x, some y => some (f x y)
  | some x, none => some x
  | none, y => y

/-- One level of the tree. -/
def pairUp {α : Type} (f : α → α → α) : List (Option α) → List (Option α)
  | x :: y :: t => joinOpt f x y :: pairUp f t
  | t => t

/-- Lane partials and then the tree of six levels. -/
def laneTree {α : Type} (f : α → α → α) (xs : List α) : Option α :=
  let lane (l : Nat) : Option α := ((xs.zipIdx.filter fun e => e.2 % 64 = l).map fun e => e.1).foldl
    (fun (o : Option α) x => joinOpt f o (some x)) none
  ((pairUp f (pairUp f (pairUp f (pairUp f (pairUp f (pairUp f ((List.range 64).map lane)))))))).headD none

/-- A pattern with FTZ applied and every NaN canonical, widened to another format. -/
def canonPat (f g : FpFmt) (ftz : Bool) (v : Nat) : Nat := (fpToFp g 0 ftz (readFp f ftz v)).bits

/-- The value of a reduction. -/
def reduceElem (m : VMode) (o : VRedOp) (xs : List Nat) : Nat :=
  match o with
  | .sum (.f t) =>
    let r := (laneTree (vfp m .f32 fpAdd) (xs.map (canonPat (ftyFmt t) fp32 m.ftz))).getD 0
    (match t with
      | .f32 => r
      | .bf16 => (fpToFp bf16 m.rm m.ftz (readFp fp32 m.ftz r)).bits)
  | .sum (.i t sat) => fixInt (ityBits t) sat ((laneTree (fun (x y : Int) => x + y) (xs.map fun v => signedOf v (ityBits t))).getD 0)
  | .min t => (laneTree (vminElem false m t) (canon t xs)).getD 0
  | .max t => (laneTree (vminElem true m t) (canon t xs)).getD 0
where
  canon (t : Vty) (xs : List Nat) : List Nat :=
    match t with
    | .f32 => xs.map (canonPat fp32 fp32 m.ftz)
    | .bf16 => xs.map (canonPat bf16 bf16 m.ftz)
    | _ => xs

/-! ### Effects (R264) -/

def Job.vmode (x : Job) : VMode := ⟨x.rm, x.ftz⟩

/-- Elements of D in order, each under the mask, which is the last tile named. -/
def Job.vecUnits (x : Job) (masked : Bool) (value : Nat → Nat → Act Nat) : Plan :=
  let t := x.tile 0
  let m := x.tile (x.r.cmd.tiles.length - 1)
  let p := elemPlan x t fun i j => do
    let on ← if masked then x.elem m i j else pure 1
    if on = 0 then pure ()
    else do
      let v ← value i j
      x.putElem t i j v
  if masked then { p with wrote := fun _ => [] } else p

/-- The elements of a form at the rate of a format (R269). -/
def Job.vecPlan (x : Job) (masked : Bool) (fmt : Nat) (value : Nat → Nat → Act Nat) : Plan :=
  (x.vecUnits masked value).paced (vecRate fmt)

/-- A form over one source element. -/
def Job.vec1Plan (x : Job) (mk : Option TileIx) (fmt : Nat) (f : Nat → Nat) : Plan :=
  x.vecPlan mk.isSome fmt fun i j => do
    let a ← x.elem (x.tile 1) i j
    pure (f a)

/-- A form over two source elements. -/
def Job.vec2Plan (x : Job) (mk : Option TileIx) (br : Br) (fmt : Nat) (f : Nat → Nat → Nat) : Plan :=
  x.vecPlan mk.isSome fmt fun i j => do
    let a ← x.elem (x.tile 1) i j
    let (p, q) := brAt br i j
    let b ← x.elem (x.tile 2) p q
    pure (f a b)

def Job.vfmaPlan (x : Job) (t : VFmaTy) (mk : Option TileIx) (br : Br) : Plan :=
  x.vecPlan mk.isSome (vfmaFmt t) fun i j => do
    let a ← x.elem (x.tile 1) i j
    let (p, q) := brAt br i j
    let b ← x.elem (x.tile 2) p q
    let d ← x.elem (x.tile 0) i j
    pure (vfmaElem x.vmode t a b d)

def Job.vselPlan (x : Job) (t : Vty) (br : Br) : Plan :=
  x.vecPlan false (vtyFmt t) fun i j => do
    let a ← x.elem (x.tile 1) i j
    let (p, q) := brAt br i j
    let b ← x.elem (x.tile 2) p q
    let m ← x.elem (x.tile 3) i j
    pure (if m = 0 then b else a)

def Job.vbcastPlan (x : Job) (t : Vty) (br : BcastBr) (mk : Option TileIx) : Plan :=
  x.vecPlan mk.isSome (vtyFmt t) fun i j =>
    let (p, q) := brAt (bcastBr br) i j
    x.elem (x.tile 1) p q

def Job.vredPlan (x : Job) (o : VRedOp) (cols : Bool) (mk : Option TileIx) : Plan :=
  let a := x.tile 1
  let p := x.vecUnits mk.isSome fun i j => do
    let xs ← if cols then (List.range a.rows).mapM fun q => x.elem a q j else (List.range a.cols).mapM fun q => x.elem a i q
    pure (reduceElem x.vmode o xs)
  { p with time := 14 + ceilDiv (a.rows * a.cols) (vecRate (vredFmt o)) }

def Job.vcvtPlan (x : Job) (u t : Vty) (m : RndSel) (mk : Option TileIx) : Plan :=
  let p := x.vecUnits mk.isSome fun i j => do
    let a ← x.elem (x.tile 1) i j
    pure (convTo (vtyFmt u) (rndMode x.rm m) x.ftz (elemVal (vtyFmt t) x.ftz a))
  p.paced (min (vecRate (vtyFmt t)) (vecRate (vtyFmt u)))

end Sys2Proof.Machine
end

