-- ==== Sys2Proof/Machine/EngineEvents.lean ====
section
/-! DEFINITION. The events of the engines: the start of a command under its gate, its work and its finish (R118, R128,
R130 to R134, R257, R290, R306, R307, R388). -/

namespace Sys2Proof.Machine

/-- Engine number n of a cell (R131). -/
def engOf : Nat → Eng
  | 0 => .copy
  | 1 => .conv
  | 2 => .table
  | 3 => .matrix
  | _ => .vector

/-- An engine of a cell. -/
def Cell.engine (c : Cell) (e : Eng) : Engine := c.eng[engIx e]

/-- The command in progress on the engine that a key names, cell · 5 + engine. -/
def State.job (s : State) (key : Nat) : Option Job :=
  let e := engOf (key % 5)
  (((s.cell (key / 5)).engine e).cur).map fun r => ⟨key / 5, e, r⟩

/-- No work. -/
def Plan.nothing : Plan :=
  { units := 0, index := fun _ => 0, run := fun _ => pure (), wrote := fun _ => [], open_ := false, time := 0 }

/-- What a command does where its operation may not reach its cell's tile store: the operation ends at its first element (R365). -/
def Job.barredPlan (x : Job) : Plan :=
  { Plan.nothing with units := 1, run := fun _ => trap cWorld (natW (nearWindow + (x.tile 0).at_)) }

/-- Whether a command of the non-secure world names tiles of a secure cell (R365). -/
def State.tilesBarred (s : State) (x : Job) : Bool :=
  !x.r.cmd.tiles.isEmpty && s.worldFails x.r.cmd.secure none [tileAddr x.cell 0]

/-- What the command in progress does. -/
def Job.plan (x : Job) (s : State) : Plan :=
  if s.tilesBarred x then x.barredPlan else
  let m := x.vmode
  let v := x.val
  match x.r.cmd.op with
  | .cpLd _ _ _ => x.copyPlan false
  | .cpSt _ _ _ => x.copyPlan true
  | .cp2d _ out row0 _ _ _ => x.rowsPlan out row0
  | .fill _ _ _ => x.fillPlan
  | .gather _ _ _ _ _ => x.listPlan false
  | .scatter _ _ _ _ _ => x.listPlan true
  | .halo _ w td => x.haloPlan w td
  | .cprot _ split _ _ _ _ => x.cprotPlan split
  | .cvPlane _ _ _ => x.replanePlan
  | .cvUnplane _ _ _ => x.replanePlan
  | .cvQ _ q h _ _ => x.quantPlan q h
  | .cvF _ r _ _ => x.convPlan r
  | .cvTr _ _ _ => x.transPlan
  | .tiLoad _ t _ => x.tableLoadPlan t
  | .tiEval _ r t _ _ => x.evalPlan r t
  | .mma _ z bp ap _ _ _ => x.mmaPlan s z bp.toNat ap.toNat
  | .maccRd _ _ r _ _ _ => x.maccPlan r
  | .vadd _ t br ms _ _ _ => x.vec2Plan ms br (vsatFmt t) (vaddElem m t)
  | .vsub _ t br ms _ _ _ => x.vec2Plan ms br (vsatFmt t) (vsubElem m t)
  | .vmul _ t br ms _ _ _ => x.vec2Plan ms br (vsatFmt t) (vmulElem m t)
  | .vfma _ t br ms _ _ _ => x.vfmaPlan t ms br
  | .vmin _ t br ms _ _ _ => x.vec2Plan ms br (vtyFmt t) (vminElem false m t)
  | .vmax _ t br ms _ _ _ => x.vec2Plan ms br (vtyFmt t) (vminElem true m t)
  | .vabs _ t ms _ _ => x.vec1Plan ms (vsatFmt t) (vabsElem t)
  | .vneg _ t ms _ _ => x.vec1Plan ms (vsatFmt t) (vnegElem t)
  | .vcmp _ c br ms _ _ _ => x.vec2Plan ms br (vcmpFmt c) (vcmpElem m c)
  | .vsel _ t br _ _ _ _ => x.vselPlan t br
  | .vscale _ t ms _ _ _ => x.vec1Plan ms (vsatFmt t) (vscaleElem m t (v 0))
  | .vaddsc _ t ms _ _ _ => x.vec1Plan ms (vsatFmt t) (vaddscElem m t (v 0))
  | .vred _ o cols ms _ _ => x.vredPlan o cols ms
  | .vcvt _ u t r ms _ _ => x.vcvtPlan u t r ms
  | .vmov _ t ms _ _ => x.vec1Plan ms (vtyFmt t) id
  | .vbcast _ t br ms _ _ => x.vbcastPlan t br ms
  | .vand _ t br ms _ _ _ => x.vec2Plan ms br (vtyFmt t) Nat.land
  | .vor _ t br ms _ _ _ => x.vec2Plan ms br (vtyFmt t) Nat.lor
  | .vxor _ t br ms _ _ _ => x.vec2Plan ms br (vtyFmt t) Nat.xor
  | .vshl _ t sat ms _ _ _ => x.vec1Plan ms (ityFmt t) (vshlElem t sat (v 0))
  | .vshr _ t arith ms _ _ _ => x.vec1Plan ms (ityFmt t) (vshrElem t arith (v 0))
  | .vmuli _ t sat sh ms _ _ _ => x.vec1Plan ms (ityFmt t) (vmuliElem t sat sh.toNat (v 0))
  | .vclamp _ t ms _ _ _ _ => x.vec1Plan ms (vtyFmt t) (vclampElem m t (v 0) (v 1))
  | _ => Plan.nothing

/-! ### Start (R130, R131) -/

/-- Whether a command's gate holds. -/
def Cell.gateHolds (c : Cell) (g : Nat × Nat) : Bool := decide (g.1 ≤ (c.semOf (BitVec.ofNat 5 g.2)).toNat)

/-- The command that an idle engine has at the head of its queue. -/
def Engine.waiting (e : Engine) : Option Cmd :=
  match e.cur with
  | some _ => none
  | none => e.queue.head?

/-- A command at its start. -/
def Running.start (c : Cmd) : Running :=
  { cmd := c, due := 0, at_ := 0, index := [], subs := [], got := [], missing := [], sent := false, fault := none
    latch := [], used := 0, wait := none, declined := false, walkPoison := none, acks := 0, lastDue := 0, touched := []
    paid := 0 }

/-- ENGINE_COMMAND_START of the engine that `cur` names (R130, R131). -/
def execEngineCommandStart : Event := fun s =>
  let cell := s.cur / 5
  let e := engOf (s.cur % 5)
  match ((s.cell cell).engine e).waiting with
  | none => .next s
  | some cmd =>
    if !(s.cell cell).gateHolds cmd.gate then .next s
    else
      let n := BitVec.ofNat 5 cmd.gate.2
      let s := if cmd.gate.1 = 0 then s
        else (s.modCell cell fun c => c.setSem n (c.semOf n - BitVec.ofNat 16 cmd.gate.1)).sink cell
      let p := (Job.mk cell e (Running.start cmd)).plan s
      let (extra, s) := if p.open_ then s.freeNat else (0, s)
      let time := if p.strip.isSome then 0 else p.time + extra
      .next (s.modCell cell fun c => c.modEng (engIx e) fun y =>
        { queue := y.queue.tail, cur := some { Running.start cmd with due := s.cycle + time } })

/-- GATE_STALL_CYCLE of the engine that `cur` names: a gate holds its idle engine for a cclk (R328). -/
def execGateStallCycle : Event := fun s =>
  let cell := s.cur / 5
  let e := engOf (s.cur % 5)
  match ((s.cell cell).engine e).waiting with
  | none => .next s
  | some cmd =>
    if (s.cell cell).gateHolds cmd.gate then .next s
    else .next (s.modCell cell fun c => { c with stgate := c.stgate.set (engIx e) (c.stgate[engIx e] + 1) (engIx e).isLt })

/-! ### Finish (R128, R132) -/

/-- Whether the issuing slot still holds the work that issued a command.  DESIGN CHOICE (log 92): a signal to the mailbox, a
predicate or ESTAT of a slot whose work has ended since is dropped (R132). -/
def State.issuerHere (s : State) (c : Cmd) : Bool := (s.slot c.slot).gen == c.gen

/-- Changes the slot that issued a command, where it still holds that work or is saved with it (R132, R344). -/
def State.modIssuer (s : State) (c : Cmd) (f : Slot → Slot) : State :=
  if s.saved.any fun (x : Saved) => x.isOf c.slot c.ctx && x.slot.gen == c.gen then
    s.modSaved c.slot c.ctx fun x => { x with slot := f x.slot }
  else if s.issuerHere c then s.modSlot c.slot f
  else s

/-- A faulted operation is written to ESTAT and reported (R132, R290, R388). -/
def State.engineFault (s : State) (x : Job) (index cause : Nat) (addr : Word) : State :=
  let c := x.r.cmd
  let detail := natW (((engIx x.eng).val + 1) * 2 ^ 60 + index % 2 ^ 32)
  let s := s.modIssuer c fun sl => { sl with estat := detail ||| natW (cause * 2 ^ 32) }
  s.report (dieOf x.cell) 3 cause c.ctx (placeLow c.slot) addr detail

/-- Whether the tile changes of a finished command reach a handle: those of a transaction that has ended do not. -/
def State.tileHeld (s : State) (c : Cmd) (h : Nat) : Bool :=
  decide (h < 32) || match c.txn with
    | none => true
    | some (num, _) => match s.txn num with
      | some t => t.stage == .dispatched
      | none => false

/-- The finish changes of R128. -/
def State.releaseTiles (s : State) (cell : Nat) (c : Cmd) : State :=
  let ds := c.dsts.filter (s.tileHeld c)
  let rs := c.srcs.filter (s.tileHeld c)
  s.modCell cell fun y => (y.setTiles ds fun t => { t with state := .ready }).setTiles rs fun t => { t with hold := t.hold - 1 }

/-- The signal of the completion object (R132). -/
def State.signalDone (s : State) (cell : Nat) (c : Cmd) : State :=
  match c.done with
  | .none => s
  | .sem n k => (s.modCell cell fun y => y.setSem n (y.semOf n + BitVec.ofNat 16 (k.toNat + 1))).sink cell
  | .counter n => s.decrement cell n.toNat c.ctx (s.place c.slot) 0xFFFF
  | .mailbox m =>
    let s' := s.modIssuer c fun sl => sl.deliver m.toNat none
    if s.issuerHere c then s'.sink cell else s'
  | .pred p => s.modIssuer c fun sl => sl.setP p true

/-- The slot of an `mma` goes back into the rotation (R255). -/
def State.rejoinIssuer (s : State) (c : Cmd) : State :=
  match c.op with
  | .mma _ _ _ _ _ _ _ => if s.issuerHere c then s.thenDo (.memoryReplyArrival c.slot .done) 0 else s
  | _ => s

/-- The operation is over: tiles, signal, and the engine is idle. -/
def State.endOperation (s : State) (x : Job) : State :=
  let s := (s.releaseTiles x.cell x.r.cmd).signalDone x.cell x.r.cmd
  ((s.modCell x.cell fun c => c.modEng (engIx x.eng) fun y => { y with cur := none }).rejoinIssuer x.r.cmd).sink x.cell

/-- An operation that was done loses the poison marks of the words that it wrote wholly (R45). -/
def State.clearWritten (s : State) (p : Plan) : State :=
  if s.poison = [] ∧ s.soft = [] then s
  else s.clearPoison ((List.range p.units).flatMap fun u => (p.wrote u).flatMap fun (e : Nat × Nat) => addrsFrom e.1 e.2)

/-- Issues of the role that issued a command: as its slot counts them, or as they stood when the role ended (R118). -/
def State.roleIssues (s : State) (num r : Nat) (c : Cmd) : Nat :=
  match (s.txn num).bind fun t => t.roles.find? fun x => x.role = r ∧ x.ended with
  | some x => x.issues
  | none => (s.slot c.slot).issues.toNat

/-- The operation ends at an element, faulted, or as a set miss that voids its follow (R118). -/
def State.failOperation (s : State) (x : Job) (index cause : Nat) (addr : Word) : State :=
  match x.r.cmd.txn with
  | some (num, r) =>
    if cause = cSetMiss then (s.voidTxn num ⟨3, cSetMiss, r, s.roleIssues num r x.r.cmd⟩).endOperation x
    else (s.engineFault x index cause addr).endOperation x
  | none => (s.engineFault x index cause addr).endOperation x

/-- All units are done. -/
def State.finishOperation (s : State) (x : Job) (p : Plan) : State :=
  match x.r.fault with
  | some (i, c, v) => s.failOperation x i c v
  | none => (s.clearWritten p).endOperation x

/-- Changes the command in progress of a job's engine. -/
def State.modRun (s : State) (x : Job) (f : Running → Running) : State :=
  s.modCell x.cell fun c => c.modEng (engIx x.eng) fun y => { y with cur := y.cur.map f }

/-- The command after a unit, or a strip, that is done. -/
def Running.settled (r : Running) : Running :=
  { r with latch := [], used := 0, declined := false, walkPoison := none, touched := [], paid := 0 }

/-- Whether a command writes global memory rather than reading it (R335). -/
def storesOut : Instr → Bool
  | .cpSt _ _ _ => true
  | .cp2d _ out _ _ _ _ => out
  | .scatter _ _ _ _ _ => true
  | _ => false

/-- The engine waits for a translation or for a page. -/
def Running.waitFor (ctx page : Nat) (va : Word) (r : Running) : Running :=
  { r with wait := some ⟨ctx, page, 3, storesOut r.cmd.op, va, false, false⟩ }

/-- The engine of a job as an agent that waits (R335). -/
def Job.agent (x : Job) : Agent := .engine x.cell x.eng x.r.cmd.slot x.r.cmd.gen.toNat

def Job.waiter (x : Job) : Waiter := ⟨x.agent, 3, storesOut x.r.cmd.op, coreOf x.r.cmd.slot⟩

/-- What a unit that stops leaves: an operation that ends waits for the acknowledgements of its writes (R134). -/
def State.stopUnit (s : State) (x : Job) (p : Plan) : Stop → State
  | .trap c v =>
    if x.r.acks = 0 then s.failOperation x (p.index x.r.at_) c v
    else s.modRun x fun r => { r with fault := some (p.index x.r.at_, c, v), at_ := p.units }
  | .wait _ _ => s
  | .miss page _ va => (s.modRun x (Running.waitFor x.r.cmd.ctx page va)).ask x.r.cmd.ctx page x.waiter
  | .fault f _ => s.postFault (clusterOf x.cell) f x.waiter
  | .fixField l va =>
    (s.modRun x (Running.waitFor l.ctx (l.vbase / 65536) va)).send clsOwn (clusterOf x.cell) (clusterOf x.cell)
      (msg (.fixFieldUpdate (clusterOf x.cell) l x.agent))
  | .declined => s.failOperation x (p.index x.r.at_) cDeclined 0
  | .remote part m => (s.modRun x fun r => { r with missing := [noSlot] }).toPart part m

/-! ### Strips (R69, R72, R136, R238) -/

/-- First unit after the strip that begins at a unit: its units write one destination row and one 256-byte unit of it. -/
def Plan.stripEnd (p : Plan) (u : Nat) : Nat :=
  match p.strip with
  | none => u + 1
  | some f => u + ((List.range (min 256 (p.units - u))).takeWhile fun i =>
      (f (u + i)).1 == (f u).1 && (f (u + i)).2.1 == (f u).2.1).length

/-- What n units of a strip cost. -/
def Plan.stripCost (p : Plan) (u n : Nat) : Nat :=
  match p.strip with
  | none => 0
  | some f => (List.range n).foldl (fun c i => c + (f (u + i)).2.2) 0

/-- Latency of a source that a cell's copy engine reads. -/
def sourceLag (cell a : Nat) : Nat :=
  match placeOf a with
  | .tile c => if c = cell then 8 else lateralLag c cell
  | .vault c => lateralLag c cell
  | _ => 40 + if hbmDie a = dieOf cell then 0 else 48

/-- Rate at which the lateral network carries what a strip reads and writes; its own cell's memory keeps up. -/
def stripRate (cell : Nat) (p : Plan) (ts : List (Bool × Nat)) : Nat :=
  ts.foldl (fun r (t : Bool × Nat) => match placeOf t.2 with
    | .tile c => if c = cell then r else min r (lateralRate c cell)
    | .vault c => if c = cell then r else min r (lateralRate c cell)
    | _ => r) p.rate

/-- Time of a strip of n units that touches `ts`: HBM and other parts may add to the latency of the first one (log 3).  The first
strip's time counts from the command's start, which is one cclk before its engine's first step (R238, R269). -/
def State.stripTime (s : State) (x : Job) (p : Plan) (n : Nat) (ts : List (Bool × Nat)) : Nat × State :=
  let first := x.r.at_ = 0
  let moves := ceilDiv (p.stripCost x.r.at_ n) (stripRate x.cell p ts) + if first then p.time else 0
  let srcs := if x.r.at_ = p.first then ts.filter (fun t => t.1) else []
  let gone := if first then 1 else 0
  if srcs = [] then (moves - gone, s)
  else
    let lag := srcs.foldl (fun m (t : Bool × Nat) => max m (sourceLag x.cell t.2)) 0
    let (more, s) := if srcs.any fun (t : Bool × Nat) => placeOf t.2 == .hbm then s.freeNat else (0, s)
    (moves + lag + more - gone, s)

/-- Runs up to n units of the command in progress, and says what stopped it. -/
def State.runStrip (key : Nat) : Nat → State → State × Option Stop
  | 0, s => (s, none)
  | n + 1, s => match s.job key with
    | none => (s, none)
    | some x =>
      let p := x.plan s
      if p.units ≤ x.r.at_ then (s, none)
      else match p.run x.r.at_ s with
        | .ok (_, s') => (s'.modRun x fun r =>
            let r := { r with at_ := r.at_ + 1 }
            if p.strip.isNone then Running.settled r else r).runStrip key n
        | .error e => (s, some e)

/-- The element that the command in progress has come to. -/
def State.unitAt (s : State) (key : Nat) : Nat := match s.job key with | some x => x.r.at_ | none => 0

/-- The switch-out of a context that has reached the cores, if one is in progress. -/
def State.swoutOf (s : State) (ctx : Nat) : Option CtxOp :=
  s.ctxOps.find? fun o => o.kind == 3 && o.ctx == ctx && o.left != []

/-- Whether a command belongs to a role that still runs: no switch-out takes it (R123, R344). -/
def State.roleCmd (s : State) (c : Cmd) : Bool :=
  match c.txn with
  | some (num, _) => (s.txn num).any fun t => t.stage == .dispatched
  | none => false

/-- Whether a copy command stops at a strip boundary, since its context is being switched out (R136, R344). -/
def State.yields (s : State) (x : Job) : Bool :=
  (s.swoutOf x.r.cmd.ctx).isSome && x.eng == .copy && !s.roleCmd x.r.cmd

/-- Runs a command until it is over or must wait: a strip takes its time first, and is then done unit by unit, up to a unit that
stops (R133, R134, R136). -/
def State.runUnits (key : Nat) : Nat → State → State
  | 0, s => s
  | n + 1, s => match s.job key with
    | none => s
    | some x =>
      let p := x.plan s
      let at0 := x.r.at_
      let s0 := { s with cur := x.r.cmd.slot }.modRun x fun r => { r with used := 0, touched := [] }
      if x.r.missing ≠ [] then s
      else if p.units ≤ at0 then (if x.r.acks = 0 then s.finishOperation x p else s)
      else if p.strip.isNone ∨ x.r.paid ≠ 0 then
        let (s1, e) := s0.runStrip key (if p.strip.isNone then p.units - at0 else x.r.paid)
        if s1.unitAt key = at0 then match e with
          | some e => (s.modRun x fun r => { r with paid := 0 }).stopUnit x p e
          | none => s
        else (s1.modRun x Running.settled).runUnits key n
      else if s.yields x then s
      else
        let (s1, e) := s0.runStrip key (p.stripEnd at0 - at0)
        let done := s1.unitAt key - at0
        if done = 0 then match e with
          | some e => s.stopUnit x p e
          | none => s
        else
          let ts := match s1.job key with | some y => y.r.touched | none => []
          let (t, s2) := s.stripTime x p done ts
          let s3 := s2.modRun x fun r => { r with paid := done, due := s.cycle + t }
          if t = 0 then s3.runUnits key n else s3

/-- ENGINE_OPERATION_FINISH of the engine that `cur` names: the units that remain, and then the finish (R132). -/
def execEngineOperationFinish : Event := fun s =>
  match s.job s.cur with
  | none => .next s
  | some x => if x.r.wait.isSome then .next s else .next (s.runUnits s.cur (2 * ((x.plan s).units + 2 - x.r.at_)))

end Sys2Proof.Machine
end

