-- ==== Sys2Proof/Machine/System.lean ====
section
/-! DEFINITION. System forms and the steps of system registers (R287 to R296, R342, R348, R350, R367). -/

namespace Sys2Proof.Machine

/-! ### System registers (R287, R288) -/

/-- Word 0 of an instruction, as TRAPVAL holds it (R170). -/
def wordZero (i : Instr) : Word := ((encode i).headD 0).zeroExtend 64

/-- The frame of `mfsr` and `mtsr`: a number that the map does not assign on this core is an undefined encoding,
which comes before the guard (R170, R287, R340). -/
def registerForm (g : Guard) (i : Instr) (x : BitVec 9) (body : RegAccess → Act Next) (s : State) :
    Host.Outcome State Fault Refusal :=
  match regAccess (isFsc (coreOf s.cur)) x.toNat with
  | none => s.stopped (.trap cUndefined (wordZero i))
  | some r => issue g (formLen g) (body r) s

/-- Traps an access of a class that the slot may not make; TRAPVAL holds IX (R287). -/
def checkClass (c : RegRead) (x : BitVec 9) : Act Unit := do
  let s ← get
  match regTrap (s.privOf s.cur) (s.secureOf s.cur) c with
  | some n => trap n (x.zeroExtend 64)
  | none => pure ()

def execMfsr (g : Guard) (x : BitVec 9) (d : Reg) : State → Host.Outcome State Fault Refusal :=
  registerForm g (.mfsr g x d) x fun r => do
    checkClass r.rd x
    let s ← get
    writeG d (s.readReg s.cur x.toNat)
    pure .seq

/-- The class of a write: a register that is never writable refuses it with *privilege*, or with *world* where it is
secure and the slot is not (R287). -/
def checkWrite (r : RegAccess) (x : BitVec 9) : Act Unit :=
  match r.wr with
  | some c => checkClass c x
  | none => do
    let s ← get
    trapIf (r.rd == .secure && !s.secureOf s.cur) cWorld (x.zeroExtend 64)
    trap cPrivilege (x.zeroExtend 64)

/-- `mtsr`.  DESIGN CHOICE (log 94): it waits with cause memory for FSCMD while BUSY, and for KEYSEL and KEYDATA while an
installation runs, a wait that R148 does not list. -/
def execMtsr (g : Guard) (x : BitVec 9) (a : Reg) : State → Host.Outcome State Fault Refusal :=
  registerForm g (.mtsr g x a) x fun r => do
    let v ← readG a
    checkWrite r x
    let s ← get
    if s.regBusy s.cur x.toNat then waitFor wMem
    act fun s => s.writeReg s.cur x.toNat v
    pure .seq

/-- ESTAT_CLEAR (R290). -/
def execEstatClear (k : Nat) : Event := fun s => .next (s.modSlot k fun sl => { sl with estat := 0 })

/-- WDOG_WRITE (R348). -/
def execWdogWrite (cell : Nat) (v : Word) : Event := fun s => .next (s.writeWdog cell v)

/-! ### Keys (R366, R367, R372) -/

/-- KEYSEL_WRITE; its store waits while an installation is in progress (R367). -/
def execKeyselWrite (v : Word) : Event := fun s => .next (s.writeKeysel v)

/-- KEYDATA_WRITE (R367). -/
def execKeydataWrite (v : Word) : Event := fun s => .next (s.writeKeydata v)

/-- KEY_INSTALL_COMPLETE: every memory controller switches to the new key (R367, log 15). -/
def execKeyInstallComplete : Event := fun s =>
  let i := s.part.keyIndex
  .next (s.modPart fun p => { p with
    keys := p.keys.set i p.keyData, keyGen := p.keyGen.set i (p.keyGen.get 0 i + 1), keyBusy := false })

/-! ### Traps and returns (R294) -/

/-- A form that only traps. -/
def trapForm (g : Guard) (c : Nat) (n : BitVec 9) : State → Host.Outcome State Fault Refusal :=
  issue g (formLen g) (trap c (n.zeroExtend 64))

/-- Causes of `trap` and `brk`. -/
abbrev cUserTrap : Nat := 25
abbrev cBreakpoint : Nat := 26
abbrev cBadReturn : Nat := 28

def execTrap (g : Guard) (n : BitVec 9) : State → Host.Outcome State Fault Refusal := trapForm g cUserTrap n

def execBrk (g : Guard) (n : BitVec 9) : State → Host.Outcome State Fault Refusal := trapForm g cBreakpoint n

def execEret (g : Guard) : State → Host.Outcome State Fault Refusal :=
  issue g (formLen g) do
    let sl ← getSlot
    trapIf (!sl.inTrap) cBadReturn 0
    modMe Slot.eret
    pure (.jump sl.trapPc)

/-! ### `rng` (R296) -/

def execRng (g : Guard) (a d : Reg) : State → Host.Outcome State Fault Refusal :=
  issue g (formLen g) do
    let key ← readG a
    let xs ← readRun d 2
    let lo := xs.getD 0 0
    let hi := xs.getD 1 0
    let (y0, y1, y2, y3) := rngWords key.toNat (slice lo 31 0) (slice lo 63 32) (slice hi 31 0) (slice hi 63 32)
    writeG d (natW (y1 * 2 ^ 32 + y0))
    writeG (d + 1) (natW (y3 * 2 ^ 32 + y2))
    pure .seq

/-! ### The start of a fix (R294, R350) -/

/-- Whether a fix has begun and not every cut of the pod has been taken: another part's last one is known by its marker
(R350). -/
def State.fixOpen (s : State) : Bool :=
  s.fix.active && (decide (s.fix.phase ≤ 6) || decide (s.fix.marks.length < s.otherParts.length))

/-- Number of the fix that a start joins or begins. -/
def State.fixTarget (s : State) : Nat := if s.fixOpen then s.fix.want else s.fix.want + 1

/-- The status word of a fix, for its CUTS and STATE (R295). -/
def statWord (cuts state : Nat) : Word := natW (cuts * 2 ^ 32 + state)

/-- Sets the status of a fix; the 16 most recent are kept. -/
def Fix.setStat (f : Fix) (no : Nat) (w : Word) : Fix :=
  { f with stat := (f.stat.set no w).filter fun e => decide (f.want < e.1 + 16) }

/-- The newest fix at this part is that of a number; `phase` 0 stands for a start on its way to the sequencer. -/
def Fix.start (f : Fix) (no phase : Nat) : Fix :=
  { f with want := no, active := true, phase := phase, reports := [], cuts := [], marks := [], marksIn := [], marksOut := []
           told := false, barWaits := [], queued := false }.setStat no (statWord 0 1)

/-- The fix of a number begins at this part: its sequencer is to close the open batch and report (R351). -/
def State.fixBegin (s : State) (no : Nat) : State :=
  (s.modFix fun f => f.start no 1).modSeq fun q => if sqDet q.sqctl then q else { q with closeAsked := true }

/-- The coordinator, on part 0, starts a fix, unless one is open; while the last one writes its manifest the start
waits (R350, R351). -/
def State.fixCoordinate (s : State) : State :=
  if s.fixOpen then s
  else if s.fix.active then s.modFix fun f => { f with queued := true }
  else
    let no := s.fix.want + 1
    ((s.broadcast (.fixStart no)).modFix fun f => f.start no 0).send clsLock seqChan seqChan (msg (.fixStartReceive no))

/-- A start asked for on this part (R350). -/
def State.fixAsk (s : State) : State :=
  if s.link.pod.k = 0 then s.fixCoordinate
  else if s.fixOpen then s
  else s.toPart 0 (.fixStart s.fixTarget)

/-- `fix gD` (R294).  DESIGN CHOICE (log 109): in a user role with FIXCTL.USER 0, *privilege* comes before *transaction effect*
(R112). -/
def execFix (g : Guard) (d : Reg) : State → Host.Outcome State Fault Refusal :=
  issue g (formLen g) do
    let s ← get
    trapIf (!(s.privOf s.cur || bitOf s.part.fixctl 0)) cPrivilege 0
    allowedIn true false
    destReady d
    let no := s.fixTarget
    act State.fixAsk
    if no ≤ (s.cell (cellOf s.cur)).fixNo then do
      act fun s => s.after 1 (.memoryReplyArrival s.cur (.value (natW no))) 0
      pure (.leave (.fix d no) wMem)
    else pure (.leave (.fix d no) wMem)

/-- `fixq gD, gA` (R294, R295). -/
def execFixq (g : Guard) (a d : Reg) : State → Host.Outcome State Fault Refusal :=
  issue g (formLen g) do
    let x ← readG a
    let s ← get
    writeG d (s.fix.stat.get 0 x.toNat)
    pure .seq

end Sys2Proof.Machine
end

