-- ==== Sys2Proof/Machine/Faults.lean ====
section
/-! DEFINITION. Walks, fault buffers, the plume tree, the fault service commands on translations, and the sink
watchdog and patrol scrubber (R46, R331 to R342, R348, R349). -/

namespace Sys2Proof.Machine

/-! ### Walks (R331, R333) -/

/-- Whether an agent still waits, in its context and with its generation, for a page that p holds of (R336); `fl` asks for one that is
blocked on a page fault (R385). -/
def State.waitsAt (s : State) (fl : Bool) (ctx : Nat) (p : Nat → Bool) : Agent → Bool
  | .slot k gen => (s.slot k).gen.toNat == gen && (s.slot k).faultWait.any fun w => w.ctx == ctx && p w.page && (!fl || w.faulted)
  | .engine c e k gen => match ((s.cell c).eng[engIx e]).cur with
    | some r => r.cmd.slot == k && r.cmd.gen.toNat == gen &&
        r.wait.any fun w => w.ctx == ctx && p w.page && (!fl || w.faulted)
    | none => false
  | .stream k gen r => match streamIx r with
    | some i =>
      let x := (s.slot k).streams[i]
      let a := (x.addr (x.pos + x.buf.length)).toNat
      (s.slot k).gen.toNat == gen && (s.slot k).ctx == ctx && x.mapped && x.blocked &&
        (!fl || x.faulted) && (p (pageOf a) || p (pageOf (a + x.bytes - 1)))
    | none => false

/-- Whether an agent still waits, for a walk or a fault, for a page that p holds of. -/
def State.waitsFor (s : State) (ctx : Nat) (p : Nat → Bool) (who : Agent) : Bool := s.waitsAt false ctx p who

/-- Whether an agent still waits for a page of a context (R336). -/
def State.waitsOn (s : State) (ctx page : Nat) (who : Agent) : Bool := s.waitsFor ctx (· == page) who

/-- The next walk in arrival order starts on the walker that has come free (R333). -/
def State.nextWalk (s : State) (cl : Nat) : State :=
  match (s.cluster cl).walkQueue with
  | [] => s
  | q :: rest => (s.modCluster cl fun c => { c with walkQueue := rest }).startWalk cl q

/-- WALK_COMPLETE: a leaf enters the second-level TLB and each TLB that asked (R331, R333, R335). -/
def execWalkComplete (cluster : Nat) (q : WalkReq) : Event := fun s =>
  match (s.cluster cluster).walks.find? fun w => sameWalk w q with
  | none => .next s
  | some w =>
    let s := s.modCluster cluster fun c => { c with walks := c.walks.filter fun x => !sameWalk x q }
    let (r, s) := s.walk w.ctx w.page
    let ws := w.agents.filter fun (x : Waiter) => s.waitsOn w.ctx w.page x.who
    let s := match r with
      | .leaf l =>
        let tlbs := (w.agents.map fun (x : Waiter) => (x.core, x.kind == 2)).dedup
        let s := tlbs.foldl (fun (s : State) (e : Nat × Bool) => s.installL1 e.1 e.2 l) (s.installL2 cluster l)
        ws.foldl (fun (s : State) (x : Waiter) => s.wake x.who) s
      | .fault level bad => ws.foldl (fun (s : State) (x : Waiter) => s.postFault cluster ⟨w.ctx, w.page, x.kind, level, bad⟩ x) s
      | .poison a => ws.foldl (fun (s : State) (x : Waiter) => s.poisonAgent x.who a) (s.walkSoft cluster a)
    .next (s.nextWalk cluster)

/-- SECOND_LEVEL_TLB_HIT: 24 cclk after the lookup the asking TLB has the translation, if the second level still
holds it (R333, R334). -/
def execSecondLevelTlbHit (core : Nat) (leaf : Leaf) (fetch : Bool) (who : Agent) : Event := fun s =>
  let s := if (s.cluster (clusterOf (cellOfCore core))).stlb.contains leaf then s.installL1 core fetch leaf else s
  .next (if s.waitsFor leaf.ctx (leafCovers leaf leaf.ctx) who then s.wake who else s)

/-- Cell whose write an agent makes. -/
def agentCell : Agent → Nat
  | .slot k _ => cellOf k
  | .engine c _ _ _ => c
  | .stream k _ _ => cellOf k

/-- FIX_FIELD_UPDATE: a compare-and-swap of the entry, and then of its TLB copies (R34, R332, R355). -/
def execFixFieldUpdate (cluster : Nat) (leaf : Leaf) (who : Agent) : Event := fun s =>
  match s.fixEntry cluster (s.cell (agentCell who)).fixNo leaf with
  | (some p, s) =>
    let s := s.walkSoft cluster p
    .next (if s.waitsFor leaf.ctx (leafCovers leaf leaf.ctx) who then s.poisonAgent who p else s)
  | (none, s) => .next (if s.waitsFor leaf.ctx (leafCovers leaf leaf.ctx) who then s.wake who else s)

/-! ### The plume tree (R337, R338) -/

/-- Routers of a die: leaf routers 0 to 7, the die router 8, and the root 9. -/
abbrev dieRouter : Nat := 8
abbrev plumeRoot : Nat := 9

def State.router (s : State) (die r : Nat) : Router := (s.die die).routers.get Router.reset r

def State.modRouter (s : State) (die r : Nat) (f : Router → Router) : State :=
  s.modDie die fun d => { d with routers := d.routers.set r (f (d.routers.get Router.reset r)) }

/-- The next router toward the root. -/
def above (r : Nat) : Nat := if r < 8 then dieRouter else plumeRoot

/-- CAUSE of a page fault or drop notice (R341). -/
def faultCause (f : PageFault) : Nat := f.level % 8 * 2 ^ 5 + if f.malformed then 16 else 0

/-- The report of a fault or drop notice at the root (R341, R388). -/
def State.faultReport (s : State) (die : Nat) (drop : Bool) (who : Nat) (f : PageFault) : State :=
  s.report die (if drop then 2 else 1) (faultCause f) f.ctx (placeLow who) (natW (f.page * 65536)) (natW f.kind)

/-- A message goes on from a router to the next one. -/
def State.plumeUp (s : State) (die r : Nat) (drop : Bool) (who : Nat) (f : PageFault) : State :=
  s.send clsFault (0x1000 + die * 16 + r) (0x1000 + die * 16 + above r)
    (msg (.plumeFaultMessage die (above r) r drop who f))

/-- A router takes a message: it merges a page that is pending, opens an entry for another, or holds the message
while its table is full; drop notices only pass (R337, R338). -/
def State.plumeTake (s : State) (die r child : Nat) (drop : Bool) (who : Nat) (f : PageFault) : State :=
  let on (s : State) : State := if r = plumeRoot then s.faultReport die drop who f else s.plumeUp die r drop who f
  if drop then on s
  else
    let x := s.router die r
    if x.pending.any fun p => p.ctx = f.ctx ∧ p.page = f.page then
      s.modRouter die r fun x => { x with pending := x.pending.map fun p =>
        if p.ctx = f.ctx ∧ p.page = f.page ∧ !p.ports.contains child then { p with ports := p.ports ++ [child] } else p }
    else if r ≠ plumeRoot ∧ 64 ≤ x.pending.length then
      s.modRouter die r fun x => { x with held := x.held ++ [⟨child, drop, who, f⟩] }
    else on (s.modRouter die r fun x => { x with pending := x.pending ++ [⟨f.ctx, f.page, [child]⟩] })

/-- PLUME_FAULT_MESSAGE (R337). -/
def execPlumeFaultMessage (die router child : Nat) (drop : Bool) (who : Nat) (f : PageFault) : Event := fun s =>
  .next (s.plumeTake die router child drop who f)

/-- A pending page leaves a router, whose held messages are then taken. -/
def State.plumeDrop (s : State) (die r : Nat) (gone : Pending → Bool) : State :=
  let held := (s.router die r).held
  let s := s.modRouter die r fun x => { pending := x.pending.filter fun p => !gone p, held := [] }
  held.foldl (fun (s : State) m => s.plumeTake die r m.child m.drop m.who m.fault) s

/-- A reply at a router: it goes down along the ports that it finds, and the entry is removed (R337). -/
def State.plumeDown (s : State) (die r ctx page : Nat) (declined : Bool) : State :=
  let mine (p : Pending) : Bool := p.ctx == ctx && p.page == page
  match (s.router die r).pending.find? mine with
  | none => s
  | some p =>
    let s := p.ports.foldl (fun (s : State) c =>
      if r < 8 then
        let cl := die * 64 + r * 8 + c
        s.send clsFault (0x1000 + die * 16 + r) cl (msg (.faultReplyArrival cl ctx page declined))
      else s.send clsFault (0x1000 + die * 16 + r) (0x1000 + die * 16 + c) (msg (.plumeReply die c ctx page declined))) s
    s.plumeDrop die r mine

/-- PLUME_REPLY (R337). -/
def execPlumeReply (die router ctx page : Nat) (declined : Bool) : Event := fun s =>
  .next (s.plumeDown die router ctx page declined)

/-! ### Replies at the clusters (R337 to R339, R346) -/

/-- A fault's reply reaches the saved slots that wait for it (R346). -/
def State.settleSaved (s : State) (ctx page : Nat) (declined : Bool) (ws : List Waiter) : State :=
  let mine (x : Saved) : Bool := x.st == 4 && x.slot.ctx == ctx && (x.slot.faultWait.any fun w => w.page == page) &&
    ws.any fun y => y.who == .slot x.key x.slot.gen.toNat
  (s.saved.filter mine).foldl (fun (s : State) x => s.modSaved x.key ctx fun y => { y with st := if declined then 6 else 5 }) s

/-- FAULT_REPLY_ARRIVAL (R337, R339, R346). -/
def execFaultReplyArrival (cluster ctx page : Nat) (declined : Bool) : Event := fun s =>
  let mine (e : FaultEntry) : Bool := e.fault.ctx == ctx && e.fault.page == page
  match (s.cluster cluster).faults.find? mine with
  | none => .next s
  | some e =>
    let who := (e.waiters.map fun w => w.who).filter (s.waitsAt true ctx (· == page))
    let s := s.modCluster cluster fun c => { c with
      faults := c.faults.filter fun e => !mine e
      stlb := if declined then c.stlb else c.stlb.filter fun l => !leafCovers l ctx page }
    let s := if (s.ctx ctx).out ∧ !declined then match s.walk ctx page with
        | (.leaf l, s) => s.installL2 cluster l
        | (.poison a, s) => s.walkSoft cluster a
        | (_, s) => s
      else s
    let s := s.settleSaved ctx page declined e.waiters
    .next (who.foldl (if declined then State.declineAgent else State.retryAgent) s)

/-- Agents of a cluster that are blocked on a page fault (R338). -/
def State.faultBlocked (s : State) (cl : Nat) : List Agent :=
  let here := s.slots.filter fun (e : Nat × Slot) => clusterOf (cellOf e.1) = cl
  let slots := (here.filter fun (e : Nat × Slot) => e.2.faultWait.any fun w => w.faulted).map fun (e : Nat × Slot) =>
    Agent.slot e.1 e.2.gen.toNat
  let streams := here.flatMap fun (e : Nat × Slot) => (List.finRange 8).filterMap fun i =>
    let x := e.2.streams[i]
    if x.mapped ∧ !x.writes ∧ x.blocked ∧ x.faulted then some (Agent.stream e.1 e.2.gen.toNat (streamReg i)) else none
  let engines := (List.range 4).flatMap fun i => [Eng.copy, .conv, .table, .matrix, .vector].filterMap fun e =>
    match ((s.cell (cl * 4 + i)).engine e).cur with
    | some r => if r.wait.any fun w => w.faulted then some (Agent.engine (cl * 4 + i) e r.cmd.slot r.cmd.gen.toNat) else none
    | none => none
  slots ++ streams ++ engines

/-- The command of a die's fault service core is acknowledged after a while. -/
def State.commandDone (s : State) (die : Nat) : State := s.send clsOwn 0 die (.step .fscmdComplete die)

/-- What is left of a fault entry when agents have left their faults, if any waiter is (R385). -/
def FaultEntry.without (gone : List Agent) (e : FaultEntry) : Option FaultEntry :=
  let ws := e.waiters.filter fun w => !gone.contains w.who
  if ws = [] then none else some { e with waiters := ws }

/-- REPLAYALL_ARRIVAL at the cluster that `cur` names (R338, R385). -/
def execReplayallArrival : Event := fun s =>
  let cl := s.cur
  let die := cl / 64
  let who := s.faultBlocked cl
  let s := s.modCluster cl fun c => { c with
    dropFlag := false, faults := c.faults.filterMap (FaultEntry.without who) }
  let s := who.foldl State.retryAgent s
  let s := s.modDie die fun d => { d with fsAcks := d.fsAcks - 1 }
  .next (if (s.die die).fsAcks = 0 then s.commandDone die else s)

/-! ### Fault service commands on translations (R342) -/

/-- REPLY: one that matches no pending entry at the root is discarded. -/
def execReply (die ctx page : Nat) (declined : Bool) : Event := fun s =>
  .next ((s.plumeDown die plumeRoot ctx page declined).commandDone die)

/-- REPLAYALL (R338). -/
def execReplayall (die : Nat) : Event := fun s =>
  let s := s.modDie die fun d => { d with fsAcks := 64 }
  .next ((List.range 64).foldl (fun (s : State) c =>
    s.send clsFault (0x1000 + die * 16 + plumeRoot) (die * 64 + c) (.step .replayallArrival (die * 64 + c))) s)

/-- Removes translations from every TLB of the part. -/
def State.dropLeaves (s : State) (gone : Leaf → Bool) : State :=
  { s with
    clusters := s.clusters.map fun c => (c.1, { c.2 with stlb := c.2.stlb.filter fun l => !gone l })
    cores := s.cores.map fun c =>
      (c.1, { c.2 with dtlb := c.2.dtlb.filter fun l => !gone l, itlb := c.2.itlb.filter fun l => !gone l }) }

/-- Whether a leaf maps a byte of `count` 64 KiB pages from `page` on; a count of 0 means every page (R342). -/
def leafIn (ctx page count : Nat) (l : Leaf) : Bool :=
  let p := pageOf l.vbase
  l.ctx == ctx && (count == 0 || (decide (p < page + count) && decide (page < p + leafBytes l / 65536)))

/-- INVAL (R334, R342). -/
def execInval (die ctx page count : Nat) : Event := fun s => .next ((s.dropLeaves (leafIn ctx page count)).commandDone die)

/-! ### Sink watchdog (R348) -/

/-- WAIT cause of a slot for a hang report (R148). -/
def Slot.causeCode (sl : Slot) : Nat :=
  match sl.run with
  | .wait c => c
  | .claimed _ => 7
  | _ => 0

/-- The byte of a core in a hang report: the cause of its lowest slot that is not FREE. -/
def State.hangByte (s : State) (core : Nat) : Nat :=
  match ((List.range 16).map fun i => s.slot (core * 16 + i)).find? fun sl => sl.run != .free with
  | some sl => sl.causeCode
  | none => 0

/-- SINK_WATCHDOG_EXPIRE of the cell that `cur` names (R348, R388). -/
def execSinkWatchdogExpire : Event := fun s =>
  let cell := s.cur
  let b (r : Nat) : Nat := s.hangByte (cell * 3 + r)
  .next ((s.modCell cell fun c => { c with wdogCount := 0 }).report (dieOf cell) 7 0 0 cell 0
    (natW (b 0 + b 1 * 256 + b 2 * 65536)))

/-! ### Patrol scrubbing (R46) -/

/-- Doublewords of the HBM, and of HBM and vaults together. -/
abbrev hbmDwords : Nat := 0x6000000000 / 8
abbrev scrubDwords : Nat := hbmDwords + 1024 * 0x800000 / 8

/-- Number of the doubleword that the scrubber reads i-th in its period. -/
def scrubWord (i : Nat) : Nat := if i < hbmDwords then i else (vaultBase + 8 * (i - hbmDwords)) / 8

/-- PATROL_SCRUB: the next word is read and, if it has an error, written back corrected (R45, R46, R349). -/
def execPatrolScrub : Event := fun s =>
  let w := scrubWord s.part.scrubAt
  let s := s.modPart fun p => { p with scrubAt := p.scrubAt + 1 }
  if s.soft.contains w then
    let s := s.correct w
    .next { s with soft := s.soft.filter (· ≠ w) }
  else .next s

end Sys2Proof.Machine
end

