-- ==== Sys2Proof/Machine/Contexts.lean ====
section
/-! DEFINITION. Contexts taken off the cores, put back, and torn down (R123, R259, R327, R344 to R347). -/

namespace Sys2Proof.Machine

/-! ### Which slots can be saved (R344, R345) -/

/-- Whether a queued `mma` of a slot has not started, or, where `running` asks so, has not finished. -/
def State.mmaQueued (s : State) (running : Bool) (k : Nat) : Bool :=
  let mine (c : Cmd) : Bool := c.slot == k && match c.op with
    | .mma _ _ _ _ _ _ _ => true
    | _ => false
  let y := (s.cell (cellOf k)).engine .matrix
  y.queue.any mine || (running && y.cur.any fun r => mine r.cmd && r.cmd.gen == (s.slot k).gen) ||
    s.savedEng.any fun (x : SavedEngine) => x.cell == cellOf k && x.cmds.any fun c => mine c && c.gen == (s.slot k).gen

/-- Whether a slot waits in `spref` for a stream whose refill is blocked on a page fault. -/
def Slot.prefetchBlocked (sl : Slot) : Bool :=
  match sl.pend with
  | .prefetch i => (sl.streams[(⟨i % 8, Nat.mod_lt _ (by decide)⟩ : Fin 8)]).blocked
  | _ => false

/-- Whether an instruction that left the rotation may be saved without its reply: it waits for a barrier, for a
translation before it goes on, for a refill that a page fault blocks, or for a command that has not started (R344). -/
def State.waitsLoose (s : State) (k : Nat) (sl : Slot) : Bool :=
  match sl.pend with
  | .none => true
  | .bar _ _ => true
  | .retry => true
  | .plain => sl.run == .wait wExec && s.mmaQueued false k
  | _ => sl.prefetchBlocked

/-- Whether a slot runs work that a switch-out or teardown waits for: a transaction role, or, for a switch-out, an
active-message handler. -/
def Work.awaited (handlers : Bool) : Work → Bool
  | .role _ _ => true
  | .handler _ => handlers
  | _ => false

/-- Saved state and WAIT cause of a slot, once it can be saved (R344, R345). -/
def State.saveState (s : State) (k : Nat) : Option (Nat × Nat) :=
  let sl := s.slot k
  let faulted := sl.faultWait.any fun w => w.faulted
  if Work.awaited true sl.work || sl.ending || sl.fork.isSome || !sl.drained then none
  else match sl.run with
    | .run => some (1, 0)
    | .wait c => if faulted then some (4, c) else if s.waitsLoose k sl then some (2, c) else none
    | _ => none

/-- A slot's read streams keep only their positions (R144); what its pending instruction has read is still to be taken. -/
def Slot.dropStreams (sl : Slot) : Slot :=
  { sl with streams := sl.streams.map fun x => { x with buf := [], filling := false, blocked := false, faulted := false } }

/-- What stays in a slot that a switch-out frees. -/
def Slot.vacated (sl : Slot) : Slot :=
  { Slot.reset with gen := sl.gen, spInit := sl.spInit, tpInit := sl.tpInit, amBudget := sl.amBudget, grp := sl.grp }

/-- SWOUT_SAVE of the slot that `cur` names (R344, R345). -/
def execSwoutSave : Event := fun s =>
  let k := s.cur
  let sl := s.slot k
  match s.swoutOf sl.ctx, s.saveState k with
  | some o, some (st, cause) =>
    let x : Saved := ⟨k, o.area, st, cause, sl.dropStreams⟩
    let s := (s.disown k).modCell (cellOf k) fun c => c.leaveQueues k
    let s := { s with saved := s.saved ++ [x] }.writeImage x
    .next (s.modSlot k Slot.vacated)
  | _, _ => .next s

/-! ### Engine commands (R136, R259, R344) -/

/-- Whether a copy command in progress stands at a strip boundary. -/
def Running.stops (r : Running) : Bool := r.missing == [] && r.acks == 0 && r.paid == 0

/-- A copy command at its next strip. -/
def Running.resumed (r : Running) : Running := { r with latch := [], used := 0, wait := none, declined := false, walkPoison := none }

/-- Whether what is saved of an engine is that of a context, cell and engine. -/
def SavedEngine.isOf (x : SavedEngine) (ctx cell eng : Nat) : Bool := x.ctx == ctx && x.cell == cell && x.eng == eng

/-- Whether a command belongs to a handler that still runs, which ends before its context leaves (R344). -/
def State.handlerCmd (s : State) (c : Cmd) : Bool :=
  let sl := s.slot c.slot
  sl.gen == c.gen && sl.run != .free && match sl.work with
    | .handler _ => true
    | _ => false

/-- Takes a context's commands out of one engine, behind those that it has saved already. -/
def State.saveEngine (s : State) (ctx cell : Nat) (e : Eng) : State :=
  let y := (s.cell cell).engine e
  let takes (c : Cmd) : Bool := c.ctx == ctx && !s.roleCmd c && !s.handlerCmd c
  let mine : List Cmd := y.queue.filter takes
  let stop : Option Running := match e, y.cur with
    | .copy, some r => if takes r.cmd && r.stops then some (Running.resumed r) else none
    | _, _ => none
  if mine = [] ∧ stop.isNone then s
  else
    let s := s.modCell cell fun c => c.modEng (engIx e) fun y =>
      { queue := y.queue.filter fun c => !takes c, cur := if stop.isSome then none else y.cur }
    let was := s.savedEng.find? fun (x : SavedEngine) => x.isOf ctx cell (engIx e).val
    let x : SavedEngine := ⟨ctx, cell, (engIx e).val, (was.map fun y => y.cmds).getD [] ++ mine,
      stop.orElse fun _ => was.bind fun y => y.resume⟩
    { s with savedEng := (s.savedEng.filter fun (y : SavedEngine) => !y.isOf ctx cell (engIx e).val) ++ [x] }

/-- The engines of a cell, in the order of R131. -/
def allEngines : List Eng := [.copy, .conv, .table, .matrix, .vector]

/-- Takes a context's commands out of every engine. -/
def State.saveEngines (s : State) (ctx : Nat) : State :=
  (s.cells.map (·.1)).foldl (fun (s : State) c => allEngines.foldl (fun (s : State) e => s.saveEngine ctx c e) s) s

/-- Writes n doublewords whose values the manual does not give. -/
def State.freeFill (a : Nat) : Nat → State → State
  | 0, s => s
  | n + 1, s =>
    let (w, s) := s.freeWord
    (s.physWrite s.fix.no 0 ((addrsFrom a 8).zip (leBytes 8 w.toNat))).freeFill (a + 8) n

/-- The parts of a save area that a switch-out leaves nothing in: the state 0 of a slot that is not saved, and the count of an
engine that had no command (R345). -/
def State.writeBlanks (s : State) (ctx area : Nat) : State :=
  let zero (s : State) (a : Nat) : State := s.physWrite s.fix.no 0 ((addrsFrom a 8).zip (leBytes 8 0))
  let s := ((List.range 46080).filter fun j => !s.saved.any fun (x : Saved) => x.isOf (j / 15 * 16 + j % 15) ctx).foldl
    (fun (s : State) j => zero s (area + j * 1024 + 0x158)) s
  ((List.range 5120).filter fun j => !s.savedEng.any fun (x : SavedEngine) => x.isOf ctx (j / 5) (j % 5)).foldl
    (fun (s : State) j => zero s (area + 0x2D00000 + 4096 * (j / 5) + 520 * (j % 5))) s

/-- The engine image of one engine: its count, and commands and resume state in a form that the manual leaves open
(R345). -/
def State.writeEngine (s : State) (area : Nat) (x : SavedEngine) : State :=
  let a := area + 0x2D00000 + 4096 * x.cell + 520 * x.eng
  let s := s.physWrite s.fix.no 0 ((addrsFrom a 8).zip (leBytes 8 x.cmds.length))
  let s := State.freeFill (a + 8) (8 * x.cmds.length) s
  if x.resume.isSome then State.freeFill (area + 0x2D00000 + 4096 * x.cell + 2600) 9 s else s

/-- Whether an engine still runs a command of a context. -/
def State.enginesRun (s : State) (ctx : Nat) : Bool :=
  s.cells.any fun (e : Nat × Cell) => allEngines.any fun g => match (e.2.engine g).cur with
    | some r => r.cmd.ctx == ctx
    | none => false

/-- Whether an engine has a command of a context queued. -/
def State.enginesHold (s : State) (ctx : Nat) : Bool :=
  s.cells.any fun (e : Nat × Cell) => allEngines.any fun g => (e.2.engine g).queue.any fun c => c.ctx == ctx

/-- Saved commands re-enter their queues ahead of new ones; a copy command resumes when the engine is idle
(R136, R259, R346). -/
def State.restoreEngine (s : State) (x : SavedEngine) : State :=
  let e := engOf x.eng
  let y := (s.cell x.cell).engine e
  if x.resume.isSome ∧ y.cur.isSome then s
  else
    let s := s.modCell x.cell fun c => c.modEng (engIx e) fun y =>
      { queue := x.cmds ++ y.queue
        cur := match x.resume with
          | some r => some { r with due := s.cycle + 1 }
          | none => y.cur }
    { s with savedEng := s.savedEng.filter (· ≠ x) }

/-- Saved commands of a context, the last saved first so that they end in queue order. -/
def State.restoreEngines (s : State) (ctx : Nat) : State :=
  ((s.savedEng.filter fun (x : SavedEngine) => x.ctx == ctx).reverse).foldl State.restoreEngine s

/-! ### SWOUT and SWIN (R344 to R346) -/

/-- SWOUT. -/
def execSwout (die ctx area : Nat) : Event := fun s =>
  let s := s.modCtx ctx fun c => { c with out := true }
  .next { s with ctxOps := s.ctxOps ++ [⟨3, ctx, area, die, []⟩] }

/-- SWIN. -/
def execSwin (die ctx area : Nat) : Event := fun s =>
  let ks := (s.saved.filter fun x => x.slot.ctx == ctx).map fun x => x.key
  .next { s with ctxOps := s.ctxOps ++ [⟨4, ctx, area, die, ks⟩] }

/-- Whether any slot holds work of a context. -/
def State.slotsHold (s : State) (ctx : Nat) : Bool := s.slots.any fun (e : Nat × Slot) => !isFsc (coreOf e.1) && e.2.runs ctx

/-- Whether a context has a dispatched transaction. -/
def State.txnsRun (s : State) (ctx : Nat) : Bool :=
  s.seq.txns.any fun (t : Txn) => t.sub.ctx == ctx && t.stage == .dispatched

/-- Whether a walk for a context is in progress or queued. -/
def State.walksRun (s : State) (ctx : Nat) : Bool :=
  s.clusters.any fun (c : Nat × Cluster) => (c.2.walks ++ c.2.walkQueue).any fun w => w.ctx == ctx

/-- Whether an inbox holds a message of a context that is still to be discarded (R327). -/
def State.inboxesHold (s : State) (ctx : Nat) : Bool :=
  s.cores.any fun (c : Nat × Core) => (c.2.inbox ++ c.2.arriving).any fun m => msgCtx m.msg == ctx

/-- Whether an operation on a context is done. -/
def State.opDone (s : State) (o : CtxOp) : Bool :=
  match o.kind with
  | 3 => o.left != [] && !s.slotsHold o.ctx && !s.enginesRun o.ctx && !s.enginesHold o.ctx && !s.txnsRun o.ctx
  | 4 => o.left == [] && !s.savedEng.any fun (x : SavedEngine) => x.ctx == o.ctx
  | _ => o.left == [] && !s.slotsHold o.ctx && !s.enginesRun o.ctx && !s.enginesHold o.ctx && !s.walksRun o.ctx &&
    !s.inboxesHold o.ctx &&
    !(s.seq.waiting.any fun x => x.ctx == o.ctx) &&
    !(s.seq.txns.any fun (t : Txn) => t.sub.ctx == o.ctx &&
      (t.stage == .accepted || t.stage == .numbered || t.stage == .dispatched))

/-- FSCMD_COMPLETE at the die that `cur` names (R342): a switch-out's images have been written, and a context that
has been switched in takes work again. -/
def execFscmdComplete : Event := fun s =>
  let die := s.cur
  let s := match s.ctxOps.find? fun o => o.die == die && (o.kind == 3 || o.kind == 4) with
    | none => s
    | some o =>
      let s := if o.kind = 3 then
          (s.savedEng.filter fun (x : SavedEngine) => x.ctx == o.ctx).foldl (fun (s : State) x => s.writeEngine o.area x)
            (s.writeBlanks o.ctx o.area)
        else s.modCtx o.ctx fun c => { c with out := false }
      { s with ctxOps := s.ctxOps.filter (· ≠ o) }
  .next (s.modDie die fun d => { d with busy := false })

/-- A slot as its record in a save area gives it; what the record does not hold stays as it was saved (R345). -/
def Slot.ofRecord (sl : Slot) (bs : List Byte) : Slot :=
  let w (o : Nat) : Word := natW (leNat ((bs.drop o).take 8))
  let bit (o n : Nat) : Bool := bitOf (w o) n
  { sl with
    pc := w 0, regs := Vector.ofFn fun i : Fin 32 => if i = 0 then 0 else w (8 * i.val)
    pw := (w 0x100).truncate 16 ||| 1, fmode := maskFmode (natW (slice (w 0x100) 63 32))
    lc0 := w 0x108, lb0 := w 0x110, le0 := w 0x118, lc1 := w 0x120, lb1 := w 0x128, le1 := w 0x130
    trapPc := w 0x138, trapCause := w 0x140, trapVal := w 0x148, estat := w 0x150, inTrap := bit 0x158 8
    gen := BitVec.ofNat 16 (slice (w 0x158) 31 16)
    mbWord := Vector.ofFn fun i : Fin 4 => w (0x160 + 8 * i.val)
    mbCount := Vector.ofFn fun i : Fin 4 => BitVec.ofNat 16 ((w 0x180).toNat / 2 ^ (16 * i.val))
    grp := Vector.ofFn fun i : Fin 4 => BitVec.ofNat 9 ((w 0x188).toNat / 2 ^ (9 * i.val))
    issues := w 0x190, spInit := w 0x198, tpInit := w 0x1A0, amBudget := w 0x1A8
    fdata := lineOfBytes ((bs.drop 0x1B0).take 64)
    streams := Vector.ofFn fun i : Fin 8 =>
      let a := 0x200 + 48 * i.val
      { sl.streams[i] with
        dw0 := w a, dw1 := w (a + 8), dw2 := w (a + 16), dw3 := w (a + 24), dw4 := w (a + 32), dw5 := w (a + 40)
        pos := (w (0x380 + 8 * i.val)).toNat, mapped := bit 0x3C0 i.val, done := bit 0x3C0 (8 + i.val) } }

/-- How a restored slot resumes (R346): its saved state as the record holds it; one whose `mma` has finished before it was
restored goes on at once (R255). -/
def State.resumeSlot (s : State) (k st : Nat) (sl : Slot) : State :=
  let again (sl : Slot) : Slot := { sl with run := .run, pend := .none, faultWait := none, latch := [] }
  match st, sl.pend with
  | 7, _ => s.setSlot k { sl with run := .run, pend := .none, faultWait := none }
  | 6, _ => (s.setSlot k { sl with faultWait := none }).declineSlot k
  | _, .none => s.setSlot k { sl with run := .run, faultWait := none }
  | _, .retry => s.setSlot k (again sl)
  | 2, .plain =>
    let s := s.setSlot k sl
    if s.mmaQueued true k then s else s.thenDo (.memoryReplyArrival k .done) 0
  | 2, _ => s.setSlot k sl
  | _, _ => (s.setSlot k { sl with run := .wait wMem, faultWait := none }).thenDo (.memoryReplyArrival k .done) 0

/-- SWIN_RESTORE of the slot that `cur` names (R346). -/
def execSwinRestore : Event := fun s =>
  let k := s.cur
  match s.ctxOps.find? fun o => o.kind == 4 && o.left.contains k with
  | none => .next s
  | some o => match s.saved.find? fun (x : Saved) => x.isOf k o.ctx with
  | none => .next s
  | some x =>
    if (s.slot k).run ≠ .free then .next s
    else
      let (bs, s) := s.physRead s.fix.no 0 (addrsFrom ({ x with area := o.area } : Saved).at_ 1024)
      let st := leNat ((bs.drop 0x158).take 8) % 8
      let s := { s with
        saved := s.saved.filter fun (y : Saved) => !y.isOf k o.ctx
        ctxOps := s.ctxOps.map fun p => if p = o then { p with left := p.left.filter (· ≠ k) } else p }
      .next (s.resumeSlot k st (x.slot.ofRecord bs))

/-! ### Teardown (R327, R347) -/

/-- Discards a context's pending faults at clusters and routers, which then take the messages that they held for want of room,
and its fault messages on their way; engine operations that wait for one end as if it were declined (R337, R347). -/
def State.dropFaults (s : State) (ctx : Nat) : State :=
  let keep (x : Flight) : Bool := match x.parcel with
    | .step (.plumeFaultMessage _ _ _ _ _ f) _ => f.ctx != ctx
    | .step (.plumeReply _ _ c _ _) _ => c != ctx
    | .step (.faultReplyArrival _ c _ _) _ => c != ctx
    | _ => true
  let s := { s with
    clusters := s.clusters.map fun (c : Nat × Cluster) => (c.1, { c.2 with faults := c.2.faults.filter fun e => e.fault.ctx != ctx })
    dies := s.dies.map fun (d : Nat × Die) => (d.1, { d.2 with routers := d.2.routers.map fun (r : Nat × Router) =>
      (r.1, { r.2 with held := r.2.held.filter fun m => m.fault.ctx != ctx }) })
    sched := { s.sched with flight := s.sched.flight.filter keep } }
  let s := s.dies.foldl (fun (s : State) (d : Nat × Die) => d.2.routers.foldl (fun (s : State) (r : Nat × Router) =>
    if r.2.pending.any fun p => p.ctx == ctx then s.plumeDrop d.1 r.1 fun p => p.ctx == ctx else s) s) s
  let ends (r : Running) : Running :=
    if r.cmd.ctx == ctx && r.wait.any (fun w => w.faulted) then { r with wait := none, declined := true } else r
  { s with cells := s.cells.map fun (c : Nat × Cell) => (c.1, { c.2 with eng := c.2.eng.map fun y => { y with cur := y.cur.map ends } }) }

/-- Discards a context's commands that have not started: their tiles are held no more, and those they were to fill
are EMPTY (R347). -/
def State.dropCommands (s : State) (ctx : Nat) : State :=
  (s.cells.map (·.1)).foldl (fun (s : State) cell => allEngines.foldl (fun (s : State) e =>
    let gone := ((s.cell cell).engine e).queue.filter fun c => c.ctx == ctx
    if gone = [] then s
    else
      let s := s.modCell cell fun c => c.modEng (engIx e) fun y => { y with queue := y.queue.filter fun c => c.ctx != ctx }
      gone.foldl (fun (s : State) (c : Cmd) => s.modCell cell fun y =>
        (y.setTiles (c.dsts.filter (s.tileHeld c)) fun t => { t with state := .empty }).setTiles
          (c.srcs.filter (s.tileHeld c)) fun t => { t with hold := t.hold - 1 }) s) s) s

/-- What a teardown does at once and again at every rotation boundary until it is done: undispatched transactions
are withdrawn, faults, translations and commands go. -/
def State.tearSweep (s : State) (die ctx : Nat) : State :=
  let s := match execSequencerWithdrawal ((3072 + die) * 16) 0 0 ctx { s with cur := 0 } with
    | .next s' => { s' with cur := s.cur }
    | _ => s
  ((s.dropFaults ctx).dropLeaves fun l => l.ctx == ctx).dropCommands ctx

/-- TEARDOWN (R347). -/
def execTeardown (die ctx : Nat) : Event := fun s =>
  let s := s.modCtx ctx fun c => { c with tearing := true }
  let op : CtxOp := ⟨5, ctx, 0, die, List.range 3072⟩
  let s := State.tearSweep { s with ctxOps := s.ctxOps ++ [op] } die ctx
  .next ((List.range 3072).foldl (fun (s : State) c =>
    s.send clsTask (0x10000 + die) c (msg (.teardownArrival c ctx))) s)

/-- A teardown reaches a core: what it removes from the inbox and the launch FIFO. -/
def Core.tear (c : Core) (ctx : Nat) : Core :=
  let gone := c.inbox.filter fun m => msgCtx m.msg == ctx
  let c := if c.tears.any fun x => x.ctx = ctx then c else { c with tears := c.tears ++ [⟨ctx, 0, 0⟩] }
  let c := gone.foldl (fun (c : Core) m => c.countGone m.msg) c
  let n := (c.fifo.filter fun t => t.ctx == ctx).length
  { c.countTear ctx n 0 with
    inbox := c.inbox.filter fun m => msgCtx m.msg != ctx, fifo := c.fifo.filter fun t => t.ctx != ctx }

/-- Counter tasks of a context bound in a cell. -/
def Counter.boundTo (x : Counter) (ctx : Nat) : Bool := x.bound.any fun b => b.2.2.ctx == ctx

/-- TEARDOWN_ARRIVAL at a core's dispatcher (R327). -/
def execTeardownArrival (core ctx : Nat) : Event := fun s =>
  let cell := cellOfCore core
  let s := s.modCore core fun c => c.tear ctx
  let (n, s) := s.filterQueues core fun t => t.ctx == ctx
  let m := ((s.cell cell).dc.filter fun e => e.2.boundTo ctx).length
  let unbind (e : Nat × Counter) : Nat × Counter :=
    if e.2.boundTo ctx then (e.1, { e.2 with bound := none }) else e
  let s := s.modCell cell fun c => { c with dc := c.dc.map unbind }
  let s := s.modCore core fun c => c.countTear ctx 0 (n + m)
  .next { s with ctxOps := s.ctxOps.map fun o =>
    if o.kind = 5 ∧ o.ctx = ctx then { o with left := o.left.filter (· ≠ core) } else o }

/-- Whether a slot of a torn-down context ends at this boundary: no reply is outstanding (R347). -/
def State.tearable (s : State) (k : Nat) (sl : Slot) : Bool :=
  !Work.awaited false sl.work && !sl.ending && sl.fork.isNone &&
  match sl.run with
  | .run => true
  | .wait _ => sl.faultWait.isSome || sl.prefetchBlocked || s.waitsLoose k sl || (sl.pend == .plain && sl.run == .wait wExec &&
      !((s.cell (cellOf k)).engine .matrix).cur.any fun r => r.cmd.slot == k)
  | _ => false

/-- TEARDOWN_COMPLETE of the teardown that the die that `cur` names issued: for each core the report of what it
discarded (R327, R347, R388). -/
def execTeardownComplete : Event := fun s =>
  let die := s.cur
  match s.ctxOps.find? fun o => o.kind == 5 && o.die == die with
  | none => .next s
  | some o =>
    let s := (List.range 3072).foldl (fun (s : State) c =>
      let x := ((s.core c).tears.find? fun x => x.ctx = o.ctx).getD ⟨o.ctx, 0, 0⟩
      let s := s.report die 8 0 o.ctx (placeLow (c * 16)) 0 (natW (x.launches * 2 ^ 32 + x.tasks))
      s.modCore c fun c => { c with tears := c.tears.filter fun x => x.ctx ≠ o.ctx }) s
    let s := ((s.dropFaults o.ctx).dropLeaves fun l => l.ctx == o.ctx).modCtx o.ctx fun c => { c with tearing := false }
    .next ({ s with ctxOps := s.ctxOps.filter (· ≠ o) }.commandDone die)

/-! ### Rotation boundaries -/

/-- What the operations on contexts do at a rotation boundary (R344, R346, R347). -/
def State.opBoundary (s : State) (o : CtxOp) : State :=
  match o.kind with
  | 3 =>
    let s := if o.left = [] then { s with ctxOps := s.ctxOps.map fun p => if p = o then { p with left := [1] } else p } else s
    let s := s.saveEngines o.ctx
    let ks := (s.slots.filter fun (e : Nat × Slot) => !isFsc (coreOf e.1) && e.2.runs o.ctx && (s.saveState e.1).isSome).map fun (e : Nat × Slot) => e.1
    ks.foldl (fun (s : State) k => s.thenDo .swoutSave k) s
  | 4 => (o.left.filter fun k => (s.slot k).run == .free).foldl (fun (s : State) k => s.thenDo .swinRestore k) s
  | _ =>
    let s := s.tearSweep o.die o.ctx
    let ks := (s.slots.filter fun (e : Nat × Slot) => !isFsc (coreOf e.1) && e.2.runs o.ctx && s.tearable e.1 e.2).map fun (e : Nat × Slot) => e.1
    ks.foldl (fun (s : State) k => s.endWork k) s

/-- Whether a switch-out or teardown that has reached the cores keeps a slot from issuing (R344, R347). -/
def State.opHolds (s : State) (k : Nat) : Bool :=
  let sl := s.slot k
  !isFsc (coreOf k) && s.ctxOps.any fun o => o.ctx == sl.ctx && match o.kind with
    | 3 => o.left != [] && !Work.awaited true sl.work
    | _ => false

end Sys2Proof.Machine
end

