-- ==== Sys2Proof/Machine/Fixes.lean ====
section
/-! DEFINITION. Fixes: their course, the cut of a cell, the manifest, completion, failure and rollback
(R34, R350 to R359). -/

namespace Sys2Proof.Machine

/-! ### Phases 1 to 3 (R351) -/

/-- FIX_START_RECEIVE at the sequencer: on part 0 it is the coordinator's own start or one that another part asks
for, which has seen every cut of the fix in progress; elsewhere it is the coordinator's (R350, R351). -/
def execFixStartReceive (no : Nat) : Event := fun s =>
  .next (
    if s.link.pod.k = 0 then
      if s.fix.active ∧ s.fix.phase = 0 ∧ no = s.fix.want then s.fixBegin no
      else if no ≤ s.fix.want then s
      else if s.fix.active then s.modFix fun f => { f with queued := true }
      else s.fixCoordinate
    else if no ≤ s.fix.want then s
    else if s.fix.active then s.modFix fun f => { f with queued := true }
    else s.fixBegin no)

/-- Whether every part has reported to the coordinator. -/
def State.fixBoundDue (s : State) : Bool :=
  s.link.pod.k == 0 && s.fix.active && s.fix.phase == 2 && s.fix.reports.length == s.link.pod.n

/-- The bound of a fix: 256 · G, with G = N · max b_k (R351). -/
def fixBoundOf (n : Nat) (reports : List (Nat × Nat)) : Nat := n * (reports.map (·.2)).foldl max 0 * 256

/-- FIX_BOUND_SET (R351). -/
def execFixBoundSet : Event := fun s =>
  if !s.fixBoundDue then .next s
  else
    let b := fixBoundOf s.link.pod.n s.fix.reports
    .next (((s.broadcast (.fixBound s.fix.want b)).modFix fun f => { f with reports := [] }).send clsLock seqChan seqChan
      (msg (.fixBoundReceive s.fix.want b)))

/-- FIX_BOUND_RECEIVE (R351). -/
def execFixBoundReceive (no bound : Nat) : Event := fun s =>
  .next (if s.fix.active ∧ s.fix.phase = 2 ∧ no = s.fix.want then s.modFix fun f => { f with phase := 3, next := bound }
    else s)

/-! ### Phases 4 and 5: the walk and fix go (R351) -/

/-- 64 KiB pages that an entry of a level maps, and entries of a table of a level (R329). -/
def levelSpan : Nat → Nat
  | 0 => 2 ^ 32
  | 1 => 2 ^ 23
  | 2 => 2 ^ 14
  | 3 => 2 ^ 5
  | _ => 1

def levelCount : Nat → Nat
  | 0 => 256
  | 4 => 32
  | _ => 512

/-- Leaves below a table of a level whose first page is `page`. -/
def State.tableLeaves (s : State) (ctx : Nat) : Nat → Nat → Nat → Nat → List Leaf
  | 0, _, _, _ => []
  | fuel + 1, level, table, page =>
    if placeOf table ≠ .hbm then []
    else (List.range (levelCount level)).flatMap fun i =>
      let a := table + 16 * i
      let dw0 := natW (s.physNat a 8)
      let p := page + i * levelSpan level
      if !bitOf dw0 0 then []
      else if slice dw0 9 8 = 3 then
        if level = 4 then [] else s.tableLeaves ctx fuel (level + 1) (localAddr (slice dw0 59 12 * 4096)) p
      else if slice dw0 9 8 = leafSizeAt level then [⟨ctx, p * 65536, dw0, natW (s.physNat (a + 8) 8), a⟩]
      else []

/-- Leaves of every page table of the part, each entry once. -/
def State.allLeaves (s : State) : List Leaf :=
  let all := (s.ctxs.filter fun (c : Nat × Context) => c.2.root ≠ 0).flatMap fun (c : Nat × Context) =>
    s.tableLeaves c.1 5 0 (localAddr (slice c.2.root 59 12 * 4096)) 0
  all.foldl (fun ls l => if ls.any fun x => x.entryAt = l.entryAt then ls else ls ++ [l]) []

/-- A leaf with its FIX field replaced. -/
def withFix (v : Nat) (l : Leaf) : Leaf := { l with dw0 := setSlice l.dw0 13 12 v }

/-- Changes FIX of an entry and of its copies in every TLB. -/
def State.putFixField (s : State) (l : Leaf) (v : Nat) : State :=
  let f (t : List Leaf) : List Leaf := t.map fun x => if x.entryAt = l.entryAt then withFix v x else x
  let s := s.putFixDword l.entryAt (withFix v l).dw0.toNat
  { s with
    clusters := s.clusters.map fun (c : Nat × Cluster) => (c.1, { c.2 with stlb := f c.2.stlb })
    cores := s.cores.map fun (c : Nat × Core) => (c.1, { c.2 with dtlb := f c.2.dtlb, itlb := f c.2.itlb }) }

/-- What the walk of a fix does to one leaf: held-copy → clean, and written-since-fix → held-copy, with a manifest
entry. -/
def State.fixLeaf (s : State) (l : Leaf) : State :=
  match lFix l with
  | 1 => (s.putFixField l 2).manifestPut (withFix 2 l)
  | 2 => s.putFixField l 0
  | _ => s

/-- Whether this part has closed its batches up to the bound. -/
def State.fixGoDue (s : State) : Bool :=
  s.fix.active && s.fix.phase == 3 && decide (s.fix.next / 256 / s.link.pod.n ≤ s.seq.batch)

/-- FIX_GO (R351). -/
def execFixGo : Event := fun s =>
  if !s.fixGoDue then .next s
  else
    let s := s.allLeaves.foldl State.fixLeaf (s.modFix fun f => { f with manifest := 0 })
    let s := s.modFix fun f => { f with
      no := f.want, bound := f.next, phase := 6, started := s.cycle
      images := f.images ++ [⟨f.want, f.next, [], s.part.groups, []⟩] }
    .next ((List.range 1024).foldl (fun (s : State) c => s.send clsFix 0x5000 c (.step .fixGoArrival c)) s)

/-- FIX_GO_ARRIVAL at the cell that `cur` names (R352). -/
def execFixGoArrival : Event := fun s =>
  .next (if s.fix.active ∧ (s.cell s.cur).fixNo < s.fix.no then s.beginCut s.cur else s)

/-! ### The cut (R352, R353) -/

/-- Slot keys of a cell. -/
def slotsOfCell (cell : Nat) : List Nat := (List.range 48).map (cell * 48 + ·)

/-- Whether a cell that has begun its cut may take it at this boundary. -/
def State.cutReady (s : State) (cell : Nat) : Bool :=
  let c := s.cell cell
  s.fix.active && s.fix.phase == 6 && c.cutBegun && decide (c.fixNo < s.fix.no) &&
  c.eng.toList.all (fun e => e.cur.isNone && e.queue.isEmpty) &&
  ((slotsOfCell cell).all fun k => (s.slot k).drained) && s.orphans.all fun (e : Nat × Nat × Slot) => cellOf e.2.1 != cell

/-- The state that goes on, or the one before where a meaning stops. -/
def nextOr (s : State) : Host.Outcome State Fault Refusal → State
  | .next s => s
  | _ => s

/-- A slot that waits for a fix's cut has it: gD takes the fix's number (R294, R353). -/
def State.fixDone (s : State) (k : Nat) : State :=
  match (s.slot k).pend with
  | .fix d no => if no ≤ s.fix.no then nextOr s (s.complete k (.write d (natW no)) (writeG d (natW no))) else s
  | _ => s

/-- State of 0x158 and contents under which a slot is captured; none for FREE (R353). -/
def Slot.captured (sl : Slot) : Option (Nat × Slot) :=
  if Work.awaited false sl.work || sl.ending then none
  else
    let x := sl.dropStreams
    match sl.run with
    | .run => some (1, x)
    | .wait _ =>
      if sl.faultWait.any fun w => w.faulted then some (4, x)
      else if x.fork.isSome then some (3, x)
      else match sl.pend with
        | .none => some (2, x)
        | .bar .. => some (2, x)
        | .retry => some (2, x)
        | .hold .. => some (2, x)
        | _ => some (3, x)
    | _ => none

/-- Queues of a core that a fix captures, without what was sent after the cut (R353, R354). -/
def Core.captured (c : Core) (no : Nat) : Core :=
  { Core.reset with
    fifo := c.fifo, q := c.q, ringHead := c.ringHead, ringCount := c.ringCount
    inbox := (c.inbox ++ c.arriving).filter fun m => decide (m.fixCount < no)
    amIn := c.amIn.filter fun m => decide (m.fixCount < no) }

/-- The image of a cell. -/
def State.cellImage (s : State) (cell : Nat) : CellImage :=
  let c := s.cell cell
  { cell := cell
    slots := (slotsOfCell cell).filterMap fun k => ((s.slot k).captured).map fun (e : Nat × Slot) => (k, e.1, e.2)
    tiles := Vector.ofFn fun i : Fin 64 => if i.val < 32 then c.tiles[i] else Tile.reset
    sem := c.sem, dc := c.dc, interp := c.interp
    cores := (List.range 3).map fun r => (cell * 3 + r, (s.core (cell * 3 + r)).captured s.fix.no)
    log := [] }

/-- Base of the image area of a fix (R357). -/
def State.imageArea (s : State) (no : Nat) : Nat :=
  localAddr (s.fixDword (s.fixArea + 64 + 8 * (no % 2))) / 65536 * 65536

/-- Writes n doublewords of a fix image whose values the manual does not give. -/
def State.freeHome (s : State) (a n : Nat) : State :=
  let (bs, s) := State.freeBytes n s
  s.putHome ((addrsFrom a (8 * n)).zip bs)

/-- Writes a cell's image to the image area: slot records, engine records without commands, and the extension, whose
layout the manual leaves open (R345, R357, log 18). -/
def State.writeCellImage (s : State) (i : CellImage) : State :=
  let area := s.imageArea s.fix.no
  let ks := (slotsOfCell i.cell).filter fun k => slotOf k < 15
  let s := ks.foldl (fun (s : State) k =>
    match i.slots.find? fun (e : Nat × Nat × Slot) => e.1 = k with
    | some (_, st, sl) =>
      let x : Saved := ⟨k, area, st, sl.causeCode, sl⟩
      s.putHome ((addrsFrom x.at_ x.bytes.length).zip x.bytes)
    | none => s.putFixDword (({ key := k, area := area, st := 0, cause := 0, slot := Slot.reset } : Saved).at_ + 0x158) 0) s
  let s := (List.range 5).foldl (fun (s : State) e => s.putFixDword (area + 0x2D00000 + 4096 * i.cell + 520 * e) 0) s
  s.freeHome (area + 0x3100000 + 0x20000 * i.cell) 16384

/-- A dirty word that is not registered yet goes home in one message, tagged before the cut (R84, R352). -/
def State.cutThrough (s : State) (cell l : Nat) (x : L1Line) (i : Nat) : State :=
  let q : MemReq := ⟨noSlot, cell, true, false, addrsFrom (64 * l + 4 * i) 4, leBytes 4 (lineWord x.data i).toNat,
    x.key, (s.cell cell).fixNo, [], false, true, 0⟩
  s.send clsMemReq cell (homeSlice (64 * l)) (msg (.writeThrough q))

/-- Channel classes that carry a marker: those of R25, with the two subchannels of memory traffic (R95, R352). -/
def markClasses : List Nat := List.range 8

/-- Channel number of the routers that combine markers. -/
abbrev markRouter : Nat := 0x5000

/-- The markers of a cell go toward the network, one on every class (R352). -/
def State.cutMarkers (s : State) (cell : Nat) : State :=
  markClasses.foldl (fun (s : State) cls => s.send cls cell markRouter (msg (.fixMarkerArrival 1024 cls))) s

/-- The copy-backs of a cut: every dirty word of the cell's L1 (R352). -/
def State.cutCache (s : State) (cell : Nat) : State :=
  ((s.cell cell).l1.filter fun (e : Nat × L1Line) => e.2.d ≠ 0).foldl (fun (s : State) (e : Nat × L1Line) =>
    let l := e.1
    let m := s.copyable cell l
    let s := if m = 0 then s
      else (s.copyBackOf cell l m 0).modCell cell fun c => { c with cutLines := c.cutLines ++ [l] }
    let rest := e.2.d &&& ~~~m
    let s := ((List.range 16).filter fun i => rest.getLsbD i).foldl (fun (s : State) i => s.cutThrough cell l e.2 i) s
    if rest = 0 then s
    else
      let s := s.unqueue cell l rest
      match s.l1 cell l with
      | some x => s.setL1 cell l { x with d := x.d &&& ~~~rest, o := x.o &&& ~~~rest }
      | none => s) s

/-- Changes the image of the fix in progress. -/
def Fix.modImage (f : Fix) (g : PartImage → PartImage) : Fix :=
  { f with images := f.images.map fun p => if p.no = f.want then g p else p }

/-- Barrier releases that waited for a cell's cut (R354). -/
def State.releaseBars (s : State) (cell : Nat) : State :=
  let mine := s.fix.barWaits.filter fun (e : Nat × Word) => cellOf e.1 = cell
  let s := mine.foldl (fun (s : State) (e : Nat × Word) => s.thenDo (.memoryReplyArrival e.1 (.value e.2)) 0) s
  s.modFix fun f => { f with barWaits := f.barWaits.filter fun (e : Nat × Word) => cellOf e.1 ≠ cell }

/-- A fix is abandoned: STATE 0x04, and no cell has a cut to take (R358, R361). -/
def State.abandonFix (s : State) : State :=
  if s.fix.active then
    let s := s.fix.barWaits.foldl (fun (s : State) (e : Nat × Word) => s.thenDo (.memoryReplyArrival e.1 (.value e.2)) 0) s
    let s := s.modFix fun f =>
      { f.setStat f.want (statWord f.cuts.length 4) with active := false, phase := 0, queued := false, barWaits := [] }
    let marker (x : Flight) : Bool := match x.parcel with
      | .step (.fixMarkerArrival _ _) _ => true
      | _ => false
    { s.modSched (fun c => { c with flight := c.flight.filter fun x => !marker x }) with
      cells := s.cells.map fun (c : Nat × Cell) => (c.1, { c.2 with cutBegun := false, logging := false, log := [] }) }
  else s

/-- An agent is declared dead: the fix is abandoned here, and every part has a death notice (R358, R360, R361). -/
def State.declareDead (s : State) (part : Nat) (cell : Option Nat) : State :=
  (s.abandonFix.broadcast (.death part cell)).thenDo (.deathNotice part cell) 0

/-- CUT_TAKE of the cell that `cur` names: capture, copy-backs, markers, and the release of what it held (R352, R353); a cell
that finds the pool empty is declared dead (R358). -/
def execCutTake : Event := fun s =>
  let cell := s.cur
  if !s.cutReady cell then .next s
  else if s.poolEmpty then .next (s.declareDead s.link.pod.k (some cell))
  else
    let s := (slotsOfCell cell).foldl State.fixDone s
    let image := s.cellImage cell
    let s := ((s.cutCache cell).cutMarkers cell).writeCellImage image
    let s := s.modCell cell fun c =>
      { c with cutBegun := false, fixNo := s.fix.no, logging := true, log := [], markers := [] }
    let s := s.modFix fun f =>
      let f := ({ f with cuts := f.cuts ++ [cell] } : Fix).modImage fun p => { p with cells := p.cells ++ [image] }
      f.setStat f.want (statWord f.cuts.length 1)
    let s := s.releaseBars cell
    .next (if s.fix.cuts.length = 1024 then s.modFix fun f => { f.setStat f.want (statWord 1024 2) with phase := 7 }
    else s)

/-! ### Messages across the cut (R354) -/

/-- Whether a reply waits for its cell's cut where it was sent after its sender's: one to a program slot or to a read stream.
Acknowledgements of engines and of write streams come before the cut, which waits for them (R352, log 18). -/
def State.replyHeld (s : State) (a : Nat) : Bool :=
  if 0x400000 ≤ a then true
  else if engBase ≤ a then false
  else if 0x20000 ≤ a then
    !((s.slot ((a - 0x20000) / 8)).streams[(⟨a % 8, Nat.mod_lt _ (by decide)⟩ : Fin 8)]).writes
  else !isFsc (coreOf a)

/-- A reply reaches its cell: a post-cut one begins the cell's cut, and waits for it (R352, R354); one that a slot was captured
waiting for, and that was sent after its sender's cut, comes again on a rollback (R353, R359). -/
def State.landReply (s : State) (a : Nat) (r : Reply) (count : Nat) : State :=
  let cell := replyCell a
  if s.cutFirst cell count && s.replyHeld a then (s.beginCut cell).sendIn clsOwn 0 0 1 (.reply a r count)
  else
    let s := if decide (a < 0x20000) && decide ((s.cell cell).fixNo ≤ count) && s.replyOwed a then
        s.modCell cell fun c => { c with log := c.log ++ [.late a] }
      else s
    s.thenDo (.memoryReplyArrival a r) 0

/-! ### Markers (R352, R354) -/

/-- Fix count of a remote request. -/
def RemoteReq.count : RemoteReq → Nat
  | .mem _ q => q.fixCount
  | .atom _ q => q.fixCount
  | .join _ _ n => n
  | .sublist q => q.fixCount

/-- Whether a parcel was sent before the cut of a fix; what carries no count is outside the cut. -/
def Parcel.early (no : Nat) : Parcel → Bool
  | .core _ m => decide (m.fixCount < no)
  | .am _ m => decide (m.fixCount < no)
  | .remote _ q => decide (RemoteReq.count q < no)
  | .read q => decide (q.fixCount < no)
  | .lateral q => decide (q.fixCount < no)
  | .step (.haloArrival q) _ => decide (q.fixCount < no)
  | .step (.gatherSublist q) _ => decide (q.fixCount < no)
  | .step (.homeAtomic q) _ => decide (q.fixCount < no)
  | .step (.writeThrough q) _ => decide (q.fixCount < no)
  | .step (.viewEngineAccess q) _ => decide (q.fixCount < no)
  | .step (.fillRequest _ _ _ n) _ => decide (n < no)
  | .step (.copyBack _ _ _ _ _ _ _ n) _ => decide (n < no)
  | .far _ q => decide (RemoteReq.count q < no)
  | .share q => decide (q.fixCount < no)
  | _ => false

/-- Whether a slot that was captured waiting still has its reply on its way. -/
def State.replyComes (s : State) (e : Nat × Slot) : Bool :=
  s.replyOwed e.1 && match e.2.pend with
    | .none => false
    | .write .. => false
    | .fwrite .. => false
    | _ => true

/-- Class on which the network carries a flight; what a unit hands on by itself counts with the data pushes. -/
def Flight.onClass (f : Flight) : Nat := if f.cls = clsOwn then clsPush else f.cls

/-- Whether a message of a class that a core or a service slot still holds was sent before the cut of a fix. -/
def Core.holdsEarly (c : Core) (no cls : Nat) : Bool :=
  if cls = clsTask then c.outbox.any fun m => decide (m.msg.fixCount < no)
  else if cls = clsAm then c.amOut.any fun (e : Nat × Nat × AmMsg) => decide (e.2.2.fixCount < no)
  else if cls = clsMemReply then c.remIn.any fun q => (Parcel.remote 0 q).early no
  else false

/-- Whether every message of a class that was sent before the cuts has reached its receiver. -/
def State.classClear (s : State) (no cls : Nat) : Bool :=
  !(s.sched.flight.any fun f => f.onClass == cls && f.parcel.early no) &&
  !(s.cores.any fun (c : Nat × Core) => c.2.holdsEarly no cls) &&
  (cls != clsMemReply || !(s.slots.any s.replyComes))

/-- Whether the combined marker of a class goes on: the markers of all cells and all parts have come, behind everything that was
sent before them. -/
def State.markerDue (s : State) (cls : Nat) : Bool :=
  s.fix.active && s.fix.phase == 7 && decide (s.otherParts.length ≤ s.fix.marks.length) && s.fix.marksIn.get 0 cls == 1024 &&
  !s.fix.marksOut.contains cls && s.classClear s.fix.want cls

/-- The combined marker of a class goes to every cell. -/
def State.sendMarkers (s : State) (cls : Nat) : State :=
  let s := s.modFix fun f =>
    { f with marksOut := f.marksOut ++ [cls], phase := if f.marksOut.length + 1 = markClasses.length then 8 else f.phase }
  (List.range 1024).foldl (fun (s : State) cell => s.send cls markRouter cell (msg (.fixMarkerArrival cell cls))) s

/-- Whether this part's markers go to the other parts: every cell's has come, behind what its cores sent to them before. -/
def State.tellDue (s : State) : Bool :=
  s.fix.active && s.fix.phase == 7 && !s.fix.told && (markClasses.all fun cls => s.fix.marksIn.get 0 cls == 1024) &&
  !(s.cores.any fun (c : Nat × Core) => c.2.holdsEarly s.fix.want clsTask || c.2.holdsEarly s.fix.want clsAm)

/-- This part's markers go to the other parts. -/
def State.tell (s : State) : State :=
  (s.broadcast (.fixMarker s.link.pod.k s.fix.want)).modFix fun f => { f with told := true }

/-- FIX_MARKER_ARRIVAL, at the routers where the number is no cell's: a cell's log closes with the marker of the last class
(R354). -/
def execFixMarkerArrival (cell cls : Nat) : Event := fun s =>
  if 1024 ≤ cell then .next (s.modFix fun f => { f with marksIn := f.marksIn.upd 0 cls (· + 1) })
  else
    let s := s.modCell cell fun c => { c with markers := if c.markers.contains cls then c.markers else c.markers ++ [cls] }
    .next (if (s.cell cell).markers.length = markClasses.length then s.modCell cell fun c => { c with logging := false } else s)

/-! ### Copy-on-write (R355) -/

/-- UNIT_COPY_ON_WRITE of the unit that `cur` names: its first write after a cut copies it first. -/
def execUnitCopyOnWrite : Event := fun s =>
  .next (if s.needsCopy s.fix.no s.cur ∧ !s.poolEmpty then s.copyUnit s.fix.no s.cur else s)

/-! ### Completion (R356, R357) -/

/-- Whether a slot runs a role of a transaction that the fix includes. -/
def Slot.earlyRole (sl : Slot) (bound : Nat) : Bool :=
  (match sl.work with
    | .role num _ => decide (num < bound)
    | _ => false) && sl.run != .free

/-- Whether every cell of the part is complete, and every transaction before the fix has ended. -/
def State.partComplete (s : State) : Bool :=
  s.fix.active && s.fix.phase == 8 && s.fix.told &&
  (s.cells.all fun (c : Nat × Cell) => !c.2.logging && c.2.cutLines.isEmpty) &&
  !(s.sched.flight.any fun f => f.parcel.early s.fix.want) &&
  !(s.slots.any fun (e : Nat × Slot) => e.2.earlyRole s.fix.bound) &&
  s.numbered.all fun (t : Txn) => decide (s.fix.bound ≤ t.num) || t.stage == .finished

/-- Submissions from before the cuts that are numbered after the fix, in number order, with those that a withdrawal from after
its cut has removed (R353, R354). -/
def State.captureSubs (s : State) : List Submission :=
  let early (x : Submission) : Bool := decide (x.fixCount < s.fix.want) || x.parent.any fun p => decide (p < s.fix.bound)
  let late := s.numbered.filter fun (t : Txn) => decide (s.fix.bound ≤ t.num)
  let held := s.seq.batchOrder
  (((late ++ held).map fun (t : Txn) => t.sub) ++ s.fix.gone ++ s.seq.waiting).filter early

/-! ### Logs in the fix area (R354, R357, log 18) -/

/-- Class and receiving place of a log entry. -/
def logHead (k : Nat) : LogItem → Nat × Nat
  | .core c _ => (clsTask, k * 2 ^ 16 + placeLow (c * 16))
  | .am c _ => (clsAm, k * 2 ^ 16 + placeLow (c * 16 + 15))
  | .served _ j _ => (clsMemReq, k * 2 ^ 16 + placeLow j)
  | .share q => (clsTask, k * 2 ^ 16 + placeLow q.slot)
  | .reply j _ => (clsMemReply, k * 2 ^ 16 + placeLow j)
  | .late j => (clsMemReply, k * 2 ^ 16 + placeLow j)
  | .halo j _ => (clsPush, k * 2 ^ 16 + placeLow j)

/-- Writes log entries from an address on, with `left` of them before the last 64 bytes of the record, which hold the address
of the next pool frame; an entry with no class ends the log. -/
def State.putLog (no : Nat) : List (Nat × Nat) → Nat → Nat → State → State
  | [], at_, _, s => s.putFixDword at_ 0
  | (c, p) :: rest, at_, 0, s =>
    if s.poolEmpty then s
    else
      let (frame, s) := s.takeFrame no 0
      State.putLog no rest (frame + 64) 1022
        (((s.putFixDword (at_ + 56) frame).putFixDword frame ((c + 1) * 2 ^ 56 + p)).freeHome (frame + 8) 7)
  | (c, p) :: rest, at_, left + 1, s =>
    State.putLog no rest (at_ + 64) left ((s.putFixDword at_ ((c + 1) * 2 ^ 56 + p)).freeHome (at_ + 8) 7)

/-- Writes a cell's log in the second half of its extension. -/
def State.putCellLog (s : State) (no cell : Nat) (log : List LogItem) : State :=
  State.putLog no (log.map (logHead s.link.pod.k)) (s.imageArea no + 0x3110000 + 0x20000 * cell) 1023 s

/-- Writes the part record: the group table, and the part's log in the second half. -/
def State.putPartRecord (s : State) (no : Nat) (groups : Tab Group) (subs : List Submission) : State :=
  let a := s.imageArea no + 0xB100000
  let s := s.freeHome a 131072
  let s := (List.range 256).foldl (fun (s : State) n =>
    s.putFixDword (a + 8 * n) ((groups.get Group.reset n).word).toNat) s
  State.putLog no (subs.map fun x => (clsLock, s.link.pod.k * 2 ^ 16 + placeLow x.slot)) (a + 0x80000) 8191 s

/-! ### Failure (R358) -/

/-- Whether the manifest has overflowed. -/
def State.manifestOver (s : State) : Bool := decide (2 ^ (s.fixDword (s.fixArea + 24) % 64) < s.fix.manifest)

/-- Pool frames that a log needs beyond its record, which has room for `cap` entries (R357, log 18). -/
def logFrames (cap n : Nat) : Nat := (n - cap + 1022) / 1023

/-- Cells whose logs need more frames than the pool has left, taken in order (R357). -/
def State.logsOver (s : State) : List Nat :=
  let left := s.fixDword (s.fixArea + 56) - s.fixDword (s.fixArea + 48) - logFrames 8191 s.captureSubs.length
  let need (c : Nat × Cell) : Nat := logFrames 1023 c.2.log.length
  (s.cells.foldl (fun (r : Nat × List Nat) c => if need c ≤ r.1 then (r.1 - need c, r.2) else (r.1, r.2 ++ [c.1])) (left, [])).2

/-- Cells of this part that have not taken the cut. -/
def State.uncut (s : State) : List Nat := (List.range 1024).filter fun c => !s.fix.cuts.contains c

/-- Whether a fix fails: cuts are missing at its timeout, or the manifest or a log has no room (R357, R358). -/
def State.fixFails (s : State) : Bool :=
  s.fix.active && ((s.fix.phase == 6 && decide (s.fix.started + s.link.pod.timeout ≤ s.cycle)) ||
    (decide (6 ≤ s.fix.phase) && s.manifestOver) || (s.partComplete && s.logsOver != []))

/-- FIX_TIMEOUT: the cells that have not taken their cut are declared dead, or those whose logs find no frame.  DESIGN CHOICE
(log 18): for an overflow of the manifest one is, the first that has not taken its cut, else the first. -/
def execFixTimeout : Event := fun s =>
  if !s.fixFails then .next s
  else
    let late := if s.manifestOver then (s.uncut ++ [0]).take 1 else if s.partComplete then s.logsOver else s.uncut
    .next (late.foldl (fun (s : State) c => s.declareDead s.link.pod.k (some c)) s)

/-! ### The end of a fix (R356) -/

/-- The header, STATE and FIXLAST of a complete fix, its logs and part record, and the release of the copies of the fix before it
(R356, R357). -/
def State.finishFix (s : State) : State :=
  let f := s.fix
  let a := s.fixArea
  let subs := s.captureSubs
  let logOf (i : CellImage) : CellImage := { i with log := (s.cell i.cell).log }
  let s := ((s.putFixDword a f.want).putFixDword (a + 8) f.bound).putFixDword (a + 24)
    (s.fixDword (a + 24) % 2 ^ 32 + f.manifest % 2 ^ 32 * 2 ^ 32)
  let s := (f.images.filter fun p => p.no == f.want).foldl (fun (s : State) p =>
    (p.cells.foldl (fun (s : State) i => s.putCellLog f.want i.cell (s.cell i.cell).log) s).putPartRecord f.want p.groups subs) s
  let s := s.modPart fun p => { p with fixlast := natW f.want }
  s.modFix fun f =>
    let f := f.modImage fun p => { p with cells := p.cells.map logOf, subs := subs }
    { f.setStat f.want (statWord 1024 3) with
      active := false, phase := 0
      gone := []
      copies := f.copies.filter fun (c : Nat × Nat × Nat) => decide (f.want ≤ c.2.1)
      images := f.images.filter fun p => decide (f.want ≤ p.no) }

/-- PART_FIX_COMPLETE (R356); a start that waited for it begins (R350). -/
def execPartFixComplete : Event := fun s =>
  if !s.partComplete || s.fixFails then .next s
  else
    let queued := s.fix.queued
    let s := s.finishFix
    .next (
      if !queued then s
      else
        let s := s.modFix fun f => { f with queued := false }
        if s.link.pod.k = 0 then s.fixCoordinate else s.fixBegin (s.fix.want + 1))

/-! ### Rollback (R359) -/

/-- Whether a reply address is a slot of a fault service core. -/
def fscKey (k : Nat) : Bool := decide (3072 * 16 ≤ k) && decide (k < 3076 * 16)

/-- Whether a parcel belongs to a fault service core, whose work no rollback ends (log 10). -/
def fscParcel : Parcel → Bool
  | .read q => fscKey q.slot
  | .reply k _ _ => fscKey k
  | .step (.memoryReplyArrival k _) _ => fscKey k
  | .step (.homeAtomic q) _ => fscKey q.slot
  | .step (.writeThrough q) _ => fscKey q.slot
  | .step (.viewEngineAccess q) _ => fscKey q.slot
  | .step .integerDivideComplete u => isFsc (coreOf u)
  | .step .fpDivideComplete u => isFsc (coreOf u)
  | .step .keyInstallComplete _ => true
  | .step (.powerMeasure _ _) _ => true
  | _ => false

/-- A slot of a fault service core whose line or walk is gone goes on. -/
def Slot.fscKeep (sl : Slot) : Slot :=
  if sl.faultWait.isSome || (match sl.pend with | .fill .. => true | .refill _ => true | .room _ => true | _ => false) then
    { sl with run := .run, pend := .none, counted := sl.counted || sl.pend != .retry, faultWait := none }
  else sl

/-- A core whose queues are empty; its registers and TLBs stay. -/
def Core.emptied (c : Core) : Core :=
  { c with
    fifo := [], q := Vector.replicate 4 [], ringHead := Vector.replicate 4 0, ringCount := Vector.replicate 4 0
    ringRead := Vector.replicate 4 .idle, inbox := [], arriving := [],
    outbox := [], amOut := [], amIn := [], remIn := [], lastRemote := false
    tears := [] }

/-- A cell without work, cached lines, or a cut. -/
def Cell.emptied (c : Cell) (no : Nat) : Cell :=
  { c with
    l1 := [], regq := [], fills := [], eng := Vector.replicate 5 Engine.reset, queueWait := []
    fixNo := no, cutBegun := false, markers := [], logging := false, log := [], replay := [], cutLines := [], misses := 0 }

/-- Steps 1 and 2 of R359. -/
def State.endAllWork (s : State) (p : PartImage) : State :=
  { s with
    orphans := []
    sched := { s.sched with now := [], flight := s.sched.flight.filter fun f => fscParcel f.parcel }
    slots := s.slots.map fun (e : Nat × Slot) => (e.1, if isFsc (coreOf e.1) then e.2.fscKeep else e.2.vacated)
    cores := s.cores.map fun (c : Nat × Core) => (c.1, c.2.emptied)
    cells := s.cells.map fun (c : Nat × Cell) => (c.1, c.2.emptied p.no)
    clusters := s.clusters.map fun (c : Nat × Cluster) =>
      (c.1, { c.2 with icache := [], freqs := [], walks := [], walkQueue := [], faults := [], dropFlag := false })
    dies := s.dies.map fun (d : Nat × Die) =>
      (d.1, { d.2 with gate := [], nextGlobal := p.bound / 256, safe := none, routers := [], busy := false, fsAcks := 0 })
    blms := s.blms.map fun (b : Nat × Blm) => (b.1, { b.2 with entries := [], safe := none, releases := [] })
    l2 := [], owners := [], ctxOps := []
    seq := { s.seq with
      waiting := [], txns := s.seq.txns.filter fun (t : Txn) => t.stage != .accepted && decide (t.num < p.bound)
      batch := p.bound / 256 / s.link.pod.n, opened := s.cycle, closeAsked := false, foreignVoids := [] } }

/-- Step 3 of R359: each unit takes its copy for F, or else its copy for the next fix that has one (log 67). -/
def State.restoreMemory (s : State) (no : Nat) : State :=
  let from_ := s.fix.copies.filter fun (c : Nat × Nat × Nat) => decide (no ≤ c.2.1)
  let first := from_.filter fun (c : Nat × Nat × Nat) =>
    from_.all fun (d : Nat × Nat × Nat) => decide (d.1 ≠ c.1) || decide (c.2.1 ≤ d.2.1)
  let s := first.foldl (fun (s : State) (c : Nat × Nat × Nat) => s.copyInto (unitOf c.2.2) (c.1 * 65536)) s
  s.modFix fun f => { f with copies := f.copies.filter fun (c : Nat × Nat × Nat) => c.2.1 = no }

/-- A captured slot with the registers that its record in the image area holds. -/
def State.recordOf (s : State) (no k : Nat) (sl : Slot) : State × Slot :=
  let a := ({ key := k, area := s.imageArea no, st := 0, cause := 0, slot := Slot.reset } : Saved).at_
  if slotOf k < 15 then (s, sl.ofRecord ((addrsFrom a 1024).map s.homeByte)) else (s, sl)

/-- Step 6 of R359: a captured slot resumes (R346); one captured in state 3 takes its logged reply, or asks again where
it waited for a line. -/
def State.resumeCaptured (s : State) (log : List LogItem) (k st : Nat) (sl : Slot) : State :=
  let again (sl : Slot) : Slot := { sl with run := .run, pend := .none, counted := true, faultWait := none }
  let reply := log.findSome? fun x => match x with
    | .reply j r => if j = k then some r else none
    | _ => none
  if sl.fork.isSome then
    let f := sl.fork.map fun f => { f with claimedSlots := [], started := s.cycle }
    let s := s.setSlot k { sl with fork := f }
    if f.any fun f => f.wanted = 0 then s.after 8 .rforkShareStart k else s
  else if st ≠ 3 then s.resumeSlot k st sl
  else match sl.pend, reply with
    | .fill .., _ => s.setSlot k (again sl)
    | .refill _, _ => s.setSlot k (again sl)
    | .room _, _ => s.setSlot k (again sl)
    | .write .., _ => (s.setSlot k sl).thenDo (.memoryReplyArrival k .done) 0
    | .fwrite .., _ => (s.setSlot k sl).thenDo (.memoryReplyArrival k .done) 0
    | _, some r => (s.setSlot k sl).thenDo (.memoryReplyArrival k r) 0
    | _, none => s.setSlot k sl

/-- Whether the cores of a cell have taken up everything that has come to them. -/
def State.takenUp (s : State) (cell : Nat) : Bool :=
  (List.range 3).all fun r =>
    let c := s.core (cell * 3 + r)
    c.inbox.isEmpty && c.arriving.isEmpty && c.amIn.isEmpty && c.remIn.isEmpty

/-- The next logged message of a cell that rolls back, once the one before it has been taken up (R359, log 67). -/
def State.replayNext (s : State) (cell : Nat) : State :=
  match (s.cell cell).replay with
  | [] => s
  | x :: rest =>
    let blocked := match x with
      | .share q => (s.slot q.slot).run != .free
      | _ => false
    if !s.takenUp cell || blocked then s
    else
      let s := s.modCell cell fun c => { c with replay := rest }
      match x with
      | .core core m => s.modCore core fun c => { c with arriving := c.arriving ++ [m] }
      | .am core m => s.modCore core fun c => { c with amIn := c.amIn ++ [m] }
      | .served p a r =>
        if p = s.link.pod.k then s.answerAt (slotChan (cell * 48 + 15)) a r (s.cell cell).fixNo
        else s.toPart p (.reply a r (s.cell cell).fixNo (some cell))
      | .share q => s.startShare { q with fixCount := 0 }
      | .halo k mbox => s.modSlot k fun sl => sl.deliver mbox none
      | .reply _ _ => s
      | .late _ => s

/-- Whether a cell has logged messages still to perform, so that no new message reaches it (R359). -/
def State.replays (s : State) (cell : Nat) : Bool := !(s.cell cell).replay.isEmpty

/-- Steps 4 to 6 of R359 for one cell. -/
def State.loadCell (s : State) (no : Nat) (i : CellImage) : State :=
  let s := s.modCell i.cell fun c =>
    { c with tiles := i.tiles, sem := i.sem, dc := i.dc, interp := i.interp, replay := i.log }
  let s := i.cores.foldl (fun (s : State) (e : Nat × Core) => s.modCore e.1 fun c =>
    { c with
      fifo := e.2.fifo, q := e.2.q, ringHead := e.2.ringHead, ringCount := e.2.ringCount, inbox := e.2.inbox
      amIn := e.2.amIn }) s
  i.slots.foldl (fun (s : State) (e : Nat × Nat × Slot) =>
    let (s, sl) := s.recordOf no e.1 e.2.2
    s.resumeCaptured i.log e.1 e.2.1 sl) s

/-- ROLLBACK to fix F; none where this part's last complete fix is another (R359). -/
def State.rollback (s : State) (no : Nat) : Option State :=
  match s.fix.images.find? fun p => p.no = no with
  | none => none
  | some p =>
    if s.part.fixlast.toNat ≠ no then none
    else
      let s := s.abandonFix
      let s := (s.restoreMemory no).endAllWork p
      let s := s.modFix fun f => { f with
        no := no, bound := p.bound, next := p.bound, manifest := 0, images := f.images.filter fun q => q.no = no }
      let s := { s with part := { s.part with groups := p.groups }, link := { s.link with held := false, holdAsked := false } }
      let s := p.cells.foldl (fun (s : State) i => s.loadCell no i) s
      some (p.subs.foldl State.acceptSub s)

end Sys2Proof.Machine
end

