-- ==== Sys2Proof/Machine/Links.lean ====
section
/-! DEFINITION. The host port and the links of the pod: Sextant, management and attestation, Azimuth, death notices
and heartbeats (R312, R313, R360 to R363, R368 to R370). -/

namespace Sys2Proof.Machine

/-! ### Datagrams to the host (R363, log 26) -/

/-- cclk in 20 µs. -/
abbrev resendTime : Nat := 40000

/-- Sends the datagrams of the window's first 256 that have not left yet; a time of 0 marks one that waits. -/
def Link.flush (x : Link) (now : Nat) : Link :=
  let early := x.window.take 256
  let new := (early.filter fun (e : Datagram × Nat) => e.2 = 0).map fun (e : Datagram × Nat) => e.1
  let mark (e : Datagram × Nat) : Datagram × Nat := (e.1, if e.2 = 0 then now + 1 else e.2)
  { x with window := early.map mark ++ x.window.drop 256, sent := x.sent ++ new }

/-- A datagram to the host takes the next sequence number. -/
def State.toHost (s : State) (op : Nat) (arg : Word) (payload : List Byte) : State :=
  s.modLink fun x =>
    let n := (x.seqOut + 1) % 2 ^ 32
    ({ x with seqOut := n, window := x.window ++ [(⟨1, op, n, x.seqIn, arg, payload.length, payload, x.owner.getD 0⟩, 0)] } : Link).flush s.cycle

/-- An ACK to the host, outside the window. -/
def State.ackHost (s : State) : State :=
  s.modLink fun x => { x with sent := x.sent ++ [⟨1, 7, 0, x.seqIn, 0, 0, [], x.owner.getD 0⟩] }

/-- EVENT. -/
abbrev opEvent : Nat := 8

/-- What the host has acknowledged leaves the window. -/
def State.acked (s : State) (n : Nat) : State :=
  s.modLink fun x => match x.window.findIdx? fun (e : Datagram × Nat) => e.1.seq = n with
    | some i => ({ x with window := x.window.drop (i + 1) } : Link).flush s.cycle
    | none => x

/-- Most bytes of payload in a datagram. -/
abbrev maxPayload : Nat := 8192

/-- Whether the part takes a datagram as one of some OPs: its version, its payload, its OP, its sender, which must be the part's owner
once a pod has been formed, and the stage (R363, R370). -/
def State.takes (s : State) (p : Datagram) (op : Nat → Bool) : Bool :=
  p.ver == 1 && decide (p.payload.length ≤ maxPayload) && op p.op && s.part.stage != 0 && s.link.owner.all (· == p.host)

/-- The frame of a datagram from the host: what is not taken is dropped; then its acknowledgement and order (R363, R370). -/
def received (p : Datagram) (op : Nat → Bool) (body : State → Host.Outcome State Fault Refusal) : Event := fun s =>
  if !s.takes p op then .next s
  else
    let s := s.acked p.ack
    if p.seq = (s.link.seqIn + 1) % 2 ^ 32 then
      let s := (s.modLink fun x => { x with seqIn := p.seq }).ackHost
      if s.part.stage < 4 ∧ p.op < 16 then .next (s.toHost opEvent (natW (p.op * 256 + s.part.stage)) [])
      else body s
    else .next s.ackHost

/-- SEXTANT_ACK. -/
def execSextantAck (p : Datagram) : Event := fun s =>
  .next (if s.takes p (· == 7) then s.acked p.ack else s)

/-- SEXTANT_RESEND: datagram n of the window is sent again. -/
def execSextantResend (n : Nat) : Event := fun s =>
  .next (s.modLink fun x => match x.window.find? fun (e : Datagram × Nat) => e.1.seq = n ∧ e.2 ≠ 0 with
    | some e =>
      let mark (f : Datagram × Nat) : Datagram × Nat := if f.1.seq = n then (f.1, s.cycle + 1) else f
      { x with window := x.window.map mark, sent := x.sent ++ [e.1] }
    | none => x)

/-! ### READ and WRITE (R363) -/

/-- Whether a range of n bytes holds memory: HBM, vaults or tile stores. -/
def holdsMemory (a n : Nat) : Bool :=
  (addrsFrom a n).all fun x => match placeOf x with
    | .hbm => true
    | .vault _ => true
    | .tile _ => true
    | _ => false

/-- The bytes of a READ go to the host, in datagrams of at most 8,192 bytes, each with the address of its first (log 26). -/
def State.sendRead (s : State) (a : Nat) (bs : List Byte) : State :=
  (List.range ((bs.length + maxPayload - 1) / maxPayload)).foldl (fun (s : State) i =>
    s.toHost 1 (natW (a + i * maxPayload)) ((bs.drop (i * maxPayload)).take maxPayload)) s

/-- SEXTANT_READ: the home values of the bytes. -/
def execSextantRead (p : Datagram) : Event := received p (· == 1) fun s =>
  let a := p.arg.toNat
  if !holdsMemory a p.len then .fault (.noMemory a)
  else
    let (bs, s) := (s.noteSoft (addrsFrom a p.len)).physRead s.fix.no 0 (addrsFrom a p.len)
    .next (s.sendRead a bs)

/-- SEXTANT_WRITE: a write-through that allocates nothing, or a write at the memory's port.  DEDUCED (log 84): one that needs
a pool frame while there is none is not acknowledged, so that the host sends it again (R355). -/
def execSextantWrite (p : Datagram) : Event := fun s =>
  if s.takes p (· == 2) ∧ s.poolStops s.fix.no (addrsFrom p.arg.toNat p.payload.length) then .next (s.acked p.ack)
  else received p (· == 2) (fun s =>
  let a := p.arg.toNat
  if !holdsMemory a p.payload.length then .fault (.noMemory a)
  else .next (s.physWrite s.fix.no 0 ((addrsFrom a p.payload.length).zip p.payload))) s

/-! ### START (R160, R312, R313) -/

/-- Doubleword i of a record in memory. -/
def State.recordWord (s : State) (a i : Nat) : Word := natW (s.physNat (a + 8 * i) 8)

/-- The first doubleword of a job start record that fails its check (R313). -/
def State.badStart (s : State) (a : Nat) : Option Nat :=
  let w := s.recordWord a
  if a % 64 ≠ 0 then some 0
  else if w 0 = 0 ∨ (w 0).toNat % 4 ≠ 0 then some 0
  else if slice (w 2) 47 42 ≠ 0 ∨ slice (w 2) 17 0 ≠ 0 ∨ slice (w 2) 41 30 = 0 ∨ 3072 < slice (w 2) 41 30 ∨
      3071 < slice (w 2) 29 18 then some 2
  else (List.range 3).findSome? fun i => if w (5 + i) = 0 then none else some (5 + i)

/-- Whether a membership doubleword keeps R160. -/
def goodMember (w : Word) : Bool :=
  let f (i : Nat) : Nat := slice w (9 * i + 8) (9 * i)
  slice w 63 36 == 0 && (List.range 4).all fun i => (List.range 4).all fun j =>
    i == j || !(decide (256 ≤ f i) && f i == f j)

/-- The group table takes V and COUNT from an image. -/
def State.loadGroups (s : State) (a : Nat) : State :=
  (List.range 256).foldl (fun (s : State) n =>
    s.modPart fun p => { p with groups := p.groups.set n ((p.groups.get Group.reset n).write (s.recordWord a n)) }) s

/-- Group fields of a membership doubleword. -/
def memberGroups (w : Word) : Vector (BitVec 9) 4 :=
  Vector.ofFn fun i : Fin 4 => BitVec.ofNat 9 (slice w (9 * i.val + 8) (9 * i.val))

/-- Every program slot takes its groups from the membership array; the number of bad entries comes back. -/
def State.loadMembers (s : State) (a : Nat) : Nat × State :=
  (List.range 46080).foldl (fun (r : Nat × State) i =>
    let w := r.2.recordWord a i
    let k := i / 15 * 16 + i % 15
    if goodMember w then (r.1, r.2.modSlot k fun sl => { sl with grp := memberGroups w })
    else (r.1 + 1, r.2.modSlot k fun sl => { sl with grp := Vector.replicate 4 0 })) (0, s)

/-- SEXTANT_START: the reply says 0 and how many memberships were bad, or 1 and the first doubleword that fails. -/
def execSextantStart (p : Datagram) : Event := received p (· == 3) fun s =>
  let a := p.arg.toNat
  if a % 64 = 0 ∧ !holdsMemory a 64 then .fault (.noMemory a)
  else match s.badStart a with
    | some n => .next (s.toHost 3 p.arg (1 :: leBytes 4 n))
    | none =>
      let w := s.recordWord a
      let s := if w 3 = 0 then s else s.loadGroups (w 3).toNat
      let (bad, s) := if w 4 = 0 then (0, s) else s.loadMembers (w 4).toNat
      let t : TaskMsg := ⟨w 0, w 1, 0, 0, 0, 0, 0, slice (w 2) 63 48, 0⟩
      let root := slice (w 2) 29 18
      let s := s.send clsTask 0x10004 root (.core root ⟨(s.cell (cellOfCore root)).fixNo, .jobLaunch root (slice (w 2) 41 30) t⟩)
      .next (s.toHost 3 p.arg (0 :: leBytes 4 bad))

/-! ### FIX, ROLLBACK, POD (R350, R359, R361, R362) -/

/-- SEXTANT_FIX. -/
def execSextantFix (p : Datagram) : Event := received p (· == 4) fun s => .next s.fixAsk

/-- SEXTANT_ROLLBACK; a part that rejects it says so. -/
def execSextantRollback (p : Datagram) : Event := received p (· == 5) fun s =>
  match s.rollback p.arg.toNat with
  | some s => .next s
  | none => .next (s.toHost 5 p.arg [1])

/-- A cell under the incarnation of the pod's configuration; a new one has it rejoin (R361). -/
def Cell.rejoin (c : Cell) (n : Nat) : Cell :=
  if c.incarnation = n then c else { c with incarnation := n, dead := false, silent := false, misses := 0 }

/-- The cell that a message comes from, where it comes from one (R361, log 71). -/
def Flight.fromCell (f : Flight) : Option Nat :=
  if f.cls = clsOwn ∨ f.cls = clsLock ∧ f.src < 0x100000 ∨ f.cls = clsFault then none
  else if 0x100000 ≤ f.src then (if f.src < 0x200000 then some (cellOf (f.src - 0x100000)) else none)
  else if f.cls = clsTask ∨ f.cls = clsAm then (if f.src < 3072 then some (cellOfCore f.src) else none)
  else if f.cls = clsMemReq then (if f.src < 1024 then some f.src else none)
  else if f.cls = clsPush then (match f.parcel with
    | .step (.grantPushArrival ..) _ => none
    | _ => some f.src)
  else match f.parcel with
    | .step (.gatherSublist q) _ => some q.owner
    | _ => none

/-- The cells of a configuration take its incarnations; what a cell sent under another one is dropped (R361). -/
def State.rejoinCells (s : State) (cells : List (Nat × Nat)) : State :=
  let new := (cells.filter fun (e : Nat × Nat) => (s.cell e.1).incarnation ≠ e.2 % 16).map fun (e : Nat × Nat) => e.1
  let s := s.modSched fun c => { c with flight := c.flight.filter fun f => !f.fromCell.any new.contains }
  cells.foldl (fun (s : State) (e : Nat × Nat) => s.modCell e.1 fun c => c.rejoin (e.2 % 16)) s

/-- Incarnation that a pod configuration gives a part. -/
def podIncarn (r : PodRec) (part : Nat) : Nat :=
  ((r.incarns.find? fun (e : Nat × Nat) => e.1 = part).map fun (e : Nat × Nat) => e.2).getD 0

/-- Incarnation that a pod configuration gives a cell of another part. -/
def podCellIncarn (r : PodRec) (part cell : Nat) : Nat :=
  ((r.farCells.find? fun (e : Nat × Nat) => e.1 = part * 1024 + cell).map fun (e : Nat × Nat) => e.2 % 16).getD 0

/-- Whether a parcel takes a lock request, a close marker, or a grant on its way. -/
def lockParcel : Parcel → Bool
  | .step (.mergeGateReceive ..) _ => true
  | .step (.blmRequestArrival ..) _ => true
  | .step (.grantPushArrival ..) _ => true
  | _ => false

/-- Batches are counted anew from pod formation: batch 0 opens at the sequencer, and the merge gates wait for global batch 0
(R103, R105, R107).  DESIGN CHOICE (log 100): what was numbered under the old count is gone, without an outcome: its requests
and entries go, its roles end and its handles are unbound. -/
def State.firstBatch (s : State) : State :=
  let old := s.seq.txns.filter fun (t : Txn) => t.stage ≠ .accepted
  let s := old.foldl (fun (s : State) (t : Txn) =>
    let s := t.roles.foldl (fun (s : State) r => if r.ended then s else s.endWork r.slot) s
    if t.stage = .finished then s
    else s.modCell t.cell fun c => c.setTiles t.heldHandles fun x => { x with v := false, state := .empty }) s
  let s := s.modSeq fun q => { q with
    batch := 0, opened := s.cycle, sizes := [], foreignVoids := [], txns := q.txns.filter fun (t : Txn) => t.stage = .accepted }
  { s with
    sched := { s.sched with flight := s.sched.flight.filter fun f => !lockParcel f.parcel }
    dies := s.dies.map fun (d : Nat × Die) => (d.1, { d.2 with gate := [], nextGlobal := 0, safe := none })
    blms := s.blms.map fun (b : Nat × Blm) => (b.1, { b.2 with entries := [], releases := [], safe := none }) }

/-- SEXTANT_POD: the silence of a link is counted from here on (R360); its sender is the part's owner; a part that was
declared dead stays so under its old incarnation (R361, R363). -/
def execSextantPod (p : Datagram) (r : PodRec) : Event := received p (· == 6) fun s =>
  let old := s.link.pod
  let s := s.modLink fun x => { x with
    pod := r, heard := [], azLast := r.routes.foldl (fun t e => t.set e.2 s.cycle) x.azLast,
    owner := some p.host, dead := x.dead.filter fun q => podIncarn old q == podIncarn r q }
  let s := s.modPart fun x => { x with incarn := natW (r.incarn % 2 ^ 16) }
  .next (s.firstBatch.rejoinCells r.cells)

/-! ### Management and attestation (R368, R369, R370) -/

/-- Whether the boot core accepts an image: both public keys match the fused digests, both signatures of the digest of its body verify,
and its version is at least the fused one (R368). -/
def imageGood (image : List Byte) : Bool :=
  let digest := Config.sha384 (Config.imageBody image)
  let signed (lms : Bool) : Bool :=
    Config.sha384 (Config.imageKey lms image) == Config.fusedKeyDigest lms &&
    Config.verify lms (Config.imageKey lms image) digest (Config.imageSignature lms image)
  signed false && signed true && decide (Config.fusedVersion.toNat ≤ (Config.imageVersion image).toNat)

/-- A firmware image is loaded, with its digest and version, or rejected, which sets FAIL and holds STAGE; a test that has
failed keeps it set (R368 to R370). -/
def State.loadImage (s : State) (image : List Byte) : State :=
  if imageGood image then s.modPart fun x => { x with
    bootFail := x.testFail, images := x.images ++ [(Config.sha384 (Config.imageBody image), Config.imageVersion image)] }
  else s.modPart fun x => { x with bootFail := true }

/-- MANAGEMENT_OP: 0x10 loads an image, 0x11 starts again after a shutdown; what the other codes do is open and they do
nothing more (log 26). -/
def execManagementOp (p : Datagram) : Event := received p (fun n => decide (16 ≤ n) && decide (n < 32)) fun s =>
  if p.op = 16 then .next (s.loadImage p.payload)
  else if p.op = 17 then .next (s.modPart fun x => { x with halted := false })
  else .next s

/-- The attestation evidence over a nonce of 32 bytes, signed with both of the part's device keys (R369). -/
def State.evidence (s : State) (nonce : List Byte) : List Byte :=
  let body := leBytes 8 Config.idLow.toNat ++ leBytes 8 Config.idHigh.toNat ++
    (s.part.images.flatMap fun (e : BitVec 384 × W32) => leBytes 48 e.1.toNat ++ leBytes 4 e.2.toNat) ++
    leBytes 4 Config.fusedVersion.toNat ++ (nonce ++ List.replicate 32 (0 : Byte)).take 32
  let sign (lms : Bool) : List Byte := Config.sign lms (Config.deviceKey lms Config.fusedSecret) s.part.reports.toNat body
  body ++ sign false ++ sign true

/-- ATTESTATION_REQUEST: one of the management OPs (log 26). -/
def execAttestationRequest (p : Datagram) : Event := received p (fun n => decide (16 ≤ n) && decide (n < 32)) fun s =>
  .next ((s.modPart fun x => { x with reports := x.reports + 1 }).toHost p.op p.arg (s.evidence p.payload))

/-! ### Death notices and heartbeats (R85, R360, R361) -/

/-- Whether a tag names a dead agent. -/
def OwnerTag.named (t : OwnerTag) (part : Nat) (cell : Option Nat) : Bool :=
  match t with
  | .cell p c => p == part && (match cell with | some x => c == x | none => true)
  | _ => false

/-- Marks lost every word registered to an agent. -/
def State.loseOwner (s : State) (part : Nat) (cell : Option Nat) : State :=
  { s with owners := s.owners.map fun (e : Nat × OwnerRec) =>
      (e.1, { e.2 with tags := e.2.tags.map fun t => if OwnerTag.named t part cell then .lost else t }) }

/-- DEATH_NOTICE (R361): the EVENT names the agent and FIXLAST. -/
def execDeathNotice (part : Nat) (cell : Option Nat) : Event := fun s =>
  let s := s.abandonFix.loseOwner part cell
  let s := match cell with
    | some c => if part = s.link.pod.k then s.modCell c fun x => { x with dead := true } else s
    | none => s.modLink fun x => { x with dead := if x.dead.contains part then x.dead else x.dead ++ [part] }
  let s := s.modLink fun x => { x with holdAsked := !x.held }
  let agent := part * 2048 + (match cell with | some c => 1024 + c | none => 0)
  .next (s.toHost opEvent (natW agent) (leBytes 8 s.part.fixlast.toNat))

/-- HEARTBEAT_PROBE of the die that `cur` names: the fourth miss in a row declares a cell dead (R360). -/
def execHeartbeatProbe : Event := fun s =>
  .next ((List.range 256).foldl (fun (s : State) i =>
    let cell := s.cur * 256 + i
    let c := s.cell cell
    if !c.silent then (if c.misses = 0 then s else s.modCell cell fun c => { c with misses := 0 })
    else
      let s := s.modCell cell fun c => { c with misses := c.misses + 1 }
      if c.misses + 1 = 4 ∧ !c.dead then s.declareDead s.link.pod.k (some cell) else s) s)

/-- When the link toward a part last carried something, and when its silence reaches the pod's limit. -/
def State.silentAt (s : State) (part : Nat) : Nat := s.link.azLast.get 0 (s.portOf part) + s.link.pod.heartbeat

/-- A port that is not the one toward a part, where the pod's configuration has one (R360). -/
def State.otherPort (s : State) (part : Nat) : Nat :=
  ((s.link.pod.routes.find? fun (e : Nat × Nat) => e.2 ≠ s.portOf part).map fun (e : Nat × Nat) => e.2).getD (s.portOf part)

/-- HEARTBEAT_LIMIT_EXPIRE for the part that `cur` names: a probe goes by another route, and a probe that has gone
unanswered for the same time declares the part dead (R360). -/
def execHeartbeatLimitExpire : Event := fun s =>
  let part := s.cur
  let t := s.silentAt part
  if s.link.dead.contains part ∨ s.cycle < t then .next s
  else if t + s.link.pod.heartbeat ≤ s.cycle ∧ s.link.heard.get 0 part < t then .next (s.declareDead part none)
  else .next (s.sendOut part (s.otherPort part) (.probe s.link.pod.k))

/-- AZIMUTH_HEARTBEAT_FLIT of a port: to whatever is at its other end, part number 512 + port (R360). -/
def execAzimuthHeartbeatFlit (port : Nat) : Event := fun s =>
  .next ((s.sendOut (512 + port) port .heartbeat).modLink fun x => { x with azAt := x.azAt.set port s.cycle })

/-! ### Azimuth (R25, R362) -/

/-- Offset in the device register space of a request. -/
def deviceOff (q : MemReq) : Nat := q.addrs.headD 0 - deviceBase

/-- Whether another part's write to a device register waits for a key installation (R367). -/
def State.deviceBusy (s : State) (q : MemReq) : Bool :=
  q.write && (deviceOff q == 0x80003000 || deviceOff q == 0x80003008) && s.part.keyBusy

/-- Another part's access to a device register (R292, R362). -/
def State.serveDevice (s : State) (part : Nat) (q : MemReq) : State :=
  if q.write then
    (match deviceStep (deviceOff q) (natW (leNat q.data)) with
      | some i => s.thenDo i 0
      | none => s.deviceWrite (deviceOff q) (natW (leNat q.data))).toPart part (.reply q.slot .done 0 none)
  else s.toPart part (.reply q.slot (.value (s.deviceRead (deviceOff q))) 0 none)

/-- A request of another part for memory of this one, exactly as within the part: its world is checked here, where the secure
ranges and cells are known, and it is served at the home slice, at a service slot, or at the device registers (R362, R365). -/
def State.azMem (s : State) (part : Nat) (q : MemReq) : Host.Outcome State Fault Refusal :=
  if s.worldFails q.secure none (q.addrs ++ q.scale) then .next (s.toPart part (.reply q.slot (.barred q.va) 0 none))
  else match placeOf (q.addrs.headD 0) with
  | .hbm => .next (s.sendIn clsMemReq (0x7000 + part) (homeSlice (q.addrs.headD 0)) 0 (.far part (.mem part q)))
  | .vault c => .next (s.send clsMemReq 0x6000 c (.remote c (.mem part q)))
  | .tile c => .next (s.send clsMemReq 0x6000 c (.remote c (.mem part q)))
  | .device _ => .next (s.send clsMemReq 0x6000 0x6000 (.device part q))
  | .hole => .fault (.noMemory (q.addrs.headD 0))

/-- An atomic of another part on memory of this one. -/
def State.azAtom (s : State) (part : Nat) (q : AtomReq) : Host.Outcome State Fault Refusal :=
  if s.worldFails q.secure none q.addrs then .next (s.toPart part (.reply q.slot (.barred q.va) 0 none))
  else match placeOf (q.addrs.headD 0) with
  | .hbm => .next (s.sendIn clsMemReq (0x7000 + part) (homeSlice (q.addrs.headD 0)) 0 (.far part (.atom part q)))
  | .vault c => .next (s.send clsMemReq 0x6000 c (.remote c (.atom part q)))
  | .tile c => .next (s.send clsMemReq 0x6000 c (.remote c (.atom part q)))
  | _ => .fault (.noMemory (q.addrs.headD 0))

/-- A reply from another part to a store or an atomic tells that it has been performed: it retires at a sink of its cell
(R298, R348). -/
def State.farSink (s : State) (a : Nat) (r : Reply) : State :=
  let atom := decide (a < noSlot) && match (s.slot a).pend with
    | .atom _ _ => true
    | _ => false
  if r = .done ∨ atom then s.sinkFor (replyCell a) a else s

/-- What a flit from a part brings. -/
def State.azTake (s : State) (src : Nat) : AzMsg → Host.Outcome State Fault Refusal
  | .heartbeat => .next s
  | .mem p q => s.azMem p q
  | .atom p q => s.azAtom p q
  | .reply k r n _ => .next ((s.farSink k r).landReply k r n)
  | .lock die p m => .next (s.send clsLock (0x7000 + p) die (msg (.mergeGateReceive die p m)))
  | .mail k mbox v ctx place n =>
    .next (s.send clsTask (0x7000 + src) (coreOf k) (.core (coreOf k) ⟨n, .mail k mbox v ctx place⟩))
  | .am core m => .next (s.send clsAm (0x7000 + src) core (.am core m))
  | .push cell num x data poison =>
    .next (s.sendIn (if data = [] then clsLock else clsPush) (0x7000 + src) cell 0 (msg (.grantPushArrival cell num x data poison)))
  | .release blm num x => .next (s.modBlm blm fun b =>
      if b.releases.contains (num, x) then b else { b with releases := b.releases ++ [(num, x)] })
  | .drain p cell num x bytes poison key =>
    .next (s.sendIn clsMemReq (0x7000 + src) (homeSlice ((bytes.map (·.1)).headD 0)) 0 (.drain p cell num x bytes poison key))
  | .drained cell num x => .next (s.thenDo (.drainAck cell num x) 0)
  | .removed num x => .next (s.noteReleased num x)
  | .outcome key n bs secure back => .next (
      if s.worldFails secure none (bs.map (·.1)) then s.toPart back.part (.outcomeFails back cWorld)
      else if s.poolStops n (bs.map (·.1)) then
        let (w, s) := s.freeWord
        s.toPart back.part (.outcomeFails back (w.toNat % 32))
      else s.physWrite n key bs)
  | .outcomeFails b c => .next (s.report b.die 0xA c b.ctx b.place b.out b.num)
  | .ask p slot as =>
    .next (s.toPart p (.reply slot (.value (if s.worldFails false none as then 1 else 0)) 0 none))
  | .voided num => .next ((s.modSeq fun q => { q with foreignVoids := q.foreignVoids ++ [num] }).voidEntries num)
  | .fixStart no => .next (s.send clsLock (0x7000 + src) seqChan (msg (.fixStartReceive no)))
  | .fixReport p n => .next (s.modFix fun f => { f with reports := f.reports ++ [(p, n)] })
  | .fixBound no b => .next (s.send clsLock (0x7000 + src) seqChan (msg (.fixBoundReceive no b)))
  | .fixMarker p no => .next (if no = s.fix.want ∧ s.fix.active ∧ !s.fix.marks.contains p then
      s.modFix fun f => { f with marks := f.marks ++ [p] } else s)
  | .death p c => .next (s.thenDo (.deathNotice p c) 0)
  | .probe p => .next (s.toPart p (.probed s.link.pod.k))
  | .probed p => .next (s.modLink fun x => { x with heard := x.heard.set p s.cycle })

/-- AZIMUTH_FLIT_RECEIVE: flit n of a port's link, whether its CRC holds, its source part with the incarnations of
State.incarnOf, and what it carries.  A failure asks for a resend from that flit, and what comes before the resend is dropped;
so is a message of another incarnation (R361, R362). -/
def execAzimuthFlitReceive (port n : Nat) (ok : Bool) (src incarn : Nat) (m : AzMsg) : Event := fun s =>
  let s := s.modLink fun x => { x with azLast := x.azLast.set port s.cycle }
  if n ≠ s.link.azNext.get 0 port then .next s
  else if !ok then .next (s.modLink fun x => { x with azRetry := x.azRetry.set port true })
  else
    let s := s.modLink fun x => { x with azNext := x.azNext.set port (n + 1), azRetry := x.azRetry.set port false }
    let cell := (azCell m).map fun c => podCellIncarn s.link.pod src c
    if incarn % 2 ^ 16 ≠ podIncarn s.link.pod src ∨ cell.any (· ≠ incarn / 2 ^ 16) then .next s else s.azTake src m

end Sys2Proof.Machine
end

