-- ==== Sys2Proof/Machine/Boot.lean ====
section
/-! DEFINITION. Start-up, power and temperature (R366, R368, R370, R371). -/

namespace Sys2Proof.Machine

/-! ### Staged start (R370) -/

/-- The state after power-good, in which batch 0 opens: the counters of the model's own free values and inputs go on. -/
def State.powerUp (s : State) : State :=
  let clock : Sched := { Sched.reset with
    cycle := s.sched.cycle, free := s.sched.free, inputs := s.sched.inputs, flaws := s.sched.flaws }
  { State.reset with sched := clock, seq := { Sequencer.reset with opened := s.sched.cycle } }

/-- POWER_GOOD. -/
def execPowerGood : Event := fun s => .next s.powerUp

/-- Whether the next stage is to be scheduled: the start has not come to its end, failed or been halted, and no stage is
on its way. -/
def State.bootDue (s : State) : Bool :=
  decide (s.part.stage < 4) && !s.part.bootFail && !s.part.halted &&
  !(s.sched.flight.any fun f => match f.parcel with
    | .step (.bootStageComplete _) _ => true
    | _ => false)

/-- cclk within which a stage ends: 50 ms for the boot core's image, and an open time for the others (R370, log 3). -/
def bootTime (stage free : Nat) : Nat := if stage = 0 then free % 100000000 else free

/-- The current stage will end, well or not: both are open. -/
def State.bootStart (s : State) : State :=
  let (n, s) := s.freeNat
  let (w, s) := s.freeWord
  s.after (bootTime s.part.stage n + 1) (.bootStageComplete (bitOf w 0)) 0

/-- A fault service core starts at an entry of the boot firmware, which the manual does not give: its slot 0 is in RUN at
an open multiple of 4 (log 10). -/
def State.startFsc (s : State) (die : Nat) : State :=
  let (w, s) := s.freeWord
  s.modSlot ((3072 + die) * 16) fun sl => { sl with run := .run, pc := natW (w.toNat / 4 * 4) }

/-- Full compute: key 0 is installed and every fault service core runs. -/
def State.fullCompute (s : State) : State :=
  let (bs, s) := State.freeBytes 8 s
  let words := (List.range 8).map fun i => natW (leNat ((bs.drop (8 * i)).take 8))
  let s := s.modPart fun p => { p with stage := 4, keys := p.keys.set 0 words, keyGen := p.keyGen.set 0 (p.keyGen.get 0 0 + 1) }
  (List.range 4).foldl State.startFsc s

/-- BOOT_STAGE_COMPLETE: the stage ends well, and the next one begins, or it sets FAIL; a rejected image holds STAGE where it
stands; whether the boot core accepts its image is what R368 says of it (R368, R370). -/
def execBootStageComplete (ok : Bool) : Event := fun s =>
  .next (match s.part.stage with
    | 0 =>
      (s.modPart fun p => { p with stage := 1 }).loadImage Config.bootImage
    | 1 => if s.part.bootFail then s else s.modPart fun p => { p with stage := 2 }
    | 2 => if s.part.bootFail then s else s.modPart fun p =>
        if ok then { p with stage := 3 } else { p with bootFail := true, testFail := true }
    | 3 => if s.part.bootFail then s
      else if ok then s.fullCompute else s.modPart fun p => { p with bootFail := true, testFail := true }
    | _ => s)

/-! ### Power and temperature (R371) -/

/-- Temperature of a die, in units of 0.0625 °C. -/
def dieTemp (temp : BitVec 48) (die : Nat) : Nat := temp.toNat / 2 ^ (12 * die) % 4096

/-- Whether any die has reached a temperature in °C; `past` asks for more than that. -/
def anyDie (temp : BitVec 48) (past : Bool) (limit : Nat) : Bool :=
  (List.range 4).any fun d => decide (limit * 16 + (if past then 1 else 0) ≤ dieTemp temp d)

/-- The excess chooses one rotation in 2 to 16: how is open. -/
def throttle (free : Nat) : Nat := 2 + free % 15

/-- THERMAL_SHUTDOWN: every clock but the boot core's stops, and the part is in stage 1 until it is started again.
Memory keeps what it holds (log 28). -/
def execThermalShutdown : Event := fun s =>
  let t := State.reset
  .next { s.powerUp with
    mem := s.mem, poison := s.poison, soft := s.soft, unitKey := s.unitKey
    part := { t.part with
      stage := 1, halted := true, images := s.part.images, reports := s.part.reports, temp := s.part.temp
      keys := s.part.keys, keyGen := s.part.keyGen
      power := s.part.power, thermLimit := s.part.thermLimit, pwrLimit := s.part.pwrLimit }
    link := { s.link with held := false, holdAsked := false } }

/-- POWER_MEASURE. -/
def execPowerMeasure (watts : W32) (temp : BitVec 48) : Event := fun s =>
  let s := s.modPart fun p => { p with power := watts, temp := temp }
  if anyDie temp false 115 then .next (s.thenDo .thermalShutdown 0)
  else if s.part.pwrLimit < watts.toNat ∨ anyDie temp true s.part.thermLimit then
    let (n, s) := s.freeNat
    .next (s.modPart fun p => { p with holdEvery := throttle n })
  else .next (s.modPart fun p => { p with holdEvery := 0 })

/-- Whether the part holds its program slots in this rotation. -/
def State.throttled (s : State) : Bool :=
  s.part.holdEvery != 0 && s.cycle / 16 % s.part.holdEvery == 0

end Sys2Proof.Machine
end

