-- ==== Sys2Proof/Machine/Fetch.lean ====
section
/-! DEFINITION. Instruction fetch: the fetch buffer and its carry, the cluster's fetch port and instruction
cache (R155, R156, R165). -/

namespace Sys2Proof.Machine

/-! ### The fetch buffer (R156) -/

/-- Word i of the instruction at the slot's PC, if it is in the buffer or the carry, with its poison mark. -/
def Slot.word (sl : Slot) (i : Nat) : Option (W32 × Bool) :=
  let a := (sl.pc + natW (4 * i)).toNat
  if sl.fblock = some (a / 64) then some (lineWord sl.fdata (a / 4), sl.fpoison.getLsbD (wordIx a))
  else if sl.carryPc = sl.pc then sl.carry[i]?
  else none

/-- The first words of the instruction that are here, up to n. -/
def Slot.words (sl : Slot) : Nat → Nat → List (W32 × Bool)
  | 0, _ => []
  | n + 1, i => match sl.word i with
    | some w => w :: sl.words n (i + 1)
    | none => []

/-- Words of the instruction at the PC, as far as they are here: LEN of word 0 says how many it has
(R163). -/
def Slot.fetched (sl : Slot) : List (W32 × Bool) × Nat :=
  match sl.word 0 with
  | none => ([], 1)
  | some (w0, _) => (sl.words (Decode.lenWords w0) 0, Decode.lenWords w0)

/-- Address of the first word that is missing, if one is. -/
def Slot.missingAt (sl : Slot) : Option Word :=
  let (ws, n) := sl.fetched
  if ws.length < n then some (sl.pc + natW (4 * ws.length)) else none

/-- The slot with a block in its buffer; the first words of its instruction stay in the carry. -/
def Slot.takeBlock (sl : Slot) (block : Nat) (data : LineData) (poison : BitVec 16) : Slot :=
  let ws := sl.fetched.1
  { sl with carryPc := sl.pc, carry := ws, fblock := some block, fdata := data, fpoison := poison }

/-! ### Reading code -/

/-- Byte addresses of a block through a leaf, or in the near window; none where a region ends. -/
def State.blockAddrs (s : State) (cell : Nat) (leaf : Option Leaf) (block : Nat) : List (Option Nat) :=
  (List.range 64).map fun i => match leaf with
    | none => (nearLocal cell (64 * block + i) 1)
    | some l => match s.leafAddrs l (64 * block + i) 1 with
      | some (a :: _) => some a
      | _ => none

/-- Bytes at some addresses, those of an address that is none 0, and the words that are poisoned; `view` reads the stored array
past L2, as a view engine does (R39, R70). -/
def State.readBlock (s : State) (cell key : Nat) (view : Bool) (as : List (Option Nat)) : List Byte × List Nat × State :=
  let count := (s.cell cell).fixNo
  let s := s.noteSoft (as.filterMap id)
  let (bs, s) := as.foldl (fun (r : List Byte × State) a => match a with
    | none => (r.1 ++ [0], r.2)
    | some a =>
      let (b, s) := if view then r.2.hbmRead key [r.2.redirect count a] else r.2.physRead count key [a]
      (r.1 ++ b, s)) ([], s)
  let bad := (List.range 16).filter fun w => ((as.drop (4 * w)).take 4).any fun a => match a with
    | some a => (if view then s.poisonAt count [a] else s.physPoison count [a]).isSome
    | none => false
  (bs, bad, s)

/-- Room in the instruction cache of 8 ways and 256 sets (R69, log 11). -/
def State.icacheRoom (s : State) (cl line : Nat) : State :=
  let ways := (s.cluster cl).icache.filter fun x => x.line % 256 = line % 256
  if ways.length < 8 then s
  else
    let (n, s) := s.freeNat
    match ways[n % ways.length]? with
    | some v => s.modCluster cl fun c => { c with icache := c.icache.filter fun x => x.line ≠ v.line }
    | none => s

/-- Mask of a list of words. -/
def maskOfWords (ws : List Nat) : BitVec 16 := ws.foldl (fun m w => m ||| BitVec.ofNat 16 (2 ^ w)) 0

/-- The lines that a block of a translated page in HBM lies in, where the caches hold them: a plain page or a row view (R39,
R70). -/
def codeLines (l : Leaf) (as : List (Option Nat)) : Option (List Nat) :=
  let as := as.filterMap id
  if lView l = 0 ∧ as ≠ [] ∧ as.all (fun a => placeOf a == .hbm) then some (linesOf as) else none

/-- The bytes of a block from the lines of the instruction cache that hold it. -/
def Cluster.codeBytes (c : Cluster) (as : List (Option Nat)) : List Byte × List Nat :=
  let find (a : Nat) : Option ILine := c.icache.find? fun (x : ILine) => x.line = a / 64
  (as.map fun a => match a with
    | some a => ((find a).map fun x => lineByte x.data a).getD 0
    | none => 0,
  (List.range 16).filter fun w => ((as.drop (4 * w)).take 4).any fun a => match a with
    | some a => (find a).any fun x => x.poison.getLsbD (wordIx a)
    | none => false)

/-- A line comes into the instruction cache from its home slice (R155).  DESIGN CHOICE (log 108): the cache holds it from the choice of
the request that missed on, so that a request chosen before the block arrives hits. -/
def State.fetchLine (s : State) (cl cell : Nat) (t : Target) (line : Nat) : State :=
  if (s.cluster cl).icache.any fun (x : ILine) => x.line = line then s
  else
    let s := (s.noteSoft (addrsFrom (64 * line) 64)).l2Fetch t.key line
    let (bs, bad, s) := s.readBlock cell t.key false ((addrsFrom (64 * line) 64).map some)
    let (va, vas) := s.lineVas t line
    (s.icacheRoom cl line).modCluster cl fun c => { c with icache := c.icache ++
      [⟨line, va, vas, (t.leaf.map (·.ctx)).getD 0, lineOfBytes bs, maskOfWords bad⟩] }

/-- Whether two requests are served by one delivery: a near block serves one cell (R155). -/
def sameBlock (q r : FetchReq) : Bool :=
  q.ctx == r.ctx && q.block == r.block && (!isNear (64 * q.block) || cellOf q.slot == cellOf r.slot)

/-- The oldest of some requests, the lowest core index first among equals (R155). -/
def oldestReq : List FetchReq → Option FetchReq
  | [] => none
  | q :: rest => match oldestReq rest with
    | none => some q
    | some r => if q.at_ < r.at_ ∨ (q.at_ = r.at_ ∧ coreOf q.slot ≤ coreOf r.slot) then some q else some r

/-- Latency of a core's access to a near address (R69). -/
def nearTime (a : Nat) : Nat := match placeOf a with | .tile _ => 8 | _ => 15

/-- The request of a block of code to another cell's service slot or to another part (R29, R93). -/
def codeRequest (s : State) (q : FetchReq) (as : List (Option Nat)) (key : Nat) : MemReq :=
  ⟨fetchKey q.slot, cellOf q.slot, false, false, as.map fun a => a.getD 0, [], key, (s.cell (cellOf q.slot)).fixNo, [], true,
    s.secureOf q.slot, (s.slot q.slot).pc⟩

/-- FETCH_PORT_SELECT of the cluster that `cur` names (R155).  The delivery carries the cclk of the choice as its unit: only slots
that had asked by then take it. -/
def execFetchPortSelect : Event := fun s =>
  let cl := s.cur
  let now := s.cycle
  match oldestReq ((s.cluster cl).freqs.filter fun q => q.sel.isNone) with
  | none => .next s
  | some q =>
    let choose (r : FetchReq) : FetchReq := if r.sel.isNone && sameBlock q r then { r with sel := some now } else r
    let s' := s.modCluster cl fun c => { c with freqs := c.freqs.map choose }
    let cell := cellOf q.slot
    let send (n : Option Nat) (o : Option Nat) (bs : List Byte) (bad : List Nat) (s : State) : State :=
      let (t, s) := match n with
        | some t => (t, s)
        | none => let (t, s) := s.freeNat; (t + 1, s)
      s.after t (.fetchBlockDelivery cl q.ctx q.block o bs bad) now
    if isNear (64 * q.block) then
      let as := s'.blockAddrs cell none q.block
      let (bs, bad, s) := s'.readBlock cell 0 false as
      .next (send (some (nearTime ((as.headD none).getD 0))) (some cell) bs bad s)
    else match (s.core (coreOf q.slot)).itlb.find? fun l => leafCovers l q.ctx (pageOf (64 * q.block)) with
      | none => .next (s.modCluster cl fun c => { c with freqs := c.freqs.filter fun r => !(r.sel.isNone && sameBlock q r) })
      | some l =>
        let s := s'
        let as := s.blockAddrs cell (some l) q.block
        let a := (as.headD none).getD 0
        let part := if lRegion l = 0 then addrPart (lFrame l) else s.link.pod.k
        let t : Target := ⟨natW (canon (64 * q.block)), as.filterMap id, part, some l, 0⟩
        match serverOf s.link.pod.k cell t with
        | .part p =>
          .next (s.toPart p (.mem s.link.pod.k (codeRequest s q as (lKey l))))
        | .remote owner =>
          .next (s.send clsMemReq (slotChan q.slot) owner (.remote owner (.mem s.link.pod.k (codeRequest s q as (lKey l)))))
        | _ => match codeLines l as with
          | some ls =>
            if ls.all fun n => (s.cluster cl).icache.any fun (x : ILine) => x.line = n then
              let (bs, bad) := (s.cluster cl).codeBytes as
              .next (send (some 4) none bs bad s)
            else
              let s := ls.foldl (fun s n => s.fetchLine cl cell t n) s
              let (bs, bad) := (s.cluster cl).codeBytes as
              .next (send none none bs bad s)
          | none =>
            let (bs, bad, s) := s.readBlock cell (lKey l) (lRegion l != 0) as
            .next (send (if lRegion l = 0 then some (nearTime a) else none) none bs bad s)

/-- Whether a slot waits for a block. -/
def Slot.wantsBlock (sl : Slot) (ctx block : Nat) : Bool :=
  sl.run == .wait wFetch && sl.pend == .none && sl.ctx == ctx &&
  match sl.missingAt with
  | some a => a.toNat / 64 == block
  | none => false

/-- Whether a request is one that a delivery chosen in cclk t serves. -/
def FetchReq.servedBy (q : FetchReq) (ctx block : Nat) (cell : Option Nat) (t : Nat) : Bool :=
  q.ctx == ctx && q.block == block && q.sel.isSome && decide (q.at_ ≤ t) &&
  match cell with
  | some c => cellOf q.slot == c
  | none => true

/-- FETCH_BLOCK_DELIVERY, chosen in the cclk that `cur` names: the block reaches the slots that had asked for it by then
(R155, R156). -/
def execFetchBlockDelivery (cluster ctx block : Nat) (cell : Option Nat) (data : List Byte) (poison : List Nat) :
    Event := fun s =>
  let served := (s.cluster cluster).freqs.filter fun q => q.servedBy ctx block cell s.cur
  let takes (k : Nat) (sl : Slot) : Bool :=
    sl.wantsBlock ctx block && served.any fun q => q.slot == k && q.gen == sl.gen.toNat
  let put (e : Nat × Slot) : Nat × Slot :=
    if takes e.1 e.2 then (e.1, { (e.2.takeBlock block (lineOfBytes data) (maskOfWords poison)) with run := .run }) else e
  let s := { s with slots := s.slots.map put }
  .next (s.modCluster cluster fun c => { c with freqs := c.freqs.filter fun q => !q.servedBy ctx block cell s.cur })

/-- Whether the slot's request for a block waits at the fetch port or is on its way back. -/
def State.fetchAsked (s : State) (k block : Nat) : Bool :=
  let sl := s.slot k
  (s.cluster (clusterOf (cellOf k))).freqs.any fun q => q.slot = k ∧ q.block = block ∧ q.ctx = sl.ctx ∧ q.gen = sl.gen.toNat

/-- The slot asks for the block of an address, after the checks of a fetch: bad address, near range,
world, translation, permission (R155, R207, R214).  A fetch that has not led to an issue counts none, and its turn is idle (R328). -/
def State.askBlock (s : State) (k : Nat) (a : Word) : Host.Outcome State Fault Refusal :=
  let s := { s with cur := k }
  let idle (s : State) : State := s.modCore (coreOf k) fun c => c.stall wFetch
  match accessTo a 4 2 false s with
  | .ok (_, s) =>
    let s := idle s
    let s := s.modSlot k fun sl => { sl with run := .wait wFetch, walkPoison := none }
    if s.fetchAsked k (a.toNat / 64) then .next s
    else .next (s.modCluster (clusterOf (cellOf k)) fun c =>
      { c with freqs := c.freqs ++ [⟨k, (s.slot k).ctx, a.toNat / 64, s.cycle, (s.slot k).gen.toNat, none⟩] })
  | .error (.trap c v) => .next ((idle s).trapEntry k c v)
  | .error (.wait c on) => .next (s.hold c on)
  | .error (.miss page kind va) => .next (((idle s).blockOn .retry page kind va).modSlot k fun sl => { sl with run := .wait wFetch })
  | .error (.fault f va) => .next ((idle s).faultOn .retry f va)
  | .error (.fixField l va) => .next ((idle s).holdForFix .retry l va)
  | .error .declined => .next ((idle s).declineSlot k)
  | .error (.remote _ _) => .next (idle s)

/-- Word 0 at an address, read only for its length (R208): from the slot's buffer, or as the fetch port would
read it; none while another cell or part is asked for it. -/
def peekWord (a : Word) : Act (Option W32) := do
  let sl ← getSlot
  let bad (b : Bool) : Act Unit := trapIf b cUncorrectable (natW (a.toNat / 8 * 8))
  if sl.fblock = some (a.toNat / 64) then
    bad (sl.fpoison.getLsbD (wordIx a.toNat))
    pure (some (lineWord sl.fdata (a.toNat / 4)))
  else do
    let t ← accessTo a 4 2 false
    let s ← get
    let k := s.cur
    let c := cellOf k
    let as := t.addrs.map some
    let q : MemReq := ⟨k, c, false, false, t.addrs, [], t.key, (s.cell c).fixNo, [], false, s.secureOf k, a⟩
    let here (bs : List Byte) : W32 := BitVec.ofNat 32 (leNat bs)
    match sl.latch, serverOf s.link.pod.k c t with
    | w :: _, _ => pure (some (w.truncate 32))
    | [], .part p => do
      act fun s => s.toPart p (.mem s.link.pod.k q)
      pure none
    | [], .remote owner => do
      act fun s => s.send clsMemReq (slotChan k) owner (.remote owner (.mem s.link.pod.k q))
      pure none
    | [], _ =>
      match t.leaf.bind fun l => codeLines l as with
      | some ls =>
        if ls.all fun n => (s.cluster (clusterOf c)).icache.any fun (x : ILine) => x.line = n then do
          let (bs, ws) := (s.cluster (clusterOf c)).codeBytes as
          bad (!ws.isEmpty)
          pure (some (here bs))
        else do
          let (bs, ws) ← actWith fun s => let (bs, ws, s) := s.readBlock c t.key false as; ((bs, ws), s)
          bad (!ws.isEmpty)
          pure (some (here bs))
      | none => do
        let (bs, ws) ← actWith fun s => let (bs, ws, s) := s.readBlock c t.key (t.leaf.any fun l => lRegion l != 0) as; ((bs, ws), s)
        bad (!ws.isEmpty)
        pure (some (here bs))

end Sys2Proof.Machine
end

