-- ==== Sys2Proof/Machine/Control.lean ====
section
/-! DEFINITION. Branches, jumps, loops, `align`, `nop` and undefined encodings (R157, R170, R206 to R212). -/

namespace Sys2Proof.Machine

/-- PC + 4 · off (R165, R206). -/
def target (pc off : Word) : Word := pc + 4 * off

/-- A conditional branch (R206). -/
def branch (g : Guard) (o : Opnd 11) (cond : Act Bool) : State → Host.Outcome State Fault Refusal :=
  issue g (opLen g o) do
    let c ← cond
    let sl ← getSlot
    pure (if c then .jump (target sl.pc (imm o)) else .seq)

def execBcc (g : Guard) (c : Bcc) (o : Opnd 11) (b a : Reg) : State → Host.Outcome State Fault Refusal :=
  branch g o do
    let x ← readG a
    let y ← readG b
    pure (bccHolds c x y)

def execBp (g : Guard) (o : Opnd 11) (p : PredIx) : State → Host.Outcome State Fault Refusal :=
  branch g o (readP p)

def execBnp (g : Guard) (o : Opnd 11) (p : PredIx) : State → Host.Outcome State Fault Refusal :=
  branch g o do
    let b ← readP p
    pure !b

def execJ (g : Guard) (o : Opnd 24) : State → Host.Outcome State Fault Refusal :=
  issue g (opLen g o) do
    let sl ← getSlot
    pure (.jump (target sl.pc (imm o)))

def execJal (g : Guard) (o : Opnd 24) : State → Host.Outcome State Fault Refusal :=
  issue g (opLen g o) do
    let sl ← getSlot
    writeG 1 (sl.pc + natW (opLen g o))
    pure (.jump (target sl.pc (imm o)))

/-- A jump target must be a multiple of 4 (R207). -/
def checkTarget (t : Word) : Act Unit := trapIf (t.toNat % 4 != 0) cMisaligned t

def execJr (g : Guard) (a : Reg) : State → Host.Outcome State Fault Refusal :=
  issue g (formLen g) do
    let t ← readG a
    checkTarget t
    pure (.jump t)

def execJalr (g : Guard) (a d : Reg) : State → Host.Outcome State Fault Refusal :=
  issue g (formLen g) do
    let t ← readG a
    checkTarget t
    let sl ← getSlot
    writeG d (sl.pc + natW (formLen g))
    pure (.jump t)

/-- The slot with a loop level set (R208). -/
def Slot.setLoop (sl : Slot) (level : BitVec 1) (count first last : Word) : Slot :=
  if level = 0 then { sl with lc0 := count, lb0 := first, le0 := last }
  else { sl with lc1 := count, lb1 := first, le1 := last }

/-- `loop` (R208).  DEDUCED (log 95): with n = 0 it sets the PC past its body as a taken branch does, and no end check follows
(R209). -/
def execLoop (g : Guard) (l : BitVec 1) (i : BitVec 14) (a : Reg) : State → Host.Outcome State Fault Refusal :=
  issue g (formLen g) do
    let n ← readG a
    let sl ← getSlot
    let last := target sl.pc (i.signExtend 64)
    let set : Act Unit := modMe fun sl => sl.setLoop l n (sl.pc + natW (formLen g)) last
    if n = 0 then
      match ← peekWord last with
      | none => pure (.leave .latch wMem)
      | some w0 => do
        set
        pure (.jump (last + natW (4 * Decode.lenWords w0)))
    else do
      set
      pure .seq

/-! ### `align` (R157) -/

/-- Whether slot j trails: on another core of slot k's cluster, in the same context, in RUN or WAIT,
with its PC in [lo, hi). -/
def State.trails (s : State) (k lo hi j : Nat) (sl : Slot) : Bool :=
  coreOf j != coreOf k && clusterOf (cellOf j) == clusterOf (cellOf k) && sl.ctx == (s.slot k).ctx &&
  (match sl.run with | .run => true | .wait _ => true | _ => false) &&
  decide (lo ≤ sl.pc.toNat) && decide (sl.pc.toNat < hi)

/-- Whether a slot trails slot k in a range. -/
def State.anyTrails (s : State) (k lo hi : Nat) : Bool := s.slots.any fun e => s.trails k lo hi e.1 e.2

def execAlign (i : BitVec 14) : State → Host.Outcome State Fault Refusal :=
  issue .always 4 do
    let s ← get
    let k := s.cur
    let pc := (s.slot k).pc.toNat
    let lo := pc - i.toNat
    if i = 0 ∨ slotOf k = 15 ∨ !s.anyTrails k lo pc then pure .seq
    else pure (.leave (.hold (s.cycle + 128) lo pc) wFetch)

/-- ALIGN_HOLD_EXPIRE of the slot that `cur` names (R157). -/
def execAlignHoldExpire : Event := fun s =>
  match (s.slot s.cur).pend with
  | .hold _ _ _ => s.complete s.cur .plain (pure ())
  | _ => .next s

def execNop (g : Guard) : State → Host.Outcome State Fault Refusal := issue g (formLen g) (pure .seq)

/-- A word that is no instruction traps (R170, R171). -/
def execUndefinedEncoding (w0 : W32) : State → Host.Outcome State Fault Refusal :=
  issue .always 4 (trap cUndefined (w0.zeroExtend 64))

end Sys2Proof.Machine
end

