-- ==== Sys2Proof/Machine/Turns.lean ====
section
/-! DEFINITION. Turns and rotations: idle turns and their counters, and what happens at a rotation boundary (R145,
R146, R148, R328). -/

namespace Sys2Proof.Machine

/-! ### Idle turns (R148, R328) -/

/-- Whether a power or temperature hold keeps a slot from its turn: program slots of the cells (R371). -/
def State.powerHeld (s : State) (k : Nat) : Bool := s.part.holding && !isFsc (coreOf k) && decide (slotOf k < 15)

/-- Whether all work is held after a death notice (R361). -/
def State.deathHeld (s : State) (k : Nat) : Bool := s.link.held && !isFsc (coreOf k)

/-- Cause of an idle turn of a slot (R148).  DEDUCED (log 69): a slot in RUN that may not issue for a reason that R148 does not
list counts as memory. -/
def State.idleCause (s : State) (k : Nat) : Nat :=
  let sl := s.slot k
  match sl.run with
  | .free => 7
  | .claimed _ => 7
  | .wait c => c
  | .run =>
    if s.powerHeld k then wFetch
    else if sl.skip ≠ 0 then wExec
    else wMem

/-- IDLE_TURN of the slot that `cur` names.  DESIGN CHOICE (log 87): a turn lost to a power or temperature hold (R371) is not
one of the turns that R55 skips, while one held by R361 or R344 is. -/
def execIdleTurn : Event := fun s =>
  let k := s.cur
  let sl := s.slot k
  let s' := s.modCore (coreOf k) fun c => c.stall (s.idleCause k)
  .next (if sl.run = .run ∧ sl.skip ≠ 0 ∧ !s.powerHeld k then s'.modSlot k fun sl => { sl with skip := sl.skip - 1 } else s')

/-! ### Rotation boundaries (R145, R146) -/

/-- Whether a reply address is owed to a slot that ends; pushes that have not drained keep theirs. -/
def Slot.owes (sl : Slot) (k a : Nat) : Bool :=
  a == k || (decide (0x20000 ≤ a) && (a - 0x20000) / 8 == k &&
    !(let x := sl.streams[(⟨a % 8, Nat.mod_lt _ (by decide)⟩ : Fin 8)]; x.mapped && x.writes))

/-- Slots that a fork has claimed are FREE again when their issuer ends. -/
def State.unclaim (s : State) (k : Nat) : State :=
  if (s.slot k).fork.isNone then s
  else
    let f (e : Nat × Slot) : Nat × Slot := if e.2.run = .claimed k then (e.1, { e.2 with run := .free }) else e
    { s with slots := s.slots.map f }

/-- The slot is FREE at the end of the rotation in which its work ended.  A write-through of it that is still on its way will
be seen at its home, and its pushes drain on (R143). -/
def State.freeSlotNow (s : State) (k : Nat) : State :=
  let sl := s.slot k
  let s := match sl.pend with
    | .through _ bs => s.l1Unsure (cellOf k) (bs.map fun (e : Nat × Byte) => e.1)
    | _ => s
  let s := ((s.disownAll fun w a => sl.owes k a && !(w && s.orphanWaits a)).modSched fun c =>
    { c with flight := c.flight.filter fun x => !ownDelay k x.parcel }).unclaim k
  let s := s.modCluster (clusterOf (cellOf k)) fun c => { c with freqs := c.freqs.filter fun q => q.slot ≠ k || q.sel.isSome }
  (s.orphan k).setSlot k sl.vacated

/-- Slots whose work has ended. -/
def State.endingSlots (s : State) : List Nat := (s.slots.filter fun (e : Nat × Slot) => e.2.ending).map fun (e : Nat × Slot) => e.1

/-- ROTATION_BOUNDARY: whether this rotation is held (R371), operations on contexts, slots that end, cuts that can be taken,
and a hold that was asked for (R146, R344, R347, R352, R361). -/
def execRotationBoundary : Event := fun s =>
  let s := s.ctxOps.foldl (fun (s : State) o => s.opBoundary o) s
  let s := s.endingSlots.foldl State.freeSlotNow s
  let s := if s.part.holding = s.throttled then s else s.modPart fun p => { p with holding := s.throttled }
  let cells := (s.cells.filter fun (c : Nat × Cell) => s.cutReady c.1).map fun (c : Nat × Cell) => c.1
  let s := cells.foldl (fun (s : State) c => s.thenDo .cutTake c) s
  .next (if s.link.holdAsked then s.modLink fun x => { x with holdAsked := false, held := true } else s)

end Sys2Proof.Machine
end

