-- ==== Sys2Proof/Machine/Dispatch.lean ====
section
/-! DEFINITION. The dispatch: one arm for each constructor of Instr, each a direct call of its meaning. -/

namespace Sys2Proof.Machine

def exec (i : Instr) (s : State) : Host.Outcome State Fault Refusal :=
  match i with
  | .add g w b a d => Sys2Proof.Machine.execAdd g w b a d s
  | .sub g w b a d => Sys2Proof.Machine.execSub g w b a d s
  | .and g b a d => Sys2Proof.Machine.execAnd g b a d s
  | .or g b a d => Sys2Proof.Machine.execOr g b a d s
  | .xor g b a d => Sys2Proof.Machine.execXor g b a d s
  | .andn g b a d => Sys2Proof.Machine.execAndn g b a d s
  | .orn g b a d => Sys2Proof.Machine.execOrn g b a d s
  | .shl g w b a d => Sys2Proof.Machine.execShl g w b a d s
  | .shr g w b a d => Sys2Proof.Machine.execShr g w b a d s
  | .sar g w b a d => Sys2Proof.Machine.execSar g w b a d s
  | .rol g w b a d => Sys2Proof.Machine.execRol g w b a d s
  | .min g w b a d => Sys2Proof.Machine.execMin g w b a d s
  | .max g w b a d => Sys2Proof.Machine.execMax g w b a d s
  | .minu g w b a d => Sys2Proof.Machine.execMinu g w b a d s
  | .maxu g w b a d => Sys2Proof.Machine.execMaxu g w b a d s
  | .mul g w b a d => Sys2Proof.Machine.execMul g w b a d s
  | .mulh g b a d => Sys2Proof.Machine.execMulh g b a d s
  | .mulhu g b a d => Sys2Proof.Machine.execMulhu g b a d s
  | .madd g w b a d => Sys2Proof.Machine.execMadd g w b a d s
  | .div g w b a d => Sys2Proof.Machine.execDiv g w b a d s
  | .divu g w b a d => Sys2Proof.Machine.execDivu g w b a d s
  | .rem g w b a d => Sys2Proof.Machine.execRem g w b a d s
  | .remu g w b a d => Sys2Proof.Machine.execRemu g w b a d s
  | .clz g w a d => Sys2Proof.Machine.execClz g w a d s
  | .ctz g w a d => Sys2Proof.Machine.execCtz g w a d s
  | .popc g w a d => Sys2Proof.Machine.execPopc g w a d s
  | .sext g x a d => Sys2Proof.Machine.execSext g x a d s
  | .zext g x a d => Sys2Proof.Machine.execZext g x a d s
  | .sel g p b a d => Sys2Proof.Machine.execSel g p b a d s
  | .addi g n a d => Sys2Proof.Machine.execAddi g n a d s
  | .andi g n a d => Sys2Proof.Machine.execAndi g n a d s
  | .ori g n a d => Sys2Proof.Machine.execOri g n a d s
  | .xori g n a d => Sys2Proof.Machine.execXori g n a d s
  | .shli g w k a d => Sys2Proof.Machine.execShli g w k a d s
  | .shri g w k a d => Sys2Proof.Machine.execShri g w k a d s
  | .sari g w k a d => Sys2Proof.Machine.execSari g w k a d s
  | .li g n d => Sys2Proof.Machine.execLi g n d s
  | .lpc g n d => Sys2Proof.Machine.execLpc g n d s
  | .extr g l p a d => Sys2Proof.Machine.execExtr g l p a d s
  | .ins g l p a d => Sys2Proof.Machine.execIns g l p a d s
  | .cmp g c w b a p => Sys2Proof.Machine.execCmp g c w b a p s
  | .cmpi g c n a p => Sys2Proof.Machine.execCmpi g c n a p s
  | .fcmp g c t b a p => Sys2Proof.Machine.execFcmp g c t b a p s
  | .pand g b a d => Sys2Proof.Machine.execPand g b a d s
  | .por g b a d => Sys2Proof.Machine.execPor g b a d s
  | .pxor g b a d => Sys2Proof.Machine.execPxor g b a d s
  | .pandn g b a d => Sys2Proof.Machine.execPandn g b a d s
  | .pget g d => Sys2Proof.Machine.execPget g d s
  | .pset g a => Sys2Proof.Machine.execPset g a s
  | .fadd g t b a d => Sys2Proof.Machine.execFadd g t b a d s
  | .fsub g t b a d => Sys2Proof.Machine.execFsub g t b a d s
  | .fmul g t b a d => Sys2Proof.Machine.execFmul g t b a d s
  | .fmin g t b a d => Sys2Proof.Machine.execFmin g t b a d s
  | .fmax g t b a d => Sys2Proof.Machine.execFmax g t b a d s
  | .fdiv g t b a d => Sys2Proof.Machine.execFdiv g t b a d s
  | .fsqrt g t a d => Sys2Proof.Machine.execFsqrt g t a d s
  | .fma g t b a d => Sys2Proof.Machine.execFma g t b a d s
  | .fms g t b a d => Sys2Proof.Machine.execFms g t b a d s
  | .fnma g t b a d => Sys2Proof.Machine.execFnma g t b a d s
  | .fabs g t a d => Sys2Proof.Machine.execFabs g t a d s
  | .fneg g t a d => Sys2Proof.Machine.execFneg g t a d s
  | .fclass g t a d => Sys2Proof.Machine.execFclass g t a d s
  | .fcvt g k a d => Sys2Proof.Machine.execFcvt g k a d s
  | .bcc g c o b a => Sys2Proof.Machine.execBcc g c o b a s
  | .bp g o p => Sys2Proof.Machine.execBp g o p s
  | .bnp g o p => Sys2Proof.Machine.execBnp g o p s
  | .j g o => Sys2Proof.Machine.execJ g o s
  | .jal g o => Sys2Proof.Machine.execJal g o s
  | .jr g a => Sys2Proof.Machine.execJr g a s
  | .jalr g a d => Sys2Proof.Machine.execJalr g a d s
  | .loop g l n a => Sys2Proof.Machine.execLoop g l n a s
  | .align n => Sys2Proof.Machine.execAlign n s
  | .nop g => Sys2Proof.Machine.execNop g s
  | .exit g => Sys2Proof.Machine.execExit g s
  | .ld g z h n o b d => Sys2Proof.Machine.execLd g z h n o b d s
  | .st g z h o b v => Sys2Proof.Machine.execSt g z h o b v s
  | .ldRaw g z h n o b d => Sys2Proof.Machine.execLdRaw g z h n o b d s
  | .stRaw g z h o b v => Sys2Proof.Machine.execStRaw g z h o b v s
  | .amsend g b a d => Sys2Proof.Machine.execAmsend g b a d s
  | .aadd g z b a d => Sys2Proof.Machine.execAadd g z b a d s
  | .amin g z b a d => Sys2Proof.Machine.execAmin g z b a d s
  | .amax g z b a d => Sys2Proof.Machine.execAmax g z b a d s
  | .aminu g z b a d => Sys2Proof.Machine.execAminu g z b a d s
  | .amaxu g z b a d => Sys2Proof.Machine.execAmaxu g z b a d s
  | .aand g z b a d => Sys2Proof.Machine.execAand g z b a d s
  | .aor g z b a d => Sys2Proof.Machine.execAor g z b a d s
  | .axor g z b a d => Sys2Proof.Machine.execAxor g z b a d s
  | .aswp g z b a d => Sys2Proof.Machine.execAswp g z b a d s
  | .acas g z b a d => Sys2Proof.Machine.execAcas g z b a d s
  | .homeAtomic q => Sys2Proof.Machine.execHomeAtomic q s
  | .fence g v => Sys2Proof.Machine.execFence g v s
  | .acq g v b a => Sys2Proof.Machine.execAcq g v b a s
  | .rel g v b a => Sys2Proof.Machine.execRel g v b a s
  | .invr g b a => Sys2Proof.Machine.execInvr g b a s
  | .vsync g a => Sys2Proof.Machine.execVsync g a s
  | .smap g a d => Sys2Proof.Machine.execSmap g a d s
  | .sunmap g a => Sys2Proof.Machine.execSunmap g a s
  | .sstat g a d => Sys2Proof.Machine.execSstat g a d s
  | .sskip g b a => Sys2Proof.Machine.execSskip g b a s
  | .spref g a => Sys2Proof.Machine.execSpref g a s
  | .tbind q view plane fmt cols rows b a td => Sys2Proof.Machine.execTbind q view plane fmt cols rows b a td s
  | .tfree q td => Sys2Proof.Machine.execTfree q td s
  | .tstate q dw d td => Sys2Proof.Machine.execTstate q dw d td s
  | .twait q td => Sys2Proof.Machine.execTwait q td s
  | .tmarkR q td => Sys2Proof.Machine.execTmarkR q td s
  | .tmarkE q td => Sys2Proof.Machine.execTmarkE q td s
  | .cpLd x e td => Sys2Proof.Machine.execCpLd x e td s
  | .cpSt x e td => Sys2Proof.Machine.execCpSt x e td s
  | .cp2d x out row0 b a td => Sys2Proof.Machine.execCp2d x out row0 b a td s
  | .fill x a td => Sys2Proof.Machine.execFill x a td s
  | .gather x b a td ta => Sys2Proof.Machine.execGather x b a td ta s
  | .scatter x b a td ta => Sys2Proof.Machine.execScatter x b a td ta s
  | .gatherSublist q => Sys2Proof.Machine.execGatherSublist q s
  | .halo x w td => Sys2Proof.Machine.execHalo x w td s
  | .haloArrival q => Sys2Proof.Machine.execHaloArrival q s
  | .cprot x split b a td ta => Sys2Proof.Machine.execCprot x split b a td ta s
  | .cvPlane x td ta => Sys2Proof.Machine.execCvPlane x td ta s
  | .cvUnplane x td ta => Sys2Proof.Machine.execCvUnplane x td ta s
  | .cvQ x m h td ta => Sys2Proof.Machine.execCvQ x m h td ta s
  | .cvF x m td ta => Sys2Proof.Machine.execCvF x m td ta s
  | .cvTr x td ta => Sys2Proof.Machine.execCvTr x td ta s
  | .tiLoad x t a => Sys2Proof.Machine.execTiLoad x t a s
  | .tiEval x r t td ta => Sys2Proof.Machine.execTiEval x r t td ta s
  | .mma x z bp ap td ta tb => Sys2Proof.Machine.execMma x z bp ap td ta tb s
  | .maccRd x t m v td ta => Sys2Proof.Machine.execMaccRd x t m v td ta s
  | .vadd x t br mk td ta tb => Sys2Proof.Machine.execVadd x t br mk td ta tb s
  | .vsub x t br mk td ta tb => Sys2Proof.Machine.execVsub x t br mk td ta tb s
  | .vmul x t br mk td ta tb => Sys2Proof.Machine.execVmul x t br mk td ta tb s
  | .vfma x t br mk td ta tb => Sys2Proof.Machine.execVfma x t br mk td ta tb s
  | .vmin x t br mk td ta tb => Sys2Proof.Machine.execVmin x t br mk td ta tb s
  | .vmax x t br mk td ta tb => Sys2Proof.Machine.execVmax x t br mk td ta tb s
  | .vabs x t mk td ta => Sys2Proof.Machine.execVabs x t mk td ta s
  | .vneg x t mk td ta => Sys2Proof.Machine.execVneg x t mk td ta s
  | .vcmp x c br mk td ta tb => Sys2Proof.Machine.execVcmp x c br mk td ta tb s
  | .vsel x t br tm td ta tb => Sys2Proof.Machine.execVsel x t br tm td ta tb s
  | .vscale x t mk a td ta => Sys2Proof.Machine.execVscale x t mk a td ta s
  | .vaddsc x t mk a td ta => Sys2Proof.Machine.execVaddsc x t mk a td ta s
  | .vred x o cols mk td ta => Sys2Proof.Machine.execVred x o cols mk td ta s
  | .vcvt x u t m mk td ta => Sys2Proof.Machine.execVcvt x u t m mk td ta s
  | .vmov x t mk td ta => Sys2Proof.Machine.execVmov x t mk td ta s
  | .vbcast x t br mk td ta => Sys2Proof.Machine.execVbcast x t br mk td ta s
  | .vand x t br mk td ta tb => Sys2Proof.Machine.execVand x t br mk td ta tb s
  | .vor x t br mk td ta tb => Sys2Proof.Machine.execVor x t br mk td ta tb s
  | .vxor x t br mk td ta tb => Sys2Proof.Machine.execVxor x t br mk td ta tb s
  | .vshl x t sat mk a td ta => Sys2Proof.Machine.execVshl x t sat mk a td ta s
  | .vshr x t arith mk a td ta => Sys2Proof.Machine.execVshr x t arith mk a td ta s
  | .vmuli x t sat sh mk a td ta => Sys2Proof.Machine.execVmuli x t sat sh mk a td ta s
  | .vclamp x t mk b a td ta => Sys2Proof.Machine.execVclamp x t mk b a td ta s
  | .txsub g a => Sys2Proof.Machine.execTxsub g a s
  | .txsubf g a => Sys2Proof.Machine.execTxsubf g a s
  | .txend g => Sys2Proof.Machine.execTxend g s
  | .txnum g d => Sys2Proof.Machine.execTxnum g d s
  | .txwd g b a d => Sys2Proof.Machine.execTxwd g b a d s
  | .txq g a d => Sys2Proof.Machine.execTxq g a d s
  | .mergeGateReceive die fromPart q => Sys2Proof.Machine.execMergeGateReceive die fromPart q s
  | .blmRequestArrival blm q => Sys2Proof.Machine.execBlmRequestArrival blm q s
  | .blmRelease blm num x => Sys2Proof.Machine.execBlmRelease blm num x s
  | .grantPushArrival cell num x data poison => Sys2Proof.Machine.execGrantPushArrival cell num x data poison s
  | .writeOnlyTileClear cell num t => Sys2Proof.Machine.execWriteOnlyTileClear cell num t s
  | .txnDispatch cell num => Sys2Proof.Machine.execTxnDispatch cell num s
  | .drainAck cell num x => Sys2Proof.Machine.execDrainAck cell num x s
  | .withdrawalNotice cell num => Sys2Proof.Machine.execWithdrawalNotice cell num s
  | .callat g a d => Sys2Proof.Machine.execCallat g a d s
  | .launch g a d => Sys2Proof.Machine.execLaunch g a d s
  | .tpost g q a d => Sys2Proof.Machine.execTpost g q a d s
  | .taskwd g a => Sys2Proof.Machine.execTaskwd g a s
  | .dcset g n a d => Sys2Proof.Machine.execDcset g n a d s
  | .dcdec g n a => Sys2Proof.Machine.execDcdec g n a s
  | .rfork q a d => Sys2Proof.Machine.execRfork q a d s
  | .rforkClaim k core => Sys2Proof.Machine.execRforkClaim k core s
  | .bar g n d => Sys2Proof.Machine.execBar g n d s
  | .barq g n d => Sys2Proof.Machine.execBarq g n d s
  | .semadd g n a d => Sys2Proof.Machine.execSemadd g n a d s
  | .semwait g n a d => Sys2Proof.Machine.execSemwait g n a d s
  | .semset g n a => Sys2Proof.Machine.execSemset g n a s
  | .msend g m a d => Sys2Proof.Machine.execMsend g m a d s
  | .mrecv g m d => Sys2Proof.Machine.execMrecv g m d s
  | .mpoll g m d => Sys2Proof.Machine.execMpoll g m d s
  | .mfsr g x d => Sys2Proof.Machine.execMfsr g x d s
  | .mtsr g x a => Sys2Proof.Machine.execMtsr g x a s
  | .trap g n => Sys2Proof.Machine.execTrap g n s
  | .brk g n => Sys2Proof.Machine.execBrk g n s
  | .eret g => Sys2Proof.Machine.execEret g s
  | .rng g a d => Sys2Proof.Machine.execRng g a d s
  | .fix g d => Sys2Proof.Machine.execFix g d s
  | .fixq g a d => Sys2Proof.Machine.execFixq g a d s
  | .sqctlWrite v => Sys2Proof.Machine.execSqctlWrite v s
  | .estatClear k => Sys2Proof.Machine.execEstatClear k s
  | .wdogWrite cell v => Sys2Proof.Machine.execWdogWrite cell v s
  | .qringWrite core q v => Sys2Proof.Machine.execQringWrite core q v s
  | .groupEntryWrite n v => Sys2Proof.Machine.execGroupEntryWrite n v s
  | .keyselWrite v => Sys2Proof.Machine.execKeyselWrite v s
  | .keydataWrite v => Sys2Proof.Machine.execKeydataWrite v s
  | .fetchBlockDelivery cluster ctx block cell data poison => Sys2Proof.Machine.execFetchBlockDelivery cluster ctx block cell data poison s
  | .memoryReplyArrival k r => Sys2Proof.Machine.execMemoryReplyArrival k r s
  | .fillRequest cell line key fixCount => Sys2Proof.Machine.execFillRequest cell line key fixCount s
  | .fillDataArrival cell line data poison lost => Sys2Proof.Machine.execFillDataArrival cell line data poison lost s
  | .registration cell line mask => Sys2Proof.Machine.execRegistration cell line mask s
  | .registrationAck cell line mask => Sys2Proof.Machine.execRegistrationAck cell line mask s
  | .registrationRetry cell line mask => Sys2Proof.Machine.execRegistrationRetry cell line mask s
  | .registrationResend cell line mask => Sys2Proof.Machine.execRegistrationResend cell line mask s
  | .ownershipLostNotice cell line mask => Sys2Proof.Machine.execOwnershipLostNotice cell line mask s
  | .recall cell line mask => Sys2Proof.Machine.execRecall cell line mask s
  | .copyBack cell line mask nodata data poison key fixCount => Sys2Proof.Machine.execCopyBack cell line mask nodata data poison key fixCount s
  | .copyBackAck cell line mask dropped => Sys2Proof.Machine.execCopyBackAck cell line mask dropped s
  | .writeThrough q => Sys2Proof.Machine.execWriteThrough q s
  | .viewEngineAccess q => Sys2Proof.Machine.execViewEngineAccess q s
  | .walkComplete cluster q => Sys2Proof.Machine.execWalkComplete cluster q s
  | .fixFieldUpdate cluster leaf who => Sys2Proof.Machine.execFixFieldUpdate cluster leaf who s
  | .plumeFaultMessage die router child drop who f => Sys2Proof.Machine.execPlumeFaultMessage die router child drop who f s
  | .plumeReply die router ctx page declined => Sys2Proof.Machine.execPlumeReply die router ctx page declined s
  | .faultReplyArrival cluster ctx page declined => Sys2Proof.Machine.execFaultReplyArrival cluster ctx page declined s
  | .reply die ctx page declined => Sys2Proof.Machine.execReply die ctx page declined s
  | .replayall die => Sys2Proof.Machine.execReplayall die s
  | .inval die ctx page count => Sys2Proof.Machine.execInval die ctx page count s
  | .swout die ctx area => Sys2Proof.Machine.execSwout die ctx area s
  | .swin die ctx area => Sys2Proof.Machine.execSwin die ctx area s
  | .teardown die ctx => Sys2Proof.Machine.execTeardown die ctx s
  | .teardownArrival core ctx => Sys2Proof.Machine.execTeardownArrival core ctx s
  | .sextantRead p => Sys2Proof.Machine.execSextantRead p s
  | .sextantWrite p => Sys2Proof.Machine.execSextantWrite p s
  | .sextantStart p => Sys2Proof.Machine.execSextantStart p s
  | .sextantFix p => Sys2Proof.Machine.execSextantFix p s
  | .sextantRollback p => Sys2Proof.Machine.execSextantRollback p s
  | .sextantPod p r => Sys2Proof.Machine.execSextantPod p r s
  | .sextantAck p => Sys2Proof.Machine.execSextantAck p s
  | .sextantResend n => Sys2Proof.Machine.execSextantResend n s
  | .managementOp p => Sys2Proof.Machine.execManagementOp p s
  | .attestationRequest p => Sys2Proof.Machine.execAttestationRequest p s
  | .azimuthFlitReceive port n ok src incarn m => Sys2Proof.Machine.execAzimuthFlitReceive port n ok src incarn m s
  | .azimuthHeartbeatFlit port => Sys2Proof.Machine.execAzimuthHeartbeatFlit port s
  | .deathNotice part cell => Sys2Proof.Machine.execDeathNotice part cell s
  | .fixStartReceive no => Sys2Proof.Machine.execFixStartReceive no s
  | .fixBoundReceive no bound => Sys2Proof.Machine.execFixBoundReceive no bound s
  | .fixMarkerArrival cell cls => Sys2Proof.Machine.execFixMarkerArrival cell cls s
  | .bootStageComplete ok => Sys2Proof.Machine.execBootStageComplete ok s
  | .powerMeasure watts temp => Sys2Proof.Machine.execPowerMeasure watts temp s
  | .undefinedEncoding w0 => Sys2Proof.Machine.execUndefinedEncoding w0 s
  | .sequencerWithdrawal k tag mask ctx => Sys2Proof.Machine.execSequencerWithdrawal k tag mask ctx s
  | .secondLevelTlbHit core leaf fetch who => Sys2Proof.Machine.execSecondLevelTlbHit core leaf fetch who s
  | .integerDivideComplete => Sys2Proof.Machine.execIntegerDivideComplete s
  | .fpDivideComplete => Sys2Proof.Machine.execFpDivideComplete s
  | .alignHoldExpire => Sys2Proof.Machine.execAlignHoldExpire s
  | .streamRefill => Sys2Proof.Machine.execStreamRefill s
  | .streamDrain => Sys2Proof.Machine.execStreamDrain s
  | .engineCommandStart => Sys2Proof.Machine.execEngineCommandStart s
  | .engineOperationFinish => Sys2Proof.Machine.execEngineOperationFinish s
  | .submissionAccept => Sys2Proof.Machine.execSubmissionAccept s
  | .batchClose => Sys2Proof.Machine.execBatchClose s
  | .mergeGateForward => Sys2Proof.Machine.execMergeGateForward s
  | .blmGrant => Sys2Proof.Machine.execBlmGrant s
  | .txnBudgetOverrun => Sys2Proof.Machine.execTxnBudgetOverrun s
  | .rforkShareStart => Sys2Proof.Machine.execRforkShareStart s
  | .keyInstallComplete => Sys2Proof.Machine.execKeyInstallComplete s
  | .fetchPortSelect => Sys2Proof.Machine.execFetchPortSelect s
  | .inboxAccept => Sys2Proof.Machine.execInboxAccept s
  | .ringToChipMove => Sys2Proof.Machine.execRingToChipMove s
  | .taskDispatch => Sys2Proof.Machine.execTaskDispatch s
  | .activeMessageStart => Sys2Proof.Machine.execActiveMessageStart s
  | .handlerBudgetOverrun => Sys2Proof.Machine.execHandlerBudgetOverrun s
  | .remoteAccess => Sys2Proof.Machine.execRemoteAccess s
  | .patrolScrub => Sys2Proof.Machine.execPatrolScrub s
  | .replayallArrival => Sys2Proof.Machine.execReplayallArrival s
  | .fscmdComplete => Sys2Proof.Machine.execFscmdComplete s
  | .swoutSave => Sys2Proof.Machine.execSwoutSave s
  | .swinRestore => Sys2Proof.Machine.execSwinRestore s
  | .teardownComplete => Sys2Proof.Machine.execTeardownComplete s
  | .sinkWatchdogExpire => Sys2Proof.Machine.execSinkWatchdogExpire s
  | .heartbeatProbe => Sys2Proof.Machine.execHeartbeatProbe s
  | .heartbeatLimitExpire => Sys2Proof.Machine.execHeartbeatLimitExpire s
  | .fixBoundSet => Sys2Proof.Machine.execFixBoundSet s
  | .fixGo => Sys2Proof.Machine.execFixGo s
  | .fixGoArrival => Sys2Proof.Machine.execFixGoArrival s
  | .cutTake => Sys2Proof.Machine.execCutTake s
  | .unitCopyOnWrite => Sys2Proof.Machine.execUnitCopyOnWrite s
  | .partFixComplete => Sys2Proof.Machine.execPartFixComplete s
  | .fixTimeout => Sys2Proof.Machine.execFixTimeout s
  | .powerGood => Sys2Proof.Machine.execPowerGood s
  | .thermalShutdown => Sys2Proof.Machine.execThermalShutdown s
  | .idleTurn => Sys2Proof.Machine.execIdleTurn s
  | .gateStallCycle => Sys2Proof.Machine.execGateStallCycle s
  | .rotationBoundary => Sys2Proof.Machine.execRotationBoundary s

end Sys2Proof.Machine
end

