-- ==== Sys2Proof/Machine/Errors.lean ====
section
/-! DEFINITION. Soft errors: what a single and a double error does in each storage of the part (R45, R349, R388). -/

namespace Sys2Proof.Machine

/-- A storage whose error is reported: the die, the cell index or 0, and the address or 0 (R388). -/
structure FlawPlace where
  die : Nat
  cell : Nat
  addr : Nat
  deriving DecidableEq, Repr

/-- Where a soft error is.  `word` is the doubleword number in HBM, vaults and tile stores, the word number (4 bytes) in the
L1 data caches, L2 and the owner tables, the line number in the L1 instruction caches, and else the entry's position; `unit`
is the cell of an L1 data cache or tile table, the cluster of an L1 instruction cache, the slot, the core of a data TLB and,
after it, an instruction TLB (or 4,096 more than the cluster of a second-level one), and core · 16 + queue: task queues 0 to
3, the launch FIFO, the inbox, the messages and the remote requests of the service slot, and from 8 on the command queues of
its cell's engines. -/
def Flaw.place (f : Flaw) : FlawPlace :=
  let cell (c a : Nat) : FlawPlace := ⟨dieOf c, c, a⟩
  match f.code with
  | 0 | 1 | 2 => ⟨dieOfAddr (8 * f.word), (bankOf (8 * f.word)).2.1, 8 * f.word⟩
  | 3 => cell f.unit (4 * f.word)
  | 4 => ⟨f.unit / 64, 0, 64 * f.word⟩
  | 5 | 6 => ⟨dieOfAddr (4 * f.word), 0, 4 * f.word⟩
  | 7 => cell (cellOf f.unit) 0
  | 8 => cell f.unit 0
  | 9 => if f.unit < 4096 then cell (cellOfCore f.unit) 0 else ⟨(f.unit - 4096) / 64, 0, 0⟩
  | _ => cell (cellOfCore (f.unit / 16)) 0

/-- The mask of a word in its line. -/
def wordBit (w : Nat) : BitVec 16 := BitVec.ofNat 16 (2 ^ (w % 16))

/-- A double error in a cell's L1: a dirty or owned word is poisoned; of a clean one the line is dropped, but for its dirty and
owned words (R349). -/
def State.flawL1 (s : State) (cell w : Nat) : State :=
  match s.l1 cell (w / 16) with
  | none => s
  | some x =>
    let b := wordBit w
    if (x.d ||| x.o) &&& b ≠ 0 then s.setL1 cell (w / 16) { x with poison := x.poison ||| b }
    else if x.d ||| x.o = 0 ∧ x.copying = 0 then s.modCell cell fun c => { c with l1 := c.l1.del (w / 16) }
    else s.setL1 cell (w / 16) { x with v := x.v &&& (x.d ||| x.o) }

/-- A double error in an L2 slice: a dirty word is poisoned, and a clean line is dropped; a clean word of a dirty line is fetched
again (R349). -/
def State.flawL2 (s : State) (w : Nat) : State :=
  match s.l2.find (w / 16) with
  | none => s
  | some x =>
    if x.dirty &&& wordBit w ≠ 0 then { s with l2 := s.l2.set (w / 16) { x with poison := x.poison ||| wordBit w } }
    else if x.dirty = 0 then { s with l2 := s.l2.del (w / 16) }
    else s

/-- A double error in the state of a slot ends its work, as a trap that cannot be taken does (R293, R349). -/
def State.flawSlot (s : State) (k : Nat) : State :=
  let sl := s.slot k
  if sl.run = .free ∨ sl.ending then s
  else match sl.work with
    | .role num r => s.voidTxn num ⟨5, cUncorrectable, r, sl.issues.toNat⟩
    | .handler sender => s.endHandler k cUncorrectable sender
    | _ => s.endByTrap k cUncorrectable

/-- A double error in an entry of an engine's command queue: the command ends as one that faults at its first element (R132, R349). -/
def State.flawCommand (s : State) (cell n i : Nat) : State :=
  let e := engOf n
  match ((s.cell cell).engine e).queue[i]? with
  | none => s
  | some c =>
    let s := s.modCell cell fun y => y.modEng (engIx e) fun g => { g with queue := g.queue.eraseIdx i }
    (((s.engineFault ⟨cell, e, Running.start c⟩ 0 cUncorrectable 0).releaseTiles cell c).signalDone cell c).rejoinIssuer c

/-- A double error in an entry of a queue: the entry is discarded with a report; a remote request is answered (R318, R349; log 85). -/
def State.flawQueue (s : State) (core n i : Nat) : State :=
  let c := s.core core
  let gone (q : Nat) (s : State) : State :=
    s.report (dieOf (cellOfCore core)) 0xE cUncorrectable 0 (placeLow (core * 16)) 0 (natW q)
  if 8 ≤ n then s.flawCommand (cellOfCore core) (n - 8) i
  else match n with
  | 4 => if c.fifo.length ≤ i then s else gone 0 (s.modCore core fun c => { c with fifo := c.fifo.eraseIdx i })
  | 5 => if c.inbox.length ≤ i then s else gone 0 (s.modCore core fun c => { c with inbox := c.inbox.eraseIdx i })
  | 6 => if c.amIn.length ≤ i then s else gone 0 (s.modCore core fun c => { c with amIn := c.amIn.eraseIdx i })
  | 7 => match c.remIn[i]? with
    | none => s
    | some x =>
      let s := gone 0 (s.modCore core fun c => { c with remIn := c.remIn.eraseIdx i })
      match x with
      | .mem p q => s.serviceAnswer core p q.slot q.fixCount (.poisoned 0)
      | .atom p q => s.serviceAnswer core p q.slot q.fixCount (.poisoned 0)
      | _ => s
  | _ =>
    let q : Fin 4 := ⟨n % 4, Nat.mod_lt _ (by decide)⟩
    if c.q[q].length ≤ i then s
    else gone q.val (s.modCore core fun c => { c with q := c.q.set q (c.q[q].eraseIdx i) q.isLt })

/-- A double error in a TLB: the entry is dropped (R349). -/
def State.flawTlb (s : State) (unit i : Nat) : State :=
  if unit < 4096 then s.modCore unit fun c =>
    if i < c.dtlb.length then { c with dtlb := c.dtlb.eraseIdx i } else { c with itlb := c.itlb.eraseIdx (i - c.dtlb.length) }
  else s.modCluster (unit - 4096) fun c => { c with stlb := c.stlb.eraseIdx i }

/-- What a double error does (R45, R349); the manual states nothing for a tile table's (log 85). -/
def State.flawDouble (s : State) (f : Flaw) : State :=
  match f.code with
  | 0 | 1 | 2 => { s with poison := if s.poison.contains f.word then s.poison else s.poison ++ [f.word] }
  | 3 => s.flawL1 f.unit f.word
  | 4 => s.modCluster f.unit fun c => { c with icache := c.icache.filter fun x => x.line ≠ f.word }
  | 5 => s.flawL2 f.word
  | 6 => s.setTags (f.word / 16) (wordBit f.word) .lost
  | 7 => s.flawSlot f.unit
  | 9 => s.flawTlb f.unit f.word
  | 10 => s.flawQueue (f.unit / 16) (f.unit % 16) f.word
  | _ => s

/-- A soft error comes.  A single error of HBM, a vault or a tile store stays in storage until a read corrects and reports it
(R45); every other one is corrected, or takes its double error's effect, and is reported (R349, R388). -/
def State.flaw (s : State) (f : Flaw) : State :=
  if f.code < 3 ∧ !f.double then { s with soft := if s.soft.contains f.word then s.soft else s.soft ++ [f.word] }
  else
    let p := f.place
    (if f.double then s.flawDouble f else s).report p.die 0xD (if f.double then cUncorrectable else 0) 0 p.cell (natW p.addr)
      (natW f.code)

end Sys2Proof.Machine
end

