-- ==== Sys2Proof/Machine/Sched.lean ====
section
/-! DEFINITION. What happens in a cclk, and in which order the model takes it: inputs and rotation boundaries, the turn
of every core, and then the other agents (R145, R146, R153 to R156, R319, log 3, log 5). -/

namespace Sys2Proof.Machine

/-! ### Turns of cores -/

/-- Whether a slot in WAIT issues its instruction again at its turn: it waits on an issue condition or for a fetch
(R146). -/
def Slot.mayIssue (sl : Slot) : Bool :=
  match sl.run with
  | .run => true
  | .wait _ => sl.pend == .none && sl.faultWait.isNone
  | _ => false

/-- Whether a role or handler has used its budget before this turn; an instruction that was counted may end (R116,
R154). -/
def State.overBudget (s : State) (k : Nat) : Bool :=
  let sl := s.slot k
  !sl.counted && match sl.work with
    | .role num _ => decide (s.budgetOf num ≤ sl.issues.toNat)
    | .handler _ => decide (sl.amBudget.toNat ≤ sl.issues.toNat)
    | _ => false

/-- The turn of a slot whose instruction is wholly in its fetch buffer: a poisoned word traps, and what is no
instruction is an undefined encoding (R156, R170). -/
def State.runWords (s : State) (ws : List (W32 × Bool)) : Host.Outcome State Fault Refusal :=
  let pc := (s.slot s.cur).pc
  match ws.findIdx? fun e => e.2 with
  | some i => s.stopped (.trap cUncorrectable (natW ((pc + natW (4 * i)).toNat / 8 * 8)))
  | none => match decodeWords (ws.map (·.1)) with
    | .ok i => exec i s
    | .error _ => exec (.undefinedEncoding ((ws.map (·.1)).headD 0)) s

/-- The turn of the slot that `cur` names, when nothing keeps it from issuing: budget, the trap of a push that was lost (log 83),
alignment of the PC (log 22), fetch, and then its instruction. -/
def State.issueTurn (s : State) : Host.Outcome State Fault Refusal :=
  let k := s.cur
  let sl := s.slot k
  if s.overBudget k then
    let s := s.modCore (coreOf k) fun c => c.stall (s.idleCause k)
    match sl.work with
    | .role _ _ => exec .txnBudgetOverrun s
    | _ => exec .handlerBudgetOverrun s
  else if let some a := sl.owed then .next (s.trapEntry k cOwnerLost a)
  else if sl.pc.toNat % 4 ≠ 0 then s.stopped (.trap cMisaligned sl.pc)
  else match sl.missingAt with
    | some a => s.askBlock k a
    | none => s.runWords sl.fetched.1

/-- The instruction that a slot has issued and goes on with, since what it waited for has come: no turn issues it again
(R146, R299, log 8). -/
def Slot.goesOn (sl : Slot) : Option Instr :=
  if sl.counted && sl.mayIssue && sl.missingAt.isNone && !(sl.ending && !Work.awaited false sl.work) then
    match sl.fetched.1.findIdx? fun e => e.2, decodeWords (sl.fetched.1.map (·.1)) with
    | none, .ok i => some i
    | _, _ => none
  else none

/-- Whether something keeps the slot that `cur` names from its turn. -/
def State.turnHeld (s : State) : Bool :=
  let sl := s.slot s.cur
  !sl.mayIssue || (sl.ending && !Work.awaited false sl.work) || s.deathHeld s.cur || s.powerHeld s.cur ||
  s.opHolds s.cur || (sl.run == .run && sl.skip != 0) || sl.goesOn.isSome

/-- The turn of the slot that `cur` names. -/
def State.slotTurn (s : State) : Host.Outcome State Fault Refusal :=
  if s.turnHeld then exec .idleTurn s else s.issueTurn

/-- Whether a service slot has user work for this turn: its handler runs, or a message can start one (R153). -/
def State.userWaits (s : State) (core : Nat) : Bool :=
  let sl := s.slot (core * 16 + 15)
  sl.run == .run || (sl.run == .free && match (s.core core).amIn with
    | m :: _ => !(s.ctx m.ctx).out
    | [] => false)

/-- The turn of a service slot: remote accesses and user messages alternate (R94, R153).  A handler starts in a turn that
is idle, since its slot is FREE (R328, log 70).  DESIGN CHOICE (log 87): a turn that a remote access takes is none of those that
R55 skips for the handler. -/
def State.serviceTurn (s : State) (core : Nat) : Host.Outcome State Fault Refusal :=
  let c := s.core core
  let user := s.userWaits core
  if c.remIn ≠ [] ∧ (!user ∨ !c.lastRemote) then exec .remoteAccess { s with cur := core }
  else
    let s := if c.lastRemote then s.modCore core fun c => { c with lastRemote := false } else s
    if user ∧ (s.slot (core * 16 + 15)).run = .free then
      exec .activeMessageStart { (s.modCore core fun c => c.stall 7) with cur := core }
    else s.slotTurn

/-- Core of turn n of a cclk: the D-cores, then the C-cores, then the A-cores, and then the fault service cores (R145, R288). -/
def turnCore (n : Nat) : Nat := if n < 3072 then n % 1024 * 3 + n / 1024 else n

/-- The turn of a core in this cclk: it goes to slot c mod 16 (R145). -/
def State.coreTurn (s : State) (core : Nat) : Host.Outcome State Fault Refusal :=
  let s := { s with cur := core * 16 + s.cycle % 16 }
  if s.cycle % 16 = 15 ∧ !isFsc core then s.serviceTurn core else s.slotTurn

/-! ### Landing (R25, R94, R95, R315, R354) -/

/-- Steps of a merge gate still to take that put a message of a part into its buffer. -/
def State.gateComing (s : State) (die part : Nat) : Nat :=
  (s.sched.now.filter fun (e : Instr × Nat) => match e.1 with
    | .mergeGateReceive d p _ => d == die && p == part
    | _ => false).length

/-- The cell whose cut comes before a message of a fix count. -/
def State.cutBefore (s : State) (cell count : Nat) : State := if s.cutFirst cell count then s.beginCut cell else s

/-- What a parcel writes where it lands, and the fix count of its writer (R355). -/
def State.landWrites (s : State) : Parcel → Nat × List Nat
  | .lateral q => (q.fixCount, q.addrs)
  | .drain _ _ num _ bytes _ _ => ((s.txnFix num), bytes.map (·.1))
  | .remote _ (.mem _ q) => (q.fixCount, if q.write then q.addrs else [])
  | .remote _ (.atom _ q) => (q.fixCount, q.addrs)
  | .far _ (.mem _ q) => (q.fixCount, if q.write then q.addrs else [])
  | .far _ (.atom _ q) => (q.fixCount, q.addrs)
  | .remote _ (.join _ a n) => (n, addrsFrom a 8)
  | .step (.writeThrough q) _ => (q.fixCount, q.addrs)
  | .step (.viewEngineAccess q) _ => (q.fixCount, if q.write then q.addrs else [])
  | .step (.homeAtomic q) _ => (q.fixCount, q.addrs ++ q.dirty.map (·.1))
  | .step (.copyBack _ l m _ _ _ _ n) _ => (n, if m = 0 then [] else [64 * l])
  | .step (.gatherSublist q) _ =>
    (q.fixCount, if q.scatter ∧ q.data ≠ [] then q.rows.flatMap fun e => e.2 else [])
  | .step (.haloArrival q) _ =>
    (q.fixCount, q.rows.map fun e => tileAddr q.toCell ((s.cell q.toCell).tile q.tile.toNat).at_ + e.1)
  | .step (.grantPushArrival cell num x data _) _ =>
    ((s.txnFix num), if data = [] then [] else match s.txn num with
      | some t => t.binds.flatMap fun b =>
        (bytesIn s.link.pod.k b x).map fun e => tileAddr cell (TileDesc.base b.desc * 256) + e.1
      | none => [])
  | _ => (0, [])

/-- Whether a parcel waits for a pool frame (R355, log 84). -/
def State.landStops (s : State) (p : Parcel) : Bool :=
  decide (0 < s.fix.want) && let (count, as) := s.landWrites p; s.poolStops count as

/-- The cell that a message reaches. -/
def Parcel.cell : Parcel → Option Nat
  | .core c _ => some (cellOfCore c)
  | .am c _ => some (cellOfCore c)
  | .remote c _ => some c
  | .lateral q => some (nearCell q)
  | .step (.haloArrival q) _ => if q.rows = [] then none else some q.toCell
  | .step (.gatherSublist q) _ => if q.scatter ∧ q.data = [] ∨ !q.scatter ∧ q.data ≠ [] then none else some q.owner
  | _ => none

/-- A parcel lands; none while it must stay in the network. -/
def State.landNow (s : State) : Parcel → Option State
  | .step i u => match i with
    | .mergeGateReceive d p _ =>
      if ((s.die d).gate.get [] p).length + s.gateComing d p < 1024 then some (s.thenDo i u) else none
    | _ => some (s.thenDo i u)
  | .core c m =>
    let cell := cellOfCore c
    let s := (s.cutBefore cell m.fixCount).logItem cell m.fixCount (.core c m)
    some (s.modCore c fun x => { x with
      arriving := x.arriving ++ [m], landed := (s.cycle, if x.landed.1 = s.cycle then x.landed.2 + 1 else 1) })
  | .am c m =>
    let cell := cellOfCore c
    if 64 ≤ (s.core c).amIn.length ∨ s.cutFirst cell m.fixCount then none
    else some ((s.logItem cell m.fixCount (.am c m)).modCore c fun x => { x with amIn := x.amIn ++ [m] })
  | .remote cell q =>
    let n := RemoteReq.count q
    if 64 ≤ (s.core (cell * 3)).remIn.length ∨ s.cutFirst cell n then none
    else some (s.modCore (cell * 3) fun x => { x with remIn := x.remIn ++ [q] })
  | .read q => some (s.serveRead q)
  | .far p q => some (s.serveFar p q)
  | .share q => some (s.startShare q)
  | .lateral q => if s.cutFirst (nearCell q) q.fixCount then none else some (s.landLateral q)
  | .reply a r n => some (s.landReply a r n)
  | .device p q => if s.deviceBusy q then none else some (s.serveDevice p q)
  | .drain p cell num x bytes poison key => some (s.landDrain p cell num x bytes poison key)

/-- A parcel lands; none while it must stay in the network: behind what its cell replays, or for want of a pool frame too (R355,
R359). -/
def State.land (s : State) (p : Parcel) : Option State :=
  if (p.cell.any s.replays) || s.landStops p then none else s.landNow p

/-- What a message that stays in the network does: a post-cut one begins its receiver's cut (R352, R354). -/
def State.refused (s : State) : Parcel → State
  | .am c m => s.cutBefore (cellOfCore c) m.fixCount
  | .remote cell q => s.cutBefore cell (RemoteReq.count q)
  | .lateral q => s.cutBefore (nearCell q) q.fixCount
  | _ => s

/-- Whether two flights share a channel. -/
def sameChannel (f g : Flight) : Bool := f.cls != clsOwn && f.cls == g.cls && f.src == g.src && f.dst == g.dst

/-- Whether a message between cores, counters and mailboxes; those of one cclk arrive in the order of their senders (R282, log 3). -/
def Flight.isTask (f : Flight) : Bool := f.cls == clsTask

/-- Whether what a flight brings is performed as it lands, and not as a step that stands in line. -/
def Flight.atOnce (f : Flight) : Bool :=
  match f.parcel with
  | .step _ _ => false
  | _ => true

/-- The flights that are due land in order; one that cannot holds its channel, and one whose step stands in line holds what
is performed as it lands (R25, R82, R95). -/
def State.landFlights (s : State) (may : Flight → Bool) : State :=
  let due (f : Flight) : Bool := decide (f.due ≤ s.cycle)
  let (tasks, others) := (s.sched.flight.filter due).partition Flight.isTask
  let ready := others ++ sortBy (fun f g => decide (f.due < g.due) || (f.due == g.due && decide (f.src < g.src))) tasks
  let s0 := s.modSched fun c => { c with flight := c.flight.filter fun f => !due f }
  let (s1, kept, _) := ready.foldl (fun (r : State × List Flight × List Flight) f =>
    if !may f || r.2.1.any (sameChannel f) || (f.atOnce && r.2.2.any (sameChannel f)) then (r.1, r.2.1 ++ [f], r.2.2)
    else match r.1.land f.parcel with
      | some s => (s, r.2.1, if f.atOnce then r.2.2 else f :: r.2.2)
      | none => (r.1.refused f.parcel, r.2.1 ++ [f], r.2.2)) (s0, [], [])
  s1.modSched fun c => { c with flight := kept ++ c.flight }

/-- Messages go from the network into inboxes of 32 (R315). -/
def State.fillInboxes (s : State) : State :=
  { s with cores := s.cores.map fun (c : Nat × Core) =>
      let n := 32 - c.2.inbox.length
      (c.1, { c.2 with inbox := c.2.inbox ++ c.2.arriving.take n, arriving := c.2.arriving.drop n }) }

/-- Cells perform the messages that a rollback has them replay (R359). -/
def State.dueReplays (s : State) : State :=
  (s.cells.filter fun (c : Nat × Cell) => !c.2.replay.isEmpty).foldl (fun (s : State) (c : Nat × Cell) => s.replayNext c.1) s

/-- Searches of range forks reach their cores of this cclk, at each core in the order of their issuers (R325). -/
def State.dueClaims (s : State) : State :=
  let reach (e : Nat × Slot) : List (Nat × Nat) := match e.2.fork with
    | none => []
    | some f => if f.wanted ≤ f.claimedSlots.length then []
      else (forkNow (s.cycle - f.started)).map fun j => (forkCore (coreOf e.1) j, e.1)
  let due := s.slots.flatMap reach
  (sortBy (fun (x y : Nat × Nat) => decide (x.1 < y.1) || (x.1 == y.1 && decide (x.2 < y.2))) due).foldl
    (fun (s : State) (e : Nat × Nat) => s.thenDo (.rforkClaim e.2 e.1) 0) s

/-! ### The other agents, stage by stage -/

/-- Steps of engines that are due to go on with their work. -/
def State.dueEngines (s : State) : State :=
  s.cells.foldl (fun (s : State) (c : Nat × Cell) => (List.range 5).foldl (fun (s : State) e =>
    match (c.2.engine (engOf e)).cur with
    | some r => if r.due ≤ s.cycle ∧ r.wait.isNone ∧ r.missing = [] then s.thenDo .engineOperationFinish (c.1 * 5 + e) else s
    | none => s) s) s

/-- The lowest numbered ready transaction of each cell (R111). -/
def State.dueTxns (s : State) : State :=
  let ts := s.numbered.filter s.txnReady
  ((ts.map fun (t : Txn) => t.cell).dedup).foldl (fun (s : State) cell =>
    let mine := (ts.filter fun (t : Txn) => t.cell = cell).map fun (t : Txn) => t.num
    match mine with
    | [] => s
    | n :: rest => s.thenDo (.txnDispatch cell (rest.foldl min n)) 0) s

/-- Dispatchers with work and a FREE slot (R319). -/
def State.dueDispatch (s : State) : State :=
  s.cores.foldl (fun (s : State) (c : Nat × Core) =>
    if (s.nextWork c.1).isSome ∧ (s.freeSlot c.1).isSome then s.thenDo .taskDispatch c.1 else s) s

/-- Instructions that go on in the cclk in which what they waited for has come; their turns stay idle (R146, R328). -/
def State.dueGoOn (s : State) : State :=
  s.slots.foldl (fun (s : State) (e : Nat × Slot) =>
    if s.deathHeld e.1 || s.opHolds e.1 then s
    else match e.2.goesOn with
      | some i => s.thenDo i e.1
      | none => s) s

/-- Inboxes accept one message each (R315). -/
def State.dueInboxes (s : State) : State :=
  s.cores.foldl (fun (s : State) (c : Nat × Core) => if c.2.inbox = [] then s else s.thenDo .inboxAccept c.1) s

/-- Each BLM does one release (R109). -/
def State.dueReleases (s : State) : State :=
  s.blms.foldl (fun (s : State) (b : Nat × Blm) => match b.2.releases with
    | (num, x) :: _ => s.thenDo (.blmRelease b.1 num x) 0
    | [] => s) s

/-- Each BLM does one grant (R109). -/
def State.dueGrants (s : State) : State :=
  s.blms.foldl (fun (s : State) (b : Nat × Blm) => if (s.grantNext b.1).isSome then s.thenDo .blmGrant b.1 else s) s

/-- Merge gates forward, and the sequencer accepts and closes (R102, R103, R107). -/
def State.dueSequencer (s : State) : State :=
  let s := (List.range 4).foldl (fun (s : State) d => if (s.gateNext d).isSome then s.thenDo .mergeGateForward d else s) s
  let s := if s.seq.waiting ≠ [] ∧ s.takesSub then s.thenDo .submissionAccept 0 else s
  if s.batchDue then s.thenDo .batchClose 0 else s

/-- Commits go on and transactions finish (R113, R114). -/
def State.dueCommits (s : State) : State :=
  (s.numbered.map fun (t : Txn) => (t.num, t.queue.length)).foldl (fun (s : State) (e : Nat × Nat) =>
    let s := match s.txn e.1 with
      | some t => if t.stage = TxnStage.committed ∧ t.queue ≠ [] then State.commitGo e.1 (e.2 + 1) s else s
      | none => s
    s.finishTxn e.1) s

/-- Saved commands re-enter, and idle engines take their next command or stand at its gate (R130, R328, R346). -/
def State.dueStarts (s : State) : State :=
  let s := (s.ctxOps.filter fun o => o.kind = 4).foldl (fun (s : State) o => s.restoreEngines o.ctx) s
  s.cells.foldl (fun (s : State) (c : Nat × Cell) => (List.range 5).foldl (fun (s : State) e =>
    if (c.2.engine (engOf e)).waiting.isSome then
      (s.thenDo .engineCommandStart (c.1 * 5 + e)).thenDo .gateStallCycle (c.1 * 5 + e)
    else s) s) s

/-- Operations on contexts that are done (R342, R344, R346, R347). -/
def State.dueOps (s : State) : State :=
  (s.ctxOps.filter s.opDone).foldl (fun (s : State) o =>
    if o.kind = 5 then s.thenDo .teardownComplete o.die else s.thenDo .fscmdComplete o.die) s

/-- Whether a cell has work that its watchdog watches (R348). -/
def State.watched (s : State) (cell : Nat) (c : Cell) : Bool :=
  ((slotsOfCell cell).any fun k => (s.slot k).run != .free) || c.eng.toList.any fun e => !e.queue.isEmpty

/-- Cells that the state lists, and those of the slots that it lists. -/
def State.liveCells (s : State) : List Nat :=
  ((s.cells.map fun (e : Nat × Cell) => e.1) ++
    (s.slots.filter fun (e : Nat × Slot) => !isFsc (coreOf e.1)).map fun (e : Nat × Slot) => cellOf e.1).dedup

/-- Sink watchdogs count (R348). -/
def State.dueWatchdogs (s : State) : State :=
  s.liveCells.foldl (fun (s : State) (i : Nat) =>
    let c := s.cell i
    if c.retired ∨ !s.watched i c then
      if c.retired ∨ c.wdogCount ≠ 0 then s.modCell i fun c => { c with retired := false, wdogCount := 0 } else s
    else
      let s := s.modCell i fun c => { c with wdogCount := c.wdogCount + 1 }
      if c.wdog ≠ 0 ∧ c.wdog.toNat ≤ c.wdogCount + 1 then s.thenDo .sinkWatchdogExpire i else s) s

/-- The fix unit and the coordinator (R351, R354, R356, R358). -/
def State.dueFix (s : State) : State :=
  if !s.fix.active then s
  else
    let s := if s.fixBoundDue then s.thenDo .fixBoundSet 0 else s
    let s := if s.fixGoDue then s.thenDo .fixGo 0 else s
    let s := if s.fixFails then s.thenDo .fixTimeout 0 else s
    let s := if s.tellDue then s.tell else s
    let s := markClasses.foldl (fun (s : State) cls => if s.markerDue cls then s.sendMarkers cls else s) s
    if s.partComplete then s.thenDo .partFixComplete 0 else s

/-- Ports of the pod configuration. -/
def State.ports (s : State) : List Nat := (s.link.pod.routes.map fun (e : Nat × Nat) => e.2).dedup

/-- Messages that have left through a port. -/
def State.portCount (s : State) (port : Nat) : Nat :=
  (s.link.azSent.filter fun (e : AzOut) => decide (e.part < 512) && e.port == port).length

/-- Links that have been idle for 4,096 cclk, silent parts, cells to probe, and datagrams to send again (R360, R363). -/
def State.dueLinks (s : State) : State :=
  let s := s.ports.foldl (fun (s : State) p =>
    let n := s.portCount p
    if s.link.azOut.get 0 p < n then s.modLink fun x => { x with azOut := x.azOut.set p n, azAt := x.azAt.set p s.cycle }
    else if s.link.azAt.get 0 p + 4096 ≤ s.cycle then s.thenDo (.azimuthHeartbeatFlit p) 0 else s) s
  let s := s.otherParts.foldl (fun (s : State) p =>
    let t := s.silentAt p
    if s.cycle = t ∨ (t + s.link.pod.heartbeat ≤ s.cycle ∧ s.link.heard.get 0 p < t ∧ !s.link.dead.contains p) then
      s.thenDo .heartbeatLimitExpire p
    else s) s
  let s := if s.part.stage = 4 ∧ s.cycle % 65536 = 0 then (List.range 4).foldl (fun (s : State) d => s.thenDo .heartbeatProbe d) s
    else s
  (s.link.window.filter fun (e : Datagram × Nat) => decide (e.2 ≠ 0) && decide (e.2 - 1 + resendTime ≤ s.cycle)).foldl
    (fun (s : State) (e : Datagram × Nat) => s.thenDo (.sextantResend e.1.seq) 0) s

/-- cclk in 1 µs, and in a scrubbing period (R46, R371, log 29). -/
abbrev measureTime : Nat := 2000
abbrev scrubPeriod : Nat := 2 ^ 40

/-- Start-up, power measurement and scrubbing (R46, R370, R371). -/
def State.dueHouse (s : State) : State :=
  let s := if s.bootDue then s.bootStart else s
  let s := if s.part.stage ≠ 0 ∧ s.cycle % measureTime = 0 then
      let (w, s) := s.freeWord
      let (t, s) := s.freeWord
      s.thenDo (.powerMeasure (w.truncate 32) (t.truncate 48)) 0
    else s
  let s := if s.cycle % scrubPeriod = 0 ∧ s.cycle ≠ 0 then s.modPart fun p => { p with scrubAt := 0, scrubbed := [] } else s
  if s.part.stage = 4 ∧ s.cycle % 16 = 0 ∧ s.part.scrubAt < scrubDwords then s.thenDo .patrolScrub 0 else s

/-- Whether what a flight brings is written by an engine or a grant push, which comes after the cores' accesses of its cclk
(R75). -/
def engineWrites (f : Flight) : Bool :=
  match f.parcel with
  | .lateral _ => true
  | .step (.gatherSublist _) _ => true
  | .step (.haloArrival _) _ => true
  | .step (.grantPushArrival ..) _ => true
  | _ => false

/-- What a slot that has left the rotation waits for, where no message brings it: an ordering form, a prefetch, the end of
an `align` hold (R87, R88, R157, R232). -/
def State.tickSlot (s : State) (k : Nat) : State :=
  let order (o : OrderOp) : State :=
    let (s, ok) := s.orderTick k o
    if ok then s.thenDo (.memoryReplyArrival k .done) 0 else s
  match (s.slot k).pend with
  | .order o => order o
  | .leaving o => order o
  | .rejoin o _ => order o
  | .prefetch i =>
    if ((s.slot k).streams[(⟨i % 8, Nat.mod_lt _ (by decide)⟩ : Fin 8)]).prefetched then s.thenDo (.memoryReplyArrival k .done) 0
    else s
  | .hold due lo hi => if !s.anyTrails k lo hi ∨ due ≤ s.cycle + 1 then s.thenDo .alignHoldExpire k else s
  | _ => s

/-- Streams of a slot that the copy engine serves (R141, R143). -/
def State.tickStreams (s : State) (k : Nat) : State :=
  (List.finRange 8).foldl (fun (s : State) i =>
    let x := (s.slot k).streams[i]
    if x.wants then s.thenDo .streamRefill (k * 8 + i.val)
    else match x.buf with
      | .push .. :: _ => if x.blocked then s else s.thenDo .streamDrain (k * 8 + i.val)
      | _ => s) s

/-- Refills and drains of streams, those of ended works among them (R141, R143, R146). -/
def State.dueStreams (s : State) : State :=
  let s := (s.slots.map fun (e : Nat × Slot) => e.1).foldl State.tickStreams s
  s.orphans.foldl (fun (s : State) (e : Nat × Nat × Slot) => (List.finRange 8).foldl (fun (s : State) i =>
    let x := e.2.2.streams[i]
    match x.buf with
    | .push .. :: _ => if x.blocked then s else s.thenDo .streamDrain (orphanBase + e.1 * 8 + i.val)
    | _ => s) s) s

/-- Slots, fetch ports, rings and outbound queues (R155, R280, R318). -/
def State.dueSlots (s : State) : State :=
  let ks := s.slots.map fun (e : Nat × Slot) => e.1
  let s := ks.foldl State.tickSlot s
  let s := s.clusters.foldl (fun (s : State) (c : Nat × Cluster) =>
    if c.2.freqs = [] then s else s.thenDo .fetchPortSelect c.1) s
  s.cores.foldl (fun (s : State) (e : Nat × Core) =>
    let s := (List.finRange 4).foldl (fun (s : State) q =>
      match e.2.ringRead[q] with
      | .got _ => s.thenDo .ringToChipMove (e.1 * 4 + q.val)
      | .asked => s
      | .idle => if 0 < e.2.ringCount[q] ∧ e.2.q[q].length < 48 ∧ e.2.ringAt[q] ≤ s.cycle then s.ringAsk e.1 q else s) s
    if e.2.outbox = [] ∧ e.2.amOut = [] then s else s.depart e.1) s

/-- Stage n of the agents other than cores.  A dispatch comes before withdrawals and teardowns of the same cclk (R121, R324),
and a transaction's before a fork's and a task's (R319); what slots still do comes before what engines write and signal, and the
gates come after (R75, R131, R307, R323). -/
def State.lateStage (s : State) : Nat → State
  | 0 => s.dueTxns
  | 1 => s.dueClaims
  | 2 => (s.landFlights fun f => !engineWrites f && match f.parcel with
      | .step (.teardownArrival _ _) _ => false
      | _ => true).dueReplays.fillInboxes
  | 3 => s.dueDispatch
  | 4 => s.landFlights fun f => !engineWrites f
  | 5 => s.dueGoOn
  | 6 => s.landFlights fun _ => true
  | 7 => s.dueStreams
  | 8 => s.dueEngines
  | 9 => s.dueInboxes
  | 10 => s.dueReleases
  | 11 => s.dueGrants
  | 12 => s.dueSequencer
  | 13 => s.dueCommits
  | 14 => s.dueStarts
  | 15 => s.dueOps
  | 16 => s.dueWatchdogs
  | 17 => s.dueFix
  | 18 => s.dueLinks
  | 19 => s.dueHouse
  | _ => s.dueSlots

/-- Number of stages. -/
abbrev lateStages : Nat := 21

/-! ### One step -/

/-- The beginning of a cclk: a rotation boundary every 16, then what comes from outside (R145, log 9). -/
def State.beginCycle (s : State) : State :=
  let s := s.modSched fun c => { c with phase := .turns 0 }
  let s := if s.cycle % 16 = 0 ∧ s.part.stage = 4 then s.thenDo .rotationBoundary 0 else s
  let new := s.sched.inputs.filter fun (e : Nat × Instr) => decide (e.1 ≤ s.cycle)
  let s := s.modSched fun c => { c with inputs := c.inputs.filter fun (e : Nat × Instr) => !decide (e.1 ≤ c.cycle) }
  let flaws := s.sched.flaws.filter fun (e : Nat × Flaw) => decide (e.1 ≤ s.cycle)
  let s := s.modSched fun c => { c with flaws := c.flaws.filter fun (e : Nat × Flaw) => !decide (e.1 ≤ c.cycle) }
  let s := flaws.foldl (fun (s : State) (e : Nat × Flaw) => s.flaw e.2) s
  new.foldl (fun (s : State) (e : Nat × Instr) => s.thenDo e.2 0) s

/-- The step of a part: the next of the steps that stand in line, the turn of the next core, or the next stage of the
other agents; a cclk ends after the last. -/
def State.nextStep (s : State) : Host.Outcome State Fault Refusal :=
  match s.sched.now with
  | (i, u) :: rest => exec i { s.modSched (fun c => { c with now := rest }) with cur := u }
  | [] => match s.sched.phase with
    | .early => .next s.beginCycle
    | .turns n =>
      if n < 3076 ∧ s.part.stage = 4 then (s.modSched fun c => { c with phase := .turns (n + 1) }).coreTurn (turnCore n)
      else .next (s.modSched fun c => { c with phase := .late 0 })
    | .late n =>
      if n < lateStages then .next ((s.modSched fun c => { c with phase := .late (n + 1) }).lateStage n)
      else .next (s.modSched fun c => { c with phase := .advance })
    | .advance => .next (s.modSched fun c => { c with cycle := c.cycle + 1, phase := .early })

end Sys2Proof.Machine
end

