-- ==== Sys2Proof/Machine/Place.lean ====
section
/-! DEFINITION. An instruction placed where the next step takes it (log 6). -/

namespace Sys2Proof.Machine

/-- Where the placed instruction lies: the start of cell 0's tile store in the near window. -/
abbrev placedPc : Word := 0xFF80000000000000

/-- Bytes stored from an address on, wherever they differ. -/
def storeFrom (m : List Host.Cell) (a : Nat) : List Byte → List Host.Cell
  | [] => m
  | b :: t => storeFrom (Memory.write m a b) (a + 1) t

/-- Full compute at the turn of core 0, whose slot of this cclk is in RUN at an address of its tile store, with the
bytes there and in its fetch buffer. -/
def State.placeInstr (s : State) (bs : List Byte) : State :=
  let k := s.cycle % 16
  { s with
    sched := { s.sched with phase := .turns 0, now := [] }
    part := { s.part with stage := 4, holdEvery := 0 }
    link := { s.link with held := false }
    ctxOps := []
    mem := storeFrom s.mem tileBase bs
    slots := s.slots.set k { s.slot k with
      run := .run, pend := .none, ending := false, counted := false, skip := 0, faultWait := none, work := .none
      pc := placedPc, fblock := some (placedPc.toNat / 64), fdata := lineOfBytes bs, fpoison := 0, carry := [] } }

end Sys2Proof.Machine
end

