-- ==== Sys2Proof/Safety.lean ====
section
/-! DEFINITION. What a safe run is, and the terms in which claims about steps are made: an instruction that
completes, what it leaves as it was, and the operations of the scalar rules on bit vectors. -/

namespace Sys2Proof

/-! ### Guards and engines of forms (R168, R130) -/

/-- Guard of an instruction; `align` and the events have none. -/
def Instr.guard : Instr → Option Guard
  | .add g .. | .sub g .. | .and g .. | .or g .. | .xor g .. | .andn g .. | .orn g .. | .shl g .. | .shr g .. | .sar g ..
  | .rol g .. | .min g .. | .max g .. | .minu g .. | .maxu g .. | .mul g .. | .mulh g .. | .mulhu g .. | .madd g .. | .div g ..
  | .divu g .. | .rem g .. | .remu g .. | .clz g .. | .ctz g .. | .popc g .. | .sext g .. | .zext g .. | .sel g .. | .addi g ..
  | .andi g .. | .ori g .. | .xori g .. | .shli g .. | .shri g .. | .sari g .. | .li g .. | .lpc g .. | .extr g .. | .ins g ..
  | .cmp g .. | .cmpi g .. | .fcmp g .. | .pand g .. | .por g .. | .pxor g .. | .pandn g .. | .pget g .. | .pset g ..
  | .fadd g .. | .fsub g .. | .fmul g .. | .fmin g .. | .fmax g .. | .fdiv g .. | .fsqrt g .. | .fma g .. | .fms g ..
  | .fnma g .. | .fabs g .. | .fneg g .. | .fclass g .. | .fcvt g .. | .bcc g .. | .bp g .. | .bnp g .. | .j g .. | .jal g ..
  | .jr g .. | .jalr g .. | .loop g .. | .nop g .. | .exit g .. | .ld g .. | .st g .. | .ldRaw g .. | .stRaw g ..
  | .amsend g .. | .aadd g .. | .amin g .. | .amax g .. | .aminu g .. | .amaxu g .. | .aand g .. | .aor g .. | .axor g ..
  | .aswp g .. | .acas g .. | .fence g .. | .acq g .. | .rel g .. | .invr g .. | .vsync g .. | .smap g .. | .sunmap g ..
  | .sstat g .. | .sskip g .. | .spref g .. | .txsub g .. | .txsubf g .. | .txend g .. | .txnum g .. | .txwd g .. | .txq g ..
  | .callat g .. | .launch g .. | .tpost g .. | .taskwd g .. | .dcset g .. | .dcdec g .. | .bar g .. | .barq g ..
  | .semadd g .. | .semwait g .. | .semset g .. | .msend g .. | .mrecv g .. | .mpoll g .. | .mfsr g .. | .mtsr g ..
  | .trap g .. | .brk g .. | .eret g .. | .rng g .. | .fix g .. | .fixq g .. => some g
  | .tbind q .. | .tfree q .. | .tstate q .. | .twait q .. | .tmarkR q .. | .tmarkE q .. | .rfork q .. => some (.pred q.sense q.pred)
  | .cpLd x .. | .cpSt x .. | .cp2d x .. | .fill x .. | .gather x .. | .scatter x .. | .halo x .. | .cprot x .. | .cvPlane x ..
  | .cvUnplane x .. | .cvQ x .. | .cvF x .. | .cvTr x .. | .tiLoad x .. | .tiEval x .. | .mma x .. | .maccRd x .. | .vadd x ..
  | .vsub x .. | .vmul x .. | .vfma x .. | .vmin x .. | .vmax x .. | .vabs x .. | .vneg x .. | .vcmp x .. | .vsel x ..
  | .vscale x .. | .vaddsc x .. | .vred x .. | .vcvt x .. | .vmov x .. | .vbcast x .. | .vand x .. | .vor x .. | .vxor x ..
  | .vshl x .. | .vshr x .. | .vmuli x .. | .vclamp x .. => some (.pred x.sense x.pred)
  | _ => none

/-- Engine that an engine form goes to. -/
def Instr.onEngine : Instr → Option Eng
  | .cpLd .. | .cpSt .. | .cp2d .. | .fill .. | .gather .. | .scatter .. | .halo .. | .cprot .. => some .copy
  | .cvPlane .. | .cvUnplane .. | .cvQ .. | .cvF .. | .cvTr .. => some .conv
  | .tiLoad .. | .tiEval .. => some .table
  | .mma .. | .maccRd .. => some .matrix
  | .vadd .. | .vsub .. | .vmul .. | .vfma .. | .vmin .. | .vmax .. | .vabs .. | .vneg .. | .vcmp .. | .vsel .. | .vscale ..
  | .vaddsc .. | .vred .. | .vcvt .. | .vmov .. | .vbcast .. | .vand .. | .vor .. | .vxor .. | .vshl .. | .vshr .. | .vmuli ..
  | .vclamp .. => some .vector
  | _ => none

/-- Register number of `mfsr` and `mtsr`. -/
def Instr.sysReg : Instr → Option Nat
  | .mfsr _ x _ | .mtsr _ x _ => some x.toNat
  | _ => none

end Sys2Proof

namespace Sys2Proof.Machine

/-! ### Safe runs -/

/-- A state that a run may stand in: its memory is in canonical form. -/
def State.sound (s : State) : Prop := Memory.wf s.mem = true

/-- The step goes on, to a sound state. -/
def State.goesOn (s : State) : Prop := ∃ t, step s = .next t ∧ t.sound

/-- A run of n steps without a fault or a refusal, through sound states. -/
def SafeRun : Nat → State → Prop
  | 0, s => s.sound
  | n + 1, s => s.sound ∧ ∃ t, step s = .next t ∧ SafeRun n t

/-! ### Operands of claims -/

/-- A register that is not in stream mode. -/
def Slot.plain (sl : Slot) (r : Reg) : Bool := (sl.streamOf r).isNone

/-- An operand that is a literal or such a register. -/
def Slot.plainOp (sl : Slot) : Opnd 5 → Bool
  | .field r => sl.plain r
  | .lit _ => true

/-- Value of such an operand. -/
def Slot.op (sl : Slot) : Opnd 5 → Word
  | .field r => sl.g r
  | .lit v => v

/-- The slot that `cur` names. -/
abbrev State.me (s : State) : Slot := s.slot s.cur

/-! ### Frames -/

/-- The slot apart from its run state, PC, loop counts, issue count and what it keeps while it waits. -/
def Slot.bare (a : Slot) : Slot :=
  { a with run := .run, counted := false, pc := 0, lc0 := 0, lc1 := 0, issues := 0, ilen := 0, latch := []
           pops := [], carry := [], faultWait := none, walkPoison := none }

/-- Nothing of the part changes but the slot that `cur` names, and the places that it gives up in its cell's queues of
waiters. -/
structure OnlyMine (s t : State) : Prop where
  rest : t = { s with slots := t.slots, cells := t.cells }
  slots : ∀ k, k ≠ s.cur → t.slot k = s.slot k
  cells : ∀ c, { t.cell c with queueWait := [] } = { s.cell c with queueWait := [] }

/-- PC, LC0 and LC1 of a slot after an instruction at its PC that completes in sequence, with the next one at `next` (R209): level 1
first, and when its count runs out level 0 of the same address. -/
def Slot.afterLoops (sl : Slot) (next : Word) : Word × Word × Word :=
  if sl.lc1 ≠ 0 ∧ sl.pc = sl.le1 ∧ sl.lc1 ≠ 1 then (sl.lb1, sl.lc0, sl.lc1 - 1)
  else
    let lc1 := if sl.lc1 ≠ 0 ∧ sl.pc = sl.le1 then 0 else sl.lc1
    if sl.lc0 ≠ 0 ∧ sl.pc = sl.le0 ∧ sl.lc0 ≠ 1 then (sl.lb0, sl.lc0 - 1, lc1)
    else (next, if sl.lc0 ≠ 0 ∧ sl.pc = sl.le0 then 0 else sl.lc0, lc1)

/-- What a slot's PC and loop counts become where it completes an instruction of `len` bytes with the effect f: in sequence, with
the loop-end check of R209, or at `dest`, where the counts stay. -/
def Slot.movesOn (sl : Slot) (len : Nat) (dest : Option Word) (f : Slot → Slot) : Word × Word × Word :=
  match dest with
  | some p => (p, (f sl).lc0, (f sl).lc1)
  | none => (f sl).afterLoops (sl.pc + natW len)

/-- The instruction completes with the effect f on its slot and no other: the PC moves on by `len` or as a loop's end says, or to
`dest`; the loop counts stay but for that; the issue is counted once; every other register, flag, special register and every byte of
memory stay as they were. -/
structure CompletesTo (s t : State) (len : Nat) (dest : Option Word) (f : Slot → Slot) : Prop where
  slot : t.me.bare = (f s.me).bare
  run : t.me.run = .run
  issues : t.me.issues = if s.me.counted then s.me.issues else s.me.issues + 1
  pc : (t.me.pc, t.me.lc0, t.me.lc1) = s.me.movesOn len dest f
  mine : OnlyMine s t
  bytes : ∀ a, t.byte a = s.byte a

/-- The instruction completes in sequence. -/
abbrev Completes (s t : State) (len : Nat) (f : Slot → Slot) : Prop := CompletesTo s t len none f

/-- The instruction answers a next state in which it has completed in sequence with the effect f. -/
def Does (i : Instr) (s : State) (len : Nat) (f : Slot → Slot) : Prop :=
  ∃ t, exec i s = .next t ∧ Completes s t len f

/-- The instruction answers a next state in which it has completed at `dest` with the effect f. -/
def Jumps (i : Instr) (s : State) (len : Nat) (dest : Word) (f : Slot → Slot) : Prop :=
  ∃ t, exec i s = .next t ∧ CompletesTo s t len (some dest) f

/-- The instruction traps with a cause and a value in work that has a trap vector: the PC, the cause and the value are
saved, IN_TRAP is set, and the PC is at TRAPVEC (R293). -/
def Traps (i : Instr) (s : State) (cause : Nat) (value : Word) : Prop :=
  ∃ t, exec i s = .next t ∧ t.me.trapPc = s.me.pc ∧ t.me.trapCause = natW cause ∧ t.me.trapVal = value ∧
    t.me.inTrap = true ∧ t.me.pc = (s.ctx s.me.ctx).trapVec ∧ t.me.regs = s.me.regs ∧ t.me.pw = s.me.pw ∧
    t.me.fmode = s.me.fmode ∧ t.mem = s.mem

/-- The slot runs work in which a trap goes to its context's vector: no role, no handler, not in a trap (R293). -/
def State.vectored (s : State) : Bool :=
  (match s.me.work with
    | .role _ _ => false
    | .handler _ => false
    | _ => true) && !s.me.inTrap && (s.ctx s.me.ctx).trapVec != 0

/-- The PC has moved past an instruction of `len` bytes, with the loop-end check of R209. -/
def PassedBy (s t : State) (len : Nat) : Prop := (t.me.pc, t.me.lc0, t.me.lc1) = s.me.movesOn len none id

/-- The signal count after one more signal (R323). -/
def Slot.oneMore (sl : Slot) : BitVec 16 := if sl.signals.toNat < 0xFFFE then sl.signals + 1 else sl.signals

/-- The instruction completes with one message more in its core's outbound task queue, and its signal counted if `counts`
says so. -/
def Sends (i : Instr) (s : State) (len : Nat) (counts : Bool) (m : OutMsg) : Prop :=
  ∃ t, exec i s = .next t ∧ (t.core (coreOf s.cur)).outbox = (s.core (coreOf s.cur)).outbox ++ [m] ∧
    t.me.signals = (if counts then s.me.oneMore else s.me.signals) ∧ t.me.regs = s.me.regs ∧ t.me.pw = s.me.pw ∧
    t.mem = s.mem ∧ t.me.run = .run ∧ PassedBy s t len

/-- The instruction completes with one deferred message more in the commit queue of the slot's transaction, and no signal
counted or sent. -/
def Defers (i : Instr) (s : State) (len num r : Nat) (y : Txn) (m : OutMsg) : Prop :=
  ∃ t z, exec i s = .next t ∧ t.txn num = some z ∧ z.queue = y.queue ++ [(r, .post m)] ∧ z.stage = y.stage ∧
    t.cores = s.cores ∧ t.me.signals = s.me.signals ∧ t.me.regs = s.me.regs ∧ t.me.pw = s.me.pw ∧ t.mem = s.mem ∧
    t.me.run = .run ∧ PassedBy s t len

/-- The slot has left the rotation for a cause, at its instruction, with nothing of its registers or of memory changed. -/
def Leaves (i : Instr) (s : State) (cause : Nat) (p : Pend) : Prop :=
  ∃ t, exec i s = .next t ∧ t.me.run = .wait cause ∧ t.me.pend = p ∧ t.me.pc = s.me.pc ∧ t.me.regs = s.me.regs ∧
    t.mem = s.mem ∧ ∀ k, k ≠ s.cur → t.slot k = s.slot k

/-- The slot waits on an issue condition and will issue the instruction again: only its run state changes, and the stall
counter of the cause, unless the instruction has issued before and goes on (R146, R148). -/
def Waits (i : Instr) (s : State) (cause : Nat) : Prop :=
  ∃ t, exec i s = .next t ∧ t.me = { s.me with run := .wait cause } ∧ t.mem = s.mem ∧
    t.core (coreOf s.cur) =
      (if s.me.counted then s.core (coreOf s.cur) else (s.core (coreOf s.cur)).stall cause) ∧
    ∀ k, k ≠ s.cur → t.slot k = s.slot k

/-- A step of a unit is on its way as a message. -/
def State.flies (s : State) (i : Instr) (unit : Nat) : Prop := ∃ f ∈ s.sched.flight, f.parcel = .step i unit

/-- A reply is on its way to a reply address, under its sender's fix count. -/
def State.answers (s : State) (a : Nat) (r : Reply) (count : Nat) : Prop :=
  ∃ f ∈ s.sched.flight, f.parcel = .reply a r count

/-- A slot that runs outside transactions and handlers. -/
def Slot.freelance (sl : Slot) : Bool :=
  match sl.work with
  | .role _ _ => false
  | .handler _ => false
  | _ => true

/-- Doublewords of own near memory: n from local address p, as a record's words. -/
def State.nearWords (s : State) (p n : Nat) : List Word :=
  (List.range n).map fun j => natW (leNat ((addrsFrom (p + 8 * j) 8).map s.byte))

/-- A record of n doublewords that the issuing slot reads from its own near memory at va: local address p, nothing poisoned,
corrected or copied by a fix. -/
def State.ownRecord (s : State) (va : Word) (n p : Nat) : Prop :=
  slotOk s.cur = true ∧ s.me.latch = [] ∧ s.soft = [] ∧ s.poison = [] ∧ s.fix.copies = [] ∧ s.part.secureCells = [] ∧
  isNear va.toNat = true ∧ nearLocal (cellOf s.cur) va.toNat (8 * n) = some p

/-- What a slot begins its work with (R149). -/
def Begins (a b : Slot) (ctx : Nat) (pc a0 a1 a2 a3 : Word) (work : Work) : Prop :=
  b.run = .run ∧ b.pc = pc ∧ b.g 2 = a.spInit ∧ b.g 3 = a.tpInit ∧ b.g 4 = a0 ∧ b.g 5 = a1 ∧ b.g 6 = a2 ∧ b.g 7 = a3 ∧
  (∀ r : Reg, 8 ≤ r.toNat → b.g r = 0) ∧ b.g 1 = 0 ∧ b.pw = 1 ∧ b.fmode = 0 ∧ b.lc0 = 0 ∧ b.lc1 = 0 ∧ b.inTrap = false ∧
  b.estat = 0 ∧ b.issues = 0 ∧ b.signals = 0 ∧ b.gen = a.gen + 1 ∧ b.ctx = ctx ∧ b.work = work ∧
  (∀ i : Fin 4, b.mbCount[i] = 0) ∧ ∀ i : Fin 8, b.streams[i].mapped = false

/-! ### Tiles and engine commands (R127, R152, R235, R237) -/

/-- Tile of a handle in the issuing slot's cell. -/
def State.myTile (s : State) (h : Nat) : Tile := (s.cell (cellOf s.cur)).tile h

/-- Whether a handle is one that the slot's own transaction received (R97). -/
def State.received (s : State) (h : Nat) : Bool :=
  match s.me.work with
  | .role num _ => match s.txn num with
    | some y => (recHandles y.sub.record).contains h
    | none => false
  | _ => false

/-- Whether the slot runs a role of a transaction. -/
def Slot.inRole (sl : Slot) : Bool :=
  match sl.work with
  | .role _ _ => true
  | _ => false

/-- Only the slot that `cur` names and its cell change. -/
def InCell (s t : State) : Prop :=
  t = { s with slots := t.slots, cells := t.cells } ∧ (∀ k, k ≠ s.cur → t.slot k = s.slot k) ∧
    ∀ c, c ≠ cellOf s.cur → t.cell c = s.cell c

/-- An engine form may issue: role, guard, tiles that are bound, may be named and are as the form needs them, and room in
its engine's queue. -/
def MayIssue (s : State) (e : Eng) (x : Ext) (hs : List Nat) (us : List (Nat × Use)) : Prop :=
  roleOf s.cur = engRole e ∧ s.me.guardHolds (.pred x.sense x.pred) = true ∧
    (∀ h ∈ hs, (h < 32 ∨ s.received h = true) ∧ (s.myTile h).v = true) ∧
    (∀ u ∈ us, (s.myTile u.1).may u.2 = true ∧ (s.cell (cellOf s.cur)).firstFor false u.1 s.cur = true) ∧
    ((s.cell (cellOf s.cur)).engine e).queue.length < 8 ∧ (s.cell (cellOf s.cur)).cutBegun = false

/-- What an engine form's issue does: its command, with what it captures, stands last in the queue; a source tile is held
once more, a destination is FILLING; a status predicate is clear; no other register and no byte of memory changes. -/
structure Queues (i : Instr) (e : Eng) (x : Ext) (vals : List Word) (hs : List Nat) (us : List (Nat × Use)) (s t : State) :
    Prop where
  next : exec i s = .next t
  only : InCell s t
  entered : ∃ c, ((t.cell (cellOf s.cur)).engine e).queue = ((s.cell (cellOf s.cur)).engine e).queue ++ [c] ∧
    c.op = i ∧ c.slot = s.cur ∧ c.gen = s.me.gen ∧ c.ctx = s.me.ctx ∧ c.fmode = s.me.fmode ∧ c.vals = vals ∧
    c.tiles = hs.map (fun h => (h, s.myTile h)) ∧ c.gate = (x.gcount.toNat, x.gsem.toNat) ∧ c.done = x.done
  tiles : ∀ h : TileIx, t.myTile h.toNat =
    (if (h.toNat, Use.src) ∈ us then { s.myTile h.toNat with hold := (s.myTile h.toNat).hold + 1 }
      else if (h.toNat, Use.dst) ∈ us ∨ (h.toNat, Use.both) ∈ us then { s.myTile h.toNat with state := .filling }
      else s.myTile h.toNat)
  regs : t.me.regs = s.me.regs
  preds : t.me.pw = (match x.done with | .pred p => (s.me.setP p false).pw | _ => s.me.pw)

/-- An engine form that goes on: its command enters the queue, and the PC moves on. -/
def Enters (i : Instr) (e : Eng) (x : Ext) (vals : List Word) (hs : List Nat) (us : List (Nat × Use)) (s : State) : Prop :=
  ∃ t, Queues i e x vals hs us s t ∧ t.me.run = .run ∧ PassedBy s t 12

/-! ### Elements of tiles (R125, R133, R264) -/

/-- A state in which no access of an engine meets an error, a copy of a fix or a secure range. -/
def State.quiet (s : State) : Prop :=
  s.sound ∧ s.soft = [] ∧ s.poison = [] ∧ s.fix.copies = [] ∧ s.fix.want = 0 ∧ s.part.secureCells = []

/-- Bytes of a local address on, as a number. -/
def State.num (s : State) (a n : Nat) : Nat := leNat ((addrsFrom a n).map s.byte)

/-- Local address of element (i, j) of a row-form tile that is not BFX. -/
def elemAddr (cell : Nat) (t : Tile) (i j : Nat) : Nat := tileAddr cell t.at_ + i * t.rb + j * elemBytes t.fmt

/-- Its pattern. -/
def State.elemAt (s : State) (cell : Nat) (t : Tile) (i j : Nat) : Nat := s.num (elemAddr cell t i j) (elemBytes t.fmt)

/-- Bytes are written from a local address on, and no other byte and no slot changes. -/
def Stores (s t : State) (a : Nat) (bs : List Byte) : Prop :=
  (∀ i, i < bs.length → t.byte (a + i) = bs.getD i 0) ∧ (∀ q, q < a ∨ a + bs.length ≤ q → t.byte q = s.byte q) ∧ t.slots = s.slots

/-- Unit u of a command's work is done, with the effect f. -/
def Job.does (x : Job) (s : State) (u : Nat) (f : State → Prop) : Prop :=
  u < (x.plan s).units ∧ ∃ t, (x.plan s).run u s = .ok ((), t) ∧ f t

/-- An engine's access at a virtual address reaches n bytes from local address p on: its own near memory, or HBM of this part through a
plain page that the issuing core's TLB holds and that the command may read (kind 0) or write (kind 1) (R134, R137). -/
def Job.reaches (x : Job) (s : State) (kind : Nat) (va : Word) (n p : Nat) : Prop :=
  canonical va.toNat = true ∧
  if isNear va.toNat then nearLocal x.cell va.toNat n = some p
  else ∃ l, (s.coreTlb (coreOf x.r.cmd.slot) 0).find? (fun l => leafCovers l x.r.cmd.ctx (pageOf va.toNat)) = some l ∧
    lRegion l = 0 ∧ lFmt l = 0 ∧ lView l = 0 ∧ addrPart (lFrame l) = s.link.pod.k ∧ permFails x.r.cmd.priv kind l = false ∧
    fixNeeded (s.afterCut x.cell) l = false ∧ s.worldFails x.r.cmd.secure (some l) (addrsFrom p n) = false ∧
    va.toNat % 65536 + n ≤ 65536 ∧ p = localAddr (lFrame l) + (va.toNat % 2 ^ 56 - l.vbase) ∧ ∀ i, i < n → placeOf (p + i) = .hbm

/-- A command in progress whose accesses meet no cache, owner, key change or transaction, and no write of which is on its way. -/
def Job.calm (x : Job) (s : State) : Prop :=
  s.quiet ∧ s.l2 = [] ∧ s.owners = [] ∧ s.unitKey = [] ∧ x.r.cmd.txn = none ∧ x.r.acks = 0 ∧ x.cell < 1024 ∧
    ((s.cell x.cell).engine x.eng).cur = some x.r

/-- Bytes from a local address on. -/
def State.bytesAt (s : State) (a n : Nat) : List Byte := (addrsFrom a n).map s.byte

/-- The write of a strip of an engine: at its own near memory at once, and to HBM by a write-through on its way to the line's slice
(R84, R137). -/
def Job.puts (x : Job) (s t : State) (va : Word) (p : Nat) (bs : List Byte) : Prop :=
  if isNear va.toNat then Stores s t p bs
  else t.mem = s.mem ∧ t.slots = s.slots ∧ ∃ f q, t.sched.flight = s.sched.flight ++ [f] ∧ f.parcel = .step (.writeThrough q) 0 ∧
    q.addrs = addrsFrom p bs.length ∧ q.data = bs ∧ q.cell = x.cell

/-- Unit i · COLS + j of a command's work gives element (i, j) of TD the value v, and writes nothing else. -/
def Job.gives (x : Job) (s : State) (i j v : Nat) : Prop :=
  let d := x.tile 0
  x.does s (i * d.cols + j) fun t => Stores s t (elemAddr x.cell d i j) (leBytes (elemBytes d.fmt) v)

/-- That unit writes nothing where the mask's element is 0, and else gives the value v (R264). -/
def Job.givesUnder (x : Job) (s : State) (mk : Option TileIx) (i j v : Nat) : Prop :=
  let d := x.tile 0
  let m := x.tile (x.r.cmd.tiles.length - 1)
  if mk.isSome ∧ s.elemAt x.cell m i j = 0 then x.does s (i * d.cols + j) fun t => (∀ q, t.byte q = s.byte q) ∧ t.slots = s.slots
  else x.gives s i j v

/-- Reduced elements of a lane, combined in order, and the tree over the lanes (R267). -/
def laneOf {α : Type} (f : α → α → α) (xs : List α) (l : Nat) : Option α :=
  match ((List.range xs.length).filter fun q => q % 64 = l).filterMap fun q => xs[q]? with
  | [] => none
  | y :: ys => some (ys.foldl f y)

def treeOf {α : Type} (f : α → α → α) (xs : List α) : Nat → Nat → Option α
  | 0, t => laneOf f xs t
  | n + 1, t => match treeOf f xs n (2 * t), treeOf f xs n (2 * t + 1) with
    | some x, some y => some (f x y)
    | some x, none => some x
    | none, y => y

/-- Code of element e of block (i, b) of a BFX or INT8 tile: in plane form from bit e of the words of its record, the magnitude planes
from the lowest, then sign and selector (R61); in row form from the packed bits of the block (R42), or its byte. -/
def State.codeAt (s : State) (cell : Nat) (t : Tile) (i b e : Nat) : Nat :=
  let n := fmtBits t.fmt
  let row := tileAddr cell t.at_ + i * t.rb
  if t.plane then
    let words := if isBfx t.fmt then n + 1 else n
    let bit (w : Nat) : Nat := if isBfx t.fmt ∧ w = n - 2 then n - 1 else if isBfx t.fmt ∧ w = n - 1 then n - 2 else w
    ((List.range n).map fun w => s.num (row + b * (4 * words) + 4 * w) 4 / 2 ^ e % 2 * 2 ^ bit w).sum
  else s.num (row + b * (4 * n)) (4 * n) / 2 ^ (n * e) % 2 ^ n

/-- E0 and E1 of block (i, b) of a BFX tile (R61, R125). -/
def State.expsAt (s : State) (cell : Nat) (t : Tile) (i b : Nat) : Nat × Nat :=
  let n := fmtBits t.fmt
  let row := tileAddr cell t.at_ + i * t.rb
  let a := if t.plane then row + b * (4 * (n + 1)) + 4 * n else row + t.cols / 32 * (4 * n) + 2 * b
  (s.num a 1, s.num (a + 1) 1)

/-- Bounds of an address range of R135. -/
def rangeOk (lo hi : Int) : Prop := rangeBad lo = false ∧ rangeBad hi = false

/-! ### Units away from the cores -/

/-- A report of a die reached its ring, or is counted as lost (R341). -/
def Reported (s t : State) (die : Nat) : Prop :=
  let d := s.die die
  if bitOf d.fsring 4 = true ∧ (d.fstail - d.fshead).toNat ≠ 2 ^ (slice d.fsring 3 0 + 6) then
    (t.die die).fstail = d.fstail + 1 ∧ (t.die die).lost = d.lost
  else (t.die die).fstail = d.fstail ∧ (t.die die).lost = d.lost + 1

/-- A slot that has left the rotation for a translation and will issue its instruction again. -/
def State.asking (s : State) (k gen : Nat) (w : FaultWait) : Prop :=
  (s.slot k).gen.toNat = gen ∧ (s.slot k).pend = .retry ∧ (s.slot k).faultWait = some w

/-- Such a slot in RUN again, with nothing else of it changed but what it keeps while it waits. -/
def Resumed (s t : State) (k : Nat) : Prop :=
  (t.slot k).run = .run ∧ (t.slot k).pend = .none ∧ (t.slot k).faultWait = none ∧ (t.slot k).pc = (s.slot k).pc ∧
    (t.slot k).regs = (s.slot k).regs ∧ (t.slot k).pw = (s.slot k).pw

/-- A datagram that the port does not drop: its version, its payload's size, its sender, and a stage after the first
(R363, R370). -/
def State.hears (s : State) (p : Datagram) : Prop :=
  p.ver = 1 ∧ p.payload.length ≤ 8192 ∧ (s.link.owner = none ∨ s.link.owner = some p.host) ∧ s.part.stage ≠ 0

/-- A datagram of the host that a part in full compute takes: its version, a payload of at most 8,192 bytes, the host that
formed the pod if one has, and the next sequence number (R363). -/
def State.mayTake (s : State) (p : Datagram) : Prop :=
  s.hears p ∧ s.part.stage = 4 ∧ p.seq = (s.link.seqIn + 1) % 2 ^ 32

/-- What taking it leaves: its number is the last one taken, and an ACK has left. -/
def Took (s t : State) (p : Datagram) : Prop :=
  t.link.seqIn = p.seq ∧ (⟨1, 7, 0, p.seq, 0, 0, [], s.link.owner.getD 0⟩ : Datagram) ∈ t.link.sent

/-- A datagram to the host stands in the window. -/
def State.tells (t s : State) (p : Datagram) (op seq : Nat) (arg : Word) (bs : List Byte) : Prop :=
  (⟨1, op, seq, p.seq, arg, bs.length, bs, s.link.owner.getD 0⟩ : Datagram) ∈ t.link.window.map fun e => e.1

/-- The image of a fix as cuts leave it: every cell of the part once, with its three cores, and with the captured slots of the
cell, each once, in the states 1 to 4 of R353. -/
def PartImage.whole (q : PartImage) : Prop :=
  (q.cells.map fun i => i.cell).Perm (List.range 1024) ∧ ∀ i ∈ q.cells,
    (i.cores.map fun e => e.1) = [i.cell * 3, i.cell * 3 + 1, i.cell * 3 + 2] ∧ (i.slots.map fun e => e.1).Nodup ∧
    ∀ e ∈ i.slots, e.1 / 48 = i.cell ∧ 1 ≤ e.2.1 ∧ e.2.1 ≤ 4

/-- Copies of units as writes leave them: one for a unit and a fix, in frames that are 64 KiB units of their own. -/
def Fix.apart (f : Fix) : Prop :=
  (f.copies.map fun c => (c.1, c.2.1)).Nodup ∧
  ∀ c ∈ f.copies, c.2.2 % 65536 = 0 ∧ ∀ d ∈ f.copies, unitOf c.2.2 ≠ d.1

/-! ### Scalar operations on bit vectors (R190, R192 to R198) -/

/-- An operation at the width of a form; a `.32` result is sign-extended. -/
def atWidth (w : Wd) (f : (n : Nat) → BitVec n → BitVec n → BitVec n) (x y : Word) : Word :=
  match w with
  | .d64 => f 64 x y
  | .w32 => (f 32 (x.truncate 32) (y.truncate 32)).signExtend 64

/-- The smaller or larger of two, by an order. -/
def pick (le : Bool) {n : Nat} (a b : BitVec n) : BitVec n := if le then a else b

/-- Quotient and remainder of R192. -/
def quotS (n : Nat) (a b : BitVec n) : BitVec n := if b = 0 then BitVec.allOnes n else a.sdiv b
def remS (n : Nat) (a b : BitVec n) : BitVec n := if b = 0 then a else a.srem b
def quotU (n : Nat) (a b : BitVec n) : BitVec n := if b = 0 then BitVec.allOnes n else a / b
def remU (n : Nat) (a b : BitVec n) : BitVec n := if b = 0 then a else a % b

/-- The condition codes of R198 as orders on n bits. -/
def ccSpec (c : Cc) (n : Nat) (a b : BitVec n) : Bool :=
  match c with
  | .eq => a == b
  | .ne => a != b
  | .lt => a.slt b
  | .le => a.sle b
  | .gt => b.slt a
  | .ge => b.sle a
  | .ltu => a.ult b
  | .leu => a.ule b
  | .gtu => b.ult a
  | .geu => b.ule a

/-- A condition at the width of a form. -/
def ccAt (c : Cc) (w : Wd) (x y : Word) : Bool :=
  match w with
  | .d64 => ccSpec c 64 x y
  | .w32 => ccSpec c 32 (x.truncate 32) (y.truncate 32)

/-- What an atomic stores, of the old value, its operand and the expected value (R223). -/
def atomSpec (o : AtomOp) {n : Nat} (old x want : BitVec n) : BitVec n :=
  match o with
  | .add => old + x
  | .min => pick (old.sle x) old x
  | .max => pick (x.sle old) old x
  | .minu => pick (old.ule x) old x
  | .maxu => pick (x.ule old) old x
  | .and => old &&& x
  | .or => old ||| x
  | .xor => old ^^^ x
  | .swp => x
  | .cas => if old = want then x else old

/-- Ones in bits len - 1 to 0, where the field l holds len - 1 (R173). -/
def lowOnes (l : BitVec 6) : Word := BitVec.allOnes 64 >>> (63 - l.toNat)

/-! ### Real values of floating-point data (R47, R52 to R56) -/

/-- A magnitude with its sign. -/
def signed {α : Type} [Neg α] (neg : Bool) (u : α) : α := if neg then -u else u

/-- The magnitudes that a format represents, in ascending order and with the exponent range unbounded above: i is the pattern
without its sign, and its last bit is the fraction's (R47, R53). -/
def grid (f : FpFmt) (i : Nat) : ℚ :=
  let h := 2 ^ (f.p - 1)
  if i < h then i * 2 ^ (-126 - (f.p - 1 : Nat) : ℤ)
  else (h + i % h : Nat) * 2 ^ ((i / h : Nat) - 127 - (f.p - 1 : Nat) : ℤ)

/-- A finite datum of a sign and a magnitude. -/
def Fp.Is (x : Fp) (neg : Bool) (u : ℝ) : Prop := ∃ (m : Nat) (e : Int), x = .fin neg m e ∧ u = (m : ℝ) * (2 : ℝ) ^ e

/-- The magnitude that a mode chooses for the magnitude v of an exact result (R53). -/
def RoundsTo (f : FpFmt) (rm : Nat) (neg : Bool) (v : ℝ) (i : Nat) : Prop :=
  let at_ (j : Nat) : ℝ := (grid f j : ℝ)
  let above := v ≤ at_ i ∧ ∀ j, v ≤ at_ j → i ≤ j
  let below := at_ i ≤ v ∧ ∀ j, at_ j ≤ v → j ≤ i
  match rm with
  | 0 => ∀ j, |v - at_ i| ≤ |v - at_ j| ∧ (j ≠ i → |v - at_ i| = |v - at_ j| → i % 2 = 0)
  | 1 => below
  | 2 => if neg then below else above
  | _ => if neg then above else below

/-- The result that an operation delivers for a nonzero exact result of magnitude v: rounded once, replaced where it overflows, flushed
where FTZ says so; its flags NV, DZ, OF, UF, NX in bits 9 to 5; and whether it is subnormal (R50, R52 to R55). -/
def Delivers (f : FpFmt) (rm : Nat) (ftz neg : Bool) (v : ℝ) (r : FRes) : Prop :=
  let sign := if neg then 2 ^ (f.p + 7) else 0
  let least := 2 ^ (f.p - 1)
  let top := 255 * 2 ^ (f.p - 1)
  ∃ i, RoundsTo f rm neg v i ∧
    (top ≤ i → r = ⟨sign + (if rm = 0 ∨ rm = (if neg then 3 else 2) then top else top - 1), 128 + 32, false⟩) ∧
    (ftz = true → 0 < i → i < least → r = ⟨sign, 64 + 32, false⟩) ∧
    (i < top → ftz = false ∨ i = 0 ∨ least ≤ i →
      r.bits = sign + i ∧ r.sub = decide (0 < i ∧ i < least) ∧ ((grid f i : ℝ) = v → r.flags = 0) ∧
      ((grid f i : ℝ) ≠ v → r.flags = if i < least then 64 + 32 else 32))

/-- The integer that a mode chooses for a real (R53, R56). -/
def RoundsToInt (rm : Nat) (v : ℝ) (z : ℤ) : Prop :=
  match rm with
  | 0 => ∀ k : ℤ, |v - z| ≤ |v - k| ∧ (k ≠ z → |v - z| = |v - k| → z % 2 = 0)
  | 1 => z = if 0 ≤ v then ⌊v⌋ else ⌈v⌉
  | 2 => z = ⌈v⌉
  | _ => z = ⌊v⌋

/-! ### The generator (R68) -/

/-- Key and counter words. -/
structure RngState where
  k0 : W32
  k1 : W32
  x0 : W32
  x1 : W32
  x2 : W32
  x3 : W32
  deriving DecidableEq, Repr

/-- Round r. -/
def RngState.round (q : RngState) (r : Nat) : RngState :=
  let a : Word := q.x0.zeroExtend 64 * 0x9A3F5B1D
  let b : Word := q.x2.zeroExtend 64 * 0xD4E17C2B
  let kA := if r % 2 = 0 then q.k0 else q.k1
  let kB := if r % 2 = 0 then q.k1 else q.k0
  { x0 := b.truncate 32 ^^^ q.x3.rotateLeft 7 ^^^ kA, x1 := a.extractLsb' 32 32 + q.x2
    x2 := a.truncate 32 ^^^ q.x1.rotateLeft 19 ^^^ kB, x3 := b.extractLsb' 32 32 + q.x0
    k0 := q.k0 + 0x6A21C3E7, k1 := q.k1 + 0x3B58D90F }

/-- The generator on a key and a 128-bit counter: the two doublewords of its block. -/
def rngSpec (key lo hi : Word) : Word × Word :=
  let q := (List.range 12).foldl RngState.round
    ⟨key.truncate 32, key.extractLsb' 32 32, lo.truncate 32, lo.extractLsb' 32 32, hi.truncate 32, hi.extractLsb' 32 32⟩
  (q.x1 ++ q.x0, q.x3 ++ q.x2)

/-! ### Results of floating-point forms -/

/-- What a floating-point form leaves in its slot: the result, its sticky flags, and the turns that a subnormal costs
(R51, R55). -/
def fpEffect (d : Reg) (v : Word) (flags : Nat) (sub : Bool) (sl : Slot) : Slot :=
  let x := sl.setG d v
  { x with fmode := x.fmode ||| natW flags, skip := if sub then 4 else x.skip }

end Sys2Proof.Machine
end

