-- ==== Sys2Proof/Certificates/Slice0/Obligations.lean ====
section
/-! DEFINITION. The statements: what instructions and events do, their frames, their encodings, and what every step
keeps. -/

open Sys2Proof Sys2Proof.Machine

/-! ### Integer forms -/

/-- R192 with R190 and R189: the ALU and multiply rows on registers that are not in stream mode, with gB or a literal. -/
def Obligations.IntegerResults : Prop :=
  ∀ (s : State) (g : Guard) (w : Wd) (b : Opnd 5) (a d : Reg),
    s.me.guardHolds g = true → s.me.plain a = true → s.me.plainOp b = true → s.me.plain d = true →
    let x := s.me.g a
    let y := s.me.op b
    ∀ e ∈ ([
      (.add g w b a d, atWidth w (fun _ p q => p + q) x y),
      (.sub g w b a d, atWidth w (fun _ p q => p - q) x y),
      (.and g b a d, x &&& y),
      (.or g b a d, x ||| y),
      (.xor g b a d, x ^^^ y),
      (.andn g b a d, x &&& ~~~y),
      (.orn g b a d, x ||| ~~~y),
      (.shl g w b a d, atWidth w (fun n p q => p <<< (q.toNat % n)) x y),
      (.shr g w b a d, atWidth w (fun n p q => p >>> (q.toNat % n)) x y),
      (.sar g w b a d, atWidth w (fun n p q => p.sshiftRight (q.toNat % n)) x y),
      (.rol g w b a d, atWidth w (fun n p q => p.rotateLeft (q.toNat % n)) x y),
      (.min g w b a d, atWidth w (fun _ p q => pick (p.sle q) p q) x y),
      (.max g w b a d, atWidth w (fun _ p q => pick (q.sle p) p q) x y),
      (.minu g w b a d, atWidth w (fun _ p q => pick (p.ule q) p q) x y),
      (.maxu g w b a d, atWidth w (fun _ p q => pick (q.ule p) p q) x y),
      (.mul g w b a d, atWidth w (fun _ p q => p * q) x y),
      (.mulh g b a d, (x.signExtend 128 * y.signExtend 128).extractLsb' 64 64),
      (.mulhu g b a d, (x.zeroExtend 128 * y.zeroExtend 128).extractLsb' 64 64),
      (.madd g w b a d, atWidth w (fun _ p q => p + q) (s.me.g d) (atWidth w (fun _ p q => p * q) x y))] : List (Instr × Word)),
    Does e.1 s (opLen g b) fun sl => sl.setG d e.2

/-- R193 with R192: a divide leaves the rotation for its time, nothing else changed, and its event writes the result,
after which the PC is past the instruction. The order of steps within a cclk, the latencies that the spec leaves open
and the unit that `cur` names are the model's (log 3, log 5). -/
def Obligations.DivisionResults : Prop :=
  ∀ (s : State) (g : Guard) (w : Wd) (b : Opnd 5) (a d : Reg),
    s.me.guardHolds g = true → s.me.plain a = true → s.me.plainOp b = true → s.me.plain d = true →
    let x := s.me.g a
    let y := s.me.op b
    ∀ e ∈ ([
      (.div g w b a d, atWidth w quotS x y),
      (.divu g w b a d, atWidth w quotU x y),
      (.rem g w b a d, atWidth w remS x y),
      (.remu g w b a d, atWidth w remU x y)] : List (Instr × Word)),
    ∃ t u, exec e.1 s = .next t ∧ t.me.run = .wait wExec ∧ t.me.pc = s.me.pc ∧ t.me.regs = s.me.regs ∧
      (⟨s.cycle + (match w with | .d64 => 72 | .w32 => 40), clsOwn, 0, 0, .step .integerDivideComplete s.cur⟩ : Flight) ∈
        t.sched.flight ∧
      exec .integerDivideComplete t = .next u ∧ u.me.run = .run ∧ u.me.regs = (s.me.setG d e.2).regs ∧ u.mem = s.mem ∧
      PassedBy s u (opLen g b) ∧ ∀ k, k ≠ s.cur → u.slot k = s.slot k

/-- R194, R195 and R197: bit counts, extensions, `sel`, `extr` and `ins`. -/
def Claim.BitFormResults : Prop :=
  ∀ (s : State) (g : Guard) (w : Wd) (q : PredIx) (l p : BitVec 6) (b : Opnd 5) (a d : Reg),
    s.me.guardHolds g = true → s.me.plain a = true → s.me.plainOp b = true → s.me.plain d = true → bitsOk p l = true →
    let x := s.me.g a
    let z := s.me.g d
    (∀ e ∈ ([
      (.clz g w a d, match w with | .d64 => x.clz | .w32 => (BitVec.clz (x.truncate 32 : W32)).zeroExtend 64),
      (.ctz g w a d, match w with | .d64 => x.ctz | .w32 => (BitVec.ctz (x.truncate 32 : W32)).zeroExtend 64),
      (.popc g w a d, match w with | .d64 => x.cpop | .w32 => (BitVec.cpop (x.truncate 32 : W32)).zeroExtend 64),
      (.sext g .b a d, (x.truncate 8).signExtend 64),
      (.sext g .h a d, (x.truncate 16).signExtend 64),
      (.sext g .w a d, (x.truncate 32).signExtend 64),
      (.zext g .b a d, (x.truncate 8).zeroExtend 64),
      (.zext g .h a d, (x.truncate 16).zeroExtend 64),
      (.zext g .w a d, (x.truncate 32).zeroExtend 64),
      (.extr g l p a d, (x >>> p.toNat) &&& lowOnes l),
      (.ins g l p a d, (z &&& ~~~(lowOnes l <<< p.toNat)) ||| ((x &&& lowOnes l) <<< p.toNat))] : List (Instr × Word)),
      Does e.1 s (formLen g) fun sl => sl.setG d e.2) ∧
    Does (.sel g q b a d) s (opLen g b) fun sl => sl.setG d (if s.me.p q then x else s.me.op b)

/-- R196 and R197: forms with an immediate, and shifts by a constant. -/
def Claim.ImmediateResults : Prop :=
  ∀ (s : State) (g : Guard) (w : Wd) (k : BitVec 6) (i : Opnd 14) (a d : Reg),
    s.me.guardHolds g = true → s.me.plain a = true → s.me.plain d = true → shiftOk w k = true →
    let x := s.me.g a
    let v := match i with | .field f => f.signExtend 64 | .lit l => l
    (∀ e ∈ ([
      (.addi g i a d, x + v),
      (.andi g i a d, x &&& v),
      (.ori g i a d, x ||| v),
      (.xori g i a d, x ^^^ v),
      (.li g i d, v),
      (.lpc g i d, s.me.pc + (v <<< (2 : Nat)))] : List (Instr × Word)),
      Does e.1 s (opLen g i) fun sl => sl.setG d e.2) ∧
    (∀ e ∈ ([
      (.shli g w k a d, atWidth w (fun _ p _ => p <<< k.toNat) x 0),
      (.shri g w k a d, atWidth w (fun _ p _ => p >>> k.toNat) x 0),
      (.sari g w k a d, atWidth w (fun _ p _ => p.sshiftRight k.toNat) x 0)] : List (Instr × Word)),
      Does e.1 s (formLen g) fun sl => sl.setG d e.2)

/-- R194 to R197: bit counts, extensions, selections, fields, immediates and shifts by a constant. -/
def Obligations.BitAndImmediateResults : Prop := Claim.BitFormResults ∧ Claim.ImmediateResults

/-- R198 and R200: integer compares and the logical predicate forms write one predicate and nothing else, `pget` writes all predicates
to one general register, and `pset` writes p1 to p15 from one. -/
def Obligations.CompareAndPredicateResults : Prop :=
  ∀ (s : State) (g : Guard) (c : Cc) (w : Wd) (b : Opnd 5) (i : Opnd 10) (a d : Reg) (p q r : PredIx),
    s.me.guardHolds g = true → s.me.plain a = true → s.me.plainOp b = true → s.me.plain d = true →
    let x := s.me.g a
    let v := match i with | .field f => f.signExtend 64 | .lit l => l
    Does (.cmp g c w b a r) s (opLen g b) (fun sl => sl.setP r (ccAt c w x (s.me.op b))) ∧
    Does (.cmpi g c i a r) s (opLen g i) (fun sl => sl.setP r (ccSpec c 64 x v)) ∧
    (∀ e ∈ ([
      (.pand g q p r, s.me.p p && s.me.p q),
      (.por g q p r, s.me.p p || s.me.p q),
      (.pxor g q p r, s.me.p p != s.me.p q),
      (.pandn g q p r, s.me.p p && !s.me.p q)] : List (Instr × Bool)),
      Does e.1 s (formLen g) fun sl => sl.setP r e.2) ∧
    Does (.pget g d) s (formLen g) (fun sl => sl.setG d ((s.me.pw ||| 1).zeroExtend 64)) ∧
    Does (.pset g a) s (formLen g) (fun sl => { sl with pw := (x.truncate 16) ||| 1 })

/-- R149, R189 and R200: g0 reads 0 and p0 reads true in every state, and a write to either is discarded. -/
def Obligations.HardWiredRegisters : Prop :=
  ∀ (sl : Slot) (r : Reg) (v : Word) (p : PredIx) (b : Bool),
    sl.g 0 = 0 ∧ sl.p 0 = true ∧ sl.setG 0 v = sl ∧ sl.setP 0 b = sl ∧
    (r ≠ 0 → (sl.setG r v).g r = v) ∧ (∀ q, q ≠ r → (sl.setG r v).g q = sl.g q) ∧
    (p ≠ 0 → (sl.setP p b).p p = b) ∧ ∀ q, q ≠ p → (sl.setP p b).p q = sl.p q

/-- R142, R143 and R189: an operand in stream mode takes the oldest element of its read stream, in the order A, then B, and
a result pushes one element onto its write stream; an operand or a result that stops stops the instruction, with nothing taken. -/
def Claim.StreamOperands : Prop :=
  ∀ (s s1 s2 s3 : State) (g : Guard) (w : Wd) (b : Opnd 5) (i : Opnd 14) (a d : Reg) (p : PredIx) (c : Cc) (x y : Word),
    s.me.guardHolds g = true →
    let v := match i with | .field f => f.signExtend 64 | .lit l => l
    let stops (e : Instr) (r : Except Stop (Unit × State)) : Prop :=
      (∀ cause value, r = .error (.trap cause value) → s.vectored = true → Traps e s cause value) ∧
      (r = .error (.wait wMem []) → Waits e s wMem)
    (readG a s = .ok (x, s1) →
      (∀ e ∈ ([
        (.addi g i a d, opLen g i, x + v), (.andi g i a d, opLen g i, x &&& v), (.ori g i a d, opLen g i, x ||| v),
        (.xori g i a d, opLen g i, x ^^^ v), (.sext g .w a d, formLen g, (x.truncate 32).signExtend 64),
        (.zext g .w a d, formLen g, (x.truncate 32).zeroExtend 64)] : List (Instr × Nat × Word)),
        (writeG d e.2.2 s1 = .ok ((), s3) → exec e.1 s = .next (s3.retire e.2.1 .seq)) ∧ stops e.1 (writeG d e.2.2 s1)) ∧
      (readOpnd b s1 = .ok (y, s2) →
        (∀ e ∈ ([
          (.add g w b a d, atWidth w (fun _ p q => p + q) x y), (.sub g w b a d, atWidth w (fun _ p q => p - q) x y),
          (.and g b a d, x &&& y), (.or g b a d, x ||| y), (.xor g b a d, x ^^^ y), (.andn g b a d, x &&& ~~~y),
          (.orn g b a d, x ||| ~~~y), (.shl g w b a d, atWidth w (fun n p q => p <<< (q.toNat % n)) x y),
          (.shr g w b a d, atWidth w (fun n p q => p >>> (q.toNat % n)) x y),
          (.mul g w b a d, atWidth w (fun _ p q => p * q) x y)] : List (Instr × Word)),
          (writeG d e.2 s2 = .ok ((), s3) → exec e.1 s = .next (s3.retire (opLen g b) .seq)) ∧ stops e.1 (writeG d e.2 s2)) ∧
        exec (.cmp g c w b a p) s =
          .next ((s2.modSlot s2.cur fun sl => sl.setP p (ccAt c w x y)).retire (opLen g b) .seq))) ∧
    ∀ e ∈ ([.add g w b a d, .mul g w b a d, .cmp g c w b a p, .addi g i a d, .sext g .w a d] : List Instr),
      (∀ cause value, readG a s = .error (.trap cause value) → s.vectored = true → Traps e s cause value) ∧
      (readG a s = .error (.wait wMem []) → Waits e s wMem)

/-- R142: what a read of a register in stream mode answers: the oldest value, which leaves the buffer; 0 past the end;
a stop while none has come; the trap of a marked element; and *stream misuse* on a write stream. -/
def Claim.StreamReads : Prop :=
  ∀ (s : State) (i : Fin 8) (r : Reg), streamIx r = some i → s.me.streams[i].mapped = true →
    let x := s.me.streams[i]
    (x.writes = true → readG r s = .error (.trap cStreamMisuse (r.zeroExtend 64))) ∧
    (x.writes = false →
      (∀ v rest, x.buf = .val v :: rest →
        readG r s = .ok (v, s.modSlot s.cur fun sl => sl.setStream i { x with buf := rest, pos := x.pos + 1 })) ∧
      (∀ c v rest, x.buf = .mark c v :: rest → readG r s = .error (.trap c v)) ∧
      (x.buf = [] → x.pos < x.total → readG r s = .error (.wait wMem [])) ∧
      (x.buf = [] → x.total ≤ x.pos →
        readG r s = .ok (0, s.modSlot s.cur fun sl => sl.setStream i { x with done := true })))

/-- R143: what a write of a register in stream mode does.  On a read stream it is *stream misuse*.  On a write stream it is
checked as the store of its size, whose stops it has; it waits while the buffer is full, or while its cell has a cut to take;
and else it puts one element, with the address and the bytes of that store, behind the others.  Of a push to near memory the
checks are spelled out.  A write past the last element is discarded, which is the model's choice (log 19). -/
def Claim.StreamWrites : Prop :=
  ∀ (s s1 : State) (i : Fin 8) (r : Reg) (v : Word) (t : Target) (bs : List Byte) (e : Stop) (p : Nat),
    streamIx r = some i → s.me.streams[i].mapped = true →
    let x := s.me.streams[i]
    let a := x.addr x.pos
    let n := x.bytes
    let k := s.link.pod.k
    let pushed (z : State) (y : SElem) : State :=
      z.modSlot z.cur fun sl => sl.setStream i { x with buf := x.buf ++ [y], pos := x.pos + 1 }
    (x.writes = false → writeG r v s = .error (.trap cStreamMisuse (r.zeroExtend 64))) ∧
    (x.writes = true → x.total ≤ x.pos → writeG r v s = .ok ((), s)) ∧
    (x.writes = true → x.pos < x.total →
      (64 ≤ x.buf.length ∨ (s.cell (cellOf s.cur)).cutBegun = true → writeG r v s = .error (.wait wMem [])) ∧
      (x.buf.length < 64 → (s.cell (cellOf s.cur)).cutBegun = false →
        (storeCheck (!x.dec) true a n v s = .error e → writeG r v s = .error e) ∧
        (storeCheck (!x.dec) true a n v s = .ok ((t, bs), s1) →
          (t.part ≠ s1.link.pod.k ∨ s1.lostWord t.addrs = none →
            writeG r v s = .ok ((), pushed s1 (.push t.va t.addrs t.part t.leaf (natW (leNat bs))))) ∧
          (∀ w, t.part = s1.link.pod.k → s1.lostWord t.addrs = some w →
            writeG r v s = .error (.trap cOwnerLost (natW w)))) ∧
        let whole := canonical a.toNat && canonical (a + natW (n - 1)).toNat
        (whole = false → writeG r v s = .error (.trap cBadAddress a)) ∧
        (whole = true → isNear a.toNat = true →
          (nearLocal (cellOf s.cur) a.toNat n = none → writeG r v s = .error (.trap cNearRange a)) ∧
          (nearLocal (cellOf s.cur) a.toNat n = some p → s.secureOf s.cur = true ∨ s.part.secureCells = [] →
            (a.toNat % n ≠ 0 → writeG r v s = .error (.trap cMisaligned a)) ∧
            (a.toNat % n = 0 → s.fix.want = 0 → s.lostWord (addrsFrom p n) = none →
              writeG r v s = .ok ((), pushed s (.push a (addrsFrom p n) k none (natW (v.toNat % 2 ^ (8 * n))))))))))

/-- R142 and R143: registers in stream mode as operands and results.  That a write past a stream's last element is discarded is the
model's choice (log 19). -/
def Obligations.StreamRegisters : Prop := Claim.StreamOperands ∧ Claim.StreamReads ∧ Claim.StreamWrites

/-! ### Floating point -/

/-- R51, R55 and R201 to R203: the two-operand and fused forms write the rounded result, set its sticky flags in FMODE, and
cost four turns when they met a subnormal. -/
def Claim.FloatResults : Prop :=
  ∀ (s : State) (g : Guard) (t : Fty) (b : Opnd 5) (a d : Reg),
    s.me.guardHolds g = true → s.me.plain a = true → s.me.plainOp b = true → s.me.plain d = true →
    let f := ftyFmt t
    let rm := rmOf s.me.fmode
    let ftz := ftzOf s.me.fmode
    let rd (v : Word) : Fp := readFp f ftz (fpBits t v)
    let x := s.me.g a
    let y := s.me.op b
    let z := s.me.g d
    (∀ e ∈ ([
      (.fadd g t b a d, fpAdd f rm ftz (rd x) (rd y), [x, y]),
      (.fsub g t b a d, fpAdd f rm ftz (rd x) (negFp (rd y)), [x, y]),
      (.fmul g t b a d, fpMul f rm ftz (rd x) (rd y), [x, y]),
      (.fma g t b a d, fpFma f rm ftz (rd x) (rd y) (rd z), [x, y, z]),
      (.fms g t b a d, fpFma f rm ftz (rd x) (rd y) (negFp (rd z)), [x, y, z]),
      (.fnma g t b a d, fpFma f rm ftz (negFp (rd x)) (rd y) (rd z), [x, y, z])] : List (Instr × FRes × List Word)),
      Does e.1 s (opLen g b)
        (fpEffect d (natW e.2.1.bits) e.2.1.flags (meetsSub t ftz e.2.2 || (!ftz && e.2.1.sub)))) ∧
    (∀ e ∈ ([
      (.fmin g t b a d, fpMinMax false f ftz (fpBits t x) (fpBits t y)),
      (.fmax g t b a d, fpMinMax true f ftz (fpBits t x) (fpBits t y))] : List (Instr × FRes)),
      Does e.1 s (opLen g b) (fpEffect d (natW e.2.bits) e.2.flags false)) ∧
    ∀ (c : Fcc) (p : PredIx), Does (.fcmp g c t b a p) s (opLen g b) fun sl =>
      let sl := sl.setP p (fccHolds c (rd x) (rd y))
      { sl with fmode := sl.fmode ||| natW (nvIf (fcmpNv c (rd x) (rd y))) }

/-- R203: `fdiv` and `fsqrt` leave the rotation for 39 cclk, and their event writes result and flags. -/
def Claim.FloatDivideResults : Prop :=
  ∀ (s : State) (g : Guard) (t : Fty) (b : Opnd 5) (a d : Reg),
    s.me.guardHolds g = true → s.me.plain a = true → s.me.plainOp b = true → s.me.plain d = true →
    let f := ftyFmt t
    let rm := rmOf s.me.fmode
    let ftz := ftzOf s.me.fmode
    let rd (v : Word) : Fp := readFp f ftz (fpBits t v)
    let x := s.me.g a
    let y := s.me.op b
    ∀ e ∈ ([
      (.fdiv g t b a d, opLen g b, fpDiv f rm ftz (rd x) (rd y), [x, y]),
      (.fsqrt g t a d, formLen g, fpSqrt f rm ftz (rd x), [x])] : List (Instr × Nat × FRes × List Word)),
    ∃ u v, exec e.1 s = .next u ∧ u.me.run = .wait wExec ∧ u.me.regs = s.me.regs ∧ u.me.fmode = s.me.fmode ∧
      (⟨s.cycle + 39, clsOwn, 0, 0, .step .fpDivideComplete s.cur⟩ : Flight) ∈ u.sched.flight ∧
      exec .fpDivideComplete u = .next v ∧ v.me.run = .run ∧ v.me.regs = (s.me.setG d (natW e.2.2.1.bits)).regs ∧
      v.me.fmode = s.me.fmode ||| natW e.2.2.1.flags ∧ v.mem = s.mem ∧
      v.me.skip = (if meetsSub t ftz e.2.2.2 || (!ftz && e.2.2.1.sub) then 4 else s.me.skip) ∧
      PassedBy s v e.2.1

/-- R51, R55, R201 to R203: floating-point arithmetic. The order of steps within a cclk, the latencies that the spec
leaves open and the unit that `cur` names are the model's (log 3, log 5). -/
def Obligations.FloatArithmetic : Prop := Claim.FloatResults ∧ Claim.FloatDivideResults

/-- R204 and R205: `fabs`, `fneg` and `fclass` set no flag; a conversion sets the flags of its result. -/
def Obligations.FloatUnaryResults : Prop :=
  ∀ (s : State) (g : Guard) (t : Fty) (k : CvtKind) (a d : Reg),
    s.me.guardHolds g = true → s.me.plain a = true → s.me.plain d = true →
    let x := s.me.g a
    let top : Word := match t with | .f32 => 0x80000000 | .bf16 => 0x8000
    let low : Word := match t with | .f32 => 0xFFFFFFFF | .bf16 => 0xFFFF
    (∀ e ∈ ([
      (.fabs g t a d, x &&& low &&& ~~~top),
      (.fneg g t a d, (x &&& low) ^^^ top),
      (.fclass g t a d, (1 : Word) <<< fclassOf (ftyFmt t) (fpBits t x))] : List (Instr × Word)),
      Does e.1 s (formLen g) fun sl => sl.setG d e.2) ∧
    Does (.fcvt g k a d) s (formLen g)
      (let r := fcvtRes k (rmOf s.me.fmode) (ftzOf s.me.fmode) x
       fpEffect d r.1 r.2.1 r.2.2)

/-- R47, R54 and R204: the datum that a pattern of FP32 or BF16 stands for, its class, and how it is read under FTZ. -/
def Claim.PatternValues : Prop :=
  ∀ (f : FpFmt) (x : Nat), f = fp32 ∨ f = bf16 → x < 2 ^ (f.p + 8) →
    let m := x % 2 ^ (f.p + 7)
    let least := 2 ^ (f.p - 1)
    let top := 255 * 2 ^ (f.p - 1)
    let quiet := top + 2 ^ (f.p - 2)
    let neg := decide (2 ^ (f.p + 7) ≤ x)
    (m < top → (unpack f x).Is neg (grid f m)) ∧
    (m = top → unpack f x = .inf neg) ∧
    (top < m → unpack f x = .nan (decide (m < quiet))) ∧
    readFp f false x = unpack f x ∧
    readFp f true x = (if 0 < m ∧ m < least then .fin neg 0 0 else unpack f x) ∧
    fclassOf f x =
      if top < m then (if m < quiet then 8 else 9)
      else
        let class_ := if m = top then 7 else if least ≤ m then 6 else if 0 < m then 5 else 4
        if neg then 7 - class_ else class_

/-- R52 to R55 and R201 to R203: sums, products, fused forms, quotients and square roots of finite data are the exact results rounded
once; and the signs of exact zeros. -/
def Claim.RoundedResults : Prop :=
  ∀ (f : FpFmt) (rm : Nat) (ftz a b c : Bool) (x y z : Fp) (u v w : ℝ),
    f = fp32 ∨ f = bf16 → rm < 4 → x.Is a u → y.Is b v → z.Is c w →
    let su := signed a u
    let sv := signed b v
    let sw := signed c w
    let gives (e : ℝ) (zero : Bool) (r : FRes) : Prop :=
      (e ≠ 0 → ∀ neg, (neg = true ↔ e < 0) → Delivers f rm ftz neg |e| r) ∧
      (e = 0 → r = ⟨if zero then 2 ^ (f.p + 7) else 0, 0, false⟩)
    let sumZero (p q : Bool) (zeros : Prop) (neg : Bool) : Prop :=
      (zeros → p = q → neg = p) ∧ (¬(zeros ∧ p = q) → neg = decide (rm = 3))
    (∀ neg, sumZero a b (u = 0 ∧ v = 0) neg → gives (su + sv) neg (fpAdd f rm ftz x y)) ∧
    gives (su * sv) (a != b) (fpMul f rm ftz x y) ∧
    (∀ neg, sumZero (a != b) c (u * v = 0 ∧ w = 0) neg → gives (su * sv + sw) neg (fpFma f rm ftz x y z)) ∧
    (v ≠ 0 → gives (su / sv) (a != b) (fpDiv f rm ftz x y)) ∧
    (v = 0 → u ≠ 0 → fpDiv f rm ftz x y = ⟨infPat f (a != b), 256, false⟩) ∧
    (v = 0 → u = 0 → fpDiv f rm ftz x y = ⟨canonNan f, 512, false⟩) ∧
    (a = false ∨ u = 0 → gives (Real.sqrt u) a (fpSqrt f rm ftz x)) ∧
    (a = true → u ≠ 0 → fpSqrt f rm ftz x = ⟨canonNan f, 512, false⟩) ∧
    (negFp x).Is (!a) u ∧ (fpProd x y).1.Is (a != b) (u * v)

/-- R48 and R52: results of NaNs and infinities. -/
def Claim.SpecialResults : Prop :=
  canonNan fp32 = 0x7FC00000 ∧ canonNan bf16 = 0x7FC0 ∧
  (∀ neg, infPat fp32 neg = (if neg then 0xFF800000 else 0x7F800000) ∧ infPat bf16 neg = if neg then 0xFF80 else 0x7F80) ∧
  ∀ (f : FpFmt) (rm : Nat) (ftz a b : Bool) (x y z : Fp) (v : ℝ), f = fp32 ∨ f = bf16 →
    let nan (nv : Bool) : FRes := ⟨canonNan f, if nv then 512 else 0, false⟩
    let inf (neg : Bool) : FRes := ⟨infPat f neg, 0, false⟩
    (isNan x = true ∨ isNan y = true →
      ∀ op ∈ ([fpAdd f rm ftz, fpMul f rm ftz, fpDiv f rm ftz] : List (Fp → Fp → FRes)), op x y = nan (isSig x || isSig y)) ∧
    (isNan x = true → fpSqrt f rm ftz x = nan (isSig x)) ∧
    fpAdd f rm ftz (.inf a) (.inf b) = (if a = b then inf a else nan true) ∧
    fpMul f rm ftz (.inf a) (.inf b) = inf (a != b) ∧ fpDiv f rm ftz (.inf a) (.inf b) = nan true ∧
    fpSqrt f rm ftz (.inf a) = (if a then nan true else inf false) ∧
    (y.Is b v →
      fpAdd f rm ftz (.inf a) y = inf a ∧ fpAdd f rm ftz y (.inf a) = inf a ∧
      (v = 0 → fpMul f rm ftz (.inf a) y = nan true ∧ fpMul f rm ftz y (.inf a) = nan true) ∧
      (v ≠ 0 → fpMul f rm ftz (.inf a) y = inf (a != b) ∧ fpMul f rm ftz y (.inf a) = inf (b != a)) ∧
      fpDiv f rm ftz (.inf a) y = inf (a != b) ∧
      fpDiv f rm ftz y (.inf a) = ⟨if b != a then 2 ^ (f.p + 7) else 0, 0, false⟩ ∧
      (v ≠ 0 → fpFma f rm ftz (.inf a) y z = fpAdd f rm ftz (.inf (a != b)) z ∧
        fpFma f rm ftz y (.inf a) z = fpAdd f rm ftz (.inf (b != a)) z)) ∧
    fpFma f rm ftz (.inf a) (.inf b) z = fpAdd f rm ftz (.inf (a != b)) z ∧
    (∀ c w, x.Is c w → y.Is b v → fpFma f rm ftz x y (.inf a) = inf a) ∧
    let invalid : Bool := match x, y with
      | .inf _, .fin _ m _ => m == 0
      | .fin _ m _, .inf _ => m == 0
      | _, _ => false
    (isNan x = true ∨ isNan y = true ∨ isNan z = true ∨ invalid = true →
      fpFma f rm ftz x y z = nan (isSig x || isSig y || isSig z || invalid))

/-- R53, R54, R56 and R205: conversions between formats round once; an integer becomes the nearest value that the mode says; a datum
becomes the integer that the mode says, or the bound that it passes, with NV. -/
def Claim.ConvertedResults : Prop :=
  ∀ (f : FpFmt) (rm : Nat) (ftz a : Bool) (x : Fp) (u : ℝ) (n : Nat) (i : Int),
    f = fp32 ∨ f = bf16 → rm < 4 → 0 < n →
    let lo : Int := -2 ^ (n - 1)
    let hi : Int := 2 ^ (n - 1) - 1
    (x.Is a u → u ≠ 0 → Delivers f rm ftz a u (fpToFp f rm ftz x)) ∧
    (x.Is a 0 → fpToFp f rm ftz x = ⟨if a then 2 ^ (f.p + 7) else 0, 0, false⟩) ∧
    fpToFp f rm ftz (.inf a) = ⟨infPat f a, 0, false⟩ ∧
    fpToFp f rm ftz (.nan a) = ⟨canonNan f, if a then 512 else 0, false⟩ ∧
    (i ≠ 0 → Delivers f rm ftz (decide (i < 0)) |(i : ℝ)| (intToFp f rm ftz i)) ∧
    intToFp f rm ftz 0 = ⟨0, 0, false⟩ ∧
    (x.Is a u → ∃ z, RoundsToInt rm (signed a u) z ∧
      (z < lo → fpToInt n rm x = (lo, 512)) ∧ (hi < z → fpToInt n rm x = (hi, 512)) ∧
      (lo ≤ z → z ≤ hi → (fpToInt n rm x).1 = z ∧ ((z : ℝ) = signed a u → (fpToInt n rm x).2 = 0) ∧
        ((z : ℝ) ≠ signed a u → (fpToInt n rm x).2 = 32))) ∧
    fpToInt n rm (.inf a) = (if a then lo else hi, 512) ∧ fpToInt n rm (.nan a) = (0, 512)

/-- R199 and R202: compares go by the values; `fmin` and `fmax` return a pattern, with -0 below +0, and the other operand of a NaN. -/
def Claim.ComparedResults : Prop :=
  (∀ (a b : Bool) (x y : Fp) (u v : ℝ), x.Is a u → y.Is b v →
    let p := signed a u
    let q := signed b v
    (fccHolds .eq x y = true ↔ p = q) ∧ (fccHolds .ne x y = true ↔ p ≠ q) ∧ (fccHolds .lt x y = true ↔ p < q) ∧
    (fccHolds .le x y = true ↔ p ≤ q) ∧ (fccHolds .gt x y = true ↔ q < p) ∧ (fccHolds .ge x y = true ↔ q ≤ p) ∧
    fccHolds .un x y = false ∧ fccHolds .ord x y = true ∧
    fccHolds .lt (.inf true) x = true ∧ fccHolds .lt x (.inf false) = true) ∧
  (∀ (c : Fcc) (x y : Fp), isNan x = true ∨ isNan y = true →
    fccHolds c x y = decide (c = .ne ∨ c = .un) ∧
    fcmpNv c x y = if c = .lt ∨ c = .le ∨ c = .gt ∨ c = .ge then true else isSig x || isSig y) ∧
  ∀ (f : FpFmt) (ftz top : Bool) (x y : Nat), f = fp32 ∨ f = bf16 → x < 2 ^ (f.p + 8) → y < 2 ^ (f.p + 8) →
    let rd (z : Nat) : Nat := if ftz && isSub f z then z / 2 ^ (f.p + 7) * 2 ^ (f.p + 7) else z
    let nanX := isNan (unpack f x)
    let nanY := isNan (unpack f y)
    let key (z : Nat) : Int := if 2 ^ (f.p + 7) ≤ z then 2 ^ (f.p + 7) - 1 - (z : Int) else z
    let first := if top then key (rd y) < key (rd x) else key (rd x) < key (rd y)
    fpMinMax top f ftz x y =
      ⟨if nanX && nanY then canonNan f else if nanX then rd y else if nanY then rd x else if first then rd x else rd y,
        if isSig (unpack f x) || isSig (unpack f y) then 512 else 0, false⟩

/-- R56 and R205: a BF16 datum that is no NaN, widened to FP32, is its pattern followed by 16 zero bits; narrowed again it is itself,
without a flag, under every rounding mode; a NaN gives the canonical one of the destination, in both steps. -/
def Claim.Bf16RoundTrip : Prop :=
  ∀ (x : BitVec 16) (rm : Nat), rm < 4 →
    let wide := (fpToFp fp32 rm false (readFp bf16 false x.toNat)).bits
    let back := fpToFp bf16 rm false (readFp fp32 false wide)
    if isNan (unpack bf16 x.toNat) then wide = canonNan fp32 ∧ back.bits = canonNan bf16
    else wide = x.toNat * 2 ^ 16 ∧ back.bits = x.toNat ∧ back.flags = 0

/-- R47, R48, R52 to R56, R199, R201 to R205: what the operations on FP32 and BF16 data mean: exact results rounded once, conversions,
compares, special cases, and the round trip of BF16 through FP32.  That a nonzero exact result which rounds to zero sets UF is the
model's choice (log 40). -/
def Obligations.Bf16RoundTrip : Prop :=
  Claim.Bf16RoundTrip ∧ Claim.PatternValues ∧ Claim.RoundedResults ∧ Claim.SpecialResults ∧ Claim.ConvertedResults ∧
    Claim.ComparedResults

/-! ### Control flow -/

/-- R206 and R207: branches and jumps; a link register receives the address of the next instruction. -/
def Obligations.BranchResults : Prop :=
  ∀ (s : State) (g : Guard) (c : Bcc) (o : Opnd 11) (j : Opnd 24) (b a d : Reg) (p : PredIx),
    s.me.guardHolds g = true → s.me.plain a = true → s.me.plain b = true → s.me.plain d = true →
    let x := s.me.g a
    let y := s.me.g b
    let near := s.me.pc + ((match o with | .field f => f.signExtend 64 | .lit l => l) : Word) <<< (2 : Nat)
    let far := s.me.pc + ((match j with | .field f => f.signExtend 64 | .lit l => l) : Word) <<< (2 : Nat)
    let take := match c with
      | .eq => x == y | .ne => x != y | .lt => x.slt y | .ge => y.sle x | .ltu => x.ult y | .geu => y.ule x
    (if take then Jumps (.bcc g c o b a) s (opLen g o) near id else Does (.bcc g c o b a) s (opLen g o) id) ∧
    (if s.me.p p then Jumps (.bp g o p) s (opLen g o) near id ∧ Does (.bnp g o p) s (opLen g o) id
      else Does (.bp g o p) s (opLen g o) id ∧ Jumps (.bnp g o p) s (opLen g o) near id) ∧
    Jumps (.j g j) s (opLen g j) far id ∧
    Jumps (.jal g j) s (opLen g j) far (fun sl => sl.setG 1 (s.me.pc + natW (opLen g j))) ∧
    (x.toNat % 4 = 0 → Jumps (.jr g a) s (formLen g) x id ∧
      Jumps (.jalr g a d) s (formLen g) x fun sl => sl.setG d (s.me.pc + natW (formLen g))) ∧
    (x.toNat % 4 ≠ 0 → s.vectored = true → Traps (.jr g a) s cMisaligned x ∧ Traps (.jalr g a d) s cMisaligned x)

/-- R208 and R209: `loop` with a nonzero count sets the level's three registers, whatever the level counted before, and goes on in
sequence with the loop-end check, which reads what it has set; with count 0, where word 0 of the body's last instruction stands in
the slot's buffer, it sets the same registers and goes on past that instruction, whose LEN gives its words.  That no end check
follows then is the model's choice (log 95). -/
def Claim.LoopSets : Prop :=
  ∀ (s : State) (g : Guard) (l : BitVec 1) (i : BitVec 14) (a : Reg),
    s.me.guardHolds g = true → s.me.plain a = true →
    let n := s.me.g a
    let first := s.me.pc + natW (formLen g)
    let last := s.me.pc + ((i.signExtend 64 : Word) <<< (2 : Nat))
    (n ≠ 0 → Does (.loop g l i a) s (formLen g) fun sl =>
      if l = 0 then { sl with lc0 := n, lb0 := first, le0 := last } else { sl with lc1 := n, lb1 := first, le1 := last }) ∧
    (n = 0 → s.me.fblock = some (last.toNat / 64) → s.me.fpoison.getLsbD (wordIx last.toNat) = false →
      Jumps (.loop g l i a) s (formLen g) (last + natW (4 * Decode.lenWords (lineWord s.me.fdata (last.toNat / 4)))) fun sl =>
        if l = 0 then { sl with lc0 := 0, lb0 := first, le0 := last } else { sl with lc1 := 0, lb1 := first, le1 := last })

/-- R209: the end check of an instruction that completes in sequence at the last address of a loop: level 1 first, and when
its count runs out level 0 of the same address. -/
def Claim.LoopEndCheck : Prop :=
  ∀ (s : State) (g : Guard), s.me.guardHolds g = true →
    ∃ t, exec (.nop g) s = .next t ∧ t.me.regs = s.me.regs ∧ t.mem = s.mem ∧
      (if s.me.lc1 ≠ 0 ∧ s.me.pc = s.me.le1 ∧ s.me.lc1 ≠ 1 then
        t.me.pc = s.me.lb1 ∧ t.me.lc1 = s.me.lc1 - 1 ∧ t.me.lc0 = s.me.lc0
      else
        t.me.lc1 = (if s.me.lc1 ≠ 0 ∧ s.me.pc = s.me.le1 then 0 else s.me.lc1) ∧
        if s.me.lc0 ≠ 0 ∧ s.me.pc = s.me.le0 ∧ s.me.lc0 ≠ 1 then t.me.pc = s.me.lb0 ∧ t.me.lc0 = s.me.lc0 - 1
        else t.me.pc = s.me.pc + natW (formLen g) ∧ t.me.lc0 = (if s.me.lc0 ≠ 0 ∧ s.me.pc = s.me.le0 then 0 else s.me.lc0))

/-- R208 and R209: hardware loops. -/
def Obligations.HardwareLoops : Prop := Claim.LoopSets ∧ Claim.LoopEndCheck

/-- R168 and R209: every instruction that can carry a guard, whose guard does not hold as it comes to issue, completes in sequence with
no effect: no operand is read and no trap is taken, and the loop-end check applies. An engine form on a core of another role traps with
*wrong engine* whatever its guard (R152), and words that name no system register are no instruction (R170). -/
def Obligations.GuardOff : Prop :=
  ∀ (s : State) (i : Instr) (g : Guard),
    (i.guard = some g → s.me.guardHolds g = false → s.me.counted = false →
      (∀ e, i.onEngine = some e → roleOf s.cur = engRole e) →
      (∀ x, i.sysReg = some x → (regAccess (isFsc (coreOf s.cur)) x).isSome = true) →
      Does i s (4 * (encode i).length) id) ∧
    ∀ e, i.onEngine = some e → roleOf s.cur ≠ engRole e → s.vectored = true →
      Traps i s cWrongEngine (natW (roleOf s.cur))

/-! ### System forms and exceptions -/

/-- R287 to R289, R317 and R340: `mfsr` writes the register's value; the values of the slot's, core's, cell's, context's,
part's and die's registers as the map numbers them. -/
def Claim.ReadSystemRegister : Prop :=
  ∀ (s : State) (g : Guard) (x : BitVec 9) (d : Reg) (r : RegAccess),
    s.me.guardHolds g = true → s.me.plain d = true → regAccess (isFsc (coreOf s.cur)) x.toNat = some r →
    regTrap (s.privOf s.cur) (s.secureOf s.cur) r.rd = none →
    let c := s.core (coreOf s.cur)
    let cell := s.cell (cellOf s.cur)
    let die := s.die (dieOfSlot s.cur)
    let sstat : Word := bitW (match s.me.work with | .handler _ => true | _ => false) 5 |||
      bitW (match s.me.work with | .role n _ => ((s.txn n).map fun y => bitOf y.sub.record.dw8 18).getD false | _ => false) 4 |||
      bitW s.me.inRole 3 ||| bitW s.me.inTrap 2 ||| bitW (s.secureOf s.cur) 1 ||| bitW (s.privOf s.cur) 0
    Does (.mfsr g x d) s (formLen g) (fun sl => sl.setG d (s.readReg s.cur x.toNat)) ∧
    ∀ e ∈ ([
      (0, s.me.fmode), (1, s.me.lc0), (2, s.me.lb0), (3, s.me.le0), (4, s.me.lc1), (5, s.me.lb1), (6, s.me.le1),
      (7, s.me.trapPc), (8, s.me.trapCause), (9, s.me.trapVal), (10, sstat), (11, s.me.estat), (12, s.me.spInit),
      (13, s.me.tpInit), (14, s.me.amBudget), (15, natW (s.link.pod.k * 2 ^ 16 + placeLow s.cur)), (16, natW s.me.ctx),
      (17, natW s.cycle), (18, s.me.issues), (19, (s.me.grp[0]).zeroExtend 64), (20, (s.me.grp[1]).zeroExtend 64),
      (21, (s.me.grp[2]).zeroExtend 64), (22, (s.me.grp[3]).zeroExtend 64),
      (64, c.sttile), (65, c.stsem), (66, c.stmem), (67, c.stfault), (68, c.stfetch), (69, c.stfree),
      (70, cell.stgate[0]), (71, cell.stgate[1]), (72, cell.stgate[2]), (73, cell.stgate[3]), (74, cell.stgate[4]),
      (75, c.qage), (76, c.qring[0]), (77, c.qring[1]), (78, c.qring[2]), (79, c.qring[3]), (81, cell.wdog), (82, c.stexec),
      (129, s.seq.txbudget), (130, s.part.vrtb), (131, natW (s.link.pod.k + (s.link.pod.n - 1) * 2 ^ 16)), (132, s.part.fixctl),
      (133, s.part.fixlast), (134, s.part.incarn), (192, (s.ctx s.me.ctx).trapVec), (193, (s.ctx s.me.ctx).root),
      (194, bitW (s.ctx s.me.ctx).priv 0), (256, die.fsring), (257, die.fshead), (258, die.fstail), (260, die.fsarg),
      (261, bitW die.busy 0 ||| bitW die.err 1 ||| natW (die.lost.toNat * 2 ^ 32)), (449, 0)] : List (Nat × Word)),
      x.toNat = e.1 → s.readReg s.cur x.toNat = e.2

/-- R50, R209, R287, R288 and R290: `mtsr` of the slot's own registers, the user ones by any slot and the others by a
privileged one, and of nothing else; reserved bits of FMODE and TRAPCAUSE are not written, any write clears ESTAT, a group
register keeps nine bits, and the loop-end check reads a loop register that the write sets. -/
def Claim.WriteSlotRegister : Prop :=
  ∀ (s : State) (g : Guard) (a : Reg), s.me.guardHolds g = true → s.me.plain a = true →
    let v := s.me.g a
    (∀ e ∈ ([
      (0, fun sl => { sl with fmode := v &&& 0x3E7 }),
      (1, fun sl => { sl with lc0 := v }), (2, fun sl => { sl with lb0 := v }), (3, fun sl => { sl with le0 := v }),
      (4, fun sl => { sl with lc1 := v }), (5, fun sl => { sl with lb1 := v }), (6, fun sl => { sl with le1 := v }),
      (7, fun sl => { sl with trapPc := v }), (8, fun sl => { sl with trapCause := v &&& 0xFFFF }),
      (9, fun sl => { sl with trapVal := v }), (11, fun sl => { sl with estat := 0 })] : List (BitVec 9 × (Slot → Slot))),
      Does (.mtsr g e.1 a) s (formLen g) e.2) ∧
    (s.privOf s.cur = true → ∀ e ∈ ([
      (12, fun sl => { sl with spInit := v }), (13, fun sl => { sl with tpInit := v }),
      (14, fun sl => { sl with amBudget := v }),
      (19, fun sl => { sl with grp := sl.grp.set 0 (v.truncate 9) }), (20, fun sl => { sl with grp := sl.grp.set 1 (v.truncate 9) }),
      (21, fun sl => { sl with grp := sl.grp.set 2 (v.truncate 9) }),
      (22, fun sl => { sl with grp := sl.grp.set 3 (v.truncate 9) })] : List (BitVec 9 × (Slot → Slot))),
      Does (.mtsr g e.1 a) s (formLen g) e.2)

/-- R104, R288, R317, R328, R340, R348 and R372: `mtsr` of a register of the core, the cell, the context, the part or, on a
fault service core, the die, by a slot that may write it: the instruction completes from the state that has this register
changed and no other part of it.  QRING is not written while its ring holds entries. -/
def Claim.WriteCoreRegister : Prop :=
  ∀ (s : State) (g : Guard) (a : Reg), s.me.guardHolds g = true → s.me.plain a = true →
    let v := s.me.g a
    let core (f : Core → Core) : State := s.modCore (coreOf s.cur) f
    let cell (f : Cell → Cell) : State := s.modCell (cellOf s.cur) f
    let ctx (f : Context → Context) : State := s.modCtx s.me.ctx f
    let die (f : Die → Die) : State := s.modDie (dieOfSlot s.cur) f
    let ring (q : Fin 4) : State := if (s.core (coreOf s.cur)).ringCount[q] ≠ 0 then s else
      core fun x => { x with qring := x.qring.set q (natW (slice v 59 12 * 4096 + slice v 4 0)) }
    let sqctl : Word := natW (slice v 47 32 * 2 ^ 32 + min (slice v 16 8) 256 * 2 ^ 8 + slice v 0 0)
    let wrote (n : BitVec 9) (u : State) : Prop := ∃ t, exec (.mtsr g n a) s = .next t ∧ Completes u t (formLen g) id
    (s.privOf s.cur = true → ∀ e ∈ ([
      (64, core fun x => { x with sttile := v }), (65, core fun x => { x with stsem := v }),
      (66, core fun x => { x with stmem := v }), (67, core fun x => { x with stfault := v }),
      (68, core fun x => { x with stfetch := v }), (69, core fun x => { x with stfree := v }),
      (70, cell fun x => { x with stgate := x.stgate.set 0 v }), (71, cell fun x => { x with stgate := x.stgate.set 1 v }),
      (72, cell fun x => { x with stgate := x.stgate.set 2 v }), (73, cell fun x => { x with stgate := x.stgate.set 3 v }),
      (74, cell fun x => { x with stgate := x.stgate.set 4 v }), (75, core fun x => { x with qage := v }),
      (76, ring 0), (77, ring 1), (78, ring 2), (79, ring 3),
      (81, cell fun x => { x with wdog := v, wdogCount := 0 }), (82, core fun x => { x with stexec := v }),
      (128, s.modSeq fun q => { q with closeAsked := true, newCtl := some sqctl }),
      (129, s.modSeq fun q => { q with txbudget := natW (slice v 31 0) }), (130, s.modPart fun p => { p with vrtb := v }),
      (132, s.modPart fun p => { p with fixctl := natW (slice v 63 12 * 4096 + slice v 0 0) }),
      (192, ctx fun x => { x with trapVec := v }), (193, ctx fun x => { x with root := natW (slice v 59 12 * 4096) }),
      (194, ctx fun x => { x with priv := bitOf v 0 })] : List (BitVec 9 × State)),
      wrote e.1 e.2) ∧
    (s.privOf s.cur = true → s.secureOf s.cur = true →
      wrote 452 (s.modPart fun p => { p with thermLimit := max 60 (min 105 (slice v 63 48)) }) ∧
      wrote 453 (s.modPart fun p => { p with pwrLimit := max 600 (min 2400 (slice v 31 0)) }) ∧
      (s.part.keyBusy = false →
        wrote 448 (s.modPart fun p => { p with keyIndex := slice v 11 0, keyWord := slice v 14 12 }) ∧
        ∀ u, exec (.keydataWrite v) s = .next u → wrote 449 u)) ∧
    (isFsc (coreOf s.cur) = true →
      wrote 256 (die fun d => { d with fsring := natW (slice v 59 12 * 4096 + slice v 4 0) }) ∧
      wrote 257 (die fun d => { d with fshead := v }) ∧ wrote 260 (die fun d => { d with fsarg := v }))

/-- R342: a write of FSCMD by a fault service core whose last command is acknowledged begins the command that it encodes, with
the operands of FSARG; a command that it does not encode sets ERR. -/
def Claim.WriteFscmd : Prop :=
  ∀ (s : State) (g : Guard) (a : Reg), s.me.guardHolds g = true → s.me.plain a = true → isFsc (coreOf s.cur) = true →
    let v := s.me.g a
    let d := dieOfSlot s.cur
    let arg := (s.die d).fsarg
    let ctx := slice v 63 48
    let verdict := slice v 43 42
    (s.die d).busy = false →
    (∀ e ∈ ([
      (0, .reply d ctx (slice arg 55 16) (verdict == 1)), (1, .replayall d), (2, .inval d ctx (slice arg 55 16) (slice v 39 0)),
      (3, .swout d ctx (localAddr arg.toNat)), (4, .swin d ctx (localAddr arg.toNat)), (5, .teardown d ctx)] : List (Nat × Instr)),
      slice v 47 44 = e.1 → (e.1 = 0 → verdict < 2) →
      ∃ t, exec (.mtsr g 259 a) s = .next t ∧ t.sched.now = s.sched.now ++ [(e.2, d)] ∧ (t.die d).busy = true ∧
        (t.die d).err = false ∧ t.me.regs = s.me.regs ∧ t.mem = s.mem ∧ PassedBy s t (formLen g)) ∧
    (6 ≤ slice v 47 44 ∨ slice v 47 44 = 0 ∧ 2 ≤ verdict →
      ∃ t, exec (.mtsr g 259 a) s = .next t ∧ t.sched = s.sched ∧ (t.die d).busy = false ∧ (t.die d).err = true ∧
        t.me.regs = s.me.regs ∧ t.mem = s.mem ∧ PassedBy s t (formLen g))

/-- R287, R288 and R342: system registers are written. -/
def Obligations.WriteSystemRegister : Prop := Claim.WriteSlotRegister ∧ Claim.WriteCoreRegister ∧ Claim.WriteFscmd

/-- R287 and R170: a register of class P written by a slot without PRIV traps with *privilege*, one of class S read or written from a
non-secure slot with *world*, a write to a read-only one with *privilege*, and a number that is not assigned is an undefined
encoding; TRAPVAL holds the register number, or word 0.  That a user slot's read of a class P register traps with *privilege* too, as
does a secure slot without PRIV at a class S register, is the model's choice (log 41). -/
def Claim.RegisterPrivilege : Prop :=
  ∀ (s : State) (g : Guard) (x : BitVec 9) (a d : Reg),
    s.vectored = true → s.me.plain a = true →
    let cls := regAccess (isFsc (coreOf s.cur)) x.toNat
    let number : Word := x.zeroExtend 64
    (cls = none → Traps (.mfsr g x d) s cUndefined (((encode (.mfsr g x d)).headD 0).zeroExtend 64) ∧
      Traps (.mtsr g x a) s cUndefined (((encode (.mtsr g x a)).headD 0).zeroExtend 64)) ∧
    (s.me.guardHolds g = true →
      (s.privOf s.cur = false →
        (∀ w, cls = some ⟨.priv, w⟩ → Traps (.mfsr g x d) s cPrivilege number) ∧
        (∀ r, cls = some ⟨r, some .priv⟩ → Traps (.mtsr g x a) s cPrivilege number)) ∧
      (s.secureOf s.cur = false →
        (∀ w, cls = some ⟨.secure, w⟩ → Traps (.mfsr g x d) s cWorld number ∧ Traps (.mtsr g x a) s cWorld number)) ∧
      (s.secureOf s.cur = true → s.privOf s.cur = false → ∀ w, cls = some ⟨.secure, w⟩ →
        Traps (.mfsr g x d) s cPrivilege number ∧ Traps (.mtsr g x a) s cPrivilege number) ∧
      (∀ r, cls = some ⟨r, none⟩ → r ≠ .secure ∨ s.secureOf s.cur = true → Traps (.mtsr g x a) s cPrivilege number))

/-- R170, R287 and R288: system registers are read, and accesses that a slot may not make trap.  That a read of a class P register
traps in a slot without PRIV is the model's choice (log 41). -/
def Obligations.ReadSystemRegister : Prop := Claim.ReadSystemRegister ∧ Claim.RegisterPrivilege

/-- R293, R294 and R170: `trap` and `brk` trap with causes 25 and 26 and their operand, words that are no instruction with
cause 1 and word 0; `eret` outside a trap is a bad return, cause 28. -/
def Claim.TrapsTaken : Prop :=
  ∀ (s : State) (g : Guard) (n : BitVec 9) (w0 : W32), s.vectored = true →
    Traps (.undefinedEncoding w0) s 1 (w0.zeroExtend 64) ∧
    (s.me.guardHolds g = true →
      Traps (.trap g n) s 25 (n.zeroExtend 64) ∧ Traps (.brk g n) s 26 (n.zeroExtend 64) ∧ Traps (.eret g) s 28 0)

/-- R293, R339 and R388: with no vector, or inside a trap, work that is neither role nor handler ends by a trap: nothing of
the slot's registers changes, and it is to be freed. -/
def Claim.TrapEndsWork : Prop :=
  ∀ (s : State) (g : Guard) (n : BitVec 9), s.me.guardHolds g = true →
    (∀ num r, s.me.work ≠ .role num r) → (∀ k, s.me.work ≠ .handler k) →
    (s.me.inTrap = true ∨ (s.ctx s.me.ctx).trapVec = 0) →
    ∃ t, exec (.trap g n) s = .next t ∧ t.me.ending = true ∧ t.me.regs = s.me.regs ∧ t.me.pc = s.me.pc ∧
      t.me.trapPc = s.me.trapPc ∧ t.me.trapCause = s.me.trapCause ∧ t.me.inTrap = s.me.inTrap

/-- R294: `eret` in a trap goes on at TRAPPC with IN_TRAP clear. -/
def Claim.ReturnFromTrap : Prop :=
  ∀ (s : State) (g : Guard), s.me.guardHolds g = true → s.me.inTrap = true →
    Jumps (.eret g) s (formLen g) s.me.trapPc fun sl => { sl with inTrap := false }

/-- R293 and R294: traps, and the return from one. -/
def Obligations.TrapAndReturn : Prop := Claim.TrapsTaken ∧ Claim.TrapEndsWork ∧ Claim.ReturnFromTrap

/-- R68, R295 and R296: `rng` writes the two doublewords that the generator's twelve rounds give of the key and the counter, all read
before either is written; `fixq` reads the status of a fix. -/
def Obligations.RngAndFixq : Prop :=
  ∀ (s : State) (g : Guard) (a d : Reg), s.me.guardHolds g = true → s.me.plain a = true → s.me.plain d = true →
    Does (.fixq g a d) s (formLen g) (fun sl => sl.setG d (s.fix.stat.get 0 (s.me.g a).toNat)) ∧
    (runOk d 1 2 = true → s.me.plain (d + 1) = true →
      let lo := s.me.g d
      let hi := s.me.g (d + 1)
      let y := rngSpec (s.me.g a) lo hi
      Does (.rng g a d) s (formLen g) fun sl => (sl.setG d y.1).setG (d + 1) y.2)

/-! ### Near memory (R73, R74, R213, R216) -/

/-- R213, R216: `ld` and `ld.raw` from the issuing cell's own near memory: the little-endian bytes, sign- or
zero-extended; nothing else changes. -/
def Claim.NearLoads : Prop :=
  ∀ (s : State) (g : Guard) (z : LdSize) (y : StSize) (h : Hint) (n : BitVec 4) (o : Opnd 5) (b d : Reg) (p : Nat),
    slotOk s.cur = true → s.me.guardHolds g = true → s.me.plain b = true → s.me.plain d = true → s.soft = [] →
    s.poison = [] → s.fix.copies = [] →
    s.secureOf s.cur = true ∨ s.part.secureCells = [] →
    let addr (size : Nat) : Word := s.me.g b + (match o with | .field v => v.zeroExtend 64 * natW size | .lit w => w)
    let value (size : Nat) : Nat := leNat ((addrsFrom p size).map s.byte)
    let at_ (size : Nat) : Prop := (addr size).toNat % size = 0 ∧ isNear (addr size).toNat = true ∧
      nearLocal (cellOf s.cur) (addr size).toNat size = some p
    (at_ (ldBytes z).1 → Does (.ld g z h n o b d) s (opLen g o) fun sl => sl.setG d
      (match z with
        | .b => (BitVec.ofNat 8 (value 1)).signExtend 64
        | .h => (BitVec.ofNat 16 (value 2)).signExtend 64
        | .w => (BitVec.ofNat 32 (value 4)).signExtend 64
        | .d => natW (value 8)
        | .bu => natW (value 1)
        | .hu => natW (value 2)
        | .wu => natW (value 4))) ∧
    (at_ (stBytes y) → Does (.ldRaw g y h n o b d) s (opLen g o) fun sl => sl.setG d (natW (value (stBytes y))))

/-- R213 and R216: `st` and `st.raw` to the issuing cell's own near memory store the low bytes of the register,
little-endian, and no other byte and no register changes. -/
def Obligations.NearStores : Prop :=
  ∀ (s : State) (g : Guard) (z : StSize) (h : Hint) (o : Opnd 5) (b r : Reg) (p : Nat) (raw : Bool),
    slotOk s.cur = true → s.sound → s.me.guardHolds g = true → s.me.plain b = true → s.me.plain r = true →
    s.fix.want = 0 → s.fix.copies = [] →
    s.secureOf s.cur = true ∨ s.part.secureCells = [] →
    let n := stBytes z
    let addr : Word := s.me.g b + (match o with | .field v => v.zeroExtend 64 * natW n | .lit w => w)
    addr.toNat % n = 0 → isNear addr.toNat = true → nearLocal (cellOf s.cur) addr.toNat n = some p →
    ∃ t, exec (if raw then .stRaw g z h o b r else .st g z h o b r) s = .next t ∧
      (∀ i, i < n → t.byte (p + i) = (s.me.g r).extractLsb' (8 * i) 8) ∧
      (∀ a, a < p ∨ p + n ≤ a → t.byte a = s.byte a) ∧ t.me.bare = s.me.bare ∧ t.me.run = .run ∧
      PassedBy s t (opLen g o) ∧ (∀ k, k ≠ s.cur → t.slot k = s.slot k) ∧
      t.cores = s.cores ∧ t.part = s.part ∧ t.seq = s.seq ∧ t.l2 = s.l2

/-- R223: atomics on the issuing cell's own near memory: gD receives the old value, and memory what the operation makes of
it; `acas` stores only where the old value is the expected one. -/
def Obligations.NearAtomics : Prop :=
  ∀ (s : State) (g : Guard) (z : Asz) (b a d : Reg) (p : Nat),
    slotOk s.cur = true → s.sound → s.me.guardHolds g = true → s.me.plain a = true → s.me.plain b = true →
    s.me.plain d = true → s.fix.want = 0 → s.fix.copies = [] → s.soft = [] → s.poison = [] →
    s.secureOf s.cur = true ∨ s.part.secureCells = [] →
    let n := match z with | .w => 4 | .d => 8
    let va := s.me.g a
    va.toNat % n = 0 → isNear va.toNat = true → nearLocal (cellOf s.cur) va.toNat n = some p →
    let old : Word := natW (leNat ((addrsFrom p n).map s.byte))
    let x : Word := match z with | .w => (s.me.g b).truncate 32 |>.zeroExtend 64 | .d => s.me.g b
    let want : Word := match z with | .w => (s.me.g d).truncate 32 |>.zeroExtend 64 | .d => s.me.g d
    let sx (v : Word) : Word := match z with | .w => (v.truncate 32).signExtend 64 | .d => v
    ∀ e ∈ ([
      (.aadd g z b a d, old + x), (.amin g z b a d, if (sx old).sle (sx x) then old else x),
      (.amax g z b a d, if (sx x).sle (sx old) then old else x), (.aminu g z b a d, if old.ule x then old else x),
      (.amaxu g z b a d, if x.ule old then old else x), (.aand g z b a d, old &&& x), (.aor g z b a d, old ||| x),
      (.axor g z b a d, old ^^^ x), (.aswp g z b a d, x), (.acas g z b a d, if old = want then x else old)] :
        List (Instr × Word)),
    ∃ t, exec e.1 s = .next t ∧ (∀ i, i < n → t.byte (p + i) = e.2.extractLsb' (8 * i) 8) ∧
      (∀ q, q < p ∨ p + n ≤ q → t.byte q = s.byte q) ∧ t.me.bare = (s.me.setG d (sx old)).bare ∧ t.me.run = .run ∧
      PassedBy s t (formLen g) ∧ ∀ k, k ≠ s.cur → t.slot k = s.slot k

/-- R213 to R216: an access to near memory that is not aligned traps with *misaligned*, one past either window with
*near range*, and an address that is not canonical with *bad address*; TRAPVAL is the address, and memory stays. -/
def Claim.BadNearAccess : Prop :=
  ∀ (s : State) (g : Guard) (z : LdSize) (y : StSize) (h : Hint) (n : BitVec 4) (b d : Reg),
    s.me.guardHolds g = true → s.me.plain b = true → s.me.plain d = true → s.vectored = true →
    s.secureOf s.cur = true ∨ s.part.secureCells = [] →
    let a := s.me.g b
    let o : Opnd 5 := .field 0
    (canonical a.toNat = false → Traps (.ld g z h n o b d) s cBadAddress a ∧ Traps (.st g y h o b d) s cBadAddress a) ∧
    (canonical a.toNat = true → isNear a.toNat = true →
      (nearLocal (cellOf s.cur) a.toNat (ldBytes z).1 = none → Traps (.ld g z h n o b d) s cNearRange a) ∧
      (nearLocal (cellOf s.cur) a.toNat (stBytes y) = none → Traps (.st g y h o b d) s cNearRange a) ∧
      ((nearLocal (cellOf s.cur) a.toNat (ldBytes z).1).isSome = true → a.toNat % (ldBytes z).1 ≠ 0 →
        Traps (.ld g z h n o b d) s cMisaligned a) ∧
      ((nearLocal (cellOf s.cur) a.toNat (stBytes y)).isSome = true → a.toNat % (stBytes y) ≠ 0 →
        Traps (.st g y h o b d) s cMisaligned a))

/-- R213 to R216: loads from near memory, and the accesses of near memory that trap. -/
def Obligations.NearMemoryLoads : Prop := Claim.NearLoads ∧ Claim.BadNearAccess

/-! ### Streams (R141 to R144, R231 to R233) -/

/-- R232 and R233: the stream forms on a stream register: `smap` maps what its descriptor says, `sunmap` ends the mode and
the register reads 0, `sstat` reads the status word, `sskip` moves the position and discards the buffer, `spref` leaves the
rotation until the buffer is full. -/
def Obligations.StreamForms : Prop :=
  ∀ (s : State) (g : Guard) (a b d : Reg) (i : Fin 8) (p : Nat),
    s.me.guardHolds g = true → s.me.plain a = true → s.me.plain b = true → s.me.plain d = true →
    let r : Reg := BitVec.ofNat 5 (20 + i.val)
    let x := s.me.streams[i]
    let ws := s.nearWords p 6
    let y : Stream := { Stream.reset with
      mapped := true, dw0 := ws.getD 0 0, dw1 := ws.getD 1 0, dw2 := ws.getD 2 0, dw3 := ws.getD 3 0
      dw4 := ws.getD 4 0, dw5 := ws.getD 5 0 }
    (s.ownRecord (s.me.g a) 6 p → (s.me.g a).toNat % 16 = 0 → (x.mapped && x.writes && x.buf != []) = false → y.valid = true →
      ∃ t, exec (.smap g a r) s = .next t ∧ t.me.streams[i] = y ∧ t.me.regs = s.me.regs ∧ t.mem = s.mem ∧
        (∀ j : Fin 8, j ≠ i → t.me.streams[j] = s.me.streams[j]) ∧ PassedBy s t (formLen g)) ∧
    (x.mapped = true → (x.writes && x.buf != []) = false →
      ∃ t, exec (.sunmap g r) s = .next t ∧ t.me.streams[i] = Stream.reset ∧ t.me.g r = 0 ∧ t.mem = s.mem ∧
        (∀ q, q ≠ r → t.me.g q = s.me.g q) ∧ PassedBy s t (formLen g)) ∧
    Does (.sstat g r d) s (formLen g) (fun sl => sl.setG d x.status) ∧
    (x.mapped = true → x.status = natW (x.pos * 2 ^ 16 + x.held * 2 ^ 8) ||| bitW
      (match x.buf with | .mark _ _ :: _ => true | .declined :: _ => true | _ => false) 3 ||| bitW x.done 2 |||
        bitW x.writes 1 ||| 1) ∧
    (x.mapped = true → x.writes = false →
      (∃ t, exec (.sskip g b r) s = .next t ∧ t.me.streams[i].buf = [] ∧
        t.me.streams[i].pos = min x.total (x.pos + (s.me.g b).toNat) ∧ t.me.regs = s.me.regs ∧ t.mem = s.mem ∧
        PassedBy s t (formLen g)) ∧
      ((s.cell (cellOf s.cur)).cutBegun = false →
        ∃ t, exec (.spref g r) s = .next t ∧ t.me.run = .wait wMem ∧ t.me.pend = .prefetch i.val ∧ t.me.streams[i].buf = [] ∧
          t.me.streams[i].pos = x.pos ∧ t.me.regs = s.me.regs ∧ t.mem = s.mem)) ∧
    (x.mapped = true → x.writes = true → s.vectored = true →
      Traps (.sskip g b r) s cStreamMisuse (r.zeroExtend 64) ∧ Traps (.spref g r) s cStreamMisuse (r.zeroExtend 64))

/-- R141 and R143: a refill from own near memory brings elements in sequence order to the end of the buffer or of the stream,
each by its own read, and a drain stores the oldest push and nothing else. The order of steps within a cclk, the latencies
that the spec leaves open and the unit that `cur` names are the model's (log 3, log 5). -/
def Obligations.StreamTraffic : Prop :=
  ∀ (s : State) (k : Nat) (i : Fin 8) (p : Nat) (at_ : Nat → Nat),
    s.cur = k * 8 + i.val → slotOk k = true → s.sound → s.soft = [] → s.poison = [] → s.fix.copies = [] → s.fix.want = 0 →
    s.part.secureCells = [] →
    let x := (s.slot k).streams[i]
    let n := min (64 - x.buf.length) (x.total - (x.pos + x.buf.length))
    let a (j : Nat) : Word := x.addr (x.pos + x.buf.length + j)
    (x.wants = true → x.dec = false →
      (∀ j, j < n → (a j).toNat % x.bytes = 0 ∧ isNear (a j).toNat = true ∧ nearLocal (cellOf k) (a j).toNat x.bytes = some (at_ j)) →
      ∃ t, exec .streamRefill s = .next t ∧ t.mem = s.mem ∧
        (t.slot k).streams[i].buf = x.buf ++ (List.range n).map (fun j => .val (natW (leNat ((addrsFrom (at_ j) x.bytes).map s.byte)))) ∧
        (t.slot k).streams[i].pos = x.pos ∧ (t.slot k).regs = (s.slot k).regs) ∧
    ∀ (va : Word) (n : Nat) (v : Word) (rest : List SElem),
      x.blocked = false → x.mapped = true → 0 < n → n ≤ 8 →
      (placeOf p = .tile (cellOf k) ∨ placeOf p = .vault (cellOf k)) →
      x.buf = .push va (addrsFrom p n) s.link.pod.k none v :: rest →
      ∃ t, exec .streamDrain s = .next t ∧ (t.slot k).streams[i].buf = rest ∧
        (∀ j, j < n → t.byte (p + j) = v.extractLsb' (8 * j) 8) ∧
        (∀ q, q < p ∨ p + n ≤ q → t.byte q = s.byte q) ∧ (t.slot k).regs = (s.slot k).regs

/-! ### Signals and work -/

/-- R285 and R162: the semaphore forms are atomic on the cell's semaphore: `semadd` adds modulo 2^16 and gives the old
value, `semset` stores, `semwait` subtracts once the value suffices and the slot is first in order, and waits otherwise. -/
def Claim.SemaphoreResults : Prop :=
  ∀ (s : State) (g : Guard) (n : BitVec 5) (a d : Reg),
    s.me.guardHolds g = true → s.me.plain a = true → s.me.plain d = true →
    let cell := cellOf s.cur
    let old := (s.cell cell).sem[n.toNat]'n.isLt
    let v : BitVec 16 := (s.me.g a).truncate 16
    let becomes (i : Instr) (w : BitVec 16) (f : Slot → Slot) : Prop :=
      ∃ t, exec i s = .next t ∧ (t.cell cell).sem[n.toNat]'n.isLt = w ∧ t.me.bare = (f s.me).bare ∧ t.me.run = .run ∧
        (∀ m : Fin 32, m.val ≠ n.toNat → (t.cell cell).sem[m] = (s.cell cell).sem[m]) ∧
        (∀ c, c ≠ cell → t.cell c = s.cell c) ∧ t.mem = s.mem ∧ (∀ k, k ≠ s.cur → t.slot k = s.slot k) ∧
        PassedBy s t (formLen g)
    becomes (.semadd g n a d) (old + v) (fun sl => sl.setG d (old.zeroExtend 64)) ∧
    becomes (.semset g n a) v id ∧
    (v ≠ 0 → v.toNat ≤ old.toNat → (s.cell cell).firstFor true n.toNat s.cur = true →
      becomes (.semwait g n a d) (old - v) fun sl => sl.setG d ((old - v).zeroExtend 64)) ∧
    (v = 0 → becomes (.semwait g n a d) old fun sl => sl.setG d (old.zeroExtend 64)) ∧
    (old.toNat < v.toNat → Waits (.semwait g n a d) s wSem ∧
      ∃ t, exec (.semwait g n a d) s = .next t ∧ (t.cell cell).sem = (s.cell cell).sem ∧
        (true, n.toNat, s.cur) ∈ (t.cell cell).queueWait)

/-- R286: `mrecv` gives the mailbox's word and takes one from its count, and waits while the count is 0; `mpoll` gives the
count. -/
def Claim.MailboxResults : Prop :=
  ∀ (s : State) (g : Guard) (m : BitVec 2) (d : Reg),
    s.me.guardHolds g = true → s.me.plain d = true →
    let n := s.me.mbCount[m.toNat]'m.isLt
    Does (.mpoll g m d) s (formLen g) (fun sl => sl.setG d (n.zeroExtend 64)) ∧
    (n = 0 → Waits (.mrecv g m d) s wSem) ∧
    (n ≠ 0 → ∃ t, exec (.mrecv g m d) s = .next t ∧ t.me.g d = (if d = 0 then 0 else s.me.mbWord[m.toNat]'m.isLt) ∧
      (∀ r, r ≠ d → t.me.g r = s.me.g r) ∧ t.me.mbCount[m.toNat]'m.isLt = n - 1 ∧ t.me.mbWord = s.me.mbWord ∧
      t.mem = s.mem ∧ t.me.run = .run ∧ PassedBy s t (formLen g))

/-- R162, R285 and R286: semaphores and mailboxes. -/
def Obligations.SemaphoresAndMailboxes : Prop := Claim.SemaphoreResults ∧ Claim.MailboxResults

/-- R280, R281, R282, R286 and R323: outside roles and handlers, `launch`, `callat`, `tpost`, `dcdec` and `msend` put one
message for the place that gA names into the outbound task queue and count one signal; `taskwd` puts one for every core and
counts none. -/
def Claim.SignalsSent : Prop :=
  ∀ (s : State) (g : Guard) (q : BitVec 2) (n : BitVec 8) (m : BitVec 2) (a d : Reg) (p : Nat),
    s.me.guardHolds g = true → (∀ r : Reg, s.me.plain r = true) → s.me.freelance = true →
    (s.core (coreOf s.cur)).outbox.length < 16 →
    let dst := s.me.g a
    let pl := dst.toNat
    let no := (s.cell (cellOf s.cur)).fixNo
    let mine := s.link.pod.k
    let msg (core : Nat) (after : List Nat) (x : CoreMsg) : OutMsg := ⟨placePart pl, some core, s.cur, s.me.gen, after, ⟨no, x⟩⟩
    (badPlace mine s.link.pod.n false dst = false →
      (runOk d 1 2 = true → s.me.g d ≠ 0 → (s.me.g d).toNat % 4 = 0 →
        Sends (.launch g a d) s (formLen g) true (msg (placeCore pl) s.me.pushed
          (.launch ⟨s.me.g d, s.me.g (d + 1), 0, 0, 0, 0, 0, s.me.ctx, 0⟩))) ∧
      Sends (.dcdec g n a) s (formLen g) true (msg (placeCell pl * 3) []
        (.decrement n.toNat s.me.ctx (s.place s.cur) s.me.oneMore.toNat)) ∧
      (let ws := s.nearWords p 8
       s.ownRecord (s.me.g d) 8 p → (s.me.g d).toNat % 64 = 0 → badDescriptor mine s.link.pod.n ws = false →
        Sends (.callat g a d) s (formLen g) true (msg (placeCore pl) s.me.pushed
          (.task (descQueue ws) (descTask s.me.ctx ws))) ∧
        Sends (.tpost g q a d) s (formLen g) true (msg (placeCore pl) [] (.task q.toNat (descTask s.me.ctx ws))))) ∧
    (badPlace mine s.link.pod.n true dst = false →
      Sends (.msend g m a d) s (formLen g) true (msg (placeCore pl) []
        (.mail (placeKey pl) m.toNat (s.me.g d) s.me.ctx (s.place s.cur)))) ∧
    Sends (.taskwd g a) s (formLen g) false
      ⟨mine, none, s.cur, s.me.gen, [], ⟨no, .taskwd (dst.truncate 32) ((dst >>> 32).truncate 32) s.me.ctx⟩⟩

/-- R112 and R272: in a role, `launch`, `callat`, `tpost`, `dcdec` and `msend` put their message into the commit queue of
their transaction, and nothing is sent or counted until it commits. -/
def Claim.SignalsDeferred : Prop :=
  ∀ (s : State) (g : Guard) (q : BitVec 2) (n : BitVec 8) (m : BitVec 2) (a d : Reg) (p num r : Nat) (y : Txn),
    s.me.guardHolds g = true → (∀ r : Reg, s.me.plain r = true) → s.me.work = .role num r → s.txn num = some y →
    y.stage = .dispatched →
    ((s.seq.txns.filter fun (z : Txn) => z.cell = cellOf s.cur).map fun (z : Txn) => z.queue.length).sum < 64 →
    let dst := s.me.g a
    let pl := dst.toNat
    let mine := s.link.pod.k
    let msg (core : Nat) (after : List Nat) (x : CoreMsg) : OutMsg :=
      ⟨placePart pl, some core, s.cur, s.me.gen, after, ⟨(s.cell (cellOf s.cur)).fixNo, x⟩⟩
    let defers (i : Instr) (x : OutMsg) : Prop := Defers i s (formLen g) num r y x
    (badPlace mine s.link.pod.n false dst = false →
      (runOk d 1 2 = true → s.me.g d ≠ 0 → (s.me.g d).toNat % 4 = 0 →
        defers (.launch g a d) (msg (placeCore pl) s.me.pushed
          (.launch ⟨s.me.g d, s.me.g (d + 1), 0, 0, 0, 0, 0, s.me.ctx, 0⟩))) ∧
      defers (.dcdec g n a) (msg (placeCell pl * 3) [] (.decrement n.toNat s.me.ctx (s.place s.cur) 0)) ∧
      (let ws := s.nearWords p 8
       s.ownRecord (s.me.g d) 8 p → (s.me.g d).toNat % 64 = 0 → badDescriptor mine s.link.pod.n ws = false →
        defers (.callat g a d) (msg (placeCore pl) s.me.pushed (.task (descQueue ws) (descTask s.me.ctx ws))) ∧
        defers (.tpost g q a d) (msg (placeCore pl) [] (.task q.toNat (descTask s.me.ctx ws))))) ∧
    (badPlace mine s.link.pod.n true dst = false →
      defers (.msend g m a d) (msg (placeCore pl) [] (.mail (placeKey pl) m.toNat (s.me.g d) s.me.ctx (s.place s.cur))))

/-- R229 and R230: `amsend` outside a role puts its message for the place that gA names into the outbound queue for active
messages, whose 16 entries it waits for, and goes on. -/
def Claim.ActiveMessageSent : Prop :=
  ∀ (s : State) (g : Guard) (a b d : Reg),
    s.me.guardHolds g = true → (∀ r : Reg, s.me.plain r = true) → s.me.inRole = false → runOk d 0 4 = true →
    badAmPlace s.link.pod.n (s.me.g a) = false → (s.me.g b).toNat % 4 = 0 →
    let pl := (s.me.g a).toNat
    let c := s.core (coreOf s.cur)
    (c.amOut.length < 16 →
      ∃ t, exec (.amsend g b a d) s = .next t ∧ t.core (coreOf s.cur) = { c with amOut := c.amOut ++
          [(placePart pl, placeCore pl, ⟨s.me.g b, s.me.g d, s.me.g (d + 1), s.me.g (d + 2), s.me.g (d + 3), s.me.ctx,
            s.place s.cur, (s.cell (cellOf s.cur)).fixNo⟩)] } ∧
        t.me.bare = s.me.bare ∧ t.me.run = .run ∧ t.mem = s.mem ∧ PassedBy s t (formLen g)) ∧
    (16 ≤ c.amOut.length → Waits (.amsend g b a d) s wMem)

/-- R280: a form that sends waits, with nothing done, while the outbound task queue is full. -/
def Claim.SignalsWaitForRoom : Prop :=
  ∀ (s : State) (g : Guard) (n : BitVec 8) (m : BitVec 2) (a d : Reg),
    s.me.guardHolds g = true → s.me.plain a = true → s.me.plain d = true → s.me.freelance = true →
    16 ≤ (s.core (coreOf s.cur)).outbox.length →
    (badPlace s.link.pod.k s.link.pod.n false (s.me.g a) = false → Waits (.dcdec g n a) s wMem) ∧
    (badPlace s.link.pod.k s.link.pod.n true (s.me.g a) = false → Waits (.msend g m a d) s wMem) ∧
    Waits (.taskwd g a) s wMem

/-- R112, R229, R230, R272, R280 to R282, R286 and R323: the forms that send a message, and their wait for room.  That `taskwd` goes
through the outbound task queue, and waits for room there, is the model's choice (log 35). -/
def Obligations.Signals : Prop :=
  Claim.SignalsSent ∧ Claim.SignalsDeferred ∧ Claim.ActiveMessageSent ∧ Claim.SignalsWaitForRoom

/-- R161: an arrival that is not the last waits, counted in the group; the last advances PHASE, gives it to gD, and
releases every slot that waits on the group; `barq` reads PHASE; an entry that is not valid traps with *bad group*. -/
def Claim.BarrierResults : Prop :=
  ∀ (s : State) (g : Guard) (n : BitVec 8) (d : Reg),
    s.me.guardHolds g = true → s.me.plain d = true → s.me.freelance = true → s.fix.active = false → s.saved = [] →
    let x := s.part.groups.get Group.reset n.toNat
    let now (t : State) : Group := t.part.groups.get Group.reset n.toNat
    (x.v = true → Does (.barq g n d) s (formLen g) fun sl => sl.setG d (x.phase.zeroExtend 64)) ∧
    (x.v = false → s.vectored = true →
      Traps (.bar g n d) s cBadGroup (n.zeroExtend 64) ∧ Traps (.barq g n d) s cBadGroup (n.zeroExtend 64)) ∧
    (x.v = true → s.me.inGroup n = true → x.count ≠ 0 → x.count.toNat ≤ 46080 →
      (x.arrived.toNat + 1 < x.count.toNat →
        Leaves (.bar g n d) s wSem (.bar d n.toNat) ∧
        ∃ t, exec (.bar g n d) s = .next t ∧ now t = { x with arrived := x.arrived + 1 }) ∧
      (x.count.toNat ≤ x.arrived.toNat + 1 →
        ∃ t, exec (.bar g n d) s = .next t ∧ now t = { x with phase := x.phase + 1, arrived := 0 } ∧
          t.me.bare = (s.me.setG d ((x.phase + 1).zeroExtend 64)).bare ∧ t.mem = s.mem ∧ PassedBy s t (formLen g) ∧
          ∀ k sl, (k, sl) ∈ s.slots → (∃ r, sl.pend = .bar r n.toNat) →
            t.flies (.memoryReplyArrival k (.value ((x.phase + 1).zeroExtend 64))) 0))

/-- R282 and R323: `dcset` without a descriptor, or with COUNT 0, sets the counter and no task; with one it binds the
descriptor's task, its core role and its queue; a value of more than 16 bits is a bad record.  Of sets in one cclk the last
role's holds, so no core of a later role has set the counter in this cclk. -/
def Claim.CounterSet : Prop :=
  ∀ (s : State) (g : Guard) (n : BitVec 8) (a d : Reg) (p : Nat),
    s.me.guardHolds g = true → s.me.plain a = true → s.me.plain d = true → s.me.freelance = true →
    let x := s.me.g a
    let cell := cellOf s.cur
    let ws := s.nearWords p 8
    let at_ := (s.cell cell).dcAt.get 0 n.toNat
    ¬(at_ / 4 = s.cycle + 1 ∧ roleOf s.cur < at_ % 4) →
    (x.toNat < 2 ^ 16 → d = 0 ∨ x = 0 →
      ∃ t, exec (.dcset g n a d) s = .next t ∧ (t.cell cell).dc.find n.toNat = some ⟨x.truncate 16, none⟩ ∧
        t.me.regs = s.me.regs ∧ t.mem = s.mem ∧ PassedBy s t (formLen g)) ∧
    (x.toNat < 2 ^ 16 → x ≠ 0 → d ≠ 0 → s.ownRecord (s.me.g d) 8 p → (s.me.g d).toNat % 64 = 0 →
      badDescriptor s.link.pod.k s.link.pod.n ws = false →
      ∃ t, exec (.dcset g n a d) s = .next t ∧
        (t.cell cell).dc.find n.toNat = some ⟨x.truncate 16, some (descRole ws, descQueue ws, descTask s.me.ctx ws)⟩ ∧
        t.me.regs = s.me.regs ∧ t.mem = s.mem ∧ PassedBy s t (formLen g)) ∧
    (2 ^ 16 ≤ x.toNat → s.vectored = true → Traps (.dcset g n a d) s cBadRecord x)

/-- R161 and R282: barriers, and dependency counters set. The order of steps within a cclk, the latencies that the
spec leaves open and the unit that `cur` names are the model's (log 3, log 5). -/
def Obligations.BarriersAndCounters : Prop := Claim.BarrierResults ∧ Claim.CounterSet

/-- R212 and R279: `exit` ends the work of a task without a reply, of a handler, and of a slot with no other work; a task
with a reply route first leaves the rotation for a release at part scope, and then sends its mail to the route's mailbox, or its
decrement to the route's counter. -/
def Claim.ExitEndsWork : Prop :=
  ∀ (s : State) (g : Guard) (reply : Word), s.me.guardHolds g = true → slotOk s.cur = true →
    ((s.me.work = .none ∨ (s.me.work = .task reply ∧ slice reply 63 62 = 0) ∨ ∃ k, s.me.work = .handler k) →
      ∃ t, exec (.exit g) s = .next t ∧ t.me.ending = true ∧ t.me.regs = s.me.regs ∧ t.me.pc = s.me.pc ∧ t.mem = s.mem) ∧
    (s.me.work = .task reply → slice reply 63 62 = 1 → (s.cell (cellOf s.cur)).cutBegun = false →
      (s.cell (cellOf s.cur)).logging = false →
      (s.core (coreOf s.cur)).outbox.length < 16 →
      ∃ t u o m, exec (.exit g) s = .next t ∧ t.me.run = .wait wMem ∧ t.me.pend = .leaving o ∧ o.rel = true ∧ o.all = true ∧
        exec (.memoryReplyArrival s.cur .done) t = .next u ∧ u.me.ending = true ∧
        (u.core (coreOf s.cur)).outbox = (s.core (coreOf s.cur)).outbox ++ [m] ∧
        m.msg.msg = .mail (placeKey (slice reply 24 0)) (slice reply 26 25) (s.me.g 4) s.me.ctx (s.place s.cur) ∧
        m.part = placePart (slice reply 24 0)) ∧
    (s.me.work = .task reply → slice reply 63 62 = 2 → (s.cell (cellOf s.cur)).cutBegun = false →
      (s.cell (cellOf s.cur)).logging = false → (s.core (coreOf s.cur)).outbox.length < 16 →
      ∃ t u o m, exec (.exit g) s = .next t ∧ t.me.run = .wait wMem ∧ t.me.pend = .leaving o ∧ o.rel = true ∧ o.all = true ∧
        exec (.memoryReplyArrival s.cur .done) t = .next u ∧ u.me.ending = true ∧
        (u.core (coreOf s.cur)).outbox = (s.core (coreOf s.cur)).outbox ++ [m] ∧
        m.msg.msg = .decrement (slice reply 32 25) s.me.ctx (s.place s.cur) s.me.oneMore.toNat ∧
        m.core = some (placeCell (slice reply 24 0) * 3) ∧ m.part = placePart (slice reply 24 0))

/-- R319, R149 and R158: a dispatch starts the work that stands first in a FREE slot of the core; an active message starts
its handler in the service slot; a handler past its budget ends with a report (R154). -/
def Claim.WorkBegins : Prop :=
  ∀ (s : State) (k : Nat) (m : TaskMsg) (q : Option Nat) (am : AmMsg) (rest : List AmMsg) (sender : Nat),
    let core := s.cur
    let svc := core * 16 + 15
    (s.nextWork core = some (m, q) → s.freeSlot core = some k → (s.core core).dispatched ≠ s.cycle + 1 →
      ∃ t, exec .taskDispatch s = .next t ∧ Begins (s.slot k) (t.slot k) m.ctx m.pc m.a0 m.a1 m.a2 m.a3 (.task m.reply) ∧
        (∀ j, j ≠ k → t.slot j = s.slot j) ∧ t.mem = s.mem ∧ (t.core core).dispatched = s.cycle + 1 ∧
        (q = none → (t.core core).fifo = (s.core core).fifo.tail ∧ (t.core core).q = (s.core core).q) ∧
        (∀ i, q = some i → (t.core core).fifo = (s.core core).fifo ∧
          ∀ j : Fin 4, (t.core core).q[j] = if j.val = i then (s.core core).q[j].tail else (s.core core).q[j])) ∧
    ((s.core core).amIn = am :: rest → (s.slot svc).run = .free → (s.ctx am.ctx).out = false →
      ∃ t, exec .activeMessageStart s = .next t ∧
        Begins (s.slot svc) (t.slot svc) am.ctx am.pc am.w0 am.w1 am.w2 am.w3 (.handler am.sender) ∧
        (t.core core).amIn = rest ∧ (∀ j, j ≠ svc → t.slot j = s.slot j) ∧ t.mem = s.mem) ∧
    (s.me.work = .handler sender →
      ∃ t, exec .handlerBudgetOverrun s = .next t ∧ t.me.ending = true ∧ t.me.regs = s.me.regs ∧ t.mem = s.mem ∧
        Reported s t (dieOfSlot s.cur))

/-- R149, R154, R158, R212, R279 and R319: work begins in a slot, and ends there. The order of steps within a cclk,
the latencies that the spec leaves open and the unit that `cur` names are the model's (log 3, log 5). -/
def Obligations.WorkBeginsAndEnds : Prop := Claim.WorkBegins ∧ Claim.ExitEndsWork

/-- R286, R282, R280 and R315 to R318: what a message does at the head of an inbox: mail goes to a mailbox of a slot that
runs work of its context, a decrement to its counter, which posts its task when it reaches 0, a launch to the launch FIFO
and a task to its queue.  A job launch is forwarded to the core's children in the tree, and then joins the launch FIFO with the start
values of R314; a withdrawal removes the tasks of its context that match from the queues and from the inbox behind it, and the rest
keep their order (R324).  That decrements of one counter which have come in one cclk act in one is the model's reading (log 104). -/
def Claim.InboxResults : Prop :=
  ∀ (s : State) (x : Sent) (rest : List Sent) (w : Word) (j : Fin 4),
    let core := s.cur
    let cell := cellOfCore core
    (s.core core).inbox = x :: rest → x.fixCount ≤ (s.cell cell).fixNo → (s.core core).tearing (msgCtx x.msg) = false →
    (∀ k mbox v ctx sender, x.msg = .mail k mbox v ctx sender → mbox < 4 → (s.slot k).runs ctx = true →
      ∃ t, exec .inboxAccept s = .next t ∧ (t.core core).inbox = rest ∧
        (∀ i : Fin 4, i.val = mbox → (t.slot k).mbWord[i] = v ∧ (t.slot k).mbCount[i] = (s.slot k).mbCount[i] + 1) ∧
        (t.slot k).regs = (s.slot k).regs ∧ t.mem = s.mem) ∧
    (∀ n ctx sender sig, x.msg = .decrement n ctx sender sig →
      let c := (s.cell cell).dc.get Counter.reset n
      ((s.core core).justCame s.cycle = false ∨ (∀ y ∈ rest.head?, ∀ c d e, y.msg ≠ .decrement n c d e)) →
      (2 ≤ c.count.toNat → ∃ t, exec .inboxAccept s = .next t ∧ (t.core core).inbox = rest ∧
        (t.cell cell).dc.get Counter.reset n = { c with count := c.count - 1 } ∧ t.mem = s.mem) ∧
      (c.count = 1 → ∀ r q m, c.bound = some (r, q, m) → ∃ t, exec .inboxAccept s = .next t ∧
        (t.cell cell).dc.get Counter.reset n = Counter.reset ∧ t.mem = s.mem ∧
        ∃ f ∈ t.sched.flight, f.parcel =
          .core (cell * 3 + r) ⟨(s.cell cell).fixNo, .task q { m with stamp := s.cycle }⟩)) ∧
    (∀ m, x.msg = .launch m → (s.core core).fifo.length < 16 →
      ∃ t, exec .inboxAccept s = .next t ∧ (t.core core).inbox = rest ∧ t.mem = s.mem ∧
        (t.core core).fifo = (s.core core).fifo ++ [if m.stamp = 0 then { m with stamp := s.cycle } else m]) ∧
    (∀ m, x.msg = .task j.val m → (s.core core).q[j].length < 64 → (s.core core).ringCount[j] = 0 →
      ∃ t, exec .inboxAccept s = .next t ∧ (t.core core).inbox = rest ∧ t.mem = s.mem ∧
        (t.core core).q[j] = (s.core core).q[j] ++ [if m.stamp = 0 then { m with stamp := s.cycle } else m]) ∧
    (∀ y rest' n ctx ctx' d e d' e', x.msg = .decrement n ctx d e → rest = y :: rest' → y.msg = .decrement n ctx' d' e' →
      (s.core core).justCame s.cycle = true → y.fixCount ≤ (s.cell cell).fixNo → (s.core core).tearing ctx' = false →
      (∀ z ∈ rest'.head?, ∀ c d e, z.msg ≠ .decrement n c d e) →
      let c := (s.cell cell).dc.get Counter.reset n
      3 ≤ c.count.toNat → ∃ t, exec .inboxAccept s = .next t ∧ (t.core core).inbox = rest' ∧
        (t.cell cell).dc.get Counter.reset n = { c with count := c.count - 2 } ∧ t.mem = s.mem) ∧
    (∀ root n m, x.msg = .jobLaunch root n m → (s.core core).fifo.length < 16 →
      let me := (core + 3072 - root) % 3072
      let m' := { m with a1 := natW me, a2 := natW n, a3 := 0 }
      ∃ t, exec .inboxAccept s = .next t ∧ (t.core core).inbox = rest ∧ t.mem = s.mem ∧
        (t.core core).fifo = (s.core core).fifo ++ [if m.stamp = 0 then { m' with stamp := s.cycle } else m'] ∧
        ∃ new, t.sched.flight = s.sched.flight ++ new ∧ new.map (fun f => f.parcel) =
          ((List.range 4).filter fun i => 4 * me + 1 + i < n).map fun i =>
            .core ((root + (4 * me + 1 + i)) % 3072) ⟨(s.cell cell).fixNo, .jobLaunch root n m⟩) ∧
    (∀ tag mask ctx, x.msg = .taskwd tag mask ctx →
      let gone (t : TaskMsg) : Bool := t.ctx == ctx && (t.tag &&& mask) == (tag &&& mask)
      (∀ i : Fin 4, (s.core core).ringCount[i] = 0) →
      ∃ t, exec .inboxAccept s = .next t ∧ t.mem = s.mem ∧ (t.core core).fifo = (s.core core).fifo ∧
        (∀ i : Fin 4, (t.core core).q[i] = (s.core core).q[i].filter fun y => !gone y) ∧
        (t.core core).inbox = rest.filter (fun y => match y.msg with | .task _ y => !gone y | _ => true) ∧
        (t.cell cell).dc = (s.cell cell).dc ∧ t.slots = s.slots) ∧
    ∃ t, exec (.qringWrite core j.val w) s = .next t ∧ t.mem = s.mem ∧ (t.core core).qring[j] =
      if (s.core core).ringCount[j] = 0 then natW (slice w 59 12 * 4096 + slice w 4 0) else (s.core core).qring[j]

/-- R317 and R318: the read of a ring's head goes to its home slice and is answered there; its reply waits at the core, and brings the
task, which joins the queue on the chip; the ring's head moves on by one entry, and the next move is four cclk away. An entry whose
words are poisoned or lost is discarded with a report; so is one that the non-secure world may not reach, which is the model's reading
(log 82). -/
def Claim.RingMoves : Prop :=
  ∀ (s : State) (core : Nat) (q : Fin 4) (r : Reply) (bs : List (Nat × Byte)), s.cur = core * 4 + q.val →
    let c := s.core core
    let a := ringEntry c.qring[q] c.ringHead[q]
    let moves (d : List TaskMsg) (t : State) : Prop :=
      (t.core core).q[q] = c.q[q] ++ d ∧ (t.core core).ringCount[q] = c.ringCount[q] - 1 ∧
      (t.core core).ringHead[q] = (c.ringHead[q] + 1) % ringCap c.qring[q] ∧ (t.core core).ringAt[q] = s.cycle + 4 ∧
      (t.core core).ringRead[q] = .idle ∧ t.slots = s.slots
    (s.ringBarred a = false → ∃ f ∈ (s.ringAsk core q).sched.flight, f.cls = clsMemReq ∧
      f.parcel = .read (s.ringReq core (ringKey core q) a [])) ∧
    (s.soft = [] → s.poison = [] → s.unitKey = [] → s.fix.copies = [] → s.l2 = [] → s.owners = [] → placeOf a = .hbm →
      (s.readAnswer (s.ringReq core (ringKey core q) a [])).1 = .block ((addrsFrom a 64).map fun b => (b, s.byte b)) []) ∧
    (∃ t, exec (.memoryReplyArrival (ringKey core q) r) s = .next t ∧ (t.core core).ringRead[q] = .got r ∧ t.mem = s.mem ∧
      t.slots = s.slots) ∧
    (c.ringRead[q] = .got (.block bs []) →
      ∃ t, exec .ringToChipMove s = .next t ∧ t.mem = s.mem ∧ moves [ringTask (bs.map fun e => e.2)] t) ∧
    (∀ w, c.ringRead[q] = .got (.block bs [w]) ∨ c.ringRead[q] = .got (.lost (natW w)) ∨ c.ringRead[q] = .got (.barred (natW w)) →
      ∃ t, exec .ringToChipMove s = .next t ∧ moves [] t ∧ Reported s t (dieOf (cellOfCore core))) ∧
    ((∀ x, c.ringRead[q] ≠ .got x) → exec .ringToChipMove s = .next s)

/-- R315 to R318: inboxes, queues and rings. The order of steps within a cclk, the latencies that the spec leaves open
and the unit that `cur` names are the model's (log 3, log 5). -/
def Obligations.InboxesAndRings : Prop := Claim.InboxResults ∧ Claim.RingMoves

/-- R159, R283, R325 and R326: `rfork` leaves the rotation with its search, which ends 8 cclk from the issue where it wants
no other slot; a claim takes FREE slots of a core that has dispatched no role in this cclk; and when the search has ended the
issuer runs the first share, and the join word in its near memory holds the number of shares and the continuation.  That the
issuer waits until the search has ended, where R283 has it go on in its next turn, is the model's reading (log 23).  The order
of steps within a cclk, the latencies that the spec leaves open and the unit that `cur` names are the model's (log 3, log 5). -/
def Obligations.RangeForks : Prop :=
  ∀ (s : State) (q : Pg) (a d : Reg) (k core p : Nat) (f : Fork),
    slotOk s.cur = true → s.sound → s.fix.want = 0 → s.fix.copies = [] →
    let j := s.me.g a
    let n := (s.me.g d).toNat
    let grain := max 1 (s.me.g (d + 1)).toNat
    (s.me.guardHolds (.pred q.sense q.pred) = true → (∀ r : Reg, s.me.plain r = true) → s.me.freelance = true →
      runOk d 1 5 = true → j.toNat % 16 = 0 → (s.me.g (d + 2)).toNat % 4 = 0 → (s.me.g (d + 4)).toNat % 4 = 0 →
      nearWindow + 0x800000 ≤ j.toNat → nearLocal (cellOf s.cur) j.toNat 16 = some p →
      (s.cell (cellOf s.cur)).cutBegun = false → s.secureOf s.cur = true ∨ s.part.secureCells = [] →
      ∃ t, exec (.rfork q a d) s = .next t ∧ t.me.run = .wait wMem ∧ t.me.regs = s.me.regs ∧ t.mem = s.mem ∧
        t.me.fork = some ⟨n, grain, s.me.g (d + 2), s.me.g (d + 3), s.me.g (d + 4), j, s.cycle, []⟩ ∧
        (n ≤ grain → (⟨s.cycle + 8, clsOwn, 0, 0, .step .rforkShareStart s.cur⟩ : Flight) ∈ t.sched.flight)) ∧
    ((s.slot k).fork = some f → k / 16 ≠ core →
      let x := s.core core
      ∃ t, exec (.rforkClaim k core) s = .next t ∧ t.mem = s.mem ∧
        let free := if x.dispatched = s.cycle + 1 ∧ x.forked ≠ s.cycle + 1 then []
          else ((List.range 15).map (core * 16 + ·)).filter s.dispatchable
        let mine := free.take (f.wanted - f.claimedSlots.length)
        (∀ i ∈ mine, (t.slot i).run = .claimed k) ∧ (∀ i ∉ mine, i ≠ k → t.slot i = s.slot i) ∧
        (t.slot k).fork = some { f with claimedSlots := f.claimedSlots ++ mine }) ∧
    (s.me.fork = some f → f.claimedSlots = [] → nearLocal (cellOf s.cur) f.joinVa.toNat 16 = some p →
      ∃ t, exec .rforkShareStart s = .next t ∧ t.me.pc = f.body ∧ t.me.run = .run ∧ t.me.g 4 = 0 ∧ t.me.g 5 = natW f.n ∧
        t.me.g 6 = f.arg ∧ t.me.g 7 = f.joinVa ∧ t.me.work = .share (cellOf s.cur) p s.me.work ∧ t.me.fork = none ∧
        t.dword p = 1 ∧ t.dword (p + 8) = f.cont.toNat)

/-! ### Transactions -/

/-- R100 and R273: a record without tiles that lies in own near memory and whose header has no offence is read whole, and is
the submission of the issuing slot; nothing of memory, registers or the sequencer changes by reading it. -/
def Claim.RecordRead : Prop :=
  ∀ (s : State) (va : Word) (p : Nat), s.ownRecord va 16 p → va.toNat % 64 = 0 →
    let ws := s.nearWords p 16
    (headerOffence false ws = none → slice (ws.getD 8 0) 4 0 = 0 → slice (ws.getD 8 0) 12 8 = 0 →
      ∃ x s1, readTransaction false va s = .ok (.sub x, s1) ∧ x.record = makeRecord ws ∧ x.reads = [] ∧ x.writes = [] ∧
        x.slot = s.cur ∧ x.ctx = s.me.ctx ∧ x.parent = none ∧ s1.seq = s.seq ∧ s1.mem = s.mem ∧ s1.me.regs = s.me.regs ∧
        s1.cells = s.cells) ∧
    (∀ i, headerOffence false ws = some i → readTransaction false va s = .error (.trap cBadRecord (va + natW (8 * i))))

/-- R273 to R277: `txsub` puts its submission into the input queue and waits for the acceptance; `txsubf` in a sounding
defers its follow; `txend` ends its role; `txnum` gives the transaction's number, or all ones; `txwd` and `txq` ask the
sequencer. -/
def Claim.TransactionForms : Prop :=
  ∀ (s s1 : State) (g : Guard) (a b d : Reg) (x : Submission) (num r : Nat),
    s.me.guardHolds g = true → s.me.plain a = true → s.me.plain b = true → s.me.plain d = true →
    (s.cell (cellOf s.cur)).cutBegun = false → (s1.cell (cellOf s1.cur)).cutBegun = false →
    let waits (i : Instr) (p : Pend) (f : State → Prop) : Prop :=
      ∃ t, exec i s = .next t ∧ t.me.run = .wait wMem ∧ t.me.pend = p ∧ t.me.pc = s1.me.pc ∧ f t
    (s.me.freelance = true → readTransaction false (s.me.g a) s = .ok (.sub x, s1) → s1.cur = s.cur →
      s1.seq.waiting.length < 64 →
      waits (.txsub g a) .plain fun t => t.seq.waiting = s1.seq.waiting ++ [x] ∧ t.me.regs = s1.me.regs ∧ t.mem = s1.mem) ∧
    (s.me.work = .role num r → s1.me.work = .role num r → s.mayFollow num = true → s1.cur = s.cur →
      readTransaction true (s.me.g a) s = .ok (.sub x, s1) →
      (∀ y, s1.txn num = some y → y.stage = .dispatched ∧
        ((s1.seq.txns.filter fun (z : Txn) => z.cell = cellOf s1.cur).map fun (z : Txn) => z.queue.length).sum < 64 →
        waits (.txsubf g a) .plain fun t => ∃ y', t.txn num = some y' ∧ y'.queue = y.queue ++ [(r, .follow x)] ∧
          y'.soundingDone = true)) ∧
    (s.me.work = .role num r → ∃ t, exec (.txend g) s = .next t ∧ t.me.ending = true ∧ t.me.regs = s.me.regs) ∧
    Does (.txnum g d) s (formLen g) (fun sl => sl.setG d (match s.me.work with | .role n _ => natW n | _ => BitVec.allOnes 64)) ∧
    (s.me.freelance = true → s1 = s →
      waits (.txwd g b a d) (.txwd d [] 0) fun t => t.me.regs = s.me.regs ∧ t.mem = s.mem ∧
        ∃ f ∈ t.sched.flight, f.cls = clsLock ∧ f.parcel =
          .step (.sequencerWithdrawal s.cur ((s.me.g a).truncate 32) ((s.me.g b).truncate 32) s.me.ctx)
            (s.cell (cellOf s.cur)).fixNo) ∧
    (s1 = s → s.cur ≠ noSlot → waits (.txq g a d) (.word d) fun t => t.me.regs = s.me.regs ∧ t.mem = s.mem ∧
      t.answers s.cur (.value (s.txState (s.me.g a))) 0)

/-- R272: a transaction's forms in the wrong place trap with *transaction effect*: `txsub`, `txwd`, `fix`, `bar` and
`taskwd` in a role void it with cause 18; `txend` and `txsubf` outside a role trap. -/
def Claim.TransactionEffects : Prop :=
  ∀ (s : State) (g : Guard) (a b d : Reg) (n : BitVec 8),
    s.me.guardHolds g = true → s.me.plain a = true → s.me.plain b = true → s.me.plain d = true →
    (s.vectored = true → Traps (.txend g) s cTxnEffect 0 ∧ Traps (.txsubf g a) s cTxnEffect 0) ∧
    ∀ num r x, s.me.work = .role num r → s.txn num = some x → x.stage = .dispatched → s.fix.active = false →
      s.privOf s.cur = true →
      ∀ i ∈ ([.txsub g a, .txwd g b a d, .taskwd g a, .bar g n d, .fix g d] : List Instr),
        ∃ t y, exec i s = .next t ∧ t.txn num = some y ∧ y.stage = .void ∧ y.queue = [] ∧
          y.verdict = some ⟨5, cTxnEffect, r, (s.me.issues + if s.me.counted then 0 else 1).toNat⟩ ∧ t.mem = s.mem

/-- R97, R102, R112 and R270 to R276: the transaction forms. The order of steps within a cclk, the latencies that the
spec leaves open and the unit that `cur` names are the model's (log 3, log 5). -/
def Obligations.TransactionForms : Prop := Claim.RecordRead ∧ Claim.TransactionForms ∧ Claim.TransactionEffects

/-- R102 to R104: the sequencer accepts the head of its input queue into the open batch and answers the slot; a close opens the next
batch and takes over a written SQCTL; a write of SQCTL asks for a close. -/
def Claim.BatchesOpenAndClose : Prop :=
  ∀ (s : State) (x : Submission) (rest : List Submission) (v : Word),
    (s.seq.waiting = x :: rest → s.takesSub = true → x.slot ≠ noSlot →
      ∃ t y, exec .submissionAccept s = .next t ∧ t.seq.waiting = rest ∧ t.seq.txns = s.seq.txns ++ [y] ∧ y.sub = x ∧
        y.stage = .accepted ∧ t.mem = s.mem ∧ t.answers x.slot .done 0) ∧
    (∃ t, exec .batchClose s = .next t ∧ t.seq.batch = s.seq.batch + 1 ∧ t.seq.opened = s.cycle ∧ t.mem = s.mem ∧
      t.seq.sqctl = s.seq.newCtl.getD s.seq.sqctl ∧ t.seq.newCtl = none ∧ t.seq.closeAsked = false) ∧
    ∃ t, exec (.sqctlWrite v) s = .next t ∧ t.seq.closeAsked = true ∧ t.seq.sqctl = s.seq.sqctl ∧ t.mem = s.mem ∧
      ∃ c, t.seq.newCtl = some c ∧ slice c 47 32 = slice v 47 32 ∧ slice c 16 8 = min (slice v 16 8) 256 ∧
        slice c 0 0 = slice v 0 0

/-- R105 and R119: the entries of a batch in order are the accepted ones, each once: first the follows and restarts, by the numbers of
their parents, then the submissions, in the order of acceptance or, in deterministic mode, by ORDKEY and then by the submitting
slot's place; entries that this order does not tell apart stand in the order of acceptance. -/
def Claim.BatchOrder : Prop :=
  ∀ (q : Sequencer),
    let held := q.txns.filter fun y => y.stage = .accepted
    let parent (y : Txn) : Nat := y.sub.parent.getD 0
    let ordkey (y : Txn) : Nat := slice y.sub.record.dw7 63 32
    let place (y : Txn) : Nat := placeLow y.sub.slot
    let det := sqDet q.sqctl
    (∀ y ∈ held, place y < 2 ^ 16) →
    ∃ old new, q.batchOrder = old ++ new ∧ old.Perm (held.filter fun y => y.sub.parent.isSome) ∧
      new.Perm (held.filter fun y => y.sub.parent.isNone) ∧
      old.Pairwise (fun x y => parent x ≤ parent y) ∧
      (∀ n, (old.filter fun y => parent y = n) = held.filter fun y => y.sub.parent.isSome && parent y = n) ∧
      (det = false → new = held.filter fun y => y.sub.parent.isNone) ∧
      (det = true → new.Pairwise (fun x y => ordkey x < ordkey y ∨ ordkey x = ordkey y ∧ place x ≤ place y) ∧
        ∀ n p, (new.filter fun y => ordkey y = n && place y = p) =
          held.filter fun y => y.sub.parent.isNone && (ordkey y = n && place y = p))

/-- R103, R105, R106, R119 and R120: a close takes the first 256 entries of the open batch in its order, and what is over
waits for the next one.  Entry i takes the number 256 · g + i in global batch g = b · N + k, and its locks; one that a
withdrawal has found is void at once.  Every lock request is on its way to the merge gate of its BLM, and a close marker to
every gate. -/
def Claim.BatchNumbers : Prop :=
  ∀ (s : State), (s.fixCloses && !s.seq.closeAsked) = false →
    let k := s.link.pod.k
    let g := s.seq.batch * s.link.pod.n + k
    let order := s.seq.batchOrder
    ∃ t done, exec .batchClose s = .next t ∧ done.length = min 256 order.length ∧
      t.seq.txns = (s.seq.txns.filter fun y => y.stage ≠ .accepted) ++ done ++ order.drop 256 ∧
      t.seq.sizes.get 0 s.seq.batch = done.length ∧
      (∀ (i : Nat) (y z : Txn), order[i]? = some y → done[i]? = some z →
        z.num = g * 256 + i ∧ z.batch = s.seq.batch ∧ z.sub = y.sub ∧ z.cell = y.cell ∧ z.verdict = y.verdict ∧
        z.wants = locksOf k y.cell y.sub ∧ z.stage = if y.verdict.isSome then .void else .numbered) ∧
      (∀ (i b : Nat) (y : Txn) (w : LockWant), i < 256 → order[i]? = some y → (b, w) ∈ locksOf k y.cell y.sub → b / 4096 = k →
        ∃ ws, w ∈ ws ∧ t.flies (.mergeGateReceive (dieOfBlm (b % 4096)) k
          (.request (g * 256 + i) (k * 1024 + y.cell) (b % 4096) ws)) 0) ∧
      ∀ d, d < 4 → t.flies (.mergeGateReceive d k (.close g)) 0

/-- R351: a batch that a fix asks for is closed empty; that what has been accepted, follows and restarts included, waits for a
later batch is the model's reading (log 102). -/
def Claim.FixBatchEmpty : Prop :=
  ∀ (s : State), s.fixCloses = true → s.seq.closeAsked = false →
    ∃ t, exec .batchClose s = .next t ∧ t.seq.txns = (s.seq.txns.filter fun y => y.stage ≠ .accepted) ++ s.seq.batchOrder ∧
      t.seq.sizes.get 0 s.seq.batch = 0

/-- R102 to R106, R119, R120 and R351: the sequencer accepts, closes and numbers batches.  That a batch which a fix closes is empty of
follows too is the model's reading (log 102), and so is the order of restarts by their sounding's number (log 103). The order of steps
within a cclk, the latencies that the spec leaves open and the unit that `cur` names are the model's (log 3, log 5). -/
def Obligations.SequencerSteps : Prop :=
  Claim.BatchesOpenAndClose ∧ Claim.BatchOrder ∧ Claim.BatchNumbers ∧ Claim.FixBatchEmpty

/-- R107 to R109: a merge gate buffers what comes by source part and forwards the head of the source that the next global
batch names; a BLM keeps requests in the order of arrival, grants the earliest entry that it may, a grant without data on the
lock channel (R25), and removes a released one. -/
def Claim.LockSteps : Prop :=
  ∀ (s : State) (die part blm num cell g b : Nat) (q : LockMsg) (ws : List LockWant) (e : LockEntry) (x : Gran),
    (∃ t, exec (.mergeGateReceive die part q) s = .next t ∧ t.mem = s.mem ∧
      (t.die die).gate.get [] part = (s.die die).gate.get [] part ++ [q] ∧
      ∀ p, p ≠ part → (t.die die).gate.get [] p = (s.die die).gate.get [] p) ∧
    (s.gateNext s.cur = some (part, .close g) →
      ∃ t, exec .mergeGateForward s = .next t ∧ (t.die s.cur).nextGlobal = g + 1 ∧ (t.die s.cur).safe = some (g * 256 + 255) ∧
        (t.die s.cur).gate.get [] part = ((s.die s.cur).gate.get [] part).tail ∧ t.mem = s.mem) ∧
    (s.gateNext s.cur = some (part, .request num cell b ws) →
      ∃ t, exec .mergeGateForward s = .next t ∧ (t.die s.cur).gate.get [] part = ((s.die s.cur).gate.get [] part).tail ∧
        (t.die s.cur).nextGlobal = (s.die s.cur).nextGlobal ∧ t.mem = s.mem ∧
        ∃ f ∈ t.sched.flight, f.parcel = .step (.blmRequestArrival b (.request num cell ws)) 0) ∧
    (∃ t, exec (.blmRequestArrival blm (.safe num)) s = .next t ∧ (t.blm blm).safe = some num ∧
      (t.blm blm).entries = (s.blm blm).entries) ∧
    (∃ t, exec (.blmRequestArrival blm (.request num cell ws)) s = .next t ∧ t.mem = s.mem ∧
      (t.blm blm).entries = (s.blm blm).entries ++
        ws.map fun w => ⟨num, cell, w.gran, w.excl, w.read, w.key, false, s.isVoid num⟩) ∧
    (s.grantNext s.cur = some e → e.void = false →
      ∃ t, exec .blmGrant s = .next t ∧ (t.blm s.cur).entries = (s.blm s.cur).entries.map (fun y =>
          if y.num = e.num ∧ y.gran = e.gran then { y with granted := true } else y) ∧ (e.read = false → t.mem = s.mem) ∧
        (e.cell / 1024 = s.link.pod.k → e.read = false → ∃ f ∈ t.sched.flight, f.cls = clsLock ∧
          f.parcel = .step (.grantPushArrival (e.cell % 1024) e.num e.gran [] []) 0)) ∧
    ((s.blm blm).entries.any (fun y => y.num = num ∧ y.gran = x ∧ y.granted) = true →
      ∃ t, exec (.blmRelease blm num x) s = .next t ∧
        (t.blm blm).entries = (s.blm blm).entries.filter fun y => !(y.num == num && y.gran == x))

/-- R109: what a grant or a release at a BLM keeps: an entry is granted only while every earlier entry of its granule is
granted and both are shared; so two granted entries of one granule are shared. -/
def Claim.LocksExclude : Prop :=
  let inv (es : List LockEntry) : Prop := ∀ x y, x ∈ es → y ∈ es → x.gran = y.gran →
    (x.num = y.num → x = y) ∧ (y.granted = true → x.num < y.num → x.granted = true ∧ x.excl = false ∧ y.excl = false)
  (∀ (s : State), inv (s.blm s.cur).entries →
    ∃ t, exec .blmGrant s = .next t ∧ inv (t.blm s.cur).entries) ∧
  (∀ (s : State) (blm num : Nat) (g : Gran), inv (s.blm blm).entries →
    ∃ t, exec (.blmRelease blm num g) s = .next t ∧ inv (t.blm blm).entries) ∧
  ∀ (es : List LockEntry) (x y : LockEntry), inv es → x ∈ es → y ∈ es → x.gran = y.gran → x.granted = true →
    y.granted = true → x ≠ y → x.excl = false ∧ y.excl = false

/-- R107 to R109: what the bank lock managers do, and what they keep. The order of steps within a cclk, the latencies
that the spec leaves open and the unit that `cur` names are the model's (log 3, log 5). -/
def Obligations.LockManagers : Prop := Claim.LockSteps ∧ Claim.LocksExclude

/-- R110, R111, R113, R114 and R116: a grant that comes, with data or without, counts; a tile that is only written is EMPTY
until it is READY, with its bytes cleared; a transaction with every grant dispatches its role; a drain that is acknowledged
counts down; a withdrawn or overrunning one becomes void, its deferred actions lost. -/
def Claim.TransactionEvents : Prop :=
  ∀ (s : State) (cell num : Nat) (x : Gran) (data : List Byte) (poison : List Nat) (y : Txn) (h : TileIx) (r k n : Nat)
    (pc : Word),
    s.txn num = some y →
    (y.stage = .numbered →
      ∃ t z, exec (.grantPushArrival cell num x data poison) s = .next t ∧ t.txn num = some z ∧ x ∈ z.granted ∧
        z.lastGrant = s.cycle ∧ z.stage = .numbered) ∧
    (let b := (s.cell cell).tile h.toNat
     y.stage = .numbered ∨ y.stage = .dispatched → b.v = true → b.state = .empty →
      ∃ t, exec (.writeOnlyTileClear cell num h) s = .next t ∧ (t.cell cell).tile h.toNat = { b with state := .ready } ∧
        t.slots = s.slots ∧ t.seq = s.seq ∧
        (s.sound → s.fix.want = 0 → s.fix.copies = [] →
          (∀ a ∈ addrsFrom (tileAddr cell b.at_) (b.rows * b.rb), t.byte a = 0) ∧
          ∀ a ∉ addrsFrom (tileAddr cell b.at_) (b.rows * b.rb), t.byte a = s.byte a)) ∧
    (y.num = num → y.cell = cell → s.txnReady y = true → y.roles = [] → y.sub.reads = [] → entries y.sub.record = [(r, pc)] →
      s.freeSlot (cell * 3 + r) = some k → y.lastGrant + 64 ≤ s.cycle →
      ∃ t z, exec (.txnDispatch cell num) s = .next t ∧ t.txn num = some z ∧ z.stage = .dispatched ∧
        z.roles = [⟨r, k, false, 0⟩] ∧ (t.slot k).run = .run ∧ (t.slot k).pc = pc ∧ (t.slot k).work = .role num r ∧
        (t.slot k).g 4 = y.sub.record.a0 ∧ (t.slot k).g 7 = y.sub.record.a3 ∧ (t.slot k).ctx = y.sub.ctx ∧ t.mem = s.mem) ∧
    (y.cell = cell → y.drains = [(x, n + 2)] → y.sub.writes = [] →
      ∃ t z, exec (.drainAck cell num x) s = .next t ∧ t.txn num = some z ∧ z.drains = [(x, n + 1)] ∧ t.mem = s.mem) ∧
    (y.cell = cell → y.stage = .numbered → s.cutFirst cell s.cur = false →
      ∃ t z, exec (.withdrawalNotice cell num) s = .next t ∧ t.txn num = some z ∧ z.stage = .void ∧ z.queue = [] ∧
        z.verdict = some ⟨1, 0, 0xFF, 0⟩ ∧ t.mem = s.mem) ∧
    (s.me.work = .role num r → y.stage = .dispatched →
      ∃ t z, exec .txnBudgetOverrun s = .next t ∧ t.txn num = some z ∧ z.stage = .void ∧ z.queue = [] ∧
        z.verdict = some ⟨2, 29, r, s.me.issues.toNat⟩ ∧ t.mem = s.mem)

/-- R110: the bytes of a pushed granule reach the tile of the read set that holds them, with the marks of those that are poisoned, and
no other byte changes; the tile is bound FILLING, and READY with the last of its granules. -/
def Claim.PushedData : Prop :=
  ∀ (s : State) (cell num g : Nat) (data : List Byte) (poison : List Nat) (y : Txn) (b : TileBind),
    s.txn num = some y → y.stage = .numbered → y.cell = cell → y.sub.reads = [b] → y.writeOnly = [] → y.pushes = [] →
    s.sound → s.fix.want = 0 → s.fix.copies = [] → data.length = 256 →
    let k := s.link.pod.k
    let h := TileDesc.handle b.desc
    let base := tileAddr cell (TileDesc.base b.desc * 256)
    let es := bytesIn k b (.mem g)
    let x := (s.cell cell).tile h
    es ≠ [] → (es.map fun e => e.1).Nodup → (tileArea cell b.desc).all y.granted.contains = true →
    x.v = false ∨ x.state = .empty ∨ x.state = .filling →
    ∃ t z, exec (.grantPushArrival cell num (.mem g) data poison) s = .next t ∧ t.txn num = some z ∧ .mem g ∈ z.granted ∧
      z.stage = .numbered ∧ (∀ e ∈ es, t.byte (base + e.1) = data.getD (e.2 % 256) 0) ∧
      (∀ a, (∀ e ∈ es, a ≠ base + e.1) → t.byte a = s.byte a) ∧
      (∀ e ∈ es, poison.contains (e.2 % 256 / 8) = true → (base + e.1) / 8 ∈ t.poison) ∧
      ((t.cell cell).tile h).v = true ∧ ((t.cell cell).tile h).state =
        (if (byteGrans k b).all (fun q => q = .mem g || y.granted.contains q) then .ready else .filling) ∧ t.slots = s.slots

/-- R113: with the last acknowledgement of its drains a transaction's granule is released, every handle of its record is unbound and
EMPTY, and its area granules are released. -/
def Claim.LastDrain : Prop :=
  ∀ (s : State) (cell num : Nat) (x : Gran) (y : Txn), s.txn num = some y → y.cell = cell → y.drains = [(x, 1)] →
    let k := s.link.pod.k
    ∃ t z, exec (.drainAck cell num x) s = .next t ∧ t.txn num = some z ∧ z.drains = [] ∧
      (granPart k x = k → (num, x) ∈ (t.blm (blmOf x)).releases) ∧
      (∀ h ∈ recHandles y.sub.record, ((t.cell cell).tile h).v = false ∧ ((t.cell cell).tile h).state = .empty) ∧
      (∀ w ∈ y.wants, (∀ g, w.2.gran ≠ .mem g) → (num, w.2.gran) ∈ (t.blm (blmOf w.2.gran)).releases) ∧
      (y.sub.record.out = 0 → t.mem = s.mem) ∧ t.slots = s.slots

/-- R120, R121 and R276: a withdrawal takes the selected submissions out of the open batch, or in deterministic mode marks them as
withdrawn; it sends a notice for each selected transaction that is numbered, and keeps in the slot which are outstanding and how many
have been removed; where none is outstanding it answers with the count. -/
def Claim.Withdrawal : Prop :=
  ∀ (s : State) (k : Nat) (tag mask : W32) (ctx : Nat) (d : Reg), (s.slot k).pend = .txwd d [] 0 → k ≠ noSlot →
    (∀ y ∈ s.seq.txns, y.stage ≠ .accepted → s.txn y.num = some y) →
    let sel (y : Txn) : Bool := y.sub.ctx == ctx && ((y.sub.record.dw7.truncate 32 : W32) ^^^ tag) &&& mask == 0
    let early (y : Txn) : Bool := sel y && y.stage == .accepted && y.verdict.isNone
    let late (y : Txn) : Bool := sel y && y.stage == .numbered
    let gone := s.seq.txns.filter early
    let nums := (s.seq.txns.filter late).map fun y => y.num
    let det := sqDet s.seq.sqctl
    ∃ t, exec (.sequencerWithdrawal k tag mask ctx) s = .next t ∧
      t.seq.txns = (if det then s.seq.txns.map fun y => if early y then { y with verdict := some ⟨1, 0, 0xFF, 0⟩ } else y
        else s.seq.txns.filter fun y => !early y) ∧
      (det = true ∨ (∀ y ∈ gone, y.sub.record.out = 0) → t.mem = s.mem) ∧
      (∀ y ∈ s.seq.txns, late y = true → t.flies (.withdrawalNotice y.cell y.num) s.cur) ∧
      (t.slot k).pend = .txwd d nums gone.length ∧ (t.slot k).regs = (s.slot k).regs ∧
      (nums = [] → t.answers k (.value (natW gone.length)) 0)

/-- R114 and R120: a submission that is withdrawn before it is numbered has its outcome written where OUTADDR is translated to: all
ones for its number, and STATUS 0x06 with no role. -/
def Claim.WithdrawnOutcome : Prop :=
  ∀ (s s1 : State) (k : Nat) (tag mask : W32) (d : Reg) (y : Txn) (l : Leaf),
    (s.slot k).pend = .txwd d [] 0 → k ≠ noSlot → sqDet s.seq.sqctl = false → s.fix.active = false → s.fix.want = 0 →
    s.fix.copies = [] → s.seq.txns = [y] → y.stage = .accepted → y.verdict = none →
    ((y.sub.record.dw7.truncate 32 : W32) ^^^ tag) &&& mask = 0 →
    let out := y.sub.record.out
    let a := localAddr (lFrame l + (out.toNat % 2 ^ 56 - l.vbase))
    out ≠ 0 → canonical out.toNat = true → isNear out.toNat = false →
    ({ s with seq := { s.seq with txns := [] } } : State).walk y.sub.ctx (pageOf out.toNat) = (.leaf l, s1) →
    outcomeBar s1 y.sub l = none → addrPart (lFrame l + (out.toNat % 2 ^ 56 - l.vbase)) = s.link.pod.k →
    (∀ i, i < 16 → placeOf (a + i) = .hbm) →
    ∃ t, exec (.sequencerWithdrawal k tag mask y.sub.ctx) s = .next t ∧ t.seq.txns = [] ∧
      ∀ i, i < 16 → t.homeByte (a + i) = (leBytes 8 (2 ^ 64 - 1) ++ leBytes 8 0xFF06).getD i 0

/-- R120, R121 and R276: the notice of a withdrawal makes a transaction that has not been dispatched void, and the slot that asked
counts it; one that it finds dispatched runs on and is not counted; with the last notice the slot has its answer. -/
def Claim.WithdrawalDecided : Prop :=
  ∀ (s : State) (cell num k n : Nat) (ns : List Nat) (d : Reg) (y : Txn),
    s.txn num = some y → y.cell = cell → s.cutFirst cell s.cur = false → (s.slots.map fun e => e.1).Nodup →
    (s.slot k).pend = .txwd d ns n → num ∈ ns → k ≠ noSlot →
    let decides (m : Nat) (z : Txn) : Prop :=
      ∃ t, exec (.withdrawalNotice cell num) s = .next t ∧ t.mem = s.mem ∧ t.txn num = some z ∧
        (t.slot k).pend = .txwd d (ns.filter (· ≠ num)) m ∧ (t.slot k).regs = (s.slot k).regs ∧
        ((∀ j ∈ ns, j = num) → t.answers k (.value (natW m)) 0)
    (y.stage = .numbered → y.roles = [] →
      decides (n + 1) { y with stage := .void, verdict := some ⟨1, 0, 0xFF, 0⟩, queue := [], pushes := [], voidAt := s.cycle + 1 }) ∧
    (y.stage = .dispatched ∨ y.stage = .committed → decides n y)

/-- R110 to R116, R120, R121 and R276: the course of a transaction. The order of steps within a cclk, the latencies
that the spec leaves open and the unit that `cur` names are the model's (log 3, log 5). -/
def Obligations.TransactionEvents : Prop :=
  Claim.TransactionEvents ∧ Claim.PushedData ∧ Claim.LastDrain ∧ Claim.Withdrawal ∧ Claim.WithdrawnOutcome ∧
  Claim.WithdrawalDecided

/-! ### Ordering and the memory system -/

/-- R226, R227, R87 and R88: `fence`, `acq` and `rel` leave the rotation, for 64 cclk where their scope acts on the cache;
when they are done the PC moves on, and an acquire has ended the validity of the clean words of its region. -/
def Claim.OrderingForms : Prop :=
  ∀ (s : State) (g : Guard) (sc : Scope) (a b : Reg),
    s.me.guardHolds g = true → s.me.plain a = true → s.me.plain b = true → slotOk s.cur = true →
    (s.cell (cellOf s.cur)).cutBegun = false → (s.cell (cellOf s.cur)).logging = false →
    let x := (s.me.g a).toNat
    let n := (s.me.g b).toNat
    canonical x = true → x + n ≤ 2 ^ 64 →
    let every := decide (a = 0 ∧ b = 0)
    let wide := decide (sc ≠ .slot ∧ sc ≠ .core ∧ sc ≠ .cell)
    ∀ e ∈ ([(.fence g sc, true, true, true), (.acq g sc b a, true, false, every), (.rel g sc b a, false, true, every)] :
        List (Instr × Bool × Bool × Bool)),
      ∃ t o u, exec e.1 s = .next t ∧ t.me.run = .wait wMem ∧ t.me.pend = .order o ∧ t.me.regs = s.me.regs ∧ t.mem = s.mem ∧
        o.acq = (e.2.1 && wide) ∧ o.rel = (e.2.2.1 && wide) ∧ o.all = e.2.2.2 ∧
        (e.2.2.2 = false → o.lo = x ∧ o.hi = x + n) ∧ o.due = s.cycle + (if wide then 64 else 0) ∧
        exec (.memoryReplyArrival s.cur .done) t = .next u ∧ u.me.run = .run ∧ u.me.regs = s.me.regs ∧ u.mem = s.mem ∧
        PassedBy s u (formLen g) ∧
        (u.cell (cellOf s.cur)).l1 = if e.2.1 && wide
          then ((s.cell (cellOf s.cur)).acquire o.all o.lo o.hi s.me.ctx false).l1 else (s.cell (cellOf s.cur)).l1

/-- R87 and R88: what the cache does for an ordering form that waits, once its inspection is over.  A release copies back every dirty
word of its region that is owned and has no registration on its way, and those then count as sent; it is done when no copy-back that it
waits for and no registration of the cell is unacknowledged.  An acquire is done when no registration is unacknowledged and no word of
its region stands at V 1, D 0, O 1. -/
def Claim.OrderingWaits : Prop :=
  ∀ (s : State) (k : Nat) (o : OrderOp), ((s.slot k).pend = .order o ∨ (s.slot k).pend = .leaving o) →
    (s.slot k).drained = true → o.due ≤ s.cycle →
    let c := cellOf k
    let cell := s.cell c
    let t := s.tickSlot k
    let done : Prop := t.sched.now = s.sched.now ++ [(.memoryReplyArrival k .done, 0)]
    let waits : Prop := t.sched.now = s.sched.now
    let region (x : L1Line) : BitVec 16 := regionMask o.all o.lo o.hi o.ctx x
    (o.rel = true → o.acq = false → o.relSent = false →
      (∀ l x, s.l1 c l = some x →
        let m := x.d &&& x.o &&& ~~~(cell.regMask l) &&& region x
        (m ≠ 0 →
          (∃ f ∈ t.sched.flight,
            f.parcel = .step (.copyBack c l m 0 x.data (x.poison &&& m) x.key cell.fixNo) 0) ∧
          ∃ y, t.l1 c l = some y ∧ y.d &&& m = 0 ∧ y.copying &&& m = m ∧ y.data = x.data ∧ y.v = x.v) ∧
        (x.d &&& region x ≠ 0 → waits)) ∧
      (cell.regq = [] → (∀ e ∈ cell.l1, (e.2.d ||| e.2.copying) &&& region e.2 = 0) → done)) ∧
    (o.rel = true → o.acq = false → o.relSent = true → o.todo = [] →
      let free : Prop := cell.regq = [] ∧ ∀ e ∈ o.wait, ∀ x, s.l1 c e.1 = some x → e.2 &&& x.copying = 0
      t.sched.flight = s.sched.flight ∧ (t.cell c).l1 = cell.l1 ∧ (free → done) ∧ (¬ free → waits)) ∧
    (o.rel = false → o.acq = true →
      let free : Prop := cell.regq = [] ∧ ∀ e ∈ cell.l1, e.2.v &&& ~~~e.2.d &&& e.2.o &&& region e.2 = 0
      t.sched.flight = s.sched.flight ∧ (t.cell c).l1 = cell.l1 ∧ (free → done) ∧ (¬ free → waits))

/-- R89 and R228: `invr` ends the validity of clean words of its region in L1 and drops its instruction-cache lines; `vsync`
drops a region's cached entry and waits for the answer; region 0 and numbers from 4,096 on are bad regions. -/
def Claim.ViewForms : Prop :=
  ∀ (s : State) (g : Guard) (a b : Reg), s.me.guardHolds g = true → s.me.plain a = true → s.me.plain b = true →
    let x := s.me.g a
    let n := s.me.g b
    let cell := cellOf s.cur
    (canonical x.toNat = true → x.toNat + n.toNat ≤ 2 ^ 64 → a ≠ 0 →
      ∃ t, exec (.invr g b a) s = .next t ∧ t.mem = s.mem ∧ t.me.regs = s.me.regs ∧ PassedBy s t (formLen g) ∧
        (t.cell cell).l1 = ((s.cell cell).invr false x.toNat (x.toNat + n.toNat) s.me.ctx).l1 ∧
        (t.cluster (clusterOf cell)).icache = (s.cluster (clusterOf cell)).icache.filter fun y =>
          !y.inRegion false x.toNat (x.toNat + n.toNat) s.me.ctx) ∧
    (x ≠ 0 → x.toNat < 4096 → (s.cell cell).cutBegun = false → s.cur ≠ noSlot →
      ∃ t, exec (.vsync g a) s = .next t ∧ t.me.run = .wait wMem ∧ t.me.pend = .plain ∧ t.me.regs = s.me.regs ∧
        t.regions.find x.toNat = none ∧ t.answers s.cur .done 0) ∧
    (x = 0 ∨ 4096 ≤ x.toNat → s.vectored = true → Traps (.vsync g a) s cBadRegion x)

/-- R87 to R89 and R226 to R228: ordering forms and views. The order of steps within a cclk, the latencies that the
spec leaves open and the unit that `cur` names are the model's (log 3, log 5). -/
def Obligations.OrderingAndViews : Prop := Claim.OrderingForms ∧ Claim.OrderingWaits ∧ Claim.ViewForms

/-- R146: the reply that a slot waits for completes its instruction: the register that waits is written and the PC
moves on; a poisoned or lost word traps with its address instead (R45, R85). The order of steps within a cclk, the
latencies that the spec leaves open and the unit that `cur` names are the model's (log 3, log 5). -/
def Obligations.RepliesComplete : Prop :=
  ∀ (s : State) (k : Nat) (d : Reg) (z : Asz) (n : Nat) (ns : List Nat) (v : Word),
    slotOk k = true → s.cur = k → s.me.plain d = true → (s.cell (cellOf k)).logging = false →
    let done (f : Slot → Slot) (r : Reply) : Prop :=
      ∃ t, exec (.memoryReplyArrival k r) s = .next t ∧ t.me.run = .run ∧ t.me.pend = .none ∧ t.me.regs = (f s.me).regs ∧
        t.me.pw = s.me.pw ∧ t.mem = s.mem ∧ PassedBy s t s.me.ilen ∧ ∀ j, j ≠ k → t.slot j = s.slot j
    (s.me.pend = .plain → done id .done) ∧
    (∀ p ∈ ([.word d, .bar d n, .fix d n, .txwd d ns n, .load d .zext] : List Pend), s.me.pend = p →
      done (fun sl => sl.setG d v) (.value v)) ∧
    (s.me.pend = .atom d z → done (fun sl => sl.setG d (match z with | .w => (v.truncate 32).signExtend 64 | .d => v)) (.value v)) ∧
    (s.me.pend ≠ .none → s.vectored = true →
      ∃ t u, exec (.memoryReplyArrival k (.poisoned v)) s = .next t ∧ t.me.pc = (s.ctx s.me.ctx).trapVec ∧
        t.me.trapCause = natW cUncorrectable ∧ t.me.trapVal = v ∧ t.me.trapPc = s.me.pc ∧ t.me.regs = s.me.regs ∧
        exec (.memoryReplyArrival k (.lost v)) s = .next u ∧ u.me.pc = (s.ctx s.me.ctx).trapVec ∧
        u.me.trapCause = natW cOwnerLost ∧ u.me.trapVal = v)

/-- R77: a fill request is answered with the line as its home slice holds it; when the data comes, every word of the line
whose D is 0 takes it and is valid, the request is gone, and words whose D is 1 stay, as do those that the cell has acquired
or written past L1 since (R300, R302, log 74). -/
def Claim.Fills : Prop :=
  ∀ (s : State) (cell line key n : Nat) (y : L2Line) (data : LineData) (poison : BitVec 16) (f : FillReq) (x : L1Line),
    (placeOf (64 * line) = .hbm → s.soft = [] → s.fix.copies = [] → s.owners.find line = none →
      s.l2.find line = some y →
      ∃ t, exec (.fillRequest cell line key n) s = .next t ∧ t.mem = s.mem ∧ t.l2 = s.l2 ∧
        t.flies (.fillDataArrival cell line y.data y.poison 0) 0) ∧
    ((s.cell cell).fills.find? (fun q => q.line = line) = some f → s.l1 cell line = some x →
      let m := ~~~x.d &&& ~~~f.stale
      ∃ t z, exec (.fillDataArrival cell line data poison 0) s = .next t ∧ t.l1 cell line = some z ∧ z.v = x.v ||| m ∧
        z.d = x.d ∧ z.o = x.o ∧ (∀ i : Fin 16, z.data[i] = if m.getLsbD i then data[i] else x.data[i]) ∧
        ((t.cell cell).fills.any fun q => q.line = line) = false ∧ t.mem = s.mem)

/-- R80, R82 and R86: registration of words at their home: the tags of words that are not lost name the cell, and it is
acknowledged; the acknowledgement sets O on dirty words and takes them off the queue; a refused one is sent again 64 cclk
later; a notice of lost ownership ends V, D and O; a recall is answered by a copy-back of the words that are dirty and owned,
which names the others. -/
def Claim.Registrations : Prop :=
  ∀ (s : State) (cell line : Nat) (mask : BitVec 16) (x : L1Line),
    (s.owners.find line = none → (s.recordsOf (homeSlice (64 * line))).length < 1700 →
      ∃ t, exec (.registration cell line mask) s = .next t ∧ t.mem = s.mem ∧ t.flies (.registrationAck cell line mask) 0 ∧
        ∀ i : Fin 16, t.tag line i.val = if mask.getLsbD i then .cell s.link.pod.k cell else .empty) ∧
    (s.l1 cell line = some x → mask &&& ~~~x.d = 0 →
      ∃ t z, exec (.registrationAck cell line mask) s = .next t ∧ t.mem = s.mem ∧ t.l1 cell line = some z ∧ z.o = x.o ||| mask ∧
        z.d = x.d ∧ z.v = x.v ∧ (t.cell cell).regq = (s.cell cell).regq.filter fun e => !(e.line == line && mask.getLsbD e.word)) ∧
    (∃ t, exec (.registrationRetry cell line mask) s = .next t ∧ t.mem = s.mem ∧
      (⟨s.cycle + 64, clsOwn, 0, 0, .step (.registrationResend cell line mask) 0⟩ : Flight) ∈ t.sched.flight) ∧
    (let m := mask &&& (s.cell cell).regMask line
     m ≠ 0 → ∃ t, exec (.registrationResend cell line mask) s = .next t ∧ t.mem = s.mem ∧
      t.flies (.registration cell line m) 0) ∧
    (s.l1 cell line = some x →
      ∃ t z, exec (.ownershipLostNotice cell line mask) s = .next t ∧ t.mem = s.mem ∧ t.l1 cell line = some z ∧
        z.v = x.v &&& ~~~mask ∧ z.d = x.d &&& ~~~mask ∧ z.o = x.o &&& ~~~mask ∧ z.data = x.data) ∧
    (s.l1 cell line = some x →
      let m := mask &&& x.d &&& x.o
      ∃ t z, exec (.recall cell line mask) s = .next t ∧ t.mem = s.mem ∧ t.l1 cell line = some z ∧ z.d = x.d &&& ~~~m ∧
        t.flies (.copyBack cell line m (mask &&& ~~~m) x.data (x.poison &&& m) x.key (s.cell cell).fixNo) 0)

/-- R81: a copy-back at the home slice: words whose tag names the sender take its data in L2 and lose their tag, others
are dropped; its acknowledgement clears O. -/
def Claim.CopyBacks : Prop :=
  ∀ (s : State) (cell line key n : Nat) (mask poison gone : BitVec 16) (data : LineData) (y : L2Line) (x : L1Line),
    (placeOf (64 * line) = .hbm → s.l2.find line = some y → s.fix.want = 0 → s.fix.copies = [] →
      let mine (i : Nat) : Bool := mask.getLsbD i && s.tag line i == s.myTag cell
      ∃ t z, exec (.copyBack cell line mask 0 data poison key n) s = .next t ∧ t.l2.find line = some z ∧
        (∀ i : Fin 16, z.data[i] = if mine i.val then data[i] else y.data[i]) ∧
        (∀ i : Fin 16, t.tag line i.val = if mine i.val then .empty else s.tag line i.val) ∧
        (∃ m, t.flies (.copyBackAck cell line mask m) 0 ∧ ∀ i : Fin 16, m.getLsbD i = (mask.getLsbD i && !mine i.val))) ∧
    (s.l1 cell line = some x → x.evicting = false →
      ∃ t z, exec (.copyBackAck cell line mask gone) s = .next t ∧ t.l1 cell line = some z ∧ z.o = x.o &&& ~~~mask ∧
        z.d = x.d ∧ z.v = x.v ∧ z.data = x.data ∧ t.mem = s.mem)

/-- R77, R80 to R82 and R86: fills, registrations and copy-backs. The order of steps within a cclk, the latencies that
the spec leaves open and the unit that `cur` names are the model's (log 3, log 5). -/
def Obligations.CacheProtocol : Prop := Claim.Fills ∧ Claim.Registrations ∧ Claim.CopyBacks

/-- R84: a write-through reaches HBM, or where it allocates the line's L2 entry.  R39: a view engine reads and writes the
stored bytes.  That an address that holds no memory stops the machine is the model's choice (log 97): no rule says what such a request
brings. -/
def Claim.HomeRequests : Prop :=
  ∀ (s : State) (q : MemReq) (a n : Nat),
    s.sound → s.soft = [] → s.poison = [] → s.unitKey = [] → s.fix.copies = [] → s.fix.want = 0 → s.l2 = [] → s.owners = [] →
    q.addrs = addrsFrom a n → 0 < n → a % 8 + n ≤ 8 → q.slot ≠ noSlot →
    let stored (t : State) : Prop := (∀ i, i < n → t.byte (a + i) = q.data.getD i 0) ∧
      ∀ b, b < a ∨ a + n ≤ b → t.byte b = s.byte b
    (placeOf a = .hbm →
      (q.data.length = n →
        (q.alloc = false → ∃ t, exec (.writeThrough q) s = .next t ∧ stored t ∧ t.answers q.slot .done 0) ∧
        (q.alloc = true → ∃ t, exec (.writeThrough q) s = .next t ∧ t.mem = s.mem ∧ t.answers q.slot .done 0 ∧
          ∀ i, i < n → t.homeByte (a + i) = q.data.getD i 0) ∧
        (q.write = true → ∃ t, exec (.viewEngineAccess q) s = .next t ∧ stored t ∧ t.answers q.slot .done 0)) ∧
      (q.write = false → ∃ t, exec (.viewEngineAccess q) s = .next t ∧ t.mem = s.mem ∧
        t.answers q.slot (.value (natW (leNat ((addrsFrom a n).map s.byte)))) 0)) ∧
    (placeOf a = .hole → exec (.writeThrough q) s = .fault (.noMemory a) ∧ exec (.viewEngineAccess q) s = .fault (.noMemory a))

/-- R223: an atomic at its home slice, at a view engine or at near memory answers the old value and leaves the new one. -/
def Claim.AtomicRequests : Prop :=
  ∀ (s : State) (w : AtomReq) (rest : List RemoteReq) (a : Nat),
    s.sound → s.soft = [] → s.poison = [] → s.unitKey = [] → s.fix.copies = [] → s.fix.want = 0 → s.l2 = [] → s.owners = [] →
    let n := aszBytes w.size
    w.addrs = addrsFrom a n → a % n = 0 → w.dirty = [] → w.slot ≠ noSlot →
    let old := leNat ((addrsFrom a n).map s.byte)
    let new : BitVec (8 * n) := atomSpec w.op (BitVec.ofNat (8 * n) old) (w.operand.truncate (8 * n)) (w.compare.truncate (8 * n))
    let stored (t : State) : Prop := (∀ i, i < n → t.byte (a + i) = new.extractLsb' (8 * i) 8) ∧
      ∀ b, b < a ∨ a + n ≤ b → t.byte b = s.byte b
    (placeOf a = .hbm →
      ∃ t, exec (.homeAtomic w) s = .next t ∧ t.answers w.slot (.value (natW old)) 0 ∧
        if w.view then stored t else t.mem = s.mem ∧ ∀ i, i < n → t.homeByte (a + i) = new.extractLsb' (8 * i) 8) ∧
    (placeOf a = .hole → exec (.homeAtomic w) s = .fault (.noMemory a)) ∧
    ∀ c, (placeOf a = .tile c ∨ placeOf a = .vault c) → (s.core s.cur).remIn = .atom s.link.pod.k w :: rest →
      ∃ t, exec .remoteAccess s = .next t ∧ stored t ∧ (t.core s.cur).remIn = rest ∧
        t.answers w.slot (.value (natW old)) (s.cell (cellOfCore s.cur)).fixNo

/-- R93: a remote access is performed at its cell by the D-core's service slot, oldest first. -/
def Claim.RemoteRequests : Prop :=
  ∀ (s : State) (q : MemReq) (rest : List RemoteReq) (a n c : Nat),
    s.sound → s.soft = [] → s.poison = [] → s.fix.copies = [] → s.fix.want = 0 → s.owners = [] →
    q.addrs = addrsFrom a n → 0 < n → a % 8 + n ≤ 8 → q.slot ≠ noSlot → q.scale = [] → q.piece = false →
    (placeOf a = .tile c ∨ placeOf a = .vault c) → (s.core s.cur).remIn = .mem s.link.pod.k q :: rest →
    let count := (s.cell (cellOfCore s.cur)).fixNo
    (q.write = true → q.data.length = n → ∃ t, exec .remoteAccess s = .next t ∧ (t.core s.cur).remIn = rest ∧
      (∀ i, i < n → t.byte (a + i) = q.data.getD i 0) ∧ (∀ b, b < a ∨ a + n ≤ b → t.byte b = s.byte b) ∧
      t.answers q.slot .done count) ∧
    (q.write = false → q.data = [] → ∃ t, exec .remoteAccess s = .next t ∧ t.mem = s.mem ∧ (t.core s.cur).remIn = rest ∧
      t.answers q.slot (.value (natW (leNat ((addrsFrom a n).map s.byte)))) count)

/-- R84, R39, R93 and R223: what home slices, view engines and service slots do with a request: a write-through
reaches HBM where its line is in no L2, a view engine reads and writes the stored bytes, a remote access is performed
at its cell, and an atomic answers the old value.  That an address that holds no memory stops the machine is the
model's choice (log 97).  The order of steps within a cclk, the latencies that the spec leaves open and the unit that
`cur` names are the model's (log 3, log 5). -/
def Obligations.RequestsServed : Prop := Claim.HomeRequests ∧ Claim.AtomicRequests ∧ Claim.RemoteRequests

/-! ### Tiles and engines -/

/-- R124 to R127, R236, R237 and R239: `tbind` makes an EMPTY entry; `tfree`, `tmark.r` and `tmark.e` change a tile that no
operation uses; `tstate` reads a doubleword of an entry; `twait` passes a READY tile and waits for another; a tile that is not bound
is a bad tile.  That a slot outside roles may use `tstate` and `twait` on t32 to t63 is the model's choice (log 52). -/
def Obligations.TileForms : Prop :=
  ∀ (s : State) (q : Pg) (view : BitVec 2) (plane : Bool) (fmt : BitVec 4) (cols rows : BitVec 12) (a b d : Reg)
    (dw : BitVec 2) (td : TileIx),
    s.me.guardHolds (.pred q.sense q.pred) = true → s.me.plain a = true → s.me.plain b = true → s.me.plain d = true →
    let h := td.toNat
    let x := s.myTile h
    let w := s.me.g b
    let size := tileUnits plane fmt.toNat cols.toNat rows.toNat
    let first := (s.cell (cellOf s.cur)).firstFor false h s.cur = true
    let reads := h < 32 ∨ s.me.inRole = false ∨ s.received h = true
    let becomes (i : Instr) (y : Tile) : Prop :=
      ∃ t, exec i s = .next t ∧ InCell s t ∧ t.myTile h = y ∧ (∀ j : TileIx, j ≠ td → t.myTile j.toNat = s.myTile j.toNat) ∧
        t.me.bare = s.me.bare ∧ t.me.run = .run ∧ PassedBy s t 12
    (h < 32 → slice w 63 30 = 0 → rows ≠ 0 → cols ≠ 0 → view ≠ 3 → layoutOk plane fmt.toNat cols.toNat = true →
      slice w 12 0 * 256 + size * 256 ≤ 0x100000 → (x.v = true → x.may .dst = true ∧ first) →
      becomes (.tbind q view plane fmt cols rows b a td)
        ⟨.empty, true, plane, fmt.toNat, view.toNat, 0, cols.toNat, rows.toNat, slice w 12 0, s.me.g a, slice w 29 13, size⟩) ∧
    (h < 32 → x.v = true → x.may .dst = true → first →
      becomes (.tfree q td) { x with v := false } ∧ becomes (.tmarkR q td) { x with state := .ready } ∧
      becomes (.tmarkE q td) { x with state := .empty }) ∧
    (reads → Does (.tstate q dw d td) s 12 fun sl => sl.setG d (x.dword dw.toNat)) ∧
    (reads → x.v = true → x.state = .ready → first → Does (.twait q td) s 12 id) ∧
    (reads → x.v = true → x.state ≠ .ready → Waits (.twait q td) s wTile) ∧
    (h < 32 → x.v = false → s.vectored = true →
      Traps (.twait q td) s cBadTile (natW h) ∧ Traps (.tfree q td) s cBadTile (natW h) ∧
      Traps (.tmarkR q td) s cBadTile (natW h) ∧ Traps (.tmarkE q td) s cBadTile (natW h))

/-- R99, R133, R137, R240 and R241: a unit of the work of `cp.ld`, `cp.st` and `cp.2d` on a tile of plain elements: the element's bytes
come from memory into the tile, or go from the tile to memory, and no other byte changes. -/
def Claim.CopyElements : Prop :=
  ∀ (s : State) (x : Job) (r b p p0 : Nat) (e : Ext) (y : Option (Reg × Reg)) (row0 : BitVec 16) (k l : Reg) (td : TileIx),
    let d := x.tile 0
    let n := elemBytes d.fmt
    let v (i : Nat) : Word := x.r.cmd.vals.getD i 0
    x.calm s → byElement d = true → r < d.rows → b < d.cols → d.view = 0 →
    let u := r * d.cols + b
    let here := elemAddr x.cell d r b
    let loads (op : Instr) (va : Word) : Prop := x.r.cmd.op = op → x.reaches s 0 va n p →
      x.does s u fun t => Stores s t here (s.bytesAt p n)
    let stores (op : Instr) (va : Word) : Prop := x.r.cmd.op = op → x.reaches s 1 va n p → p % 64 + n ≤ 64 →
      x.does s u fun t => x.puts s t va p (s.bytesAt here n)
    (let base : Word := match y with | none => d.gva | some _ => v 0
     let pitch := match y with | none => d.pitch | some _ => slice (v 1) 16 0
     let off : Nat := r * (if pitch = 0 then d.cols * n else pitch * 16) + b * n
     let va : Word := wordOfInt (base.toInt + off)
     x.r.cmd.vals.length = (match y with | none => 0 | some _ => 2) → rangeBad (base.toInt + off) = false →
       isNear base.toNat = isNear va.toNat →
      (x.reaches s 0 base 1 p0 → loads (.cpLd e y td) va) ∧ (x.reaches s 1 base 1 p0 → stores (.cpSt e y td) va)) ∧
    (let va : Word := wordOfInt ((v 0).toInt + (row0.toInt + r) * (v 1).toInt + (b * n : Nat))
     d.rb = d.cols * n → loads (.cp2d e false row0 k l td) va ∧ stores (.cp2d e true row0 k l td) va)

/-- R136, R138 and R243: the work of `gather` and `scatter`: the list is TA's first column, signed; then row j moves strip by
strip, each to the end of a 256-byte unit of its destination: its first strip reads it whole. -/
def Claim.ListedRows : Prop :=
  ∀ (s : State) (x : Job) (out : Bool) (e : Ext) (k l : Reg) (td ta : TileIx) (j q p : Nat),
    let d := x.tile 0
    let list := (List.range d.rows).map fun i => (BitVec.ofNat 32 (s.elemAt x.cell (x.tile 1) i 0)).toInt
    let base := (x.r.cmd.vals.getD 0 0).toInt
    let stride := (x.r.cmd.vals.getD 1 0).toInt
    x.calm s → x.r.cmd.op = (if out then .scatter e k l td ta else .gather e k l td ta) → (x.tile 1).plane = false → (x.tile 1).fmt = 4 →
    ((∀ i ∈ list, rangeOk (base + i * stride) (base + i * stride + d.rb - 1)) →
      x.does s 0 fun t => ∃ r, ((t.cell x.cell).engine x.eng).cur = some r ∧ r.index = list ∧ r.fault = x.r.fault ∧ t.mem = s.mem) ∧
    (let va : Word := wordOfInt (base + x.r.index.getD j 0 * stride)
     let here := tileAddr x.cell d.at_ + j * d.rb
     let a := if out then va.toNat else here
     let lo := min d.rb (256 * q - a % 256)
     let hi := min d.rb (256 * (q + 1) - a % 256)
     j < d.rows → j < x.r.index.length → x.r.fault = none → x.r.subs = [] → isNear va.toNat = true →
     x.reaches s (if out then 1 else 0) va d.rb p →
     lo < hi →
     (q = 0 → x.r.got = []) → (q ≠ 0 → x.r.got = [(j, s.bytesAt (if out then here else p) d.rb)]) →
      x.does s (d.rows + 2 + j * (d.rb / 256 + 2) + q) fun t =>
        Stores s t ((if out then p else here) + lo) (s.bytesAt ((if out then here else p) + lo) (hi - lo)))

/-- R140 and R245: the work of `cprot`: it reads its table and all its rows before it writes any; element j of row i is the rotated
partner of its pair, by two products and two fused steps in FP32, each rounded, and once more for BF16; elements past d are copied; and
then each element is written in order. -/
def Claim.RotatedElements : Prop :=
  ∀ (s : State) (x : Job) (split : Bool) (e : Ext) (k l : Reg) (td ta : TileIx) (i j p : Nat) (bs : List Byte),
    let t := x.tile 0
    let u := x.tile 1
    let v := x.r.cmd.vals.getD 0 0
    let va := x.r.cmd.vals.getD 1 0
    let d := slice v 47 36
    let rows := slice v 35 24
    let f := if t.fmt = 2 then bf16 else fp32
    let rm := rmOf x.r.cmd.fmode
    let ftz := ftzOf x.r.cmd.fmode
    let n := elemBytes t.fmt
    x.calm s → x.r.cmd.op = .cprot e split k l td ta → rotatable t = true → u.fmt = t.fmt → u.cols = t.cols → u.plane = t.plane →
    d % 2 = 0 → d ≤ t.cols → i < rows → j < t.cols →
    let m := i * t.cols + j
    let src (c : Nat) : Nat := s.elemAt x.cell u (slice v 11 0 + i) c
    let rd (z : Nat) : Fp := readFp fp32 ftz z
    let pair := if split then j % (d / 2) else j / 2
    let xi := if split then pair else 2 * pair
    let yi := if split then pair + d / 2 else 2 * pair + 1
    let c := rd (s.num (p + 8 * pair) 4)
    let sn := rd (s.num (p + 8 * pair + 4) 4)
    let X := readFp f ftz (src xi)
    let Y := readFp f ftz (src yi)
    let x' := (fpFma fp32 rm ftz c X (negFp (rd (fpMul fp32 rm ftz sn Y).bits))).bits
    let y' := (fpFma fp32 rm ftz sn X (rd (fpMul fp32 rm ftz c Y).bits)).bits
    let final (z : Nat) : Nat := if t.fmt = 2 then (fpToFp bf16 rm ftz (rd z)).bits else z
    let value := if d ≤ j then src j else final (if j = xi then x' else y')
    (va.toNat % 8 = 0 → x.reaches s 0 va (4 * d) p → x.does s 0 fun z =>
      ∃ r, ((z.cell x.cell).engine x.eng).cur = some r ∧ r.got.find? (fun g => g.1 = m) = some (m, leBytes n value) ∧
        r.fault = x.r.fault ∧ z.mem = s.mem ∧ z.slots = s.slots) ∧
    (x.r.got.find? (fun g => g.1 = m) = some (m, bs) → x.does s (m + 1) fun z =>
      Stores s z (elemAddr x.cell t (slice v 23 12 + i) j) bs)

/-- R130, R133 to R140, R235 and R240 to R245: the copy engine's forms, whose operands are as their rules ask, enter the
engine's queue. -/
def Claim.CopyForms : Prop :=
  ∀ (s : State) (x : Ext) (e : Option (Reg × Reg)) (split : Bool) (row0 : BitVec 16) (n : BitVec 3) (a b : Reg)
    (td ta : TileIx),
    s.me.plain a = true → s.me.plain b = true → (∀ p ∈ e, s.me.plain p.1 = true ∧ s.me.plain p.2 = true) →
    let h := td.toNat
    let i := ta.toNat
    let t := s.myTile h
    let u := s.myTile i
    let v := s.me.g a
    let w := s.me.g b
    let vals := match e with | none => [] | some p => [s.me.g p.1, s.me.g p.2]
    let span := globalSpan (globalTile t vals)
    let r0 := rowAddr v w row0.toInt 0
    let r1 := rowAddr v w row0.toInt (t.rows - 1)
    let lo := min r0 r1
    let hi := max r0 r1 + t.rb - 1
    let src : List (Nat × Use) := [(h, .src)]
    let dst : List (Nat × Use) := [(h, .dst)]
    (t.plane = false → slice (vals.getD 1 0) 63 17 = 0 → rangeOk span.1 span.2 →
      (MayIssue s .copy x [h] dst → Enters (.cpLd x e td) .copy x vals [h] dst s) ∧
      (MayIssue s .copy x [h] src → s.me.inRole = false ∨ inNear span.1 span.2 = true →
        Enters (.cpSt x e td) .copy x vals [h] src s)) ∧
    (rangeOk lo hi →
      (MayIssue s .copy x [h] dst → Enters (.cp2d x false row0 b a td) .copy x [v, w] [h] dst s) ∧
      (MayIssue s .copy x [h] src → s.me.inRole = false ∨ inNear lo hi = true →
        Enters (.cp2d x true row0 b a td) .copy x [v, w] [h] src s)) ∧
    (MayIssue s .copy x [h] dst → byElement t = true → Enters (.fill x a td) .copy x [v] [h] dst s) ∧
    (u.plane = false → u.fmt = 4 → t.rows ≤ u.rows → h ≠ i →
      (MayIssue s .copy x [h, i] [(h, .dst), (i, .src)] →
        Enters (.gather x b a td ta) .copy x [v, w] [h, i] [(h, .dst), (i, .src)] s) ∧
      (MayIssue s .copy x [h, i] [(h, .src), (i, .src)] → s.me.inRole = false →
        Enters (.scatter x b a td ta) .copy x [v, w] [h, i] [(h, .src), (i, .src)] s)) ∧
    (MayIssue s .copy x [h] src → s.me.inRole = false → byElement t = true → 3 * (n.toNat + 1) ≤ t.rows →
      3 * (n.toNat + 1) ≤ t.cols → Enters (.halo x n td) .copy x [] [h] src s) ∧
    (MayIssue s .copy x [h, i] (usesOf true h [i]) → rotatable t = true → rotatable u = true → slice v 63 48 = 0 →
      slice v 47 36 % 2 = 0 → 2 ≤ slice v 47 36 → slice v 47 36 ≤ t.cols → slice v 35 24 ≠ 0 →
      slice v 23 12 + slice v 35 24 ≤ t.rows → slice v 11 0 + slice v 35 24 ≤ u.rows → t.fmt = u.fmt → t.cols = u.cols →
      rangeOk w.toInt (w.toInt + 4 * slice v 47 36 - 1) →
      Enters (.cprot x split b a td ta) .copy x [v, w] [h, i] (usesOf true h [i]) s)

/-- R99, R130, R133 to R140, R235 and R240 to R245: the copy engine's forms enter its queue, and what their commands copy.  That a tile
which a form both reads and writes takes no HOLD is the model's choice (log 91). -/
def Obligations.CopyForms : Prop := Claim.CopyForms ∧ Claim.CopyElements ∧ Claim.ListedRows ∧ Claim.RotatedElements

/-- R248, R250, R252 and R260: the unit of a command's work that belongs to element (i, j) of TD: `cv.tr` gives it element (j,
i) of TA, `cv.f` the value of TA's element rounded to TD's format, `macc.rd` TA's value times the scale, rounded, and
`ti.eval` the value of its table's polynomial. -/
def Claim.ConversionElements : Prop :=
  ∀ (s : State) (x : Job) (i j : Nat) (e : Ext) (sel : RndSel) (o : MaccTy) (sc : Option Reg) (r : Fty) (n : BitVec 2) (td ta : TileIx),
    s.quiet → i < (x.tile 0).rows → j < (x.tile 0).cols →
    let d := x.tile 0
    let u := x.tile 1
    let ftz := ftzOf x.r.cmd.fmode
    let rm : Nat := match sel with | .rm => rmOf x.r.cmd.fmode | .ne => 0 | .tz => 1 | .up => 2 | .dn => 3
    let A := s.elemAt x.cell u i j
    let int : Int := (BitVec.ofNat 32 A).toInt
    let from_ : Fp := if u.fmt = 4 then .fin (decide (int < 0)) int.natAbs 0 else readFp fp32 ftz A
    let scale : Fp := match x.r.cmd.vals with | w :: _ => readFp fp32 ftz (w.toNat % 2 ^ 32) | [] => .fin false 1 0
    let table := (s.cell x.cell).interp[n.toNat]'n.isLt
    (x.r.cmd.op = .cvTr e td ta → x.gives s i j (s.elemAt x.cell u j i)) ∧
    (x.r.cmd.op = .cvF e sel td ta → isBfx u.fmt = false → x.gives s i j (convTo d.fmt rm ftz (elemVal u.fmt ftz A))) ∧
    (x.r.cmd.op = .cvF e sel td ta → isBfx u.fmt = true → u.plane = false →
      let es := s.expsAt x.cell u i (j / 32)
      x.gives s i j (convTo d.fmt rm (ftz && d.fmt != 3) (.fp (bfxFp (fmtBits u.fmt) (s.codeAt x.cell u i (j / 32) (j % 32)) es.1 es.2)))) ∧
    (x.r.cmd.op = .maccRd e o sel sc td ta → d.fmt = maccFmt o → x.gives s i j (match o with
      | .f32 => (fpMul fp32 rm ftz from_ scale).bits
      | .bf16 => (fpMul bf16 rm ftz from_ scale).bits
      | .i32 => (BitVec.ofInt 32 (fpToInt 32 rm (fpProd from_ scale).1).1).toNat)) ∧
    (x.r.cmd.op = .tiEval e r n td ta → table.valid = true → table.ctx = x.r.cmd.ctx →
      let y := interpolate table ftz (if u.fmt = 2 then readFp bf16 ftz A else readFp fp32 ftz A)
      x.gives s i j (match r with | .f32 => y | .bf16 => (fpToFp bf16 0 ftz (readFp fp32 ftz y)).bits))

/-- R67: what a table gives for a datum: the segment, the rounded rest, and two fused steps. -/
def Claim.Interpolation : Prop :=
  ∀ (p : Interp) (ftz a la ha : Bool) (x : Fp) (u lo hi : ℝ),
    (unpack fp32 (p.word 0)).Is la lo → (unpack fp32 (p.word 1)).Is ha hi → signed la lo < signed ha hi →
    let rd (v : Nat) : Fp := readFp fp32 ftz v
    let poly (seg : Nat) (t : Nat) : Nat :=
      let c (i : Nat) : Fp := rd (p.word (4 + 3 * seg + i))
      (fpFma fp32 0 ftz (rd (fpFma fp32 0 ftz (c 2) (rd t) (c 1)).bits) (rd t) (c 0)).bits
    (isNan x = true → interpolate p ftz x = canonNan fp32) ∧
    interpolate p ftz (.inf a) = poly (if a then 0 else 255) (infPat fp32 a) ∧
    (x.Is a u →
      let z : ℝ := (signed a u - signed la lo) * 256 / (signed ha hi - signed la lo)
      ∃ (seg : Nat) (t : FRes), interpolate p ftz x = poly seg t.bits ∧
        (z < 0 → seg = 0) ∧ (256 ≤ z → seg = 255) ∧ (0 ≤ z → z < 256 → (seg : ℝ) ≤ z ∧ z < seg + 1) ∧
        (z ≠ seg → ∀ neg, (neg = true ↔ z < seg) → Delivers fp32 0 ftz neg |z - seg| t) ∧ (z = seg → t.bits = 0))

/-- R42, R61, R247 and R249: the unit of a command's work that belongs to block (i, b) of TD: `cv.plane` and `cv.unplane` give it the
codes and exponents of TA's block, and `cv.q` those that its 32 elements quantise to; bytes outside the tile stay. -/
def Claim.ConversionBlocks : Prop :=
  ∀ (s : State) (x : Job) (i b : Nat) (e : Ext) (sel : RndSel) (h : BitVec 5) (k l : Reg) (td ta : TileIx),
    let d := x.tile 0
    let u := x.tile 1
    let n := fmtBits d.fmt
    s.quiet → i < d.rows → b < d.cols / 32 → isBfx d.fmt = true ∨ d.fmt = 1 →
    let ftz := ftzOf x.r.cmd.fmode
    let rm : Nat := match sel with | .rm => rmOf x.r.cmd.fmode | .ne => 0 | .tz => 1 | .up => 2 | .dn => 3
    let xs : List Fp := (List.range 32).map fun o =>
      let v := s.elemAt x.cell u i (32 * b + o)
      if u.fmt = 2 then readFp bf16 ftz v else readFp fp32 ftz v
    let gives (code : Nat → Nat) (es : Nat × Nat) : Prop := x.does s (i * (d.cols / 32) + b) fun t =>
      (∀ o, o < 32 → t.codeAt x.cell d i b o = code o) ∧ (isBfx d.fmt = true → t.expsAt x.cell d i b = es) ∧ t.slots = s.slots ∧
      ∀ q, q < tileAddr x.cell d.at_ ∨ tileAddr x.cell d.at_ + d.rows * d.rb ≤ q → t.byte q = s.byte q
    let quantised (q : QMode) : Block := quantise n h.toNat q (fun o => i * d.cols + 32 * b + o) xs
    (x.r.cmd.op = .cvPlane e td ta ∨ x.r.cmd.op = .cvUnplane e td ta → u.fmt = d.fmt → u.cols = d.cols →
      gives (s.codeAt x.cell u i b) (s.expsAt x.cell u i b)) ∧
    (isBfx d.fmt = true → x.r.cmd.op = .cvQ e (.rnd sel) h td ta →
      gives (fun o => (quantised (.rm rm)).codes.getD o 0) ((quantised (.rm rm)).e0, (quantised (.rm rm)).e1)) ∧
    (isBfx d.fmt = true → x.r.cmd.op = .cvQ e (.stochastic k l) h td ta →
      let y := quantised (.stochastic (x.r.cmd.vals.getD 1 0).toNat (x.r.cmd.vals.getD 0 0).toNat)
      gives (fun o => y.codes.getD o 0) (y.e0, y.e1))

/-- R59 and R60: a block of finite data quantised: class, exponents, sign and magnitude of each code; and how stochastic
rounding takes its bits. -/
def Claim.Quantised : Prop :=
  ∀ (n h rm : Nat) (q : QMode) (idx : Nat → Nat) (xs : List Fp), n ∈ [4, 6, 8, 12] → rm < 4 →
    (∀ x ∈ xs, ∃ a u, x.Is a u) →
    let m := n - 2
    let r := quantise n h q idx xs
    let high (u : ℝ) : Prop := u ≠ 0 ∧ ∀ y ∈ xs, ∀ b v, y.Is b v → v ≠ 0 → Int.log 2 v - h ≤ Int.log 2 u
    let chosen (A : ℝ) (E : Nat) : Prop :=
      let e : ℤ := Int.log 2 A + 128
      let e' : ℤ := if (2 ^ m - 1 : ℝ) * 2 ^ (e - 127 - m) < A then e + 1 else e
      (E : ℤ) = max 0 (min 254 e')
    let largest (cls : ℝ → Prop) (A : ℝ) : Prop :=
      (∃ x ∈ xs, ∃ a, x.Is a A ∧ cls A ∧ A ≠ 0) ∧ ∀ x ∈ xs, ∀ a u, x.Is a u → cls u → u ≠ 0 → u ≤ A
    r.codes.length = xs.length ∧
    (∀ A, largest high A → chosen A r.e1) ∧ (∀ A, largest (fun u => ¬high u) A → chosen A r.e0) ∧
    ((∀ x ∈ xs, ∀ a u, x.Is a u → ¬high u) → r.e1 = 0) ∧
    ((∀ x ∈ xs, ∀ a u, x.Is a u → high u ∨ u = 0) → r.e0 = r.e1) ∧
    (∀ (i : Nat) (a : Bool) (u : ℝ), (∃ x, xs[i]? = some x ∧ x.Is a u) →
      let code := r.codes.getD i 0
      let E := if code.testBit (n - 2) then r.e1 else r.e0
      let v : ℝ := u * 2 ^ (127 + m - E : ℤ)
      code < 2 ^ n ∧ code.testBit (n - 1) = a ∧ (code.testBit (n - 2) = true ↔ high u) ∧
      (q = .rm rm → ∃ z, RoundsToInt rm (signed a v) z ∧ code % 2 ^ m = min z.natAbs (2 ^ m - 1)) ∧
      ∀ key base, q = .stochastic key base →
        let c := (base + idx i) % 2 ^ 64
        let bits : Nat := (rngSpec (BitVec.ofNat 64 key) (BitVec.ofNat 64 c) 0).1.toNat % 2 ^ 24
        let f : Nat := ⌊v⌋.toNat
        ((bits : ℝ) < (v - f) * 2 ^ 24 → code % 2 ^ m = min (f + 1) (2 ^ m - 1)) ∧
          (¬(bits : ℝ) < (v - f) * 2 ^ 24 → code % 2 ^ m = min f (2 ^ m - 1)))

/-- R62, R63 and R65: the sum of a block's products, exact where they are finite, and the accumulator after it. -/
def Claim.BlockProducts : Prop :=
  (∀ (xs ys : List Fp) (us vs : List ℝ), xs.length = ys.length →
    List.Forall₂ (fun x u => ∃ a w, x.Is a w ∧ u = signed a w) xs us →
    List.Forall₂ (fun y v => ∃ a w, y.Is a w ∧ v = signed a w) ys vs →
    ∃ a w, (blockSum xs ys).Is a w ∧ signed a w = (List.zipWith (· * ·) us vs).sum) ∧
  (∀ (xs ys : List Fp),
    let has (z : Fp) : Prop := ∃ p ∈ xs.zip ys, (fpProd p.1 p.2).1 = z
    ((∃ b, has (.nan b)) ∨ has (.inf true) ∧ has (.inf false) → isNan (blockSum xs ys) = true) ∧
    ((¬∃ b, has (.nan b)) → ∀ a, has (.inf a) → ¬has (.inf !a) → blockSum xs ys = .inf a)) ∧
  ∀ (ftz a : Bool) (acc m : Nat) (e : Int) (v : Fp) (w : ℝ),
    (v.Is a w → w = 0 → accStep false ftz acc v = acc) ∧
    (v.Is a w → w ≠ 0 → accStep false ftz acc v = (fpAdd fp32 0 ftz (readFp fp32 ftz acc) v).bits) ∧
    ((∀ b z, ¬v.Is b z) → accStep false ftz acc v = (fpAdd fp32 0 ftz (readFp fp32 ftz acc) v).bits) ∧
    (0 ≤ e → accStep true ftz acc (.fin a m e) =
      (BitVec.ofInt 32 ((acc : Int) + (if a then -(m : Int) else m) * 2 ^ e.toNat)).toNat)

/-- R62, R65, R254 and R256: the unit of an `mma`'s work that belongs to a block of 64 by 64 elements of TD: every element of
it becomes its accumulator, 0 or its own value at first, after the products of TA's and TB's declared planes, k-block by
k-block in order; no other element and no byte outside the tile changes. -/
def Claim.MatrixElements : Prop :=
  ∀ (s : State) (x : Job) (bi bj : Nat) (e : Ext) (z : Bool) (bp ap : BitVec 4) (td ta tb : TileIx),
    let d := x.tile 0
    let A := x.tile 1
    let B := x.tile 2
    s.quiet → x.r.cmd.op = .mma e z bp ap td ta tb → d.plane = false → d.fmt = 3 ∨ d.fmt = 4 →
    matrixOperand A ap.toNat = true → matrixOperand B bp.toNat = true → 64 * bi < d.rows → 64 * bj < d.cols →
    let inside (i j : Nat) : Prop := 64 * bi ≤ i ∧ i < 64 * bi + 64 ∧ 64 * bj ≤ j ∧ j < 64 * bj + 64
    let datum (t : Tile) (p i kb o : Nat) : Fp :=
      let n := fmtBits t.fmt
      let planes := if isBfx t.fmt then n - 2 else 8
      let code := s.codeAt x.cell t i kb o
      let es := s.expsAt x.cell t i kb
      let kept := code - code % 2 ^ (planes - if p = 0 then planes else p)
      let int : Int := (BitVec.ofNat 8 kept).toInt
      if isBfx t.fmt then bfxFp n kept es.1 es.2 else .fin (decide (int < 0)) int.natAbs 0
    let row (t : Tile) (p i kb : Nat) : List Fp := (List.range 32).map (datum t p i kb)
    x.does s (bi * ((d.cols + 63) / 64) + bj) fun t =>
      t.slots = s.slots ∧
      (∀ i j, i < d.rows → j < d.cols → t.elemAt x.cell d i j =
        if inside i j then (List.range (A.cols / 32)).foldl (fun acc kb => accStep (d.fmt == 4) (ftzOf x.r.cmd.fmode) acc
          (blockSum (row A ap.toNat i kb) (row B bp.toNat j kb))) (if z then 0 else s.elemAt x.cell d i j)
        else s.elemAt x.cell d i j) ∧
      ∀ q, q < tileAddr x.cell d.at_ ∨ tileAddr x.cell d.at_ + d.rows * d.rb ≤ q → t.byte q = s.byte q

/-- R235 and R246 to R260: the forms of the conversion, table and matrix engines enter their queues; `mma` leaves the
rotation until its operation is over. -/
def Claim.ConversionAndMatrixForms : Prop :=
  ∀ (s : State) (x : Ext) (r : Fty) (m : RndSel) (k : BitVec 5) (o : MaccTy) (sc : Option Reg) (n : BitVec 2) (z : Bool)
    (p q : BitVec 4) (a b : Reg) (td ta tb : TileIx),
    s.me.plain a = true → s.me.plain b = true → (∀ y ∈ sc, s.me.plain y = true) →
    let h := td.toNat
    let i := ta.toNat
    let j := tb.toNat
    let t := s.myTile h
    let u := s.myTile i
    let v := s.myTile j
    let us : List (Nat × Use) := [(h, .dst), (i, .src)]
    let same := t.rows = u.rows ∧ t.cols = u.cols
    let rows := t.plane = false ∧ u.plane = false
    (h ≠ i → MayIssue s .conv x [h, i] us →
      (planePair u t = true → Enters (.cvPlane x td ta) .conv x [] [h, i] us s) ∧
      (planePair t u = true → Enters (.cvUnplane x td ta) .conv x [] [h, i] us s) ∧
      (same → u.plane = false → u.fmt = 2 ∨ u.fmt = 3 → isBfx t.fmt = true →
        Enters (.cvQ x (.rnd m) k td ta) .conv x [] [h, i] us s ∧
        Enters (.cvQ x (.stochastic a b) k td ta) .conv x [s.me.g a, s.me.g b] [h, i] us s) ∧
      (same → rows → byteFmt t.fmt = true → byteFmt u.fmt = true ∨ isBfx u.fmt = true →
        Enters (.cvF x m td ta) .conv x [] [h, i] us s) ∧
      (rows → t.fmt = u.fmt → isBfx t.fmt = false → t.rows = u.cols → t.cols = u.rows →
        Enters (.cvTr x td ta) .conv x [] [h, i] us s)) ∧
    (MayIssue s .table x [] [] → Enters (.tiLoad x n a) .table x [s.me.g a] [] [] s) ∧
    (MayIssue s .table x [h, i] (usesOf false h [i]) → same → rows → u.fmt = 2 ∨ u.fmt = 3 →
      t.fmt = (match r with | .f32 => 3 | .bf16 => 2) →
      Enters (.tiEval x r n td ta) .table x [] [h, i] (usesOf false h [i]) s) ∧
    (MayIssue s .matrix x [h, i, j] (usesOf (!z) h [i, j]) → t.plane = false → matrixOperand u p.toNat = true →
      matrixOperand v q.toNat = true → u.cols = v.cols → h ≠ i → h ≠ j → t.rows = u.rows → t.cols = v.rows →
      (t.fmt = 4 ∧ u.fmt = 1 ∧ v.fmt = 1) ∨ (t.fmt = 3 ∧ ¬(u.fmt = 1 ∧ v.fmt = 1)) →
      ∃ y, Queues (.mma x z q p td ta tb) .matrix x [] [h, i, j] (usesOf (!z) h [i, j]) s y ∧ y.me.run = .wait wExec ∧
        y.me.pend = .plain ∧ y.me.pc = s.me.pc) ∧
    (MayIssue s .matrix x [h, i] (usesOf false h [i]) → rows → same → t.fmt = maccFmt o → u.fmt = 3 ∨ u.fmt = 4 →
      Enters (.maccRd x o m sc td ta) .matrix x (match sc with | none => [] | some y => [s.me.g y]) [h, i]
        (usesOf false h [i]) s)

/-- R42, R59 to R63, R65, R67, R235 and R246 to R260: the conversion, table and matrix forms enter their queues, and what
their commands make of their tiles.  That a tile which a form both reads and writes takes no HOLD is the model's choice (log
91). -/
def Obligations.ConversionAndMatrixForms : Prop :=
  Claim.ConversionAndMatrixForms ∧ Claim.ConversionElements ∧ Claim.Interpolation ∧ Claim.ConversionBlocks ∧ Claim.Quantised ∧
    Claim.BlockProducts ∧ Claim.MatrixElements

/-- R235 and R261 to R267: the vector forms enter the vector engine's queue: forms with two sources, with one, with a
scalar, compares, selections, reductions, conversions and broadcasts; a mask tile is read, and makes the destination one that
is read.  That a tile which a form both reads and writes takes no HOLD is the model's choice (log 91). -/
def Obligations.VectorForms : Prop :=
  ∀ (s : State) (x : Ext) (t : VSat) (y : Vty) (ty : Vty) (f : VFmaTy) (c : VCmp) (n : Ity) (o : VRedOp) (br : Br)
    (bb : BcastBr) (sel : RndSel) (fl : Bool) (sh : BitVec 6) (mk : Option TileIx) (a b : Reg) (td ta tb tm : TileIx),
    s.me.plain a = true → s.me.plain b = true →
    let h := td.toNat
    let i := ta.toNat
    let j := tb.toNat
    let ms := match mk with | some m => [m.toNat] | none => []
    let d := s.myTile h
    let shape := (d.rows, d.cols)
    let fits (k fmt : Nat) (z : Nat × Nat) : Prop := rowTile (s.myTile k) fmt z = true
    let masks : Prop := ∀ m ∈ mk, fits m.toNat 1 shape
    let two := h :: i :: j :: ms
    let one := h :: i :: ms
    let use2 := usesOf mk.isSome h (i :: j :: ms)
    let use1 := usesOf mk.isSome h (i :: ms)
    (∀ e ∈ ([
      (.vadd x t br mk td ta tb, vsatFmt t), (.vsub x t br mk td ta tb, vsatFmt t), (.vmul x t br mk td ta tb, vsatFmt t),
      (.vmin x y br mk td ta tb, vtyFmt y), (.vmax x y br mk td ta tb, vtyFmt y), (.vand x y br mk td ta tb, vtyFmt y),
      (.vor x y br mk td ta tb, vtyFmt y), (.vxor x y br mk td ta tb, vtyFmt y)] : List (Instr × Nat)),
      MayIssue s .vector x two use2 → fits h e.2 shape → fits i e.2 shape → fits j e.2 (brShape br d.rows d.cols) → masks →
      Enters e.1 .vector x [] two use2 s) ∧
    (MayIssue s .vector x two (usesOf true h (i :: j :: ms)) → fits h (vfmaFmt f) shape → fits i (vfmaFmt f) shape →
      fits j (vfmaFmt f) (brShape br d.rows d.cols) → masks →
      Enters (.vfma x f br mk td ta tb) .vector x [] two (usesOf true h (i :: j :: ms)) s) ∧
    (MayIssue s .vector x two use2 → fits h 1 shape → fits i (vcmpFmt c) shape →
      fits j (vcmpFmt c) (brShape br d.rows d.cols) → masks → Enters (.vcmp x c br mk td ta tb) .vector x [] two use2 s) ∧
    (let hs := [h, i, j, tm.toNat]
     let us := usesOf false h [i, j, tm.toNat]
     MayIssue s .vector x hs us → fits h (vtyFmt y) shape → fits i (vtyFmt y) shape →
      fits j (vtyFmt y) (brShape br d.rows d.cols) → fits tm.toNat 1 shape →
      Enters (.vsel x y br tm td ta tb) .vector x [] hs us s) ∧
    (∀ e ∈ ([
      (.vabs x t mk td ta, vsatFmt t, []), (.vneg x t mk td ta, vsatFmt t, []), (.vmov x y mk td ta, vtyFmt y, []),
      (.vscale x t mk a td ta, vsatFmt t, [s.me.g a]), (.vaddsc x t mk a td ta, vsatFmt t, [s.me.g a]),
      (.vshl x n fl mk a td ta, ityFmt n, [s.me.g a]), (.vshr x n fl mk a td ta, ityFmt n, [s.me.g a]),
      (.vmuli x n fl sh mk a td ta, ityFmt n, [s.me.g a]), (.vclamp x y mk b a td ta, vtyFmt y, [s.me.g a, s.me.g b])] :
        List (Instr × Nat × List Word)),
      MayIssue s .vector x one use1 → fits h e.2.1 shape → fits i e.2.1 shape → masks →
      Enters e.1 .vector x e.2.2 one use1 s) ∧
    (let u := s.myTile i
     h ≠ i → MayIssue s .vector x one use1 → fits h (vredFmt o) (if fl then (1, u.cols) else (u.rows, 1)) →
      fits i (vredFmt o) (u.rows, u.cols) → masks → Enters (.vred x o fl mk td ta) .vector x [] one use1 s) ∧
    (MayIssue s .vector x one use1 → h ≠ i ∨ elemBytes (vtyFmt y) = elemBytes (vtyFmt ty) → fits h (vtyFmt y) shape →
      fits i (vtyFmt ty) shape → masks → Enters (.vcvt x y ty sel mk td ta) .vector x [] one use1 s) ∧
    (h ≠ i → MayIssue s .vector x one use1 → fits h (vtyFmt y) shape → fits i (vtyFmt y) (brShape (bcastBr bb) d.rows d.cols) →
      masks → Enters (.vbcast x y bb mk td ta) .vector x [] one use1 s)

/-- R263, R265 and R266: element values of the integer vector forms: exact, then saturated under SAT and wrapped
otherwise; shifts take their amount modulo the width; a shift right of a product rounds half up. -/
def Claim.IntegerElements : Prop :=
  ∀ (m : VMode) (t : Ity) (sat : Bool) (a b : BitVec (ityBits t)) (s : Word) (sh : BitVec 6) (c : Cc),
    let n := ityBits t
    let ty : Vty := match t with | .i32 => .i32 | .i8 => .i8
    let top : Int := 2 ^ (n - 1)
    let fit (v : Int) : Nat :=
      (BitVec.ofInt n (if sat then (if v < -top then -top else if top ≤ v then top - 1 else v) else v)).toNat
    let k := s.toNat % n
    let p := a.toInt * (s.truncate 32 : W32).toInt
    vaddElem m (.i t sat) a.toNat b.toNat = fit (a.toInt + b.toInt) ∧
    vsubElem m (.i t sat) a.toNat b.toNat = fit (a.toInt - b.toInt) ∧
    vmulElem m (.i t sat) a.toNat b.toNat = fit (a.toInt * b.toInt) ∧
    vabsElem (.i t sat) a.toNat = fit a.toInt.natAbs ∧
    vnegElem (.i t sat) a.toNat = fit (-a.toInt) ∧
    vscaleElem m (.i t sat) s a.toNat = fit p ∧
    vaddscElem m (.i t sat) s a.toNat = fit (a.toInt + (s.truncate n : BitVec n).toInt) ∧
    vshlElem t sat s a.toNat = fit (a.toInt * 2 ^ k) ∧
    vshrElem t true s a.toNat = (a.sshiftRight k).toNat ∧
    vshrElem t false s a.toNat = (a >>> k).toNat ∧
    vmuliElem t sat sh.toNat s a.toNat = fit (if sh = 0 then p else (p + 2 ^ (sh.toNat - 1)) >>> sh.toNat) ∧
    vminElem false m ty a.toNat b.toNat = (pick (a.sle b) a b).toNat ∧
    vminElem true m ty a.toNat b.toNat = (pick (b.sle a) a b).toNat ∧
    vcmpElem m (.i t c) a.toNat b.toNat = (if ccSpec c n a b then 1 else 0)

/-- R51, R202, R263, R265, R266 and R268: element values of the floating-point vector forms, of `vclamp` and of `vcvt`: the
operations of R52 to R56 on the patterns, with the rounding and FTZ that the command captured. -/
def Claim.FloatElements : Prop :=
  ∀ (m : VMode) (y : Fty) (a b d : Nat) (s lo hi : Word) (c : Fcc) (t : Ity) (v : Vty) (sat : Bool),
    let p := ftyFmt y
    let rd (x : Nat) : Fp := readFp p m.ftz x
    let w := ityBits t
    let int (x : Nat) : Int := (BitVec.ofNat w x).toInt
    let sum32 : Int := (BitVec.ofNat 32 a).toInt * (BitVec.ofNat 32 b).toInt + (BitVec.ofNat 32 d).toInt
    vaddElem m (.f y) a b = (fpAdd p m.rm m.ftz (rd a) (rd b)).bits ∧
    vsubElem m (.f y) a b = (fpAdd p m.rm m.ftz (rd a) (negFp (rd b))).bits ∧
    vmulElem m (.f y) a b = (fpMul p m.rm m.ftz (rd a) (rd b)).bits ∧
    vfmaElem m (.f y) a b d = (fpFma p m.rm m.ftz (rd a) (rd b) (rd d)).bits ∧
    vfmaElem m (.i32 sat) a b d =
      (BitVec.ofInt 32 (if sat then max (-2 ^ 31) (min (2 ^ 31 - 1) sum32) else sum32)).toNat ∧
    vminElem false m (match y with | .f32 => .f32 | .bf16 => .bf16) a b = (fpMinMax false p m.ftz a b).bits ∧
    vminElem true m (match y with | .f32 => .f32 | .bf16 => .bf16) a b = (fpMinMax true p m.ftz a b).bits ∧
    vabsElem (.f y) a = a % 2 ^ (p.p + 7) ∧
    vnegElem (.f y) a = a ^^^ 2 ^ (p.p + 7) ∧
    vcmpElem m (.f y c) a b = (if fccHolds c (rd a) (rd b) then 1 else 0) ∧
    vscaleElem m (.f y) s a = (fpMul p m.rm m.ftz (rd a) (rd (s.toNat % 2 ^ (p.p + 8)))).bits ∧
    vaddscElem m (.f y) s a = (fpAdd p m.rm m.ftz (rd a) (rd (s.toNat % 2 ^ (p.p + 8)))).bits ∧
    vclampElem m v lo hi a =
      (let n := fmtBits (vtyFmt v)
       vminElem false m v (vminElem true m v a (lo.toNat % 2 ^ n)) (hi.toNat % 2 ^ n)) ∧
    convTo (vtyFmt (match y with | .f32 => .f32 | .bf16 => .bf16)) m.rm m.ftz (elemVal (ityFmt t) m.ftz a) =
      (intToFp p m.rm m.ftz (int a)).bits ∧
    convTo (ityFmt t) m.rm m.ftz (elemVal (vtyFmt (match y with | .f32 => .f32 | .bf16 => .bf16)) m.ftz a) =
      (BitVec.ofInt w (fpToInt w m.rm (rd a)).1).toNat ∧
    convTo 3 m.rm m.ftz (elemVal 2 m.ftz a) = (fpToFp fp32 m.rm m.ftz (readFp bf16 m.ftz a)).bits ∧
    convTo 2 m.rm m.ftz (elemVal 3 m.ftz a) = (fpToFp bf16 m.rm m.ftz (readFp fp32 m.ftz a)).bits ∧
    convTo 1 m.rm m.ftz (elemVal 4 m.ftz a) =
      (BitVec.ofInt 8 (max (-128) (min 127 (BitVec.ofNat 32 a).toInt))).toNat ∧
    convTo 4 m.rm m.ftz (elemVal 1 m.ftz a) = (BitVec.ofInt 32 (BitVec.ofNat 8 a).toInt).toNat

/-- R267: the value of a reduction: lanes of every 64th element, combined in order, and then a tree of six levels; FP sums in FP32, and
rounded once more for BF16; integer sums exact, and then saturated or wrapped once. -/
def Claim.Reductions : Prop :=
  ∀ (m : VMode) (y : Fty) (t : Ity) (sat top : Bool) (xs : List Nat), xs ≠ [] →
    let w := ityBits t
    let total : Int := (xs.map fun x => (BitVec.ofNat w x).toInt).sum
    let clip (v : Int) : Int := if sat then max (-2 ^ (w - 1)) (min (2 ^ (w - 1) - 1) v) else v
    let wide (p : FpFmt) (x : Nat) : Nat := (fpToFp fp32 0 m.ftz (readFp p m.ftz x)).bits
    let same (p : FpFmt) (x : Nat) : Nat := (fpToFp p 0 m.ftz (readFp p m.ftz x)).bits
    let plus (a b : Nat) : Nat := (fpAdd fp32 m.rm m.ftz (readFp fp32 m.ftz a) (readFp fp32 m.ftz b)).bits
    let ty : Vty := match y with | .f32 => .f32 | .bf16 => .bf16
    let ity : Vty := match t with | .i32 => .i32 | .i8 => .i8
    let sum := (treeOf plus (xs.map (wide (ftyFmt y))) 6 0).getD 0
    reduceElem m (.sum (.i t sat)) xs = (BitVec.ofInt w (clip total)).toNat ∧
    reduceElem m (.sum (.f y)) xs =
      (match y with | .f32 => sum | .bf16 => (fpToFp bf16 m.rm m.ftz (readFp fp32 m.ftz sum)).bits) ∧
    reduceElem m (if top then .max ty else .min ty) xs =
      (treeOf (fun a b => (fpMinMax top (ftyFmt y) m.ftz a b).bits) (xs.map (same (ftyFmt y))) 6 0).getD 0 ∧
    reduceElem m (if top then .max ity else .min ity) xs =
      (treeOf (fun a b => if (if top then (BitVec.ofNat w b).toInt ≤ (BitVec.ofNat w a).toInt
        else (BitVec.ofNat w a).toInt ≤ (BitVec.ofNat w b).toInt) then a % 2 ^ w else b % 2 ^ w) xs 6 0).getD 0

/-- R264 to R268: the unit of a vector command's work that belongs to element (i, j) of TD reads its sources' elements, gives
TD's element the form's value of them and writes nothing else; where the mask's element is 0 it writes nothing. -/
def Claim.VectorElements : Prop :=
  ∀ (s : State) (x : Job) (i j : Nat) (e : Ext) (br : Br) (bb : BcastBr) (mk : Option TileIx) (a b : Reg) (td ta tb tm : TileIx)
    (t : VSat) (y u : Vty) (f : VFmaTy) (c : VCmp) (n : Ity) (o : VRedOp) (sel : RndSel) (fl : Bool) (sh : BitVec 6),
    s.quiet → i < (x.tile 0).rows → j < (x.tile 0).cols →
    let m : VMode := ⟨rmOf x.r.cmd.fmode, ftzOf x.r.cmd.fmode⟩
    let el (k p q : Nat) : Nat := s.elemAt x.cell (x.tile k) p q
    let at_ : Nat × Nat := match br with | .full => (i, j) | .row => (0, j) | .col => (i, 0) | .sc => (0, 0)
    let A := el 1 i j
    let B := el 2 at_.1 at_.2
    let v (k : Nat) : Word := x.r.cmd.vals.getD k 0
    let mode : Nat := match sel with | .rm => m.rm | .ne => 0 | .tz => 1 | .up => 2 | .dn => 3
    let src := x.tile 1
    (∀ q ∈ ([
      (.vadd e t br mk td ta tb, vaddElem m t A B), (.vsub e t br mk td ta tb, vsubElem m t A B),
      (.vmul e t br mk td ta tb, vmulElem m t A B), (.vfma e f br mk td ta tb, vfmaElem m f A B (el 0 i j)),
      (.vmin e y br mk td ta tb, vminElem false m y A B), (.vmax e y br mk td ta tb, vminElem true m y A B),
      (.vabs e t mk td ta, vabsElem t A), (.vneg e t mk td ta, vnegElem t A), (.vcmp e c br mk td ta tb, vcmpElem m c A B),
      (.vscale e t mk a td ta, vscaleElem m t (v 0) A), (.vaddsc e t mk a td ta, vaddscElem m t (v 0) A),
      (.vmov e y mk td ta, A), (.vand e y br mk td ta tb, A &&& B), (.vor e y br mk td ta tb, A ||| B),
      (.vxor e y br mk td ta tb, A ^^^ B), (.vshl e n fl mk a td ta, vshlElem n fl (v 0) A),
      (.vshr e n fl mk a td ta, vshrElem n fl (v 0) A), (.vmuli e n fl sh mk a td ta, vmuliElem n fl sh.toNat (v 0) A),
      (.vclamp e y mk b a td ta, vclampElem m y (v 0) (v 1) A),
      (.vcvt e u y sel mk td ta, convTo (vtyFmt u) mode m.ftz (elemVal (vtyFmt y) m.ftz A)),
      (.vbcast e y bb mk td ta, match bb with | .row => el 1 0 j | .col => el 1 i 0 | .sc => el 1 0 0),
      (.vred e o fl mk td ta, reduceElem m o
        (if fl then (List.range src.rows).map fun p => el 1 p j else (List.range src.cols).map fun p => el 1 i p))] :
        List (Instr × Nat)),
      x.r.cmd.op = q.1 → x.givesUnder s mk i j q.2) ∧
    (x.r.cmd.op = .vsel e y br tm td ta tb → x.gives s i j (if el 3 i j = 0 then B else A))

/-- R263 to R268: element results of the vector forms. -/
def Obligations.IntegerElements : Prop :=
  Claim.IntegerElements ∧ Claim.FloatElements ∧ Claim.Reductions ∧ Claim.VectorElements

/-- R130 to R132, R138, R139, R242 and R328: the steps of engines: a command starts once its gate holds and takes the
gate's count, a gate that does not hold is counted, a fill whose last strip has had its time writes that strip and ends its
operation, a sub-list is read or written at its owner, and a halo's border lands in its neighbour's tile. The order of steps
within a cclk, the latencies that the spec leaves open and the unit that `cur` names are the model's (log 3, log 5). When an
engine's elements are done within their time is the model's (log 7). -/
def Obligations.EngineSteps : Prop :=
  (∀ (s : State) (c : Cmd),
    let cell := s.cur / 5
    let e := engOf (s.cur % 5)
    let y := (s.cell cell).engine e
    let n := BitVec.ofNat 5 c.gate.2
    y.cur = none → y.queue.head? = some c →
    ((s.cell cell).gateHolds c.gate = true → exec .gateStallCycle s = .next s ∧
      ∃ t r, exec .engineCommandStart s = .next t ∧ (t.cell cell).engine e = ⟨y.queue.tail, some r⟩ ∧ r.cmd = c ∧ r.at_ = 0 ∧
        t.mem = s.mem ∧ t.slots = s.slots ∧
        (c.gate.1 ≠ 0 → (t.cell cell).semOf n = (s.cell cell).semOf n - BitVec.ofNat 16 c.gate.1)) ∧
    ((s.cell cell).gateHolds c.gate = false → exec .engineCommandStart s = .next s ∧
      ∃ t, exec .gateStallCycle s = .next t ∧ (t.cell cell).stgate[engIx e] = (s.cell cell).stgate[engIx e] + 1 ∧
        (t.cell cell).engine e = y ∧ t.mem = s.mem ∧ t.slots = s.slots)) ∧
  (∀ (s : State) (cell : Nat) (r : Running) (x : Ext) (a : Reg) (td : TileIx) (y : Tile) (v : Word),
    let h := td.toNat
    let n := elemBytes y.fmt
    let base := tileAddr cell y.at_
    s.cur = cell * 5 → s.sound → s.fix.want = 0 → s.fix.copies = [] → ((s.cell cell).engine .copy).cur = some r →
    r.cmd.op = .fill x a td → r.cmd.tiles = [(h, y)] → byElement y = true → r.cmd.vals = [v] → r.cmd.dsts = [h] →
    r.cmd.srcs = [] → r.cmd.txn = none → r.cmd.done = .none → r.wait = none → r.missing = [] → r.fault = none → r.acks = 0 →
    r.paid ≠ 0 → r.at_ + r.paid = y.rows * y.cols → r.cmd.secure = true ∨ s.part.secureCells = [] →
    ∃ t, exec .engineOperationFinish s = .next t ∧
      (∀ i j, r.at_ ≤ i → i < y.rows * y.cols → j < n →
        t.byte (base + i * n + j) = BitVec.ofNat 8 (v.toNat / 2 ^ (8 * j))) ∧
      (∀ q, q < base + r.at_ * n ∨ base + y.rows * y.cols * n ≤ q → t.byte q = s.byte q) ∧ t.slots = s.slots ∧
      (t.cell cell).tile h = { (s.cell cell).tile h with state := .ready } ∧ ((t.cell cell).engine .copy).cur = none) ∧
  (∀ (s : State) (q : Sublist) (r : Running) (i a : Nat) (bs : List Byte),
    (∀ e ∈ q.rows, ∀ b ∈ e.2, placeOf b ≠ .hole) → s.sound → s.soft = [] → s.poison = [] → s.fix.want = 0 → s.fix.copies = [] →
    (q.scatter = false → q.data = [] → ∃ t, exec (.gatherSublist q) s = .next t ∧ t.mem = s.mem ∧
      t.flies (.gatherSublist { q with data := q.rows.map fun e => e.2.map s.byte }) 0) ∧
    (q.scatter = true → q.rows = [(i, addrsFrom a bs.length)] → q.data = [bs] →
      ∃ t, exec (.gatherSublist q) s = .next t ∧ t.flies (.gatherSublist { q with data := [] }) 0 ∧
        (∀ j, j < bs.length → t.byte (a + j) = bs.getD j 0) ∧ ∀ b, b < a ∨ a + bs.length ≤ b → t.byte b = s.byte b) ∧
    (((s.cell q.requester).engine .copy).cur = some r → q.scatter = true → q.data = [] →
      ∃ t z, exec (.gatherSublist q) s = .next t ∧ ((t.cell q.requester).engine .copy).cur = some z ∧
        z.missing = r.missing.filter (· ≠ q.owner) ∧ z.got = r.got ∧ t.mem = s.mem) ∧
    (((s.cell q.requester).engine .copy).cur = some r → q.scatter = false → q.rows = [(i, addrsFrom a bs.length)] → q.data = [bs] →
      ∃ t z, exec (.gatherSublist q) s = .next t ∧ ((t.cell q.requester).engine .copy).cur = some z ∧
        z.missing = r.missing.filter (· ≠ q.owner) ∧ z.got = r.got ++ [(i, bs)] ∧ t.mem = s.mem)) ∧
  ∀ (s : State) (q : HaloMsg) (r : Running) (o : Nat) (bs : List Byte),
    let y := (s.cell q.toCell).tile q.tile.toNat
    let k := q.toCell * 48 + q.slot % 48
    let base := tileAddr q.toCell y.at_ + o
    s.sound → s.fix.want = 0 → s.fix.copies = [] →
    (q.rows = [(o, bs)] → s.cutFirst q.toCell q.fixCount = false → (s.slot k).runs q.ctx = true →
      y.v = true → shapeOf (y.dword 0) = shapeOf q.dw0 → q.landed = true ∨ q.last = false →
      ∃ t, exec (.haloArrival q) s = .next t ∧ t.flies (.haloArrival { q with rows := [], landed := true }) 0 ∧
        (∀ j, j < bs.length → t.byte (base + j) = bs.getD j 0) ∧
        (∀ b, b < base ∨ base + bs.length ≤ b → t.byte b = s.byte b) ∧
        (∀ i : Fin 4, (t.slot k).mbCount[i] = (s.slot k).mbCount[i] + if q.landed ∧ q.whole ∧ i.val = q.mbox % 4 then 1 else 0) ∧
        (t.slot k).regs = (s.slot k).regs) ∧
    (q.rows ≠ [] → s.cutFirst q.toCell q.fixCount = false →
      ¬((s.slot k).runs q.ctx = true ∧ y.v = true ∧ shapeOf (y.dword 0) = shapeOf q.dw0) →
      ∃ t, exec (.haloArrival q) s = .next t ∧ t.flies (.haloArrival { q with rows := [], landed := false }) 0 ∧
        (q.last = true → Reported s t (dieOf q.toCell)) ∧ (q.last = false → t.mem = s.mem) ∧ t.slots = s.slots) ∧
    (q.rows = [] → ((s.cell q.fromCell).engine .copy).cur = some r →
      ∃ t z, exec (.haloArrival q) s = .next t ∧ ((t.cell q.fromCell).engine .copy).cur = some z ∧
        z = { r with acks := r.acks - 1, got := if q.landed then r.got else r.got ++ [(q.toCell, [])] } ∧ t.mem = s.mem)

/-! ### Fetch, translations and faults -/

/-- R155 and R156: a fetch port chooses the block of the oldest waiting request, the lowest core first among equals, for every
request for the same block in the same context, those of one cell only in the near window, and delivers the block's bytes; the
block enters the buffer of every slot whose request the delivery serves and that waits for it, and nothing else of the slot
changes. The order of steps within a cclk, the latencies that the spec leaves open and the unit that `cur` names are the
model's (log 3, log 5). -/
def Obligations.FetchSteps : Prop :=
  (∀ (s : State) (q : FetchReq) (p : Nat),
    let cl := s.cur
    let all := (s.cluster cl).freqs
    let goes (r : FetchReq) : Prop := r.sel = none ∧ r.ctx = q.ctx ∧ r.block = q.block ∧
      (isNear (64 * q.block) = true → cellOf r.slot = cellOf q.slot)
    let chosen (t : State) : Prop := (t.cluster cl).freqs.length = all.length ∧ ∀ (i : Nat) (r : FetchReq), all[i]? = some r →
      (goes r → (t.cluster cl).freqs[i]? = some { r with sel := some s.cycle }) ∧ (¬ goes r → (t.cluster cl).freqs[i]? = some r)
    q ∈ all → q.sel = none →
    (∀ r ∈ all, r.sel = none → r ≠ q → q.at_ < r.at_ ∨ (q.at_ = r.at_ ∧ coreOf q.slot < coreOf r.slot)) →
    (isNear (64 * q.block) = false →
      ((s.core (coreOf q.slot)).itlb.find? fun l => leafCovers l q.ctx (pageOf (64 * q.block))).isSome = true →
      ∃ t, exec .fetchPortSelect s = .next t ∧ chosen t ∧ t.slots = s.slots) ∧
    (isNear (64 * q.block) = true → nearLocal (cellOf q.slot) (64 * q.block) 64 = some p →
    s.soft = [] → s.poison = [] → s.fix.copies = [] →
    ∃ t, exec .fetchPortSelect s = .next t ∧ chosen t ∧ t.mem = s.mem ∧
      t.slots = s.slots ∧
      t.flies (.fetchBlockDelivery cl q.ctx q.block (some (cellOf q.slot)) ((addrsFrom p 64).map s.byte) []) s.cycle)) ∧
  ∀ (s : State) (cl ctx block k : Nat) (cell : Option Nat) (bs : List Byte) (bad : List Nat) (q : FetchReq),
    q ∈ (s.cluster cl).freqs → q.servedBy ctx block cell s.cur = true → q.slot = k → q.gen = (s.slot k).gen.toNat →
    (s.slot k).wantsBlock ctx block = true →
    ∃ t, exec (.fetchBlockDelivery cl ctx block cell bs bad) s = .next t ∧ t.mem = s.mem ∧ (t.slot k).run = .run ∧
      (t.slot k).fblock = some block ∧ (t.slot k).fdata = lineOfBytes bs ∧ (t.slot k).fpoison = maskOfWords bad ∧
      ∀ j, (t.slot j).regs = (s.slot j).regs ∧ (t.slot j).pc = (s.slot j).pc ∧ (t.slot j).pw = (s.slot j).pw ∧
        ((s.slot j).wantsBlock ctx block = false → t.slot j = s.slot j)

/-- R331 to R335: a walk that ends in a leaf installs it in the second-level TLB and in the asking core's TLB, and the
slot goes on; one that faults opens an entry of the fault buffer and sends it up; a second-level hit installs its
leaf where the second level still holds it; a FIX field that must change is changed in the entry and in its copies,
and copies of an entry that is no longer valid go. The order of steps within a cclk, the latencies that the spec
leaves open and the unit that `cur` names are the model's (log 3, log 5). -/
def Obligations.TranslationSteps : Prop :=
  (∀ (s : State) (cl k gen : Nat) (q w : WalkReq) (x : Waiter) (f : FaultWait) (l : Leaf) (level : Nat) (bad : Bool),
    (s.cluster cl).walks = [w] → (s.cluster cl).walkQueue = [] → sameWalk w q = true → w.agents = [x] → x.who = .slot k gen →
    s.asking k gen f → f.ctx = w.ctx → f.page = w.page →
    let s1 := s.modCluster cl fun c => { c with walks := [] }
    let r := (s1.walk w.ctx w.page).1
    (r = .leaf l → ∃ t, exec (.walkComplete cl q) s = .next t ∧ l ∈ (t.cluster cl).stlb ∧ (t.cluster cl).walks = [] ∧
      (if x.kind = 2 then l ∈ (t.core x.core).itlb else l ∈ (t.core x.core).dtlb) ∧ Resumed s t k) ∧
    (r = .fault level bad → (s.cluster cl).faults = [] →
      let e : PageFault := ⟨w.ctx, w.page, x.kind, level, bad⟩
      ∃ t, exec (.walkComplete cl q) s = .next t ∧ (t.cluster cl).walks = [] ∧ (t.slot k).run = .wait wFault ∧
        (t.cluster cl).faults = [⟨e, [x]⟩] ∧ (t.slot k).regs = (s.slot k).regs ∧
        t.flies (.plumeFaultMessage (cl / 64) (cl / 8 % 8) (cl % 8) false k e) 0)) ∧
  (∀ (s : State) (core k gen : Nat) (l : Leaf) (fetch : Bool) (f : FaultWait), s.asking k gen f → f.ctx = l.ctx →
    leafCovers l l.ctx f.page = true →
    (l ∈ (s.cluster (clusterOf (cellOfCore core))).stlb →
      ∃ t, exec (.secondLevelTlbHit core l fetch (.slot k gen)) s = .next t ∧ t.mem = s.mem ∧ Resumed s t k ∧
        if fetch then l ∈ (t.core core).itlb else l ∈ (t.core core).dtlb) ∧
    (l ∉ (s.cluster (clusterOf (cellOfCore core))).stlb →
      ∃ t, exec (.secondLevelTlbHit core l fetch (.slot k gen)) s = .next t ∧ t.mem = s.mem ∧ Resumed s t k ∧
        t.cores = s.cores)) ∧
  ∀ (s : State) (cl k gen : Nat) (l : Leaf) (f : FaultWait), s.asking k gen f → f.ctx = l.ctx →
    leafCovers l l.ctx f.page = true →
    let s1 := s.l2Fetch 0 (l.entryAt / 64)
    let dw0 := natW (s1.physNat l.entryAt 8)
    let now : Leaf := { l with dw0 := dw0, dw1 := natW (s1.physNat (l.entryAt + 8) 8) }
    let new : Leaf := { now with dw0 := setSlice dw0 13 12 1 }
    s1.homePoison (addrsFrom l.entryAt 16) = none →
    (bitOf dw0 0 = false → ∃ t, exec (.fixFieldUpdate cl l (.slot k gen)) s = .next t ∧ Resumed s t k ∧
      (t.cluster cl).stlb = (s.cluster cl).stlb.filter fun y => !sameEntry y l) ∧
    (bitOf dw0 0 = true → slice dw0 9 8 = slice l.dw0 9 8 → s1.malformedLeaf now = false → s.fix.active = false →
      s.fix.want = 0 → s.fix.no = 0 → s.fix.copies = [] → s.soft = [] → fixNeeded true now = true → placeOf l.entryAt = .hbm →
      l.entryAt % 16 = 0 →
      ∃ t, exec (.fixFieldUpdate cl l (.slot k gen)) s = .next t ∧ Resumed s t k ∧
        (t.cluster cl).stlb = ((s.cluster cl).stlb.map fun y => if sameEntry y l then new else y) ∧
        t.physNat l.entryAt 8 = new.dw0.toNat)

/-- R334 and R337 to R342: the plume tree and its commands: a fault opens an entry at a router and goes up, or is
reported at the root; a reply goes down the ports of its entry, which is removed; at the cluster the fault's slots
retry, or end where it was declined; REPLAYALL retries every blocked slot of every cluster; INVAL takes the leaves of
a range out of every TLB. The order of steps within a cclk, the latencies that the spec leaves open and the unit that
`cur` names are the model's (log 3, log 5). -/
def Obligations.FaultTree : Prop :=
  (∀ (s : State) (die r child who : Nat) (f : PageFault), (s.router die r).pending = [] →
    ∃ t, exec (.plumeFaultMessage die r child false who f) s = .next t ∧
      (t.router die r).pending = [⟨f.ctx, f.page, [child]⟩] ∧ t.slots = s.slots ∧
      (if r = plumeRoot then Reported s t die
        else t.flies (.plumeFaultMessage die (above r) r false who f) 0 ∧ t.mem = s.mem)) ∧
  (∀ (s : State) (die r c ctx page : Nat) (declined : Bool), (s.router die r).pending = [⟨ctx, page, [c]⟩] →
    (s.router die r).held = [] →
    ∃ t, exec (.plumeReply die r ctx page declined) s = .next t ∧ (t.router die r).pending = [] ∧ t.mem = s.mem ∧
      t.slots = s.slots ∧
      if r < 8 then t.flies (.faultReplyArrival (die * 64 + r * 8 + c) ctx page declined) 0
        else t.flies (.plumeReply die c ctx page declined) 0) ∧
  (∀ (s : State) (cl k gen ctx page : Nat) (e : FaultEntry) (x : Waiter) (f : FaultWait),
    (s.cluster cl).faults = [e] → e.fault.ctx = ctx → e.fault.page = page → e.waiters = [x] → x.who = .slot k gen →
    s.asking k gen f → f.faulted = true → f.ctx = ctx → f.page = page → s.saved = [] → (s.ctx ctx).out = false →
    (∃ t, exec (.faultReplyArrival cl ctx page false) s = .next t ∧ (t.cluster cl).faults = [] ∧ Resumed s t k ∧
      (t.cluster cl).stlb = ((s.cluster cl).stlb.filter fun l => !leafCovers l ctx page) ∧ t.mem = s.mem) ∧
    ((s.slot k).inRole = false → ∃ t, exec (.faultReplyArrival cl ctx page true) s = .next t ∧
      (t.cluster cl).faults = [] ∧ (t.slot k).ending = true ∧ (t.slot k).regs = (s.slot k).regs)) ∧
  (∀ (s : State) (die c ctx page : Nat) (declined : Bool),
    ((s.router die plumeRoot).pending.any (fun p => p.ctx == ctx && p.page == page) = false →
      ∃ t, exec (.reply die ctx page declined) s = .next t ∧ t.flies .fscmdComplete die ∧ t.dies = s.dies ∧ t.mem = s.mem) ∧
    ((s.router die plumeRoot).pending = [⟨ctx, page, [c]⟩] → (s.router die plumeRoot).held = [] →
      ∃ t, exec (.reply die ctx page declined) s = .next t ∧ t.flies .fscmdComplete die ∧ t.mem = s.mem ∧
        t.flies (.plumeReply die c ctx page declined) 0)) ∧
  (∀ (s : State) (die : Nat), ∃ t, exec (.replayall die) s = .next t ∧ (t.die die).fsAcks = 64 ∧ t.mem = s.mem ∧
    t.slots = s.slots ∧ ∀ c, c < 64 → t.flies .replayallArrival (die * 64 + c)) ∧
  (∀ (s : State), ∃ t, exec .replayallArrival s = .next t ∧ (t.cluster s.cur).dropFlag = false ∧ t.mem = s.mem ∧
    (t.die (s.cur / 64)).fsAcks = (s.die (s.cur / 64)).fsAcks - 1 ∧
    ((s.die (s.cur / 64)).fsAcks = 1 → t.flies .fscmdComplete (s.cur / 64)) ∧
    ∀ k gen f, clusterOf (cellOf k) = s.cur → s.asking k gen f → f.faulted = true → Resumed s t k) ∧
  ∀ (s : State) (die ctx page count : Nat),
    let stays (l : Leaf) : Bool := !leafIn ctx page count l
    ∃ t, exec (.inval die ctx page count) s = .next t ∧ t.mem = s.mem ∧ t.slots = s.slots ∧ t.flies .fscmdComplete die ∧
      (∀ c, (t.cluster c).stlb = (s.cluster c).stlb.filter stays) ∧
      ∀ c, (t.core c).dtlb = (s.core c).dtlb.filter stays ∧ (t.core c).itlb = (s.core c).itlb.filter stays

/-! ### Contexts -/

/-- R327, R342 and R344 to R347: SWOUT, SWIN and TEARDOWN begin their operation on a context; a slot that can be saved
is saved and freed, a saved slot is restored from its record, a core gives up a torn-down context's launches, and each
command is acknowledged.  That a restored slot is its record laid over what was kept of it in the state is the model's choice (log 60,
log 18). The order of steps within a cclk, the latencies that the spec leaves open and the unit that
`cur` names are the model's (log 3, log 5). -/
def Obligations.ContextSteps : Prop :=
  (∀ (s : State) (die ctx area : Nat),
    (∃ t, exec (.swout die ctx area) s = .next t ∧ (t.ctx ctx).out = true ∧ t.ctxOps = s.ctxOps ++ [⟨3, ctx, area, die, []⟩] ∧
      t.mem = s.mem ∧ t.slots = s.slots) ∧
    (∃ t, exec (.swin die ctx area) s = .next t ∧ t.mem = s.mem ∧ t.slots = s.slots ∧
      t.ctxOps = s.ctxOps ++ [⟨4, ctx, area, die, (s.saved.filter fun x => x.slot.ctx == ctx).map fun x => x.key⟩]) ∧
    ∃ t, exec (.teardown die ctx) s = .next t ∧ (t.ctx ctx).tearing = true ∧
      (⟨5, ctx, 0, die, List.range 3072⟩ : CtxOp) ∈ t.ctxOps ∧ (∀ c, c < 3072 → t.flies (.teardownArrival c ctx) 0) ∧
      ∀ c, (∀ l ∈ (t.cluster c).stlb, l.ctx ≠ ctx) ∧ (∀ l ∈ (t.core c).dtlb, l.ctx ≠ ctx) ∧
        ∀ l ∈ (t.core c).itlb, l.ctx ≠ ctx) ∧
  (∀ (s : State) (o : CtxOp) (st cause : Nat),
    s.swoutOf s.me.ctx = some o → s.saveState s.cur = some (st, cause) →
    ∃ t, exec .swoutSave s = .next t ∧ t.saved = s.saved ++ [⟨s.cur, o.area, st, cause, s.me.dropStreams⟩] ∧
      t.slot s.cur = s.me.vacated ∧ ∀ k, k ≠ s.cur → t.slot k = s.slot k) ∧
  (∀ (s : State) (x : Saved) (o : CtxOp),
    let bs := (s.physRead s.fix.no 0 (addrsFrom ({ x with area := o.area } : Saved).at_ 1024)).1
    s.ctxOps.find? (fun p => p.kind == 4 && p.left.contains s.cur) = some o → s.saved.find? (fun y => y.isOf s.cur o.ctx) = some x →
    s.me.run = .free → leNat ((bs.drop 0x158).take 8) % 8 = 1 → x.slot.pend = .none →
    ∃ t, exec .swinRestore s = .next t ∧ t.me = { x.slot.ofRecord bs with run := .run, faultWait := none } ∧
      t.saved = (s.saved.filter fun y => !y.isOf s.cur o.ctx) ∧ o ∉ t.ctxOps ∧
        ({ o with left := o.left.filter (· ≠ s.cur) } : CtxOp) ∈ t.ctxOps) ∧
  (∀ (s : State) (core ctx : Nat),
    ∃ t, exec (.teardownArrival core ctx) s = .next t ∧ (t.core core).fifo = ((s.core core).fifo.filter fun m => m.ctx != ctx) ∧
      (t.core core).inbox = ((s.core core).inbox.filter fun m => msgCtx m.msg != ctx) ∧
      ∀ o ∈ t.ctxOps, o.kind = 5 → o.ctx = ctx → core ∉ o.left) ∧
  (∀ (s : State) (o : CtxOp), s.ctxOps.find? (fun p => p.kind == 5 && p.die == s.cur) = some o →
    ∃ t, exec .teardownComplete s = .next t ∧ (t.ctx o.ctx).tearing = false ∧ o ∉ t.ctxOps ∧ t.flies .fscmdComplete s.cur) ∧
  ∀ (s : State), ∃ t, exec .fscmdComplete s = .next t ∧ (t.die s.cur).busy = false ∧ t.slots = s.slots ∧
    ∀ o, s.ctxOps.find? (fun p => p.die == s.cur && (p.kind == 3 || p.kind == 4)) = some o →
      o ∉ t.ctxOps ∧ (o.kind = 4 → (t.ctx o.ctx).out = false)

/-! ### Registers, turns and housekeeping -/

/-- R160, R290, R348, R367 and R372: the steps of a register's write: each sets its register and nothing of memory or
of another slot; the eighth doubleword of a key starts its installation, and its end makes the key the one of its
index. The order of steps within a cclk, the latencies that the spec leaves open and the unit that `cur` names are the
model's (log 3, log 5). -/
def Obligations.RegisterSteps : Prop :=
  ∀ (s : State) (k cell n : Nat) (v : Word),
    (∃ t, exec (.estatClear k) s = .next t ∧ t.slot k = { s.slot k with estat := 0 } ∧ t.mem = s.mem ∧
      ∀ j, j ≠ k → t.slot j = s.slot j) ∧
    (∃ t, exec (.wdogWrite cell v) s = .next t ∧ t.cell cell = { s.cell cell with wdog := v, wdogCount := 0 } ∧
      t.mem = s.mem ∧ t.slots = s.slots) ∧
    (∃ t, exec (.groupEntryWrite n v) s = .next t ∧ t.mem = s.mem ∧ t.slots = s.slots ∧
      (let g := s.part.groups.get Group.reset n
       t.part.groups.get Group.reset n = { g with v := v.getLsbD 63, count := v.truncate 16 }) ∧
      ∀ m, m ≠ n → t.part.groups.get Group.reset m = s.part.groups.get Group.reset m) ∧
    (∃ t, exec (.keyselWrite v) s = .next t ∧ t = { s with part := { s.part with
      keyIndex := v.toNat % 4096, keyWord := v.toNat / 4096 % 8 } }) ∧
    (let w := s.part.keyWord % 8
     ∃ t, exec (.keydataWrite v) s = .next t ∧ t.part.keyData.getD w 0 = v ∧ t.part.keyWord = (w + 1) % 8 ∧ t.mem = s.mem ∧
      t.slots = s.slots ∧ (w = 7 → t.part.keyBusy = true ∧
        ∃ f ∈ t.sched.flight, f.parcel = .step .keyInstallComplete 0 ∧ f.due ≤ s.cycle + 64)) ∧
    ∃ t, exec .keyInstallComplete s = .next t ∧ t.part.keys.get [] s.part.keyIndex = s.part.keyData ∧
      t.part.keyBusy = false ∧ t.mem = s.mem ∧ t.slots = s.slots

/-- R146, R148, R157 and R328: `align` goes on at once where no slot trails, and holds the slot otherwise, for at most
128 cclk; an idle turn counts in the register of its cause and changes nothing else; at a rotation boundary slots
whose work has ended become FREE. The order of steps within a cclk, the latencies that the spec leaves open and the
unit that `cur` names are the model's (log 3, log 5). -/
def Obligations.TurnSteps : Prop :=
  (∀ (s : State) (i : BitVec 14),
    let lo := s.me.pc.toNat - i.toNat
    let holds := i ≠ 0 ∧ slotOf s.cur ≠ 15 ∧ s.anyTrails s.cur lo s.me.pc.toNat = true
    (¬holds → Does (.align i) s 4 id) ∧
    (holds → Leaves (.align i) s wFetch (.hold (s.cycle + 128) lo s.me.pc.toNat)) ∧
    ∀ d a b, s.me.pend = .hold d a b → ∃ t, exec .alignHoldExpire s = .next t ∧ t.me.run = .run ∧ t.me.pend = .none ∧
      t.me.regs = s.me.regs ∧ t.mem = s.mem ∧ PassedBy s t s.me.ilen ∧ ∀ k, k ≠ s.cur → t.slot k = s.slot k) ∧
  (∀ (s : State),
    let c := s.core (coreOf s.cur)
    let counts (n : Core) : Prop := ∃ t, exec .idleTurn s = .next t ∧ t.core (coreOf s.cur) = n ∧ t.slots = s.slots ∧
      t.mem = s.mem ∧ t.cells = s.cells
    (s.me.run = .free → counts { c with stfree := c.stfree + 1 }) ∧
    (s.me.run = .wait wTile → counts { c with sttile := c.sttile + 1 }) ∧
    (s.me.run = .wait wSem → counts { c with stsem := c.stsem + 1 }) ∧
    (s.me.run = .wait wMem → counts { c with stmem := c.stmem + 1 }) ∧
    (s.me.run = .wait wExec → counts { c with stexec := c.stexec + 1 }) ∧
    (s.me.run = .wait wFault → counts { c with stfault := c.stfault + 1 }) ∧
    (s.me.run = .wait wFetch → counts { c with stfetch := c.stfetch + 1 }) ∧
    (s.me.run = .run → s.me.skip ≠ 0 → s.powerHeld s.cur = false →
      ∃ t, exec .idleTurn s = .next t ∧ t.core (coreOf s.cur) = { c with stexec := c.stexec + 1 } ∧
        t.me = { s.me with skip := s.me.skip - 1 } ∧ t.mem = s.mem ∧ ∀ k, k ≠ s.cur → t.slot k = s.slot k)) ∧
  ∀ (s : State), s.ctxOps = [] → s.fix.active = false → (∀ e ∈ s.slots, s.slot e.1 = e.2) →
    (∀ e ∈ s.slots, e.2.fork = none) →
    ∃ t, exec .rotationBoundary s = .next t ∧ t.mem = s.mem ∧ (s.link.holdAsked = true → t.link.held = true) ∧
      ∀ k, ((s.slot k).ending = false → t.slot k = s.slot k) ∧
        ((s.slot k).ending = true → (t.slot k).run = .free ∧ (t.slot k).ending = false ∧ (t.slot k).gen = (s.slot k).gen ∧
          (t.slot k).work = .none ∧ ∀ r : Reg, (t.slot k).g r = 0)

/-- R45, R46, R348 and R349: an expired sink watchdog starts again and is reported; the patrol scrubber goes to the next
doubleword, and corrects and counts an error that it meets.  That the scrubber goes in ascending order (log 29) and that an
error of a tile store counts for its cell's vault (log 86) are the model's choices. The order of steps within a cclk, the
latencies that the spec leaves open and the unit that `cur` names are the model's (log 3, log 5). -/
def Obligations.Housekeeping : Prop :=
  (∀ (s : State), ∃ t, exec .sinkWatchdogExpire s = .next t ∧ (t.cell s.cur).wdogCount = 0 ∧ Reported s t (dieOf s.cur) ∧
    t.slots = s.slots) ∧
  ∀ (s : State),
    let w := scrubWord s.part.scrubAt
    ∃ t, exec .patrolScrub s = .next t ∧ t.part.scrubAt = s.part.scrubAt + 1 ∧ t.slots = s.slots ∧
      (s.soft.contains w = false → t.mem = s.mem ∧ t.soft = s.soft ∧ t.blms = s.blms) ∧
      (s.soft.contains w = true → t.soft.contains w = false ∧
        (t.blm (bankOf (8 * w)).1).corrected = (s.blm (bankOf (8 * w)).1).corrected + 1)

/-! ### The host port, the links, fixes and start-up -/

/-- R359: a part whose last complete fix is F gives up all work, takes back what every unit held at the cuts of F, loads the image of F
onto the same places, has every cell replay its log, submits the captured submissions again, and resumes the captured slots; units
that have no copy for F or a later fix stay.  The order in which logs are performed is the model's (log 67). -/
def Claim.RollbackRestores : Prop :=
  ∀ (s : State) (p : Datagram) (q : PartImage), s.mayTake p → p.op = 5 →
    let a := p.arg.toNat
    s.fix.images.find? (fun i => i.no = a) = some q → s.part.fixlast.toNat = a → q.whole → s.fix.apart → s.sound →
    (∀ e ∈ s.l2, s.l2.find e.1 = some e.2) →
    let last (c : Nat × Nat × Nat) : Prop := c ∈ s.fix.copies ∧ a ≤ c.2.1 ∧
      ∀ d ∈ s.fix.copies, d.1 = c.1 → a ≤ d.2.1 → c.2.1 ≤ d.2.1
    ∃ t, exec (.sextantRollback p) s = .next t ∧ Took s t p ∧ t.fix.no = a ∧ t.fix.bound = q.bound ∧ t.fix.active = false ∧
      t.part.groups = q.groups ∧ t.seq.batch = q.bound / 256 / s.link.pod.n ∧ t.link.held = false ∧ t.l2 = [] ∧ t.owners = [] ∧
      (∀ c, last c → ∀ o, o < 65536 → t.byte (c.1 * 65536 + o) = s.homeByte (c.2.2 + o)) ∧
      (∀ b, (∀ c ∈ s.fix.copies, c.1 = unitOf b → c.2.1 < a) → t.byte b = s.byte b) ∧
      (∃ new, t.seq.txns = (s.seq.txns.filter fun y => y.stage != .accepted && decide (y.num < q.bound)) ++ new ∧
        (new.map fun y => y.sub) = q.subs ∧ ∀ y ∈ new, y.stage = .accepted) ∧
      (∀ i ∈ q.cells, (t.cell i.cell).tiles = i.tiles ∧ (t.cell i.cell).sem = i.sem ∧ (t.cell i.cell).dc = i.dc ∧
        (t.cell i.cell).interp = i.interp ∧ (t.cell i.cell).replay = i.log ∧
        ((s.cells.find i.cell).isSome = true → (t.cell i.cell).fixNo = a ∧ (t.cell i.cell).l1 = []) ∧
        (∀ e ∈ i.cores, (t.core e.1).fifo = e.2.fifo ∧ (t.core e.1).q = e.2.q ∧ (t.core e.1).inbox = e.2.inbox ∧
          (t.core e.1).amIn = e.2.amIn) ∧
        ∀ e ∈ i.slots, slotOf e.1 < 15 → e.2.2.fork = none →
          let x := e.2.2.ofRecord ((addrsFrom
            ({ key := e.1, area := t.imageArea a, st := 0, cause := 0, slot := Slot.reset } : Saved).at_ 1024).map t.byte)
          (e.2.1 ≤ 2 → x.pend = .none → t.slot e.1 = { x with run := .run, faultWait := none }) ∧
          ∀ d r, e.2.1 = 3 → x.pend = .word d → i.log = [.reply e.1 r] →
            t.slot e.1 = x ∧ (.memoryReplyArrival e.1 r, 0) ∈ t.sched.now) ∧
      ∀ k, isFsc (coreOf k) = false → (∀ i ∈ q.cells, ∀ e ∈ i.slots, e.1 ≠ k) →
        (t.slot k).run = .free ∧ (t.slot k).work = .none

/-- R160, R312, R313, R350, R359, R361 to R363, R368 to R370: what each datagram of the host does at a part in full compute:
READ answers the bytes, WRITE stores them, START launches a job or names the doubleword that fails, FIX starts a fix, ROLLBACK
restores one or is rejected, POD sets the pod and counts batches anew, management and attestation act; outside full compute
only an EVENT goes back.  The model's choices are: the formats of the replies and what the codes 0x10 and 0x11 of management
do (log 26), that what was numbered under an old pod is gone (log 100), and that an access of an address that holds no memory
stops the machine (log 97). The order of steps within a cclk, the latencies that the spec leaves open and the unit that `cur`
names are the model's (log 3, log 5). -/
def Obligations.HostPort : Prop :=
  Claim.RollbackRestores ∧ ∀ (s : State) (p : Datagram), s.mayTake p →
    let seq := (s.link.seqOut + 1) % 2 ^ 32
    let a := p.arg.toNat
    let n := p.payload.length
    let w := s.recordWord a
    (p.op = 1 → s.l2 = [] → s.unitKey = [] → s.soft = [] → s.fix.copies = [] → holdsMemory a p.len = true →
      ∃ t, exec (.sextantRead p) s = .next t ∧ Took s t p ∧ t.mem = s.mem ∧ ∀ i, i * 8192 < p.len →
        t.tells s p 1 ((s.link.seqOut + 1 + i) % 2 ^ 32) (natW (a + i * 8192))
          ((((addrsFrom a p.len).map s.byte).drop (i * 8192)).take 8192)) ∧
    (p.op = 1 → holdsMemory a p.len = false → exec (.sextantRead p) s = .fault (.noMemory a)) ∧
    (p.op = 2 → s.sound → s.l2 = [] → s.unitKey = [] → s.fix.want = 0 → s.fix.copies = [] → holdsMemory a n = true →
      ∃ t, exec (.sextantWrite p) s = .next t ∧ Took s t p ∧ (∀ i, i < n → t.byte (a + i) = p.payload.getD i 0) ∧
        ∀ b, b < a ∨ a + n ≤ b → t.byte b = s.byte b) ∧
    (p.op = 2 → holdsMemory a n = false → exec (.sextantWrite p) s = .fault (.noMemory a)) ∧
    (p.op = 3 → (a % 64 = 0 → holdsMemory a 64 = true) →
      (∀ i, s.badStart a = some i → ∃ t, exec (.sextantStart p) s = .next t ∧ Took s t p ∧ t.mem = s.mem ∧ t.slots = s.slots ∧
        t.part = s.part ∧ t.tells s p 3 seq p.arg (1 :: leBytes 4 i)) ∧
      (s.badStart a = none → w 4 = 0 → ∃ t, exec (.sextantStart p) s = .next t ∧ Took s t p ∧ t.mem = s.mem ∧
        t.slots = s.slots ∧ t.tells s p 3 seq p.arg (0 :: leBytes 4 0) ∧
        (if w 3 = 0 then t.part = s.part
          else ∀ g, g < 256 → t.part.groups.get Group.reset g =
            (s.part.groups.get Group.reset g).write (s.recordWord (w 3).toNat g)) ∧
        let root := slice (w 2) 29 18
        ∃ f ∈ t.sched.flight, f.parcel = .core root ⟨(s.cell (cellOfCore root)).fixNo,
          .jobLaunch root (slice (w 2) 41 30) ⟨w 0, w 1, 0, 0, 0, 0, 0, slice (w 2) 63 48, 0⟩⟩)) ∧
    (p.op = 4 → s.fix.active = false →
      ∃ t, exec (.sextantFix p) s = .next t ∧ Took s t p ∧ t.mem = s.mem ∧ t.slots = s.slots ∧
        if s.link.pod.k = 0 then t.fix.want = s.fix.want + 1 ∧ t.fix.active = true ∧ t.fix.phase = 0 ∧
          t.flies (.fixStartReceive (s.fix.want + 1)) 0
        else t.fix = s.fix ∧ t.link.azSent = s.link.azSent ++
          [⟨0, s.portOf 0, s.part.incarn.toNat, .fixStart (s.fix.want + 1)⟩]) ∧
    (p.op = 5 → (∀ q ∈ s.fix.images, q.no ≠ a) → ∃ t, exec (.sextantRollback p) s = .next t ∧ Took s t p ∧ t.mem = s.mem ∧
      t.slots = s.slots ∧ t.fix = s.fix ∧ t.tells s p 5 seq p.arg [1]) ∧
    (∀ r : PodRec, p.op = 6 → ∃ t, exec (.sextantPod p r) s = .next t ∧ Took s t p ∧ t.link.pod = r ∧
      t.link.owner = some p.host ∧ t.mem = s.mem ∧ t.seq.batch = 0 ∧ t.seq.opened = s.cycle ∧
      (t.seq.txns = s.seq.txns.filter fun y => y.stage = .accepted) ∧ (∀ b, (t.blm b).entries = []) ∧
      (∀ d, (t.die d).nextGlobal = 0 ∧ (t.die d).gate = []) ∧ (∀ e ∈ r.routes, t.link.azLast.get 0 e.2 = s.cycle) ∧
      ((∀ y ∈ s.seq.txns, y.stage ≠ .accepted → ∀ r ∈ y.roles, r.ended = true) → t.slots = s.slots) ∧
      t.part = { s.part with incarn := natW (r.incarn % 2 ^ 16) } ∧
      (∀ q ∈ t.link.dead, q ∈ s.link.dead ∧ podIncarn r q = podIncarn s.link.pod q) ∧
      ∀ c i, r.cells = [(c, i)] → (t.cell c).incarnation = i % 16 ∧
        ((s.cell c).incarnation ≠ i % 16 → (t.cell c).dead = false)) ∧
    (p.op = 17 → ∃ t, exec (.managementOp p) s = .next t ∧ Took s t p ∧ t.part = { s.part with halted := false } ∧
      t.mem = s.mem) ∧
    (p.op = 16 → ∃ t, exec (.managementOp p) s = .next t ∧ Took s t p ∧ t.mem = s.mem ∧ t.slots = s.slots ∧
      t.part = if imageGood p.payload then
          { s.part with bootFail := s.part.testFail, images := s.part.images ++
            [(Config.sha384 (Config.imageBody p.payload), Config.imageVersion p.payload)] }
        else { s.part with bootFail := true }) ∧
    (17 < p.op → p.op < 32 → ∃ t, exec (.managementOp p) s = .next t ∧ Took s t p ∧ t.part = s.part ∧ t.mem = s.mem) ∧
    (15 < p.op → p.op < 32 → ∃ t, exec (.attestationRequest p) s = .next t ∧ Took s t p ∧
      t.part = { s.part with reports := s.part.reports + 1 } ∧ t.mem = s.mem ∧
      let nonce := (p.payload ++ List.replicate 32 (0 : Byte)).take 32
      let body := leBytes 8 Config.idLow.toNat ++ leBytes 8 Config.idHigh.toNat ++
        (s.part.images.flatMap fun e => leBytes 48 e.1.toNat ++ leBytes 4 e.2.toNat) ++
        leBytes 4 Config.fusedVersion.toNat ++ nonce
      let sign (lms : Bool) : List Byte :=
        Config.sign lms (Config.deviceKey lms Config.fusedSecret) s.part.reports.toNat body
      t.tells s p p.op seq p.arg (body ++ sign false ++ sign true))

/-- R361 to R363 and R370: an acknowledgement takes what it names out of the window, a datagram is sent again, one of
another version, too long, or from a host that is not the part's owner is dropped, one out of order does nothing, and a
part that is not in full compute answers a command with an EVENT, whose ARG, OP · 256 and the stage, is the model's choice (log 26).
The order of steps within a cclk, the latencies that the spec leaves open and the unit that `cur` names are the
model's (log 3, log 5). -/
def Obligations.HostWindow : Prop :=
  ∀ (s : State) (p d : Datagram) (r : PodRec) (time n : Nat) (pre post : List (Datagram × Nat)),
    let commands : List (Instr × Bool) := [(.sextantRead p, p.op == 1), (.sextantWrite p, p.op == 2),
      (.sextantStart p, p.op == 3), (.sextantFix p, p.op == 4), (.sextantRollback p, p.op == 5), (.sextantPod p r, p.op == 6),
      (.managementOp p, 16 ≤ p.op && p.op ≤ 31), (.attestationRequest p, 16 ≤ p.op && p.op ≤ 31)]
    (s.hears p → p.op = 7 → s.link.window = pre ++ (d, time) :: post → d.seq = p.ack → (∀ e ∈ pre, e.1.seq ≠ p.ack) →
      ∃ t, exec (.sextantAck p) s = .next t ∧ t.link.window.map (fun e => e.1) = post.map (fun e => e.1) ∧ t.mem = s.mem ∧
        t.slots = s.slots) ∧
    (s.link.window = pre ++ (d, time) :: post → d.seq = n → time ≠ 0 → (∀ e ∈ pre, e.1.seq ≠ n) →
      ∃ t, exec (.sextantResend n) s = .next t ∧ t.link.sent = s.link.sent ++ [d] ∧ t.mem = s.mem ∧ t.slots = s.slots) ∧
    ((s.hears p → p.op ≠ 7) → exec (.sextantAck p) s = .next s) ∧
    (∀ e ∈ commands, (s.hears p → e.2 = false) → exec e.1 s = .next s) ∧
    (s.hears p → p.seq ≠ (s.link.seqIn + 1) % 2 ^ 32 → ∀ e ∈ commands, e.2 = true →
      ∃ t, exec e.1 s = .next t ∧ t = { s with link := t.link } ∧ t.link.seqIn = s.link.seqIn) ∧
    (s.hears p → s.part.stage < 4 → p.op < 16 → p.seq = (s.link.seqIn + 1) % 2 ^ 32 → ∀ e ∈ commands, e.2 = true →
      ∃ t, exec e.1 s = .next t ∧ t = { s with link := t.link } ∧ Took s t p ∧
        t.tells s p 8 ((s.link.seqOut + 1) % 2 ^ 32) (natW (p.op * 256 + s.part.stage)) [])

/-- R85 and R360 to R362: a flit is taken once, in order, and under its sender's incarnation; one that fails its check
asks for a resend; idle links carry heartbeats; the fourth missed probe of a cell, or the silence of a part, sends a
death notice; and a notice loses the dead agent's words, abandons the fix in progress and holds all work. The order of
steps within a cclk, the latencies that the spec leaves open and the unit that `cur` names are the model's (log 3, log
5). -/
def Obligations.LinksAndDeaths : Prop :=
  (∀ (s : State) (port n src incarn k mbox ctx place fc : Nat) (v : Word) (r : Reply) (m : AzMsg) (a : AmMsg),
    let flit := exec (.azimuthFlitReceive port n true src incarn m) s
    let next := s.link.azNext.get 0 port
    (n ≠ next → ∃ t, flit = .next t ∧ t = { s with link := t.link } ∧ t.link.azNext = s.link.azNext) ∧
    (n = next → ∃ t, exec (.azimuthFlitReceive port n false src incarn m) s = .next t ∧ t = { s with link := t.link } ∧
      t.link.azNext = s.link.azNext ∧ t.link.azRetry.get false port = true) ∧
    (n = next → incarn % 2 ^ 16 ≠ podIncarn s.link.pod src ∨
        (∃ c, azCell m = some c ∧ incarn / 2 ^ 16 ≠ podCellIncarn s.link.pod src c) →
          ∃ t, flit = .next t ∧ t = { s with link := t.link } ∧
      t.link.azNext.get 0 port = n + 1) ∧
    (n = next → incarn % 2 ^ 16 = podIncarn s.link.pod src →
        (∀ c, azCell m = some c → incarn / 2 ^ 16 = podCellIncarn s.link.pod src c) →
      (m = .heartbeat → ∃ t, flit = .next t ∧ t = { s with link := t.link } ∧ t.link.azNext.get 0 port = n + 1 ∧
        t.link.azLast.get 0 port = s.cycle) ∧
      (∀ c, m = .reply k r fc c → (s.cutFirst (replyCell k) fc = false ∨ s.replyHeld k = false) →
        ∃ t, flit = .next t ∧ (.memoryReplyArrival k r, 0) ∈ t.sched.now ∧ t.mem = s.mem) ∧
      (m = .mail k mbox v ctx place fc → ∃ t, flit = .next t ∧ t.mem = s.mem ∧
        ∃ f ∈ t.sched.flight, f.parcel = .core (coreOf k) ⟨fc, .mail k mbox v ctx place⟩) ∧
      (m = .am k a → ∃ t, flit = .next t ∧ t.mem = s.mem ∧ ∃ f ∈ t.sched.flight, f.parcel = .am k a))) ∧
  (∀ (s : State) (port : Nat), ∃ t, exec (.azimuthHeartbeatFlit port) s = .next t ∧ t = { s with link := t.link } ∧
    t.link.azSent = s.link.azSent ++ [⟨512 + port, port, s.part.incarn.toNat, .heartbeat⟩] ∧ t.link.azAt.get 0 port = s.cycle) ∧
  (∀ (s : State) (i : Nat), i < 256 →
    let c := s.cur * 256 + i
    ∃ t, exec .heartbeatProbe s = .next t ∧ t.mem = s.mem ∧ t.slots = s.slots ∧
      (t.cell c).misses = (if (s.cell c).silent then (s.cell c).misses + 1 else 0) ∧
      ((s.cell c).silent = true → (s.cell c).misses = 3 → (s.cell c).dead = false →
        (.deathNotice s.link.pod.k (some c), 0) ∈ t.sched.now)) ∧
  (∀ (s : State),
    let t0 := s.silentAt s.cur
    (s.link.dead.contains s.cur = true ∨ s.cycle < t0 → exec .heartbeatLimitExpire s = .next s) ∧
    (s.link.dead.contains s.cur = false → t0 ≤ s.cycle → s.cycle < t0 + s.link.pod.heartbeat →
      ∃ t, exec .heartbeatLimitExpire s = .next t ∧ t = { s with link := t.link } ∧
        t.link.azSent = s.link.azSent ++ [⟨s.cur, s.otherPort s.cur, s.part.incarn.toNat, .probe s.link.pod.k⟩]) ∧
    (s.link.dead.contains s.cur = false → t0 + s.link.pod.heartbeat ≤ s.cycle → s.link.heard.get 0 s.cur < t0 →
      ∃ t, exec .heartbeatLimitExpire s = .next t ∧ (.deathNotice s.cur none, 0) ∈ t.sched.now ∧ t.mem = s.mem)) ∧
  ∀ (s : State) (part c : Nat),
    (∃ t, exec (.deathNotice part (some c)) s = .next t ∧ t.fix.active = false ∧ t.mem = s.mem ∧
      t.link.holdAsked = !s.link.held ∧ (part = s.link.pod.k → (t.cell c).dead = true) ∧
      ∀ l i, t.tag l i = if s.tag l i = .cell part c then .lost else s.tag l i) ∧
    ∃ t, exec (.deathNotice part none) s = .next t ∧ t.fix.active = false ∧ t.mem = s.mem ∧ part ∈ t.link.dead ∧
      ∀ l i, t.tag l i = match s.tag l i with
        | .cell q x => if q = part then .lost else .cell q x
        | y => y

/-- R294, R350 and R351: `fix` asks for a fix and leaves the rotation until its cell's cut; the start, the bound and
fix go follow each other at the parts, and fix go reaches every cell. The order of steps within a cclk, the latencies
that the spec leaves open and the unit that `cur` names are the model's (log 3, log 5). -/
def Obligations.FixStarts : Prop :=
  (∀ (s : State) (g : Guard) (d : Reg), s.me.guardHolds g = true → s.me.plain d = true →
    (s.me.inRole = false → s.privOf s.cur = true ∨ bitOf s.part.fixctl 0 = true → (s.cell (cellOf s.cur)).cutBegun = false →
      (s.fix.active = false → s.link.pod.k = 0 → Leaves (.fix g d) s wMem (.fix d (s.fix.want + 1)) ∧
        ∃ t, exec (.fix g d) s = .next t ∧ t.fix.want = s.fix.want + 1 ∧ t.fix.active = true ∧ t.fix.phase = 0 ∧
          t.flies (.fixStartReceive (s.fix.want + 1)) 0) ∧
      (s.fixOpen = true → Leaves (.fix g d) s wMem (.fix d s.fix.want) ∧
        ∃ t, exec (.fix g d) s = .next t ∧ t.fix = s.fix)) ∧
    (s.privOf s.cur = false → bitOf s.part.fixctl 0 = false → s.vectored = true → Traps (.fix g d) s cPrivilege 0)) ∧
  (∀ (s : State) (no : Nat), s.link.pod.k = 0 → s.fix.active = true → s.fix.phase = 0 → no = s.fix.want →
    ∃ t, exec (.fixStartReceive no) s = .next t ∧ t.fix.phase = 1 ∧ t.fix.want = no ∧ t.fix.active = true ∧ t.mem = s.mem ∧
      t.fix.stat.get 0 no = statWord 0 1 ∧ (sqDet s.seq.sqctl = false → t.seq.closeAsked = true)) ∧
  (∀ (s : State) (no : Nat), s.link.pod.k ≠ 0 → s.fix.active = false → s.fix.want < no →
    ∃ t, exec (.fixStartReceive no) s = .next t ∧ t.fix.phase = 1 ∧ t.fix.want = no ∧ t.fix.active = true ∧ t.mem = s.mem) ∧
  (∀ (s : State), s.link.pod.k = 0 → s.fix.active = true → s.fix.phase = 2 → s.fix.reports.length = s.link.pod.n →
    let b := fixBoundOf s.link.pod.n s.fix.reports
    ∃ t, exec .fixBoundSet s = .next t ∧ t.fix.reports = [] ∧ t.mem = s.mem ∧ t.flies (.fixBoundReceive s.fix.want b) 0 ∧
      t.link.azSent = s.link.azSent ++
        s.otherParts.map fun p => ⟨p, s.portOf p, s.part.incarn.toNat, .fixBound s.fix.want b⟩) ∧
  (∀ (s : State) (no bound : Nat), s.fix.active = true → s.fix.phase = 2 → no = s.fix.want →
    exec (.fixBoundReceive no bound) s = .next { s with fix := { s.fix with phase := 3, next := bound } }) ∧
  (∀ (s : State), s.fixGoDue = true →
    ∃ t, exec .fixGo s = .next t ∧ t.fix.no = s.fix.want ∧ t.fix.bound = s.fix.next ∧ t.fix.phase = 6 ∧
      t.fix.started = s.cycle ∧ t.slots = s.slots ∧ (∀ c, c < 1024 → t.flies .fixGoArrival c) ∧
      ∃ i, t.fix.images = s.fix.images ++ [i] ∧ i.no = s.fix.want ∧ i.bound = s.fix.next ∧ i.groups = s.part.groups) ∧
  ∀ (s : State), s.fix.active = true → (s.cell s.cur).fixNo < s.fix.no →
    ∃ t, exec .fixGoArrival s = .next t ∧ t.cell s.cur = { s.cell s.cur with cutBegun := true } ∧ t.mem = s.mem ∧
      t.slots = s.slots

/-- R355 and R357: the copy of a unit for a fix is the pool's next frame, whose entry names the unit and the fix, and the
pool's head moves on; every byte of the frame is the unit's, as its home holds it; the unit's own bytes stay, and no other
byte changes but those of the entry and of the head.  The fix area and the entry lie outside the unit and the frame. -/
def Claim.UnitCopied : Prop :=
  ∀ (s : State) (f u : Nat), s.sound → (∀ e ∈ s.l2, s.l2.find e.1 = some e.2) → s.copiesPast f u = [] →
    let head := s.fixArea + 48
    let n := s.fixDword head
    let entry := localAddr (s.fixDword (s.fixArea + 32)) + n % 2 ^ (s.fixDword (s.fixArea + 40) % 64) * 16
    let frame := localAddr (s.fixDword entry) / 65536 * 65536
    entry % 16 = 0 → unitOf head ≠ u → unitOf entry ≠ u → unitOf frame ≠ u → unitOf frame ≠ unitOf head →
    unitOf frame ≠ unitOf entry → entry + 16 ≤ head ∨ head + 8 ≤ entry →
    let t := s.copyUnit f u
    t.fix.copies = s.fix.copies ++ [(u, f, frame)] ∧ t.slots = s.slots ∧
      (∀ o, o < 65536 → t.homeByte (frame + o) = s.homeByte (u * 65536 + o) ∧
        t.homeByte (u * 65536 + o) = s.homeByte (u * 65536 + o)) ∧
      (∀ a, unitOf a ≠ unitOf frame → (a < head ∨ head + 8 ≤ a) → (a < entry + 8 ∨ entry + 16 ≤ a) →
        t.homeByte a = s.homeByte a) ∧
      t.fixDword head = (n + 1) % 2 ^ 64 ∧
      t.fixDword (entry + 8) = (s.link.pod.k * 2 ^ 51 + u * 65536 % 2 ^ 51 + f % 65536) % 2 ^ 64

/-- R355: the first write to a unit after its writer's last cut copies the unit first, at near memory and at a home slice; the
write then goes to the unit, and the one step that copies a unit does the same. -/
def Claim.CopyBeforeWrite : Prop :=
  ∀ (s : State) (count u key : Nat) (thru : Bool) (bs : List (Nat × Byte)), s.poolEmpty = false →
    (s.needsCopy count u = true → bs ≠ [] → (∀ e ∈ bs, unitOf e.1 = u) →
      let t := s.copyUnit (s.cutOf count) u
      s.nearWrite count bs = t.nearPut (bs ++ t.mirror count bs) ∧
      s.homeWrite count thru key bs = t.homePut thru key (bs ++ t.mirror count bs)) ∧
    (s.needsCopy s.fix.no s.cur = true → exec .unitCopyOnWrite s = .next (s.copyUnit s.fix.no s.cur))

/-- R294, R295 and R352 to R358: a cell takes its cut and its waiting slots have the fix's number; the last marker
closes its log; a unit is copied before its first write after the cut; a complete fix is in FIXLAST and its status;
one that fails declares the cells without a cut dead. The order of steps within a cclk, the latencies that the spec
leaves open and the unit that `cur` names are the model's (log 3, log 5). -/
def Obligations.FixCuts : Prop :=
  (∀ (s : State), s.cutReady s.cur = true → s.poolEmpty = false →
    ∃ t, exec .cutTake s = .next t ∧ t.fix.cuts = s.fix.cuts ++ [s.cur] ∧
      (t.cell s.cur).fixNo = s.fix.no ∧ (t.cell s.cur).cutBegun = false ∧ (t.cell s.cur).logging = true ∧
      (t.cell s.cur).markers = [] ∧
      (s.fix.cuts.length < 1023 → t.fix.phase = 6 ∧ t.fix.stat.get 0 s.fix.want = statWord (s.fix.cuts.length + 1) 1) ∧
      (s.fix.cuts.length = 1023 → t.fix.phase = 7 ∧ t.fix.stat.get 0 s.fix.want = statWord 1024 2) ∧
      ∀ k d n, k / 48 = s.cur → (s.slot k).pend = .fix d n → n ≤ s.fix.no → (s.slot k).plain d = true →
        (t.slot k).regs = ((s.slot k).setG d (natW n)).regs ∧ (t.slot k).run = .run ∧ (t.slot k).pend = .none) ∧
  (∀ (s : State) (cell cls : Nat),
    (cell < 1024 → (s.cell cell).markers.contains cls = false →
      ∃ t, exec (.fixMarkerArrival cell cls) s = .next t ∧ (t.cell cell).markers = (s.cell cell).markers ++ [cls] ∧
        (t.cell cell).logging = (if (s.cell cell).markers.length = 7 then false else (s.cell cell).logging) ∧ t.mem = s.mem ∧
        t.slots = s.slots) ∧
    (1024 ≤ cell → ∃ t, exec (.fixMarkerArrival cell cls) s = .next t ∧ t = { s with fix := t.fix } ∧
      t.fix.marksIn.get 0 cls = s.fix.marksIn.get 0 cls + 1)) ∧
  Claim.UnitCopied ∧ Claim.CopyBeforeWrite ∧
  (∀ (s : State), s.needsCopy s.fix.no s.cur = true → s.fix.no ≤ s.fix.want → s.poolEmpty = false →
    ∃ t frame, exec .unitCopyOnWrite s = .next t ∧ t.fix.copies = s.fix.copies ++ [(s.cur, s.fix.no, frame)] ∧
      t.needsCopy s.fix.no s.cur = false ∧ t.slots = s.slots) ∧
  (∀ (s : State), s.needsCopy s.fix.no s.cur = false → exec .unitCopyOnWrite s = .next s) ∧
  (∀ (s : State), s.partComplete = true → s.fixFails = false → s.fix.queued = false →
    ∃ t, exec .partFixComplete s = .next t ∧ t.part.fixlast = natW s.fix.want ∧ t.fix.active = false ∧ t.slots = s.slots ∧
      t.fix.stat.get 0 s.fix.want = statWord 1024 3) ∧
  ∀ (s : State) (c : Nat), s.fixFails = true → s.fix.phase = 6 → s.manifestOver = false → c < 1024 → s.fix.cuts.contains c = false →
    ∃ t, exec .fixTimeout s = .next t ∧ t.fix.active = false ∧ t.mem = s.mem ∧
      t.fix.stat.get 0 s.fix.want = statWord s.fix.cuts.length 4 ∧ (.deathNotice s.link.pod.k (some c), 0) ∈ t.sched.now

/-- R370 and R371: power-good leaves the reset state but for the model's own counters; a stage that ends well is followed by
the next, one that fails sets FAIL, and FAIL holds the stages after the first; full compute installs key 0 and starts the
fault service cores; a measurement stops the part at 115 degrees, and holds rotations beyond its limits; a thermal shutdown
leaves stage 1 and keeps memory (log 28).  That the fault service cores are cores 3,072 + d and start at slot 0 (log 10), and
what an image is (log 26), are the model's choices. The order of steps within a cclk, the latencies that the spec leaves open
and the unit that `cur` names are the model's (log 3, log 5). -/
def Obligations.StartAndPower : Prop :=
  (∀ (s : State), ∃ t, exec .powerGood s = .next t ∧ t.sched.now = [] ∧ t.sched.flight = [] ∧
    t = { State.reset with sched := t.sched, seq := { Sequencer.reset with opened := s.cycle } }) ∧
  (∀ (s : State), ∃ t u, exec (.bootStageComplete true) s = .next t ∧ exec (.bootStageComplete false) s = .next u ∧
    t.mem = s.mem ∧ u.mem = s.mem ∧
    (s.part.stage = 0 → u = t ∧ t.part.stage = 1 ∧
      if imageGood Config.bootImage then t.part.bootFail = s.part.testFail ∧ t.part.images = s.part.images ++
          [(Config.sha384 (Config.imageBody Config.bootImage), Config.imageVersion Config.bootImage)]
        else t.part.bootFail = true ∧ t.part.images = s.part.images) ∧
    (s.part.stage = 1 → s.part.bootFail = false → t.part.stage = 2 ∧ u.part.stage = 2) ∧
    (1 ≤ s.part.stage → s.part.bootFail = true → t.part = s.part ∧ u.part = s.part) ∧
    (s.part.stage = 2 → s.part.bootFail = false → t.part.stage = 3 ∧ u.part.stage = 2 ∧ u.part.bootFail = true ∧
      u.part.testFail = true) ∧
    (s.part.stage = 3 → s.part.bootFail = false → u.part.stage = 3 ∧ u.part.testFail = true ∧ u.part.bootFail = true ∧ t.part.stage = 4 ∧
      (t.part.keys.find 0).isSome = true ∧
      ∀ d, d < 4 → (t.slot ((3072 + d) * 16)).run = .run ∧ (t.slot ((3072 + d) * 16)).pc.toNat % 4 = 0)) ∧
  (∀ (s : State) (watts : W32) (temp : BitVec 48),
    let hot := anyDie temp false 115
    let past := s.part.pwrLimit < watts.toNat ∨ anyDie temp true s.part.thermLimit = true
    ∃ t, exec (.powerMeasure watts temp) s = .next t ∧ t.part.power = watts ∧ t.part.temp = temp ∧ t.mem = s.mem ∧
      t.slots = s.slots ∧ (hot = true → (.thermalShutdown, 0) ∈ t.sched.now) ∧
      (hot = false → ¬past → t.part.holdEvery = 0) ∧
      (hot = false → past → 2 ≤ t.part.holdEvery ∧ t.part.holdEvery ≤ 16)) ∧
  ∀ (s : State), ∃ t, exec .thermalShutdown s = .next t ∧ t.part.stage = 1 ∧ t.part.halted = true ∧ t.mem = s.mem ∧
    (∀ k, t.slot k = Slot.reset) ∧ t.sched.flight = [] ∧ t.part.temp = s.part.temp ∧ t.bootDue = false

/-! ### Encoding and decoding -/

/-- R163 to R188: words written out from the encoding tables, and the instructions that they are: the spec's worked
encodings, and words that are none. -/
def Obligations.DecodingWords : Prop :=
  (∀ e ∈ ([
    ([0x001CC500], .add .always .d64 (.field 7) 6 5), ([0xFFC04420], .addi .always (.field 0x3FF0) 2 4),
    ([0x31884980], .ld .always .w .none 3 (.field 6) 2 9), ([0xFFA8A460], .bcc .always .lt (.field 0x7FD) 5 4),
    ([0x00000A36, 0x9ABCDEF0, 0x12345678], .li .always (.lit 0x123456789ABCDEF0) 10),
    ([0x001CC501, 3, 0], .add (.pred false 3) .d64 (.field 7) 6 5),
    ([0x080000B9, 0x00000512, 0], .tfree ⟨true, 2⟩ 40), ([0x00000634], .li .always (.field 0) 6),
    ([0x00C00560], .bcc .always .eq (.field 6) 0 5), ([0x00088780], .ld .always .w .none 0 (.field 0) 4 7),
    ([0xFFFCA520], .addi .always (.field 0x3FFF) 5 5), ([0x00002070], .jr .always 1), ([0x7C], .nop .always)] :
      List (List W32 × Instr)), ∃ i, decodeWords e.1 = .ok i ∧ i = e.2) ∧
  (∀ ws ∈ ([[0xFC], [0xFC, 0, 0], [0x0000E0A9, 0, 0]] : List (List W32)), ∃ x, decodeWords ws = .error x) ∧
  decodeTableWord 32 0x001CC500 = some (.add .always .d64 (.field 7) 6 5) ∧ decodeTableWord 32 0xFC = none

/-- R163 to R188, R234, R253 to R268 and R270: the decoder reads every well-formed instruction back from its words, with
every operand at every value that its encoding admits. -/
def Obligations.DecodeEncode : Prop := ∀ i : Instr, i.wf = true → encode i ≠ [] → decodeWords (encode i) = .ok i

/-- R163 to R170: no two encodings mean one instruction: whatever is decoded is well formed, and its own words are those that
were read, no more and no fewer than LEN says. -/
def Obligations.WordsMeanOne : Prop :=
  ∀ (w0 : W32) (ws : List W32) (i : Instr), decodeWords (w0 :: ws) = .ok i →
    i.wf = true ∧ encode i = (w0 :: ws).take (Decode.lenWords w0)

/-! ### Steps -/

/-- R145, R156, R163 and R170: at the turn of a core, a slot that nothing holds and whose words are in its fetch
buffer runs what they decode to, and words that are no instruction run as *undefined encoding*. The order of steps
within a cclk is the model's (log 3), as is the slot that `cur` names (log 5). -/
def Obligations.StepRunsDecoded : Prop :=
  ∀ (s : State) (n : Nat), s.sched.now = [] → s.sched.phase = .turns n → n < 3076 → s.part.stage = 4 →
    s.cycle % 16 ≠ 15 ∨ isFsc (turnCore n) = true →
    let k := turnCore n * 16 + s.cycle % 16
    let t : State := { s with sched := { s.sched with phase := .turns (n + 1) }, cur := k }
    let words := (s.slot k).fetched.1.map fun e => e.1
    t.turnHeld = false → t.overBudget k = false → (s.slot k).owed = none → (s.slot k).pc.toNat % 4 = 0 → (s.slot k).missingAt = none →
    (∀ e ∈ (s.slot k).fetched.1, e.2 = false) →
      (∀ i, decodeWords words = .ok i → step s = exec i t) ∧
      (∀ x, decodeWords words = .error x → step s = exec (.undefinedEncoding (words.headD 0)) t)

/-- The canonical form of memory, addresses strictly rising and no byte listed that an unlisted address reads as, is kept
by every step (the form of the model's memory, log 1). -/
def Obligations.MemoryStaysCanonical : Prop := ∀ s t : State, s.sound → step s = .next t → t.sound

/-- The state right after reset: memory in canonical form, and the reset values of R6, R50, R104, R124, R148, R154,
R160, R288, R364 and R370 to R372. Values that the spec does not give are the model's: memory that nothing has written
reads 0 (log 1), and the other reset values of log 2. -/
def Obligations.ResetState : Prop :=
  let s := State.reset
  s.sound ∧ s.cycle = 0 ∧ s.part.stage = 0 ∧ s.part.bootFail = false ∧ s.part.thermLimit = 100 ∧ s.part.pwrLimit = 2400 ∧
  s.seq.sqctl.toNat = 4000 * 2 ^ 32 ∧ s.seq.txbudget = 0x10000 ∧ s.part.vrtb = 0 ∧ s.part.fixlast = 0 ∧
  (∀ k, (s.slot k).run = .free ∧ (s.slot k).fmode = 0 ∧ (s.slot k).amBudget = 1024 ∧ (s.slot k).inTrap = false ∧
    (s.slot k).issues = 0) ∧
  (∀ c, (s.core c).qage = 0x10000 ∧ (s.core c).stmem = 0 ∧ (s.core c).fifo = []) ∧
  (∀ c, (s.cell c).wdog = 0x1000000 ∧ ∀ h, (s.cell c).tile h = Tile.reset) ∧
  (∀ x, (s.ctx x).trapVec = 0 ∧ (s.ctx x).priv = false) ∧ ∀ a, s.byte a = 0
end

