-- ==== Sys2Proof/Laws/State.lean ====
section
/-! SUPPORT. The fields of State after each of its updates, and those of Slot after its own: one lemma for each. -/

namespace Sys2Proof.Machine

/-! ### setSlot -/

@[simp] theorem State.setSlot_sched (s : State) (k : Nat) (v : Slot) : (s.setSlot k v).sched = s.sched := rfl
@[simp] theorem State.setSlot_cur (s : State) (k : Nat) (v : Slot) : (s.setSlot k v).cur = s.cur := rfl
@[simp] theorem State.setSlot_slots (s : State) (k : Nat) (v : Slot) : (s.setSlot k v).slots = s.slots.set k v := rfl
@[simp] theorem State.setSlot_orphans (s : State) (k : Nat) (v : Slot) : (s.setSlot k v).orphans = s.orphans := rfl
@[simp] theorem State.setSlot_cores (s : State) (k : Nat) (v : Slot) : (s.setSlot k v).cores = s.cores := rfl
@[simp] theorem State.setSlot_cells (s : State) (k : Nat) (v : Slot) : (s.setSlot k v).cells = s.cells := rfl
@[simp] theorem State.setSlot_clusters (s : State) (k : Nat) (v : Slot) : (s.setSlot k v).clusters = s.clusters := rfl
@[simp] theorem State.setSlot_dies (s : State) (k : Nat) (v : Slot) : (s.setSlot k v).dies = s.dies := rfl
@[simp] theorem State.setSlot_blms (s : State) (k : Nat) (v : Slot) : (s.setSlot k v).blms = s.blms := rfl
@[simp] theorem State.setSlot_mem (s : State) (k : Nat) (v : Slot) : (s.setSlot k v).mem = s.mem := rfl
@[simp] theorem State.setSlot_poison (s : State) (k : Nat) (v : Slot) : (s.setSlot k v).poison = s.poison := rfl
@[simp] theorem State.setSlot_soft (s : State) (k : Nat) (v : Slot) : (s.setSlot k v).soft = s.soft := rfl
@[simp] theorem State.setSlot_unitKey (s : State) (k : Nat) (v : Slot) : (s.setSlot k v).unitKey = s.unitKey := rfl
@[simp] theorem State.setSlot_l2 (s : State) (k : Nat) (v : Slot) : (s.setSlot k v).l2 = s.l2 := rfl
@[simp] theorem State.setSlot_owners (s : State) (k : Nat) (v : Slot) : (s.setSlot k v).owners = s.owners := rfl
@[simp] theorem State.setSlot_regions (s : State) (k : Nat) (v : Slot) : (s.setSlot k v).regions = s.regions := rfl
@[simp] theorem State.setSlot_seq (s : State) (k : Nat) (v : Slot) : (s.setSlot k v).seq = s.seq := rfl
@[simp] theorem State.setSlot_ctxs (s : State) (k : Nat) (v : Slot) : (s.setSlot k v).ctxs = s.ctxs := rfl
@[simp] theorem State.setSlot_saved (s : State) (k : Nat) (v : Slot) : (s.setSlot k v).saved = s.saved := rfl
@[simp] theorem State.setSlot_savedEng (s : State) (k : Nat) (v : Slot) : (s.setSlot k v).savedEng = s.savedEng := rfl
@[simp] theorem State.setSlot_ctxOps (s : State) (k : Nat) (v : Slot) : (s.setSlot k v).ctxOps = s.ctxOps := rfl
@[simp] theorem State.setSlot_part (s : State) (k : Nat) (v : Slot) : (s.setSlot k v).part = s.part := rfl
@[simp] theorem State.setSlot_fix (s : State) (k : Nat) (v : Slot) : (s.setSlot k v).fix = s.fix := rfl
@[simp] theorem State.setSlot_link (s : State) (k : Nat) (v : Slot) : (s.setSlot k v).link = s.link := rfl

/-! ### modSlot -/

@[simp] theorem State.modSlot_sched (s : State) (k : Nat) (f : Slot → Slot) : (s.modSlot k f).sched = s.sched := rfl
@[simp] theorem State.modSlot_cur (s : State) (k : Nat) (f : Slot → Slot) : (s.modSlot k f).cur = s.cur := rfl
@[simp] theorem State.modSlot_slots (s : State) (k : Nat) (f : Slot → Slot) : (s.modSlot k f).slots = s.slots.set k (f (s.slot k)) := rfl
@[simp] theorem State.modSlot_orphans (s : State) (k : Nat) (f : Slot → Slot) : (s.modSlot k f).orphans = s.orphans := rfl
@[simp] theorem State.modSlot_cores (s : State) (k : Nat) (f : Slot → Slot) : (s.modSlot k f).cores = s.cores := rfl
@[simp] theorem State.modSlot_cells (s : State) (k : Nat) (f : Slot → Slot) : (s.modSlot k f).cells = s.cells := rfl
@[simp] theorem State.modSlot_clusters (s : State) (k : Nat) (f : Slot → Slot) : (s.modSlot k f).clusters = s.clusters := rfl
@[simp] theorem State.modSlot_dies (s : State) (k : Nat) (f : Slot → Slot) : (s.modSlot k f).dies = s.dies := rfl
@[simp] theorem State.modSlot_blms (s : State) (k : Nat) (f : Slot → Slot) : (s.modSlot k f).blms = s.blms := rfl
@[simp] theorem State.modSlot_mem (s : State) (k : Nat) (f : Slot → Slot) : (s.modSlot k f).mem = s.mem := rfl
@[simp] theorem State.modSlot_poison (s : State) (k : Nat) (f : Slot → Slot) : (s.modSlot k f).poison = s.poison := rfl
@[simp] theorem State.modSlot_soft (s : State) (k : Nat) (f : Slot → Slot) : (s.modSlot k f).soft = s.soft := rfl
@[simp] theorem State.modSlot_unitKey (s : State) (k : Nat) (f : Slot → Slot) : (s.modSlot k f).unitKey = s.unitKey := rfl
@[simp] theorem State.modSlot_l2 (s : State) (k : Nat) (f : Slot → Slot) : (s.modSlot k f).l2 = s.l2 := rfl
@[simp] theorem State.modSlot_owners (s : State) (k : Nat) (f : Slot → Slot) : (s.modSlot k f).owners = s.owners := rfl
@[simp] theorem State.modSlot_regions (s : State) (k : Nat) (f : Slot → Slot) : (s.modSlot k f).regions = s.regions := rfl
@[simp] theorem State.modSlot_seq (s : State) (k : Nat) (f : Slot → Slot) : (s.modSlot k f).seq = s.seq := rfl
@[simp] theorem State.modSlot_ctxs (s : State) (k : Nat) (f : Slot → Slot) : (s.modSlot k f).ctxs = s.ctxs := rfl
@[simp] theorem State.modSlot_saved (s : State) (k : Nat) (f : Slot → Slot) : (s.modSlot k f).saved = s.saved := rfl
@[simp] theorem State.modSlot_savedEng (s : State) (k : Nat) (f : Slot → Slot) : (s.modSlot k f).savedEng = s.savedEng := rfl
@[simp] theorem State.modSlot_ctxOps (s : State) (k : Nat) (f : Slot → Slot) : (s.modSlot k f).ctxOps = s.ctxOps := rfl
@[simp] theorem State.modSlot_part (s : State) (k : Nat) (f : Slot → Slot) : (s.modSlot k f).part = s.part := rfl
@[simp] theorem State.modSlot_fix (s : State) (k : Nat) (f : Slot → Slot) : (s.modSlot k f).fix = s.fix := rfl
@[simp] theorem State.modSlot_link (s : State) (k : Nat) (f : Slot → Slot) : (s.modSlot k f).link = s.link := rfl

/-! ### setCore -/

@[simp] theorem State.setCore_sched (s : State) (k : Nat) (v : Core) : (s.setCore k v).sched = s.sched := rfl
@[simp] theorem State.setCore_cur (s : State) (k : Nat) (v : Core) : (s.setCore k v).cur = s.cur := rfl
@[simp] theorem State.setCore_slots (s : State) (k : Nat) (v : Core) : (s.setCore k v).slots = s.slots := rfl
@[simp] theorem State.setCore_orphans (s : State) (k : Nat) (v : Core) : (s.setCore k v).orphans = s.orphans := rfl
@[simp] theorem State.setCore_cores (s : State) (k : Nat) (v : Core) : (s.setCore k v).cores = s.cores.set k v := rfl
@[simp] theorem State.setCore_cells (s : State) (k : Nat) (v : Core) : (s.setCore k v).cells = s.cells := rfl
@[simp] theorem State.setCore_clusters (s : State) (k : Nat) (v : Core) : (s.setCore k v).clusters = s.clusters := rfl
@[simp] theorem State.setCore_dies (s : State) (k : Nat) (v : Core) : (s.setCore k v).dies = s.dies := rfl
@[simp] theorem State.setCore_blms (s : State) (k : Nat) (v : Core) : (s.setCore k v).blms = s.blms := rfl
@[simp] theorem State.setCore_mem (s : State) (k : Nat) (v : Core) : (s.setCore k v).mem = s.mem := rfl
@[simp] theorem State.setCore_poison (s : State) (k : Nat) (v : Core) : (s.setCore k v).poison = s.poison := rfl
@[simp] theorem State.setCore_soft (s : State) (k : Nat) (v : Core) : (s.setCore k v).soft = s.soft := rfl
@[simp] theorem State.setCore_unitKey (s : State) (k : Nat) (v : Core) : (s.setCore k v).unitKey = s.unitKey := rfl
@[simp] theorem State.setCore_l2 (s : State) (k : Nat) (v : Core) : (s.setCore k v).l2 = s.l2 := rfl
@[simp] theorem State.setCore_owners (s : State) (k : Nat) (v : Core) : (s.setCore k v).owners = s.owners := rfl
@[simp] theorem State.setCore_regions (s : State) (k : Nat) (v : Core) : (s.setCore k v).regions = s.regions := rfl
@[simp] theorem State.setCore_seq (s : State) (k : Nat) (v : Core) : (s.setCore k v).seq = s.seq := rfl
@[simp] theorem State.setCore_ctxs (s : State) (k : Nat) (v : Core) : (s.setCore k v).ctxs = s.ctxs := rfl
@[simp] theorem State.setCore_saved (s : State) (k : Nat) (v : Core) : (s.setCore k v).saved = s.saved := rfl
@[simp] theorem State.setCore_savedEng (s : State) (k : Nat) (v : Core) : (s.setCore k v).savedEng = s.savedEng := rfl
@[simp] theorem State.setCore_ctxOps (s : State) (k : Nat) (v : Core) : (s.setCore k v).ctxOps = s.ctxOps := rfl
@[simp] theorem State.setCore_part (s : State) (k : Nat) (v : Core) : (s.setCore k v).part = s.part := rfl
@[simp] theorem State.setCore_fix (s : State) (k : Nat) (v : Core) : (s.setCore k v).fix = s.fix := rfl
@[simp] theorem State.setCore_link (s : State) (k : Nat) (v : Core) : (s.setCore k v).link = s.link := rfl

/-! ### modCore -/

@[simp] theorem State.modCore_sched (s : State) (k : Nat) (f : Core → Core) : (s.modCore k f).sched = s.sched := rfl
@[simp] theorem State.modCore_cur (s : State) (k : Nat) (f : Core → Core) : (s.modCore k f).cur = s.cur := rfl
@[simp] theorem State.modCore_slots (s : State) (k : Nat) (f : Core → Core) : (s.modCore k f).slots = s.slots := rfl
@[simp] theorem State.modCore_orphans (s : State) (k : Nat) (f : Core → Core) : (s.modCore k f).orphans = s.orphans := rfl
@[simp] theorem State.modCore_cores (s : State) (k : Nat) (f : Core → Core) : (s.modCore k f).cores = s.cores.set k (f (s.core k)) := rfl
@[simp] theorem State.modCore_cells (s : State) (k : Nat) (f : Core → Core) : (s.modCore k f).cells = s.cells := rfl
@[simp] theorem State.modCore_clusters (s : State) (k : Nat) (f : Core → Core) : (s.modCore k f).clusters = s.clusters := rfl
@[simp] theorem State.modCore_dies (s : State) (k : Nat) (f : Core → Core) : (s.modCore k f).dies = s.dies := rfl
@[simp] theorem State.modCore_blms (s : State) (k : Nat) (f : Core → Core) : (s.modCore k f).blms = s.blms := rfl
@[simp] theorem State.modCore_mem (s : State) (k : Nat) (f : Core → Core) : (s.modCore k f).mem = s.mem := rfl
@[simp] theorem State.modCore_poison (s : State) (k : Nat) (f : Core → Core) : (s.modCore k f).poison = s.poison := rfl
@[simp] theorem State.modCore_soft (s : State) (k : Nat) (f : Core → Core) : (s.modCore k f).soft = s.soft := rfl
@[simp] theorem State.modCore_unitKey (s : State) (k : Nat) (f : Core → Core) : (s.modCore k f).unitKey = s.unitKey := rfl
@[simp] theorem State.modCore_l2 (s : State) (k : Nat) (f : Core → Core) : (s.modCore k f).l2 = s.l2 := rfl
@[simp] theorem State.modCore_owners (s : State) (k : Nat) (f : Core → Core) : (s.modCore k f).owners = s.owners := rfl
@[simp] theorem State.modCore_regions (s : State) (k : Nat) (f : Core → Core) : (s.modCore k f).regions = s.regions := rfl
@[simp] theorem State.modCore_seq (s : State) (k : Nat) (f : Core → Core) : (s.modCore k f).seq = s.seq := rfl
@[simp] theorem State.modCore_ctxs (s : State) (k : Nat) (f : Core → Core) : (s.modCore k f).ctxs = s.ctxs := rfl
@[simp] theorem State.modCore_saved (s : State) (k : Nat) (f : Core → Core) : (s.modCore k f).saved = s.saved := rfl
@[simp] theorem State.modCore_savedEng (s : State) (k : Nat) (f : Core → Core) : (s.modCore k f).savedEng = s.savedEng := rfl
@[simp] theorem State.modCore_ctxOps (s : State) (k : Nat) (f : Core → Core) : (s.modCore k f).ctxOps = s.ctxOps := rfl
@[simp] theorem State.modCore_part (s : State) (k : Nat) (f : Core → Core) : (s.modCore k f).part = s.part := rfl
@[simp] theorem State.modCore_fix (s : State) (k : Nat) (f : Core → Core) : (s.modCore k f).fix = s.fix := rfl
@[simp] theorem State.modCore_link (s : State) (k : Nat) (f : Core → Core) : (s.modCore k f).link = s.link := rfl

/-! ### setCell -/

@[simp] theorem State.setCell_sched (s : State) (k : Nat) (v : Cell) : (s.setCell k v).sched = s.sched := rfl
@[simp] theorem State.setCell_cur (s : State) (k : Nat) (v : Cell) : (s.setCell k v).cur = s.cur := rfl
@[simp] theorem State.setCell_slots (s : State) (k : Nat) (v : Cell) : (s.setCell k v).slots = s.slots := rfl
@[simp] theorem State.setCell_orphans (s : State) (k : Nat) (v : Cell) : (s.setCell k v).orphans = s.orphans := rfl
@[simp] theorem State.setCell_cores (s : State) (k : Nat) (v : Cell) : (s.setCell k v).cores = s.cores := rfl
@[simp] theorem State.setCell_cells (s : State) (k : Nat) (v : Cell) : (s.setCell k v).cells = s.cells.set k v := rfl
@[simp] theorem State.setCell_clusters (s : State) (k : Nat) (v : Cell) : (s.setCell k v).clusters = s.clusters := rfl
@[simp] theorem State.setCell_dies (s : State) (k : Nat) (v : Cell) : (s.setCell k v).dies = s.dies := rfl
@[simp] theorem State.setCell_blms (s : State) (k : Nat) (v : Cell) : (s.setCell k v).blms = s.blms := rfl
@[simp] theorem State.setCell_mem (s : State) (k : Nat) (v : Cell) : (s.setCell k v).mem = s.mem := rfl
@[simp] theorem State.setCell_poison (s : State) (k : Nat) (v : Cell) : (s.setCell k v).poison = s.poison := rfl
@[simp] theorem State.setCell_soft (s : State) (k : Nat) (v : Cell) : (s.setCell k v).soft = s.soft := rfl
@[simp] theorem State.setCell_unitKey (s : State) (k : Nat) (v : Cell) : (s.setCell k v).unitKey = s.unitKey := rfl
@[simp] theorem State.setCell_l2 (s : State) (k : Nat) (v : Cell) : (s.setCell k v).l2 = s.l2 := rfl
@[simp] theorem State.setCell_owners (s : State) (k : Nat) (v : Cell) : (s.setCell k v).owners = s.owners := rfl
@[simp] theorem State.setCell_regions (s : State) (k : Nat) (v : Cell) : (s.setCell k v).regions = s.regions := rfl
@[simp] theorem State.setCell_seq (s : State) (k : Nat) (v : Cell) : (s.setCell k v).seq = s.seq := rfl
@[simp] theorem State.setCell_ctxs (s : State) (k : Nat) (v : Cell) : (s.setCell k v).ctxs = s.ctxs := rfl
@[simp] theorem State.setCell_saved (s : State) (k : Nat) (v : Cell) : (s.setCell k v).saved = s.saved := rfl
@[simp] theorem State.setCell_savedEng (s : State) (k : Nat) (v : Cell) : (s.setCell k v).savedEng = s.savedEng := rfl
@[simp] theorem State.setCell_ctxOps (s : State) (k : Nat) (v : Cell) : (s.setCell k v).ctxOps = s.ctxOps := rfl
@[simp] theorem State.setCell_part (s : State) (k : Nat) (v : Cell) : (s.setCell k v).part = s.part := rfl
@[simp] theorem State.setCell_fix (s : State) (k : Nat) (v : Cell) : (s.setCell k v).fix = s.fix := rfl
@[simp] theorem State.setCell_link (s : State) (k : Nat) (v : Cell) : (s.setCell k v).link = s.link := rfl

/-! ### modCell -/

@[simp] theorem State.modCell_sched (s : State) (k : Nat) (f : Cell → Cell) : (s.modCell k f).sched = s.sched := rfl
@[simp] theorem State.modCell_cur (s : State) (k : Nat) (f : Cell → Cell) : (s.modCell k f).cur = s.cur := rfl
@[simp] theorem State.modCell_slots (s : State) (k : Nat) (f : Cell → Cell) : (s.modCell k f).slots = s.slots := rfl
@[simp] theorem State.modCell_orphans (s : State) (k : Nat) (f : Cell → Cell) : (s.modCell k f).orphans = s.orphans := rfl
@[simp] theorem State.modCell_cores (s : State) (k : Nat) (f : Cell → Cell) : (s.modCell k f).cores = s.cores := rfl
@[simp] theorem State.modCell_cells (s : State) (k : Nat) (f : Cell → Cell) : (s.modCell k f).cells = s.cells.set k (f (s.cell k)) := rfl
@[simp] theorem State.modCell_clusters (s : State) (k : Nat) (f : Cell → Cell) : (s.modCell k f).clusters = s.clusters := rfl
@[simp] theorem State.modCell_dies (s : State) (k : Nat) (f : Cell → Cell) : (s.modCell k f).dies = s.dies := rfl
@[simp] theorem State.modCell_blms (s : State) (k : Nat) (f : Cell → Cell) : (s.modCell k f).blms = s.blms := rfl
@[simp] theorem State.modCell_mem (s : State) (k : Nat) (f : Cell → Cell) : (s.modCell k f).mem = s.mem := rfl
@[simp] theorem State.modCell_poison (s : State) (k : Nat) (f : Cell → Cell) : (s.modCell k f).poison = s.poison := rfl
@[simp] theorem State.modCell_soft (s : State) (k : Nat) (f : Cell → Cell) : (s.modCell k f).soft = s.soft := rfl
@[simp] theorem State.modCell_unitKey (s : State) (k : Nat) (f : Cell → Cell) : (s.modCell k f).unitKey = s.unitKey := rfl
@[simp] theorem State.modCell_l2 (s : State) (k : Nat) (f : Cell → Cell) : (s.modCell k f).l2 = s.l2 := rfl
@[simp] theorem State.modCell_owners (s : State) (k : Nat) (f : Cell → Cell) : (s.modCell k f).owners = s.owners := rfl
@[simp] theorem State.modCell_regions (s : State) (k : Nat) (f : Cell → Cell) : (s.modCell k f).regions = s.regions := rfl
@[simp] theorem State.modCell_seq (s : State) (k : Nat) (f : Cell → Cell) : (s.modCell k f).seq = s.seq := rfl
@[simp] theorem State.modCell_ctxs (s : State) (k : Nat) (f : Cell → Cell) : (s.modCell k f).ctxs = s.ctxs := rfl
@[simp] theorem State.modCell_saved (s : State) (k : Nat) (f : Cell → Cell) : (s.modCell k f).saved = s.saved := rfl
@[simp] theorem State.modCell_savedEng (s : State) (k : Nat) (f : Cell → Cell) : (s.modCell k f).savedEng = s.savedEng := rfl
@[simp] theorem State.modCell_ctxOps (s : State) (k : Nat) (f : Cell → Cell) : (s.modCell k f).ctxOps = s.ctxOps := rfl
@[simp] theorem State.modCell_part (s : State) (k : Nat) (f : Cell → Cell) : (s.modCell k f).part = s.part := rfl
@[simp] theorem State.modCell_fix (s : State) (k : Nat) (f : Cell → Cell) : (s.modCell k f).fix = s.fix := rfl
@[simp] theorem State.modCell_link (s : State) (k : Nat) (f : Cell → Cell) : (s.modCell k f).link = s.link := rfl

/-! ### modCluster -/

@[simp] theorem State.modCluster_sched (s : State) (k : Nat) (f : Cluster → Cluster) : (s.modCluster k f).sched = s.sched := rfl
@[simp] theorem State.modCluster_cur (s : State) (k : Nat) (f : Cluster → Cluster) : (s.modCluster k f).cur = s.cur := rfl
@[simp] theorem State.modCluster_slots (s : State) (k : Nat) (f : Cluster → Cluster) : (s.modCluster k f).slots = s.slots := rfl
@[simp] theorem State.modCluster_orphans (s : State) (k : Nat) (f : Cluster → Cluster) : (s.modCluster k f).orphans = s.orphans := rfl
@[simp] theorem State.modCluster_cores (s : State) (k : Nat) (f : Cluster → Cluster) : (s.modCluster k f).cores = s.cores := rfl
@[simp] theorem State.modCluster_cells (s : State) (k : Nat) (f : Cluster → Cluster) : (s.modCluster k f).cells = s.cells := rfl
@[simp] theorem State.modCluster_clusters (s : State) (k : Nat) (f : Cluster → Cluster) : (s.modCluster k f).clusters = s.clusters.set k (f (s.cluster k)) := rfl
@[simp] theorem State.modCluster_dies (s : State) (k : Nat) (f : Cluster → Cluster) : (s.modCluster k f).dies = s.dies := rfl
@[simp] theorem State.modCluster_blms (s : State) (k : Nat) (f : Cluster → Cluster) : (s.modCluster k f).blms = s.blms := rfl
@[simp] theorem State.modCluster_mem (s : State) (k : Nat) (f : Cluster → Cluster) : (s.modCluster k f).mem = s.mem := rfl
@[simp] theorem State.modCluster_poison (s : State) (k : Nat) (f : Cluster → Cluster) : (s.modCluster k f).poison = s.poison := rfl
@[simp] theorem State.modCluster_soft (s : State) (k : Nat) (f : Cluster → Cluster) : (s.modCluster k f).soft = s.soft := rfl
@[simp] theorem State.modCluster_unitKey (s : State) (k : Nat) (f : Cluster → Cluster) : (s.modCluster k f).unitKey = s.unitKey := rfl
@[simp] theorem State.modCluster_l2 (s : State) (k : Nat) (f : Cluster → Cluster) : (s.modCluster k f).l2 = s.l2 := rfl
@[simp] theorem State.modCluster_owners (s : State) (k : Nat) (f : Cluster → Cluster) : (s.modCluster k f).owners = s.owners := rfl
@[simp] theorem State.modCluster_regions (s : State) (k : Nat) (f : Cluster → Cluster) : (s.modCluster k f).regions = s.regions := rfl
@[simp] theorem State.modCluster_seq (s : State) (k : Nat) (f : Cluster → Cluster) : (s.modCluster k f).seq = s.seq := rfl
@[simp] theorem State.modCluster_ctxs (s : State) (k : Nat) (f : Cluster → Cluster) : (s.modCluster k f).ctxs = s.ctxs := rfl
@[simp] theorem State.modCluster_saved (s : State) (k : Nat) (f : Cluster → Cluster) : (s.modCluster k f).saved = s.saved := rfl
@[simp] theorem State.modCluster_savedEng (s : State) (k : Nat) (f : Cluster → Cluster) : (s.modCluster k f).savedEng = s.savedEng := rfl
@[simp] theorem State.modCluster_ctxOps (s : State) (k : Nat) (f : Cluster → Cluster) : (s.modCluster k f).ctxOps = s.ctxOps := rfl
@[simp] theorem State.modCluster_part (s : State) (k : Nat) (f : Cluster → Cluster) : (s.modCluster k f).part = s.part := rfl
@[simp] theorem State.modCluster_fix (s : State) (k : Nat) (f : Cluster → Cluster) : (s.modCluster k f).fix = s.fix := rfl
@[simp] theorem State.modCluster_link (s : State) (k : Nat) (f : Cluster → Cluster) : (s.modCluster k f).link = s.link := rfl

/-! ### modDie -/

@[simp] theorem State.modDie_sched (s : State) (k : Nat) (f : Die → Die) : (s.modDie k f).sched = s.sched := rfl
@[simp] theorem State.modDie_cur (s : State) (k : Nat) (f : Die → Die) : (s.modDie k f).cur = s.cur := rfl
@[simp] theorem State.modDie_slots (s : State) (k : Nat) (f : Die → Die) : (s.modDie k f).slots = s.slots := rfl
@[simp] theorem State.modDie_orphans (s : State) (k : Nat) (f : Die → Die) : (s.modDie k f).orphans = s.orphans := rfl
@[simp] theorem State.modDie_cores (s : State) (k : Nat) (f : Die → Die) : (s.modDie k f).cores = s.cores := rfl
@[simp] theorem State.modDie_cells (s : State) (k : Nat) (f : Die → Die) : (s.modDie k f).cells = s.cells := rfl
@[simp] theorem State.modDie_clusters (s : State) (k : Nat) (f : Die → Die) : (s.modDie k f).clusters = s.clusters := rfl
@[simp] theorem State.modDie_dies (s : State) (k : Nat) (f : Die → Die) : (s.modDie k f).dies = s.dies.set k (f (s.die k)) := rfl
@[simp] theorem State.modDie_blms (s : State) (k : Nat) (f : Die → Die) : (s.modDie k f).blms = s.blms := rfl
@[simp] theorem State.modDie_mem (s : State) (k : Nat) (f : Die → Die) : (s.modDie k f).mem = s.mem := rfl
@[simp] theorem State.modDie_poison (s : State) (k : Nat) (f : Die → Die) : (s.modDie k f).poison = s.poison := rfl
@[simp] theorem State.modDie_soft (s : State) (k : Nat) (f : Die → Die) : (s.modDie k f).soft = s.soft := rfl
@[simp] theorem State.modDie_unitKey (s : State) (k : Nat) (f : Die → Die) : (s.modDie k f).unitKey = s.unitKey := rfl
@[simp] theorem State.modDie_l2 (s : State) (k : Nat) (f : Die → Die) : (s.modDie k f).l2 = s.l2 := rfl
@[simp] theorem State.modDie_owners (s : State) (k : Nat) (f : Die → Die) : (s.modDie k f).owners = s.owners := rfl
@[simp] theorem State.modDie_regions (s : State) (k : Nat) (f : Die → Die) : (s.modDie k f).regions = s.regions := rfl
@[simp] theorem State.modDie_seq (s : State) (k : Nat) (f : Die → Die) : (s.modDie k f).seq = s.seq := rfl
@[simp] theorem State.modDie_ctxs (s : State) (k : Nat) (f : Die → Die) : (s.modDie k f).ctxs = s.ctxs := rfl
@[simp] theorem State.modDie_saved (s : State) (k : Nat) (f : Die → Die) : (s.modDie k f).saved = s.saved := rfl
@[simp] theorem State.modDie_savedEng (s : State) (k : Nat) (f : Die → Die) : (s.modDie k f).savedEng = s.savedEng := rfl
@[simp] theorem State.modDie_ctxOps (s : State) (k : Nat) (f : Die → Die) : (s.modDie k f).ctxOps = s.ctxOps := rfl
@[simp] theorem State.modDie_part (s : State) (k : Nat) (f : Die → Die) : (s.modDie k f).part = s.part := rfl
@[simp] theorem State.modDie_fix (s : State) (k : Nat) (f : Die → Die) : (s.modDie k f).fix = s.fix := rfl
@[simp] theorem State.modDie_link (s : State) (k : Nat) (f : Die → Die) : (s.modDie k f).link = s.link := rfl

/-! ### modBlm -/

@[simp] theorem State.modBlm_sched (s : State) (k : Nat) (f : Blm → Blm) : (s.modBlm k f).sched = s.sched := rfl
@[simp] theorem State.modBlm_cur (s : State) (k : Nat) (f : Blm → Blm) : (s.modBlm k f).cur = s.cur := rfl
@[simp] theorem State.modBlm_slots (s : State) (k : Nat) (f : Blm → Blm) : (s.modBlm k f).slots = s.slots := rfl
@[simp] theorem State.modBlm_orphans (s : State) (k : Nat) (f : Blm → Blm) : (s.modBlm k f).orphans = s.orphans := rfl
@[simp] theorem State.modBlm_cores (s : State) (k : Nat) (f : Blm → Blm) : (s.modBlm k f).cores = s.cores := rfl
@[simp] theorem State.modBlm_cells (s : State) (k : Nat) (f : Blm → Blm) : (s.modBlm k f).cells = s.cells := rfl
@[simp] theorem State.modBlm_clusters (s : State) (k : Nat) (f : Blm → Blm) : (s.modBlm k f).clusters = s.clusters := rfl
@[simp] theorem State.modBlm_dies (s : State) (k : Nat) (f : Blm → Blm) : (s.modBlm k f).dies = s.dies := rfl
@[simp] theorem State.modBlm_blms (s : State) (k : Nat) (f : Blm → Blm) : (s.modBlm k f).blms = s.blms.set k (f (s.blm k)) := rfl
@[simp] theorem State.modBlm_mem (s : State) (k : Nat) (f : Blm → Blm) : (s.modBlm k f).mem = s.mem := rfl
@[simp] theorem State.modBlm_poison (s : State) (k : Nat) (f : Blm → Blm) : (s.modBlm k f).poison = s.poison := rfl
@[simp] theorem State.modBlm_soft (s : State) (k : Nat) (f : Blm → Blm) : (s.modBlm k f).soft = s.soft := rfl
@[simp] theorem State.modBlm_unitKey (s : State) (k : Nat) (f : Blm → Blm) : (s.modBlm k f).unitKey = s.unitKey := rfl
@[simp] theorem State.modBlm_l2 (s : State) (k : Nat) (f : Blm → Blm) : (s.modBlm k f).l2 = s.l2 := rfl
@[simp] theorem State.modBlm_owners (s : State) (k : Nat) (f : Blm → Blm) : (s.modBlm k f).owners = s.owners := rfl
@[simp] theorem State.modBlm_regions (s : State) (k : Nat) (f : Blm → Blm) : (s.modBlm k f).regions = s.regions := rfl
@[simp] theorem State.modBlm_seq (s : State) (k : Nat) (f : Blm → Blm) : (s.modBlm k f).seq = s.seq := rfl
@[simp] theorem State.modBlm_ctxs (s : State) (k : Nat) (f : Blm → Blm) : (s.modBlm k f).ctxs = s.ctxs := rfl
@[simp] theorem State.modBlm_saved (s : State) (k : Nat) (f : Blm → Blm) : (s.modBlm k f).saved = s.saved := rfl
@[simp] theorem State.modBlm_savedEng (s : State) (k : Nat) (f : Blm → Blm) : (s.modBlm k f).savedEng = s.savedEng := rfl
@[simp] theorem State.modBlm_ctxOps (s : State) (k : Nat) (f : Blm → Blm) : (s.modBlm k f).ctxOps = s.ctxOps := rfl
@[simp] theorem State.modBlm_part (s : State) (k : Nat) (f : Blm → Blm) : (s.modBlm k f).part = s.part := rfl
@[simp] theorem State.modBlm_fix (s : State) (k : Nat) (f : Blm → Blm) : (s.modBlm k f).fix = s.fix := rfl
@[simp] theorem State.modBlm_link (s : State) (k : Nat) (f : Blm → Blm) : (s.modBlm k f).link = s.link := rfl

/-! ### modCtx -/

@[simp] theorem State.modCtx_sched (s : State) (k : Nat) (f : Context → Context) : (s.modCtx k f).sched = s.sched := rfl
@[simp] theorem State.modCtx_cur (s : State) (k : Nat) (f : Context → Context) : (s.modCtx k f).cur = s.cur := rfl
@[simp] theorem State.modCtx_slots (s : State) (k : Nat) (f : Context → Context) : (s.modCtx k f).slots = s.slots := rfl
@[simp] theorem State.modCtx_orphans (s : State) (k : Nat) (f : Context → Context) : (s.modCtx k f).orphans = s.orphans := rfl
@[simp] theorem State.modCtx_cores (s : State) (k : Nat) (f : Context → Context) : (s.modCtx k f).cores = s.cores := rfl
@[simp] theorem State.modCtx_cells (s : State) (k : Nat) (f : Context → Context) : (s.modCtx k f).cells = s.cells := rfl
@[simp] theorem State.modCtx_clusters (s : State) (k : Nat) (f : Context → Context) : (s.modCtx k f).clusters = s.clusters := rfl
@[simp] theorem State.modCtx_dies (s : State) (k : Nat) (f : Context → Context) : (s.modCtx k f).dies = s.dies := rfl
@[simp] theorem State.modCtx_blms (s : State) (k : Nat) (f : Context → Context) : (s.modCtx k f).blms = s.blms := rfl
@[simp] theorem State.modCtx_mem (s : State) (k : Nat) (f : Context → Context) : (s.modCtx k f).mem = s.mem := rfl
@[simp] theorem State.modCtx_poison (s : State) (k : Nat) (f : Context → Context) : (s.modCtx k f).poison = s.poison := rfl
@[simp] theorem State.modCtx_soft (s : State) (k : Nat) (f : Context → Context) : (s.modCtx k f).soft = s.soft := rfl
@[simp] theorem State.modCtx_unitKey (s : State) (k : Nat) (f : Context → Context) : (s.modCtx k f).unitKey = s.unitKey := rfl
@[simp] theorem State.modCtx_l2 (s : State) (k : Nat) (f : Context → Context) : (s.modCtx k f).l2 = s.l2 := rfl
@[simp] theorem State.modCtx_owners (s : State) (k : Nat) (f : Context → Context) : (s.modCtx k f).owners = s.owners := rfl
@[simp] theorem State.modCtx_regions (s : State) (k : Nat) (f : Context → Context) : (s.modCtx k f).regions = s.regions := rfl
@[simp] theorem State.modCtx_seq (s : State) (k : Nat) (f : Context → Context) : (s.modCtx k f).seq = s.seq := rfl
@[simp] theorem State.modCtx_ctxs (s : State) (k : Nat) (f : Context → Context) : (s.modCtx k f).ctxs = s.ctxs.set k (f (s.ctx k)) := rfl
@[simp] theorem State.modCtx_saved (s : State) (k : Nat) (f : Context → Context) : (s.modCtx k f).saved = s.saved := rfl
@[simp] theorem State.modCtx_savedEng (s : State) (k : Nat) (f : Context → Context) : (s.modCtx k f).savedEng = s.savedEng := rfl
@[simp] theorem State.modCtx_ctxOps (s : State) (k : Nat) (f : Context → Context) : (s.modCtx k f).ctxOps = s.ctxOps := rfl
@[simp] theorem State.modCtx_part (s : State) (k : Nat) (f : Context → Context) : (s.modCtx k f).part = s.part := rfl
@[simp] theorem State.modCtx_fix (s : State) (k : Nat) (f : Context → Context) : (s.modCtx k f).fix = s.fix := rfl
@[simp] theorem State.modCtx_link (s : State) (k : Nat) (f : Context → Context) : (s.modCtx k f).link = s.link := rfl

/-! ### modSched -/

@[simp] theorem State.modSched_sched (s : State) (f : Sched → Sched) : (s.modSched f).sched = f s.sched := rfl
@[simp] theorem State.modSched_cur (s : State) (f : Sched → Sched) : (s.modSched f).cur = s.cur := rfl
@[simp] theorem State.modSched_slots (s : State) (f : Sched → Sched) : (s.modSched f).slots = s.slots := rfl
@[simp] theorem State.modSched_orphans (s : State) (f : Sched → Sched) : (s.modSched f).orphans = s.orphans := rfl
@[simp] theorem State.modSched_cores (s : State) (f : Sched → Sched) : (s.modSched f).cores = s.cores := rfl
@[simp] theorem State.modSched_cells (s : State) (f : Sched → Sched) : (s.modSched f).cells = s.cells := rfl
@[simp] theorem State.modSched_clusters (s : State) (f : Sched → Sched) : (s.modSched f).clusters = s.clusters := rfl
@[simp] theorem State.modSched_dies (s : State) (f : Sched → Sched) : (s.modSched f).dies = s.dies := rfl
@[simp] theorem State.modSched_blms (s : State) (f : Sched → Sched) : (s.modSched f).blms = s.blms := rfl
@[simp] theorem State.modSched_mem (s : State) (f : Sched → Sched) : (s.modSched f).mem = s.mem := rfl
@[simp] theorem State.modSched_poison (s : State) (f : Sched → Sched) : (s.modSched f).poison = s.poison := rfl
@[simp] theorem State.modSched_soft (s : State) (f : Sched → Sched) : (s.modSched f).soft = s.soft := rfl
@[simp] theorem State.modSched_unitKey (s : State) (f : Sched → Sched) : (s.modSched f).unitKey = s.unitKey := rfl
@[simp] theorem State.modSched_l2 (s : State) (f : Sched → Sched) : (s.modSched f).l2 = s.l2 := rfl
@[simp] theorem State.modSched_owners (s : State) (f : Sched → Sched) : (s.modSched f).owners = s.owners := rfl
@[simp] theorem State.modSched_regions (s : State) (f : Sched → Sched) : (s.modSched f).regions = s.regions := rfl
@[simp] theorem State.modSched_seq (s : State) (f : Sched → Sched) : (s.modSched f).seq = s.seq := rfl
@[simp] theorem State.modSched_ctxs (s : State) (f : Sched → Sched) : (s.modSched f).ctxs = s.ctxs := rfl
@[simp] theorem State.modSched_saved (s : State) (f : Sched → Sched) : (s.modSched f).saved = s.saved := rfl
@[simp] theorem State.modSched_savedEng (s : State) (f : Sched → Sched) : (s.modSched f).savedEng = s.savedEng := rfl
@[simp] theorem State.modSched_ctxOps (s : State) (f : Sched → Sched) : (s.modSched f).ctxOps = s.ctxOps := rfl
@[simp] theorem State.modSched_part (s : State) (f : Sched → Sched) : (s.modSched f).part = s.part := rfl
@[simp] theorem State.modSched_fix (s : State) (f : Sched → Sched) : (s.modSched f).fix = s.fix := rfl
@[simp] theorem State.modSched_link (s : State) (f : Sched → Sched) : (s.modSched f).link = s.link := rfl

/-! ### modSeq -/

@[simp] theorem State.modSeq_sched (s : State) (f : Sequencer → Sequencer) : (s.modSeq f).sched = s.sched := rfl
@[simp] theorem State.modSeq_cur (s : State) (f : Sequencer → Sequencer) : (s.modSeq f).cur = s.cur := rfl
@[simp] theorem State.modSeq_slots (s : State) (f : Sequencer → Sequencer) : (s.modSeq f).slots = s.slots := rfl
@[simp] theorem State.modSeq_orphans (s : State) (f : Sequencer → Sequencer) : (s.modSeq f).orphans = s.orphans := rfl
@[simp] theorem State.modSeq_cores (s : State) (f : Sequencer → Sequencer) : (s.modSeq f).cores = s.cores := rfl
@[simp] theorem State.modSeq_cells (s : State) (f : Sequencer → Sequencer) : (s.modSeq f).cells = s.cells := rfl
@[simp] theorem State.modSeq_clusters (s : State) (f : Sequencer → Sequencer) : (s.modSeq f).clusters = s.clusters := rfl
@[simp] theorem State.modSeq_dies (s : State) (f : Sequencer → Sequencer) : (s.modSeq f).dies = s.dies := rfl
@[simp] theorem State.modSeq_blms (s : State) (f : Sequencer → Sequencer) : (s.modSeq f).blms = s.blms := rfl
@[simp] theorem State.modSeq_mem (s : State) (f : Sequencer → Sequencer) : (s.modSeq f).mem = s.mem := rfl
@[simp] theorem State.modSeq_poison (s : State) (f : Sequencer → Sequencer) : (s.modSeq f).poison = s.poison := rfl
@[simp] theorem State.modSeq_soft (s : State) (f : Sequencer → Sequencer) : (s.modSeq f).soft = s.soft := rfl
@[simp] theorem State.modSeq_unitKey (s : State) (f : Sequencer → Sequencer) : (s.modSeq f).unitKey = s.unitKey := rfl
@[simp] theorem State.modSeq_l2 (s : State) (f : Sequencer → Sequencer) : (s.modSeq f).l2 = s.l2 := rfl
@[simp] theorem State.modSeq_owners (s : State) (f : Sequencer → Sequencer) : (s.modSeq f).owners = s.owners := rfl
@[simp] theorem State.modSeq_regions (s : State) (f : Sequencer → Sequencer) : (s.modSeq f).regions = s.regions := rfl
@[simp] theorem State.modSeq_seq (s : State) (f : Sequencer → Sequencer) : (s.modSeq f).seq = f s.seq := rfl
@[simp] theorem State.modSeq_ctxs (s : State) (f : Sequencer → Sequencer) : (s.modSeq f).ctxs = s.ctxs := rfl
@[simp] theorem State.modSeq_saved (s : State) (f : Sequencer → Sequencer) : (s.modSeq f).saved = s.saved := rfl
@[simp] theorem State.modSeq_savedEng (s : State) (f : Sequencer → Sequencer) : (s.modSeq f).savedEng = s.savedEng := rfl
@[simp] theorem State.modSeq_ctxOps (s : State) (f : Sequencer → Sequencer) : (s.modSeq f).ctxOps = s.ctxOps := rfl
@[simp] theorem State.modSeq_part (s : State) (f : Sequencer → Sequencer) : (s.modSeq f).part = s.part := rfl
@[simp] theorem State.modSeq_fix (s : State) (f : Sequencer → Sequencer) : (s.modSeq f).fix = s.fix := rfl
@[simp] theorem State.modSeq_link (s : State) (f : Sequencer → Sequencer) : (s.modSeq f).link = s.link := rfl

/-! ### modPart -/

@[simp] theorem State.modPart_sched (s : State) (f : Part → Part) : (s.modPart f).sched = s.sched := rfl
@[simp] theorem State.modPart_cur (s : State) (f : Part → Part) : (s.modPart f).cur = s.cur := rfl
@[simp] theorem State.modPart_slots (s : State) (f : Part → Part) : (s.modPart f).slots = s.slots := rfl
@[simp] theorem State.modPart_orphans (s : State) (f : Part → Part) : (s.modPart f).orphans = s.orphans := rfl
@[simp] theorem State.modPart_cores (s : State) (f : Part → Part) : (s.modPart f).cores = s.cores := rfl
@[simp] theorem State.modPart_cells (s : State) (f : Part → Part) : (s.modPart f).cells = s.cells := rfl
@[simp] theorem State.modPart_clusters (s : State) (f : Part → Part) : (s.modPart f).clusters = s.clusters := rfl
@[simp] theorem State.modPart_dies (s : State) (f : Part → Part) : (s.modPart f).dies = s.dies := rfl
@[simp] theorem State.modPart_blms (s : State) (f : Part → Part) : (s.modPart f).blms = s.blms := rfl
@[simp] theorem State.modPart_mem (s : State) (f : Part → Part) : (s.modPart f).mem = s.mem := rfl
@[simp] theorem State.modPart_poison (s : State) (f : Part → Part) : (s.modPart f).poison = s.poison := rfl
@[simp] theorem State.modPart_soft (s : State) (f : Part → Part) : (s.modPart f).soft = s.soft := rfl
@[simp] theorem State.modPart_unitKey (s : State) (f : Part → Part) : (s.modPart f).unitKey = s.unitKey := rfl
@[simp] theorem State.modPart_l2 (s : State) (f : Part → Part) : (s.modPart f).l2 = s.l2 := rfl
@[simp] theorem State.modPart_owners (s : State) (f : Part → Part) : (s.modPart f).owners = s.owners := rfl
@[simp] theorem State.modPart_regions (s : State) (f : Part → Part) : (s.modPart f).regions = s.regions := rfl
@[simp] theorem State.modPart_seq (s : State) (f : Part → Part) : (s.modPart f).seq = s.seq := rfl
@[simp] theorem State.modPart_ctxs (s : State) (f : Part → Part) : (s.modPart f).ctxs = s.ctxs := rfl
@[simp] theorem State.modPart_saved (s : State) (f : Part → Part) : (s.modPart f).saved = s.saved := rfl
@[simp] theorem State.modPart_savedEng (s : State) (f : Part → Part) : (s.modPart f).savedEng = s.savedEng := rfl
@[simp] theorem State.modPart_ctxOps (s : State) (f : Part → Part) : (s.modPart f).ctxOps = s.ctxOps := rfl
@[simp] theorem State.modPart_part (s : State) (f : Part → Part) : (s.modPart f).part = f s.part := rfl
@[simp] theorem State.modPart_fix (s : State) (f : Part → Part) : (s.modPart f).fix = s.fix := rfl
@[simp] theorem State.modPart_link (s : State) (f : Part → Part) : (s.modPart f).link = s.link := rfl

/-! ### modFix -/

@[simp] theorem State.modFix_sched (s : State) (f : Fix → Fix) : (s.modFix f).sched = s.sched := rfl
@[simp] theorem State.modFix_cur (s : State) (f : Fix → Fix) : (s.modFix f).cur = s.cur := rfl
@[simp] theorem State.modFix_slots (s : State) (f : Fix → Fix) : (s.modFix f).slots = s.slots := rfl
@[simp] theorem State.modFix_orphans (s : State) (f : Fix → Fix) : (s.modFix f).orphans = s.orphans := rfl
@[simp] theorem State.modFix_cores (s : State) (f : Fix → Fix) : (s.modFix f).cores = s.cores := rfl
@[simp] theorem State.modFix_cells (s : State) (f : Fix → Fix) : (s.modFix f).cells = s.cells := rfl
@[simp] theorem State.modFix_clusters (s : State) (f : Fix → Fix) : (s.modFix f).clusters = s.clusters := rfl
@[simp] theorem State.modFix_dies (s : State) (f : Fix → Fix) : (s.modFix f).dies = s.dies := rfl
@[simp] theorem State.modFix_blms (s : State) (f : Fix → Fix) : (s.modFix f).blms = s.blms := rfl
@[simp] theorem State.modFix_mem (s : State) (f : Fix → Fix) : (s.modFix f).mem = s.mem := rfl
@[simp] theorem State.modFix_poison (s : State) (f : Fix → Fix) : (s.modFix f).poison = s.poison := rfl
@[simp] theorem State.modFix_soft (s : State) (f : Fix → Fix) : (s.modFix f).soft = s.soft := rfl
@[simp] theorem State.modFix_unitKey (s : State) (f : Fix → Fix) : (s.modFix f).unitKey = s.unitKey := rfl
@[simp] theorem State.modFix_l2 (s : State) (f : Fix → Fix) : (s.modFix f).l2 = s.l2 := rfl
@[simp] theorem State.modFix_owners (s : State) (f : Fix → Fix) : (s.modFix f).owners = s.owners := rfl
@[simp] theorem State.modFix_regions (s : State) (f : Fix → Fix) : (s.modFix f).regions = s.regions := rfl
@[simp] theorem State.modFix_seq (s : State) (f : Fix → Fix) : (s.modFix f).seq = s.seq := rfl
@[simp] theorem State.modFix_ctxs (s : State) (f : Fix → Fix) : (s.modFix f).ctxs = s.ctxs := rfl
@[simp] theorem State.modFix_saved (s : State) (f : Fix → Fix) : (s.modFix f).saved = s.saved := rfl
@[simp] theorem State.modFix_savedEng (s : State) (f : Fix → Fix) : (s.modFix f).savedEng = s.savedEng := rfl
@[simp] theorem State.modFix_ctxOps (s : State) (f : Fix → Fix) : (s.modFix f).ctxOps = s.ctxOps := rfl
@[simp] theorem State.modFix_part (s : State) (f : Fix → Fix) : (s.modFix f).part = s.part := rfl
@[simp] theorem State.modFix_fix (s : State) (f : Fix → Fix) : (s.modFix f).fix = f s.fix := rfl
@[simp] theorem State.modFix_link (s : State) (f : Fix → Fix) : (s.modFix f).link = s.link := rfl

/-! ### modLink -/

@[simp] theorem State.modLink_sched (s : State) (f : Link → Link) : (s.modLink f).sched = s.sched := rfl
@[simp] theorem State.modLink_cur (s : State) (f : Link → Link) : (s.modLink f).cur = s.cur := rfl
@[simp] theorem State.modLink_slots (s : State) (f : Link → Link) : (s.modLink f).slots = s.slots := rfl
@[simp] theorem State.modLink_orphans (s : State) (f : Link → Link) : (s.modLink f).orphans = s.orphans := rfl
@[simp] theorem State.modLink_cores (s : State) (f : Link → Link) : (s.modLink f).cores = s.cores := rfl
@[simp] theorem State.modLink_cells (s : State) (f : Link → Link) : (s.modLink f).cells = s.cells := rfl
@[simp] theorem State.modLink_clusters (s : State) (f : Link → Link) : (s.modLink f).clusters = s.clusters := rfl
@[simp] theorem State.modLink_dies (s : State) (f : Link → Link) : (s.modLink f).dies = s.dies := rfl
@[simp] theorem State.modLink_blms (s : State) (f : Link → Link) : (s.modLink f).blms = s.blms := rfl
@[simp] theorem State.modLink_mem (s : State) (f : Link → Link) : (s.modLink f).mem = s.mem := rfl
@[simp] theorem State.modLink_poison (s : State) (f : Link → Link) : (s.modLink f).poison = s.poison := rfl
@[simp] theorem State.modLink_soft (s : State) (f : Link → Link) : (s.modLink f).soft = s.soft := rfl
@[simp] theorem State.modLink_unitKey (s : State) (f : Link → Link) : (s.modLink f).unitKey = s.unitKey := rfl
@[simp] theorem State.modLink_l2 (s : State) (f : Link → Link) : (s.modLink f).l2 = s.l2 := rfl
@[simp] theorem State.modLink_owners (s : State) (f : Link → Link) : (s.modLink f).owners = s.owners := rfl
@[simp] theorem State.modLink_regions (s : State) (f : Link → Link) : (s.modLink f).regions = s.regions := rfl
@[simp] theorem State.modLink_seq (s : State) (f : Link → Link) : (s.modLink f).seq = s.seq := rfl
@[simp] theorem State.modLink_ctxs (s : State) (f : Link → Link) : (s.modLink f).ctxs = s.ctxs := rfl
@[simp] theorem State.modLink_saved (s : State) (f : Link → Link) : (s.modLink f).saved = s.saved := rfl
@[simp] theorem State.modLink_savedEng (s : State) (f : Link → Link) : (s.modLink f).savedEng = s.savedEng := rfl
@[simp] theorem State.modLink_ctxOps (s : State) (f : Link → Link) : (s.modLink f).ctxOps = s.ctxOps := rfl
@[simp] theorem State.modLink_part (s : State) (f : Link → Link) : (s.modLink f).part = s.part := rfl
@[simp] theorem State.modLink_fix (s : State) (f : Link → Link) : (s.modLink f).fix = s.fix := rfl
@[simp] theorem State.modLink_link (s : State) (f : Link → Link) : (s.modLink f).link = f s.link := rfl

/-! ### putByte -/

@[simp] theorem State.putByte_sched (s : State) (a : Nat) (b : Byte) : (s.putByte a b).sched = s.sched := rfl
@[simp] theorem State.putByte_cur (s : State) (a : Nat) (b : Byte) : (s.putByte a b).cur = s.cur := rfl
@[simp] theorem State.putByte_slots (s : State) (a : Nat) (b : Byte) : (s.putByte a b).slots = s.slots := rfl
@[simp] theorem State.putByte_orphans (s : State) (a : Nat) (b : Byte) : (s.putByte a b).orphans = s.orphans := rfl
@[simp] theorem State.putByte_cores (s : State) (a : Nat) (b : Byte) : (s.putByte a b).cores = s.cores := rfl
@[simp] theorem State.putByte_cells (s : State) (a : Nat) (b : Byte) : (s.putByte a b).cells = s.cells := rfl
@[simp] theorem State.putByte_clusters (s : State) (a : Nat) (b : Byte) : (s.putByte a b).clusters = s.clusters := rfl
@[simp] theorem State.putByte_dies (s : State) (a : Nat) (b : Byte) : (s.putByte a b).dies = s.dies := rfl
@[simp] theorem State.putByte_blms (s : State) (a : Nat) (b : Byte) : (s.putByte a b).blms = s.blms := rfl
@[simp] theorem State.putByte_mem (s : State) (a : Nat) (b : Byte) : (s.putByte a b).mem = Memory.write s.mem a b := rfl
@[simp] theorem State.putByte_poison (s : State) (a : Nat) (b : Byte) : (s.putByte a b).poison = s.poison := rfl
@[simp] theorem State.putByte_soft (s : State) (a : Nat) (b : Byte) : (s.putByte a b).soft = s.soft := rfl
@[simp] theorem State.putByte_unitKey (s : State) (a : Nat) (b : Byte) : (s.putByte a b).unitKey = s.unitKey := rfl
@[simp] theorem State.putByte_l2 (s : State) (a : Nat) (b : Byte) : (s.putByte a b).l2 = s.l2 := rfl
@[simp] theorem State.putByte_owners (s : State) (a : Nat) (b : Byte) : (s.putByte a b).owners = s.owners := rfl
@[simp] theorem State.putByte_regions (s : State) (a : Nat) (b : Byte) : (s.putByte a b).regions = s.regions := rfl
@[simp] theorem State.putByte_seq (s : State) (a : Nat) (b : Byte) : (s.putByte a b).seq = s.seq := rfl
@[simp] theorem State.putByte_ctxs (s : State) (a : Nat) (b : Byte) : (s.putByte a b).ctxs = s.ctxs := rfl
@[simp] theorem State.putByte_saved (s : State) (a : Nat) (b : Byte) : (s.putByte a b).saved = s.saved := rfl
@[simp] theorem State.putByte_savedEng (s : State) (a : Nat) (b : Byte) : (s.putByte a b).savedEng = s.savedEng := rfl
@[simp] theorem State.putByte_ctxOps (s : State) (a : Nat) (b : Byte) : (s.putByte a b).ctxOps = s.ctxOps := rfl
@[simp] theorem State.putByte_part (s : State) (a : Nat) (b : Byte) : (s.putByte a b).part = s.part := rfl
@[simp] theorem State.putByte_fix (s : State) (a : Nat) (b : Byte) : (s.putByte a b).fix = s.fix := rfl
@[simp] theorem State.putByte_link (s : State) (a : Nat) (b : Byte) : (s.putByte a b).link = s.link := rfl

/-! ### putBytes -/

@[simp] theorem State.putBytes_sched (s : State) (bs : List (Nat × Byte)) : (s.putBytes bs).sched = s.sched := rfl
@[simp] theorem State.putBytes_cur (s : State) (bs : List (Nat × Byte)) : (s.putBytes bs).cur = s.cur := rfl
@[simp] theorem State.putBytes_slots (s : State) (bs : List (Nat × Byte)) : (s.putBytes bs).slots = s.slots := rfl
@[simp] theorem State.putBytes_orphans (s : State) (bs : List (Nat × Byte)) : (s.putBytes bs).orphans = s.orphans := rfl
@[simp] theorem State.putBytes_cores (s : State) (bs : List (Nat × Byte)) : (s.putBytes bs).cores = s.cores := rfl
@[simp] theorem State.putBytes_cells (s : State) (bs : List (Nat × Byte)) : (s.putBytes bs).cells = s.cells := rfl
@[simp] theorem State.putBytes_clusters (s : State) (bs : List (Nat × Byte)) : (s.putBytes bs).clusters = s.clusters := rfl
@[simp] theorem State.putBytes_dies (s : State) (bs : List (Nat × Byte)) : (s.putBytes bs).dies = s.dies := rfl
@[simp] theorem State.putBytes_blms (s : State) (bs : List (Nat × Byte)) : (s.putBytes bs).blms = s.blms := rfl
@[simp] theorem State.putBytes_mem (s : State) (bs : List (Nat × Byte)) : (s.putBytes bs).mem = bs.foldl (fun m e => Memory.write m e.1 e.2) s.mem := rfl
@[simp] theorem State.putBytes_poison (s : State) (bs : List (Nat × Byte)) : (s.putBytes bs).poison = s.poison := rfl
@[simp] theorem State.putBytes_soft (s : State) (bs : List (Nat × Byte)) : (s.putBytes bs).soft = s.soft := rfl
@[simp] theorem State.putBytes_unitKey (s : State) (bs : List (Nat × Byte)) : (s.putBytes bs).unitKey = s.unitKey := rfl
@[simp] theorem State.putBytes_l2 (s : State) (bs : List (Nat × Byte)) : (s.putBytes bs).l2 = s.l2 := rfl
@[simp] theorem State.putBytes_owners (s : State) (bs : List (Nat × Byte)) : (s.putBytes bs).owners = s.owners := rfl
@[simp] theorem State.putBytes_regions (s : State) (bs : List (Nat × Byte)) : (s.putBytes bs).regions = s.regions := rfl
@[simp] theorem State.putBytes_seq (s : State) (bs : List (Nat × Byte)) : (s.putBytes bs).seq = s.seq := rfl
@[simp] theorem State.putBytes_ctxs (s : State) (bs : List (Nat × Byte)) : (s.putBytes bs).ctxs = s.ctxs := rfl
@[simp] theorem State.putBytes_saved (s : State) (bs : List (Nat × Byte)) : (s.putBytes bs).saved = s.saved := rfl
@[simp] theorem State.putBytes_savedEng (s : State) (bs : List (Nat × Byte)) : (s.putBytes bs).savedEng = s.savedEng := rfl
@[simp] theorem State.putBytes_ctxOps (s : State) (bs : List (Nat × Byte)) : (s.putBytes bs).ctxOps = s.ctxOps := rfl
@[simp] theorem State.putBytes_part (s : State) (bs : List (Nat × Byte)) : (s.putBytes bs).part = s.part := rfl
@[simp] theorem State.putBytes_fix (s : State) (bs : List (Nat × Byte)) : (s.putBytes bs).fix = s.fix := rfl
@[simp] theorem State.putBytes_link (s : State) (bs : List (Nat × Byte)) : (s.putBytes bs).link = s.link := rfl

/-! ### sendIn -/

@[simp] theorem State.sendIn_cur (s : State) (cls src dst n : Nat) (p : Parcel) : (s.sendIn cls src dst n p).cur = s.cur := rfl
@[simp] theorem State.sendIn_slots (s : State) (cls src dst n : Nat) (p : Parcel) : (s.sendIn cls src dst n p).slots = s.slots := rfl
@[simp] theorem State.sendIn_orphans (s : State) (cls src dst n : Nat) (p : Parcel) : (s.sendIn cls src dst n p).orphans = s.orphans := rfl
@[simp] theorem State.sendIn_cores (s : State) (cls src dst n : Nat) (p : Parcel) : (s.sendIn cls src dst n p).cores = s.cores := rfl
@[simp] theorem State.sendIn_cells (s : State) (cls src dst n : Nat) (p : Parcel) : (s.sendIn cls src dst n p).cells = s.cells := rfl
@[simp] theorem State.sendIn_clusters (s : State) (cls src dst n : Nat) (p : Parcel) : (s.sendIn cls src dst n p).clusters = s.clusters := rfl
@[simp] theorem State.sendIn_dies (s : State) (cls src dst n : Nat) (p : Parcel) : (s.sendIn cls src dst n p).dies = s.dies := rfl
@[simp] theorem State.sendIn_blms (s : State) (cls src dst n : Nat) (p : Parcel) : (s.sendIn cls src dst n p).blms = s.blms := rfl
@[simp] theorem State.sendIn_mem (s : State) (cls src dst n : Nat) (p : Parcel) : (s.sendIn cls src dst n p).mem = s.mem := rfl
@[simp] theorem State.sendIn_poison (s : State) (cls src dst n : Nat) (p : Parcel) : (s.sendIn cls src dst n p).poison = s.poison := rfl
@[simp] theorem State.sendIn_soft (s : State) (cls src dst n : Nat) (p : Parcel) : (s.sendIn cls src dst n p).soft = s.soft := rfl
@[simp] theorem State.sendIn_unitKey (s : State) (cls src dst n : Nat) (p : Parcel) : (s.sendIn cls src dst n p).unitKey = s.unitKey := rfl
@[simp] theorem State.sendIn_l2 (s : State) (cls src dst n : Nat) (p : Parcel) : (s.sendIn cls src dst n p).l2 = s.l2 := rfl
@[simp] theorem State.sendIn_owners (s : State) (cls src dst n : Nat) (p : Parcel) : (s.sendIn cls src dst n p).owners = s.owners := rfl
@[simp] theorem State.sendIn_regions (s : State) (cls src dst n : Nat) (p : Parcel) : (s.sendIn cls src dst n p).regions = s.regions := rfl
@[simp] theorem State.sendIn_seq (s : State) (cls src dst n : Nat) (p : Parcel) : (s.sendIn cls src dst n p).seq = s.seq := rfl
@[simp] theorem State.sendIn_ctxs (s : State) (cls src dst n : Nat) (p : Parcel) : (s.sendIn cls src dst n p).ctxs = s.ctxs := rfl
@[simp] theorem State.sendIn_saved (s : State) (cls src dst n : Nat) (p : Parcel) : (s.sendIn cls src dst n p).saved = s.saved := rfl
@[simp] theorem State.sendIn_savedEng (s : State) (cls src dst n : Nat) (p : Parcel) : (s.sendIn cls src dst n p).savedEng = s.savedEng := rfl
@[simp] theorem State.sendIn_ctxOps (s : State) (cls src dst n : Nat) (p : Parcel) : (s.sendIn cls src dst n p).ctxOps = s.ctxOps := rfl
@[simp] theorem State.sendIn_part (s : State) (cls src dst n : Nat) (p : Parcel) : (s.sendIn cls src dst n p).part = s.part := rfl
@[simp] theorem State.sendIn_fix (s : State) (cls src dst n : Nat) (p : Parcel) : (s.sendIn cls src dst n p).fix = s.fix := rfl
@[simp] theorem State.sendIn_link (s : State) (cls src dst n : Nat) (p : Parcel) : (s.sendIn cls src dst n p).link = s.link := rfl

/-! ### after -/

@[simp] theorem State.after_cur (s : State) (n : Nat) (i : Instr) (u : Nat) : (s.after n i u).cur = s.cur := rfl
@[simp] theorem State.after_slots (s : State) (n : Nat) (i : Instr) (u : Nat) : (s.after n i u).slots = s.slots := rfl
@[simp] theorem State.after_orphans (s : State) (n : Nat) (i : Instr) (u : Nat) : (s.after n i u).orphans = s.orphans := rfl
@[simp] theorem State.after_cores (s : State) (n : Nat) (i : Instr) (u : Nat) : (s.after n i u).cores = s.cores := rfl
@[simp] theorem State.after_cells (s : State) (n : Nat) (i : Instr) (u : Nat) : (s.after n i u).cells = s.cells := rfl
@[simp] theorem State.after_clusters (s : State) (n : Nat) (i : Instr) (u : Nat) : (s.after n i u).clusters = s.clusters := rfl
@[simp] theorem State.after_dies (s : State) (n : Nat) (i : Instr) (u : Nat) : (s.after n i u).dies = s.dies := rfl
@[simp] theorem State.after_blms (s : State) (n : Nat) (i : Instr) (u : Nat) : (s.after n i u).blms = s.blms := rfl
@[simp] theorem State.after_mem (s : State) (n : Nat) (i : Instr) (u : Nat) : (s.after n i u).mem = s.mem := rfl
@[simp] theorem State.after_poison (s : State) (n : Nat) (i : Instr) (u : Nat) : (s.after n i u).poison = s.poison := rfl
@[simp] theorem State.after_soft (s : State) (n : Nat) (i : Instr) (u : Nat) : (s.after n i u).soft = s.soft := rfl
@[simp] theorem State.after_unitKey (s : State) (n : Nat) (i : Instr) (u : Nat) : (s.after n i u).unitKey = s.unitKey := rfl
@[simp] theorem State.after_l2 (s : State) (n : Nat) (i : Instr) (u : Nat) : (s.after n i u).l2 = s.l2 := rfl
@[simp] theorem State.after_owners (s : State) (n : Nat) (i : Instr) (u : Nat) : (s.after n i u).owners = s.owners := rfl
@[simp] theorem State.after_regions (s : State) (n : Nat) (i : Instr) (u : Nat) : (s.after n i u).regions = s.regions := rfl
@[simp] theorem State.after_seq (s : State) (n : Nat) (i : Instr) (u : Nat) : (s.after n i u).seq = s.seq := rfl
@[simp] theorem State.after_ctxs (s : State) (n : Nat) (i : Instr) (u : Nat) : (s.after n i u).ctxs = s.ctxs := rfl
@[simp] theorem State.after_saved (s : State) (n : Nat) (i : Instr) (u : Nat) : (s.after n i u).saved = s.saved := rfl
@[simp] theorem State.after_savedEng (s : State) (n : Nat) (i : Instr) (u : Nat) : (s.after n i u).savedEng = s.savedEng := rfl
@[simp] theorem State.after_ctxOps (s : State) (n : Nat) (i : Instr) (u : Nat) : (s.after n i u).ctxOps = s.ctxOps := rfl
@[simp] theorem State.after_part (s : State) (n : Nat) (i : Instr) (u : Nat) : (s.after n i u).part = s.part := rfl
@[simp] theorem State.after_fix (s : State) (n : Nat) (i : Instr) (u : Nat) : (s.after n i u).fix = s.fix := rfl
@[simp] theorem State.after_link (s : State) (n : Nat) (i : Instr) (u : Nat) : (s.after n i u).link = s.link := rfl

/-! ### thenDo -/

@[simp] theorem State.thenDo_cur (s : State) (i : Instr) (u : Nat) : (s.thenDo i u).cur = s.cur := rfl
@[simp] theorem State.thenDo_slots (s : State) (i : Instr) (u : Nat) : (s.thenDo i u).slots = s.slots := rfl
@[simp] theorem State.thenDo_orphans (s : State) (i : Instr) (u : Nat) : (s.thenDo i u).orphans = s.orphans := rfl
@[simp] theorem State.thenDo_cores (s : State) (i : Instr) (u : Nat) : (s.thenDo i u).cores = s.cores := rfl
@[simp] theorem State.thenDo_cells (s : State) (i : Instr) (u : Nat) : (s.thenDo i u).cells = s.cells := rfl
@[simp] theorem State.thenDo_clusters (s : State) (i : Instr) (u : Nat) : (s.thenDo i u).clusters = s.clusters := rfl
@[simp] theorem State.thenDo_dies (s : State) (i : Instr) (u : Nat) : (s.thenDo i u).dies = s.dies := rfl
@[simp] theorem State.thenDo_blms (s : State) (i : Instr) (u : Nat) : (s.thenDo i u).blms = s.blms := rfl
@[simp] theorem State.thenDo_mem (s : State) (i : Instr) (u : Nat) : (s.thenDo i u).mem = s.mem := rfl
@[simp] theorem State.thenDo_poison (s : State) (i : Instr) (u : Nat) : (s.thenDo i u).poison = s.poison := rfl
@[simp] theorem State.thenDo_soft (s : State) (i : Instr) (u : Nat) : (s.thenDo i u).soft = s.soft := rfl
@[simp] theorem State.thenDo_unitKey (s : State) (i : Instr) (u : Nat) : (s.thenDo i u).unitKey = s.unitKey := rfl
@[simp] theorem State.thenDo_l2 (s : State) (i : Instr) (u : Nat) : (s.thenDo i u).l2 = s.l2 := rfl
@[simp] theorem State.thenDo_owners (s : State) (i : Instr) (u : Nat) : (s.thenDo i u).owners = s.owners := rfl
@[simp] theorem State.thenDo_regions (s : State) (i : Instr) (u : Nat) : (s.thenDo i u).regions = s.regions := rfl
@[simp] theorem State.thenDo_seq (s : State) (i : Instr) (u : Nat) : (s.thenDo i u).seq = s.seq := rfl
@[simp] theorem State.thenDo_ctxs (s : State) (i : Instr) (u : Nat) : (s.thenDo i u).ctxs = s.ctxs := rfl
@[simp] theorem State.thenDo_saved (s : State) (i : Instr) (u : Nat) : (s.thenDo i u).saved = s.saved := rfl
@[simp] theorem State.thenDo_savedEng (s : State) (i : Instr) (u : Nat) : (s.thenDo i u).savedEng = s.savedEng := rfl
@[simp] theorem State.thenDo_ctxOps (s : State) (i : Instr) (u : Nat) : (s.thenDo i u).ctxOps = s.ctxOps := rfl
@[simp] theorem State.thenDo_part (s : State) (i : Instr) (u : Nat) : (s.thenDo i u).part = s.part := rfl
@[simp] theorem State.thenDo_fix (s : State) (i : Instr) (u : Nat) : (s.thenDo i u).fix = s.fix := rfl
@[simp] theorem State.thenDo_link (s : State) (i : Instr) (u : Nat) : (s.thenDo i u).link = s.link := rfl

/-! ### A fresh free number -/

@[simp] theorem State.freeNat_cur (s : State) : s.freeNat.2.cur = s.cur := rfl
@[simp] theorem State.freeWord_cur (s : State) : s.freeWord.2.cur = s.cur := rfl
@[simp] theorem State.sendWithin_cur (s : State) (cls src dst m : Nat) (p : Parcel) : (s.sendWithin cls src dst m p).cur = s.cur := rfl
@[simp] theorem State.sendFrom_cur (s : State) (cls src dst least from_ : Nat) (p : Parcel) : (s.sendFrom cls src dst least from_ p).cur = s.cur := rfl
@[simp] theorem State.send_cur (s : State) (cls src dst : Nat) (p : Parcel) : (s.send cls src dst p).cur = s.cur := rfl
@[simp] theorem State.freeNat_slots (s : State) : s.freeNat.2.slots = s.slots := rfl
@[simp] theorem State.freeWord_slots (s : State) : s.freeWord.2.slots = s.slots := rfl
@[simp] theorem State.sendWithin_slots (s : State) (cls src dst m : Nat) (p : Parcel) : (s.sendWithin cls src dst m p).slots = s.slots := rfl
@[simp] theorem State.sendFrom_slots (s : State) (cls src dst least from_ : Nat) (p : Parcel) : (s.sendFrom cls src dst least from_ p).slots = s.slots := rfl
@[simp] theorem State.send_slots (s : State) (cls src dst : Nat) (p : Parcel) : (s.send cls src dst p).slots = s.slots := rfl
@[simp] theorem State.freeNat_orphans (s : State) : s.freeNat.2.orphans = s.orphans := rfl
@[simp] theorem State.freeWord_orphans (s : State) : s.freeWord.2.orphans = s.orphans := rfl
@[simp] theorem State.sendWithin_orphans (s : State) (cls src dst m : Nat) (p : Parcel) : (s.sendWithin cls src dst m p).orphans = s.orphans := rfl
@[simp] theorem State.sendFrom_orphans (s : State) (cls src dst least from_ : Nat) (p : Parcel) : (s.sendFrom cls src dst least from_ p).orphans = s.orphans := rfl
@[simp] theorem State.send_orphans (s : State) (cls src dst : Nat) (p : Parcel) : (s.send cls src dst p).orphans = s.orphans := rfl
@[simp] theorem State.freeNat_cores (s : State) : s.freeNat.2.cores = s.cores := rfl
@[simp] theorem State.freeWord_cores (s : State) : s.freeWord.2.cores = s.cores := rfl
@[simp] theorem State.sendWithin_cores (s : State) (cls src dst m : Nat) (p : Parcel) : (s.sendWithin cls src dst m p).cores = s.cores := rfl
@[simp] theorem State.sendFrom_cores (s : State) (cls src dst least from_ : Nat) (p : Parcel) : (s.sendFrom cls src dst least from_ p).cores = s.cores := rfl
@[simp] theorem State.send_cores (s : State) (cls src dst : Nat) (p : Parcel) : (s.send cls src dst p).cores = s.cores := rfl
@[simp] theorem State.freeNat_cells (s : State) : s.freeNat.2.cells = s.cells := rfl
@[simp] theorem State.freeWord_cells (s : State) : s.freeWord.2.cells = s.cells := rfl
@[simp] theorem State.sendWithin_cells (s : State) (cls src dst m : Nat) (p : Parcel) : (s.sendWithin cls src dst m p).cells = s.cells := rfl
@[simp] theorem State.sendFrom_cells (s : State) (cls src dst least from_ : Nat) (p : Parcel) : (s.sendFrom cls src dst least from_ p).cells = s.cells := rfl
@[simp] theorem State.send_cells (s : State) (cls src dst : Nat) (p : Parcel) : (s.send cls src dst p).cells = s.cells := rfl
@[simp] theorem State.freeNat_clusters (s : State) : s.freeNat.2.clusters = s.clusters := rfl
@[simp] theorem State.freeWord_clusters (s : State) : s.freeWord.2.clusters = s.clusters := rfl
@[simp] theorem State.sendWithin_clusters (s : State) (cls src dst m : Nat) (p : Parcel) : (s.sendWithin cls src dst m p).clusters = s.clusters := rfl
@[simp] theorem State.sendFrom_clusters (s : State) (cls src dst least from_ : Nat) (p : Parcel) : (s.sendFrom cls src dst least from_ p).clusters = s.clusters := rfl
@[simp] theorem State.send_clusters (s : State) (cls src dst : Nat) (p : Parcel) : (s.send cls src dst p).clusters = s.clusters := rfl
@[simp] theorem State.freeNat_dies (s : State) : s.freeNat.2.dies = s.dies := rfl
@[simp] theorem State.freeWord_dies (s : State) : s.freeWord.2.dies = s.dies := rfl
@[simp] theorem State.sendWithin_dies (s : State) (cls src dst m : Nat) (p : Parcel) : (s.sendWithin cls src dst m p).dies = s.dies := rfl
@[simp] theorem State.sendFrom_dies (s : State) (cls src dst least from_ : Nat) (p : Parcel) : (s.sendFrom cls src dst least from_ p).dies = s.dies := rfl
@[simp] theorem State.send_dies (s : State) (cls src dst : Nat) (p : Parcel) : (s.send cls src dst p).dies = s.dies := rfl
@[simp] theorem State.freeNat_blms (s : State) : s.freeNat.2.blms = s.blms := rfl
@[simp] theorem State.freeWord_blms (s : State) : s.freeWord.2.blms = s.blms := rfl
@[simp] theorem State.sendWithin_blms (s : State) (cls src dst m : Nat) (p : Parcel) : (s.sendWithin cls src dst m p).blms = s.blms := rfl
@[simp] theorem State.sendFrom_blms (s : State) (cls src dst least from_ : Nat) (p : Parcel) : (s.sendFrom cls src dst least from_ p).blms = s.blms := rfl
@[simp] theorem State.send_blms (s : State) (cls src dst : Nat) (p : Parcel) : (s.send cls src dst p).blms = s.blms := rfl
@[simp] theorem State.freeNat_mem (s : State) : s.freeNat.2.mem = s.mem := rfl
@[simp] theorem State.freeWord_mem (s : State) : s.freeWord.2.mem = s.mem := rfl
@[simp] theorem State.sendWithin_mem (s : State) (cls src dst m : Nat) (p : Parcel) : (s.sendWithin cls src dst m p).mem = s.mem := rfl
@[simp] theorem State.sendFrom_mem (s : State) (cls src dst least from_ : Nat) (p : Parcel) : (s.sendFrom cls src dst least from_ p).mem = s.mem := rfl
@[simp] theorem State.send_mem (s : State) (cls src dst : Nat) (p : Parcel) : (s.send cls src dst p).mem = s.mem := rfl
@[simp] theorem State.freeNat_poison (s : State) : s.freeNat.2.poison = s.poison := rfl
@[simp] theorem State.freeWord_poison (s : State) : s.freeWord.2.poison = s.poison := rfl
@[simp] theorem State.sendWithin_poison (s : State) (cls src dst m : Nat) (p : Parcel) : (s.sendWithin cls src dst m p).poison = s.poison := rfl
@[simp] theorem State.sendFrom_poison (s : State) (cls src dst least from_ : Nat) (p : Parcel) : (s.sendFrom cls src dst least from_ p).poison = s.poison := rfl
@[simp] theorem State.send_poison (s : State) (cls src dst : Nat) (p : Parcel) : (s.send cls src dst p).poison = s.poison := rfl
@[simp] theorem State.freeNat_soft (s : State) : s.freeNat.2.soft = s.soft := rfl
@[simp] theorem State.freeWord_soft (s : State) : s.freeWord.2.soft = s.soft := rfl
@[simp] theorem State.sendWithin_soft (s : State) (cls src dst m : Nat) (p : Parcel) : (s.sendWithin cls src dst m p).soft = s.soft := rfl
@[simp] theorem State.sendFrom_soft (s : State) (cls src dst least from_ : Nat) (p : Parcel) : (s.sendFrom cls src dst least from_ p).soft = s.soft := rfl
@[simp] theorem State.send_soft (s : State) (cls src dst : Nat) (p : Parcel) : (s.send cls src dst p).soft = s.soft := rfl
@[simp] theorem State.freeNat_unitKey (s : State) : s.freeNat.2.unitKey = s.unitKey := rfl
@[simp] theorem State.freeWord_unitKey (s : State) : s.freeWord.2.unitKey = s.unitKey := rfl
@[simp] theorem State.sendWithin_unitKey (s : State) (cls src dst m : Nat) (p : Parcel) : (s.sendWithin cls src dst m p).unitKey = s.unitKey := rfl
@[simp] theorem State.sendFrom_unitKey (s : State) (cls src dst least from_ : Nat) (p : Parcel) : (s.sendFrom cls src dst least from_ p).unitKey = s.unitKey := rfl
@[simp] theorem State.send_unitKey (s : State) (cls src dst : Nat) (p : Parcel) : (s.send cls src dst p).unitKey = s.unitKey := rfl
@[simp] theorem State.freeNat_l2 (s : State) : s.freeNat.2.l2 = s.l2 := rfl
@[simp] theorem State.freeWord_l2 (s : State) : s.freeWord.2.l2 = s.l2 := rfl
@[simp] theorem State.sendWithin_l2 (s : State) (cls src dst m : Nat) (p : Parcel) : (s.sendWithin cls src dst m p).l2 = s.l2 := rfl
@[simp] theorem State.sendFrom_l2 (s : State) (cls src dst least from_ : Nat) (p : Parcel) : (s.sendFrom cls src dst least from_ p).l2 = s.l2 := rfl
@[simp] theorem State.send_l2 (s : State) (cls src dst : Nat) (p : Parcel) : (s.send cls src dst p).l2 = s.l2 := rfl
@[simp] theorem State.freeNat_owners (s : State) : s.freeNat.2.owners = s.owners := rfl
@[simp] theorem State.freeWord_owners (s : State) : s.freeWord.2.owners = s.owners := rfl
@[simp] theorem State.sendWithin_owners (s : State) (cls src dst m : Nat) (p : Parcel) : (s.sendWithin cls src dst m p).owners = s.owners := rfl
@[simp] theorem State.sendFrom_owners (s : State) (cls src dst least from_ : Nat) (p : Parcel) : (s.sendFrom cls src dst least from_ p).owners = s.owners := rfl
@[simp] theorem State.send_owners (s : State) (cls src dst : Nat) (p : Parcel) : (s.send cls src dst p).owners = s.owners := rfl
@[simp] theorem State.freeNat_regions (s : State) : s.freeNat.2.regions = s.regions := rfl
@[simp] theorem State.freeWord_regions (s : State) : s.freeWord.2.regions = s.regions := rfl
@[simp] theorem State.sendWithin_regions (s : State) (cls src dst m : Nat) (p : Parcel) : (s.sendWithin cls src dst m p).regions = s.regions := rfl
@[simp] theorem State.sendFrom_regions (s : State) (cls src dst least from_ : Nat) (p : Parcel) : (s.sendFrom cls src dst least from_ p).regions = s.regions := rfl
@[simp] theorem State.send_regions (s : State) (cls src dst : Nat) (p : Parcel) : (s.send cls src dst p).regions = s.regions := rfl
@[simp] theorem State.freeNat_seq (s : State) : s.freeNat.2.seq = s.seq := rfl
@[simp] theorem State.freeWord_seq (s : State) : s.freeWord.2.seq = s.seq := rfl
@[simp] theorem State.sendWithin_seq (s : State) (cls src dst m : Nat) (p : Parcel) : (s.sendWithin cls src dst m p).seq = s.seq := rfl
@[simp] theorem State.sendFrom_seq (s : State) (cls src dst least from_ : Nat) (p : Parcel) : (s.sendFrom cls src dst least from_ p).seq = s.seq := rfl
@[simp] theorem State.send_seq (s : State) (cls src dst : Nat) (p : Parcel) : (s.send cls src dst p).seq = s.seq := rfl
@[simp] theorem State.freeNat_ctxs (s : State) : s.freeNat.2.ctxs = s.ctxs := rfl
@[simp] theorem State.freeWord_ctxs (s : State) : s.freeWord.2.ctxs = s.ctxs := rfl
@[simp] theorem State.sendWithin_ctxs (s : State) (cls src dst m : Nat) (p : Parcel) : (s.sendWithin cls src dst m p).ctxs = s.ctxs := rfl
@[simp] theorem State.sendFrom_ctxs (s : State) (cls src dst least from_ : Nat) (p : Parcel) : (s.sendFrom cls src dst least from_ p).ctxs = s.ctxs := rfl
@[simp] theorem State.send_ctxs (s : State) (cls src dst : Nat) (p : Parcel) : (s.send cls src dst p).ctxs = s.ctxs := rfl
@[simp] theorem State.freeNat_saved (s : State) : s.freeNat.2.saved = s.saved := rfl
@[simp] theorem State.freeWord_saved (s : State) : s.freeWord.2.saved = s.saved := rfl
@[simp] theorem State.sendWithin_saved (s : State) (cls src dst m : Nat) (p : Parcel) : (s.sendWithin cls src dst m p).saved = s.saved := rfl
@[simp] theorem State.sendFrom_saved (s : State) (cls src dst least from_ : Nat) (p : Parcel) : (s.sendFrom cls src dst least from_ p).saved = s.saved := rfl
@[simp] theorem State.send_saved (s : State) (cls src dst : Nat) (p : Parcel) : (s.send cls src dst p).saved = s.saved := rfl
@[simp] theorem State.freeNat_savedEng (s : State) : s.freeNat.2.savedEng = s.savedEng := rfl
@[simp] theorem State.freeWord_savedEng (s : State) : s.freeWord.2.savedEng = s.savedEng := rfl
@[simp] theorem State.sendWithin_savedEng (s : State) (cls src dst m : Nat) (p : Parcel) : (s.sendWithin cls src dst m p).savedEng = s.savedEng := rfl
@[simp] theorem State.sendFrom_savedEng (s : State) (cls src dst least from_ : Nat) (p : Parcel) : (s.sendFrom cls src dst least from_ p).savedEng = s.savedEng := rfl
@[simp] theorem State.send_savedEng (s : State) (cls src dst : Nat) (p : Parcel) : (s.send cls src dst p).savedEng = s.savedEng := rfl
@[simp] theorem State.freeNat_ctxOps (s : State) : s.freeNat.2.ctxOps = s.ctxOps := rfl
@[simp] theorem State.freeWord_ctxOps (s : State) : s.freeWord.2.ctxOps = s.ctxOps := rfl
@[simp] theorem State.sendWithin_ctxOps (s : State) (cls src dst m : Nat) (p : Parcel) : (s.sendWithin cls src dst m p).ctxOps = s.ctxOps := rfl
@[simp] theorem State.sendFrom_ctxOps (s : State) (cls src dst least from_ : Nat) (p : Parcel) : (s.sendFrom cls src dst least from_ p).ctxOps = s.ctxOps := rfl
@[simp] theorem State.send_ctxOps (s : State) (cls src dst : Nat) (p : Parcel) : (s.send cls src dst p).ctxOps = s.ctxOps := rfl
@[simp] theorem State.freeNat_part (s : State) : s.freeNat.2.part = s.part := rfl
@[simp] theorem State.freeWord_part (s : State) : s.freeWord.2.part = s.part := rfl
@[simp] theorem State.sendWithin_part (s : State) (cls src dst m : Nat) (p : Parcel) : (s.sendWithin cls src dst m p).part = s.part := rfl
@[simp] theorem State.sendFrom_part (s : State) (cls src dst least from_ : Nat) (p : Parcel) : (s.sendFrom cls src dst least from_ p).part = s.part := rfl
@[simp] theorem State.send_part (s : State) (cls src dst : Nat) (p : Parcel) : (s.send cls src dst p).part = s.part := rfl
@[simp] theorem State.freeNat_fix (s : State) : s.freeNat.2.fix = s.fix := rfl
@[simp] theorem State.freeWord_fix (s : State) : s.freeWord.2.fix = s.fix := rfl
@[simp] theorem State.sendWithin_fix (s : State) (cls src dst m : Nat) (p : Parcel) : (s.sendWithin cls src dst m p).fix = s.fix := rfl
@[simp] theorem State.sendFrom_fix (s : State) (cls src dst least from_ : Nat) (p : Parcel) : (s.sendFrom cls src dst least from_ p).fix = s.fix := rfl
@[simp] theorem State.send_fix (s : State) (cls src dst : Nat) (p : Parcel) : (s.send cls src dst p).fix = s.fix := rfl
@[simp] theorem State.freeNat_link (s : State) : s.freeNat.2.link = s.link := rfl
@[simp] theorem State.freeWord_link (s : State) : s.freeWord.2.link = s.link := rfl
@[simp] theorem State.sendWithin_link (s : State) (cls src dst m : Nat) (p : Parcel) : (s.sendWithin cls src dst m p).link = s.link := rfl
@[simp] theorem State.sendFrom_link (s : State) (cls src dst least from_ : Nat) (p : Parcel) : (s.sendFrom cls src dst least from_ p).link = s.link := rfl
@[simp] theorem State.send_link (s : State) (cls src dst : Nat) (p : Parcel) : (s.send cls src dst p).link = s.link := rfl

/-! ### Registers of a slot written -/

@[simp] theorem Slot.setG_run (sl : Slot) (r : Reg) (v : Word) : (sl.setG r v).run = sl.run := by
  unfold Slot.setG; split <;> rfl
@[simp] theorem Slot.setP_run (sl : Slot) (p : PredIx) (b : Bool) : (sl.setP p b).run = sl.run := by
  unfold Slot.setP; split <;> rfl
@[simp] theorem Slot.setPw_run (sl : Slot) (v : BitVec 16) : (sl.setPw v).run = sl.run := rfl
@[simp] theorem Slot.setStream_run (sl : Slot) (i : Fin 8) (x : Stream) : (sl.setStream i x).run = sl.run := rfl
@[simp] theorem Slot.count_run (sl : Slot) : sl.count.run = sl.run := rfl
@[simp] theorem Slot.endCheck_run (sl : Slot) (e n : Word) : (sl.endCheck e n).run = sl.run := by
  simp only [Slot.endCheck]; repeat' split
  all_goals rfl
@[simp] theorem Slot.setG_pend (sl : Slot) (r : Reg) (v : Word) : (sl.setG r v).pend = sl.pend := by
  unfold Slot.setG; split <;> rfl
@[simp] theorem Slot.setP_pend (sl : Slot) (p : PredIx) (b : Bool) : (sl.setP p b).pend = sl.pend := by
  unfold Slot.setP; split <;> rfl
@[simp] theorem Slot.setPw_pend (sl : Slot) (v : BitVec 16) : (sl.setPw v).pend = sl.pend := rfl
@[simp] theorem Slot.setStream_pend (sl : Slot) (i : Fin 8) (x : Stream) : (sl.setStream i x).pend = sl.pend := rfl
@[simp] theorem Slot.count_pend (sl : Slot) : sl.count.pend = sl.pend := rfl
@[simp] theorem Slot.endCheck_pend (sl : Slot) (e n : Word) : (sl.endCheck e n).pend = sl.pend := by
  simp only [Slot.endCheck]; repeat' split
  all_goals rfl
@[simp] theorem Slot.setG_counted (sl : Slot) (r : Reg) (v : Word) : (sl.setG r v).counted = sl.counted := by
  unfold Slot.setG; split <;> rfl
@[simp] theorem Slot.setP_counted (sl : Slot) (p : PredIx) (b : Bool) : (sl.setP p b).counted = sl.counted := by
  unfold Slot.setP; split <;> rfl
@[simp] theorem Slot.setPw_counted (sl : Slot) (v : BitVec 16) : (sl.setPw v).counted = sl.counted := rfl
@[simp] theorem Slot.setStream_counted (sl : Slot) (i : Fin 8) (x : Stream) : (sl.setStream i x).counted = sl.counted := rfl
@[simp] theorem Slot.endCheck_counted (sl : Slot) (e n : Word) : (sl.endCheck e n).counted = sl.counted := by
  simp only [Slot.endCheck]; repeat' split
  all_goals rfl
@[simp] theorem Slot.setG_pc (sl : Slot) (r : Reg) (v : Word) : (sl.setG r v).pc = sl.pc := by
  unfold Slot.setG; split <;> rfl
@[simp] theorem Slot.setP_pc (sl : Slot) (p : PredIx) (b : Bool) : (sl.setP p b).pc = sl.pc := by
  unfold Slot.setP; split <;> rfl
@[simp] theorem Slot.setPw_pc (sl : Slot) (v : BitVec 16) : (sl.setPw v).pc = sl.pc := rfl
@[simp] theorem Slot.setStream_pc (sl : Slot) (i : Fin 8) (x : Stream) : (sl.setStream i x).pc = sl.pc := rfl
@[simp] theorem Slot.count_pc (sl : Slot) : sl.count.pc = sl.pc := rfl
@[simp] theorem Slot.setP_regs (sl : Slot) (p : PredIx) (b : Bool) : (sl.setP p b).regs = sl.regs := by
  unfold Slot.setP; split <;> rfl
@[simp] theorem Slot.setPw_regs (sl : Slot) (v : BitVec 16) : (sl.setPw v).regs = sl.regs := rfl
@[simp] theorem Slot.setStream_regs (sl : Slot) (i : Fin 8) (x : Stream) : (sl.setStream i x).regs = sl.regs := rfl
@[simp] theorem Slot.count_regs (sl : Slot) : sl.count.regs = sl.regs := rfl
@[simp] theorem Slot.endCheck_regs (sl : Slot) (e n : Word) : (sl.endCheck e n).regs = sl.regs := by
  simp only [Slot.endCheck]; repeat' split
  all_goals rfl
@[simp] theorem Slot.setG_pw (sl : Slot) (r : Reg) (v : Word) : (sl.setG r v).pw = sl.pw := by
  unfold Slot.setG; split <;> rfl
@[simp] theorem Slot.setStream_pw (sl : Slot) (i : Fin 8) (x : Stream) : (sl.setStream i x).pw = sl.pw := rfl
@[simp] theorem Slot.count_pw (sl : Slot) : sl.count.pw = sl.pw := rfl
@[simp] theorem Slot.endCheck_pw (sl : Slot) (e n : Word) : (sl.endCheck e n).pw = sl.pw := by
  simp only [Slot.endCheck]; repeat' split
  all_goals rfl
@[simp] theorem Slot.setG_lc0 (sl : Slot) (r : Reg) (v : Word) : (sl.setG r v).lc0 = sl.lc0 := by
  unfold Slot.setG; split <;> rfl
@[simp] theorem Slot.setP_lc0 (sl : Slot) (p : PredIx) (b : Bool) : (sl.setP p b).lc0 = sl.lc0 := by
  unfold Slot.setP; split <;> rfl
@[simp] theorem Slot.setPw_lc0 (sl : Slot) (v : BitVec 16) : (sl.setPw v).lc0 = sl.lc0 := rfl
@[simp] theorem Slot.setStream_lc0 (sl : Slot) (i : Fin 8) (x : Stream) : (sl.setStream i x).lc0 = sl.lc0 := rfl
@[simp] theorem Slot.count_lc0 (sl : Slot) : sl.count.lc0 = sl.lc0 := rfl
@[simp] theorem Slot.setG_lb0 (sl : Slot) (r : Reg) (v : Word) : (sl.setG r v).lb0 = sl.lb0 := by
  unfold Slot.setG; split <;> rfl
@[simp] theorem Slot.setP_lb0 (sl : Slot) (p : PredIx) (b : Bool) : (sl.setP p b).lb0 = sl.lb0 := by
  unfold Slot.setP; split <;> rfl
@[simp] theorem Slot.setPw_lb0 (sl : Slot) (v : BitVec 16) : (sl.setPw v).lb0 = sl.lb0 := rfl
@[simp] theorem Slot.setStream_lb0 (sl : Slot) (i : Fin 8) (x : Stream) : (sl.setStream i x).lb0 = sl.lb0 := rfl
@[simp] theorem Slot.count_lb0 (sl : Slot) : sl.count.lb0 = sl.lb0 := rfl
@[simp] theorem Slot.endCheck_lb0 (sl : Slot) (e n : Word) : (sl.endCheck e n).lb0 = sl.lb0 := by
  simp only [Slot.endCheck]; repeat' split
  all_goals rfl
@[simp] theorem Slot.setG_le0 (sl : Slot) (r : Reg) (v : Word) : (sl.setG r v).le0 = sl.le0 := by
  unfold Slot.setG; split <;> rfl
@[simp] theorem Slot.setP_le0 (sl : Slot) (p : PredIx) (b : Bool) : (sl.setP p b).le0 = sl.le0 := by
  unfold Slot.setP; split <;> rfl
@[simp] theorem Slot.setPw_le0 (sl : Slot) (v : BitVec 16) : (sl.setPw v).le0 = sl.le0 := rfl
@[simp] theorem Slot.setStream_le0 (sl : Slot) (i : Fin 8) (x : Stream) : (sl.setStream i x).le0 = sl.le0 := rfl
@[simp] theorem Slot.count_le0 (sl : Slot) : sl.count.le0 = sl.le0 := rfl
@[simp] theorem Slot.endCheck_le0 (sl : Slot) (e n : Word) : (sl.endCheck e n).le0 = sl.le0 := by
  simp only [Slot.endCheck]; repeat' split
  all_goals rfl
@[simp] theorem Slot.setG_lc1 (sl : Slot) (r : Reg) (v : Word) : (sl.setG r v).lc1 = sl.lc1 := by
  unfold Slot.setG; split <;> rfl
@[simp] theorem Slot.setP_lc1 (sl : Slot) (p : PredIx) (b : Bool) : (sl.setP p b).lc1 = sl.lc1 := by
  unfold Slot.setP; split <;> rfl
@[simp] theorem Slot.setPw_lc1 (sl : Slot) (v : BitVec 16) : (sl.setPw v).lc1 = sl.lc1 := rfl
@[simp] theorem Slot.setStream_lc1 (sl : Slot) (i : Fin 8) (x : Stream) : (sl.setStream i x).lc1 = sl.lc1 := rfl
@[simp] theorem Slot.count_lc1 (sl : Slot) : sl.count.lc1 = sl.lc1 := rfl
@[simp] theorem Slot.setG_lb1 (sl : Slot) (r : Reg) (v : Word) : (sl.setG r v).lb1 = sl.lb1 := by
  unfold Slot.setG; split <;> rfl
@[simp] theorem Slot.setP_lb1 (sl : Slot) (p : PredIx) (b : Bool) : (sl.setP p b).lb1 = sl.lb1 := by
  unfold Slot.setP; split <;> rfl
@[simp] theorem Slot.setPw_lb1 (sl : Slot) (v : BitVec 16) : (sl.setPw v).lb1 = sl.lb1 := rfl
@[simp] theorem Slot.setStream_lb1 (sl : Slot) (i : Fin 8) (x : Stream) : (sl.setStream i x).lb1 = sl.lb1 := rfl
@[simp] theorem Slot.count_lb1 (sl : Slot) : sl.count.lb1 = sl.lb1 := rfl
@[simp] theorem Slot.endCheck_lb1 (sl : Slot) (e n : Word) : (sl.endCheck e n).lb1 = sl.lb1 := by
  simp only [Slot.endCheck]; repeat' split
  all_goals rfl
@[simp] theorem Slot.setG_le1 (sl : Slot) (r : Reg) (v : Word) : (sl.setG r v).le1 = sl.le1 := by
  unfold Slot.setG; split <;> rfl
@[simp] theorem Slot.setP_le1 (sl : Slot) (p : PredIx) (b : Bool) : (sl.setP p b).le1 = sl.le1 := by
  unfold Slot.setP; split <;> rfl
@[simp] theorem Slot.setPw_le1 (sl : Slot) (v : BitVec 16) : (sl.setPw v).le1 = sl.le1 := rfl
@[simp] theorem Slot.setStream_le1 (sl : Slot) (i : Fin 8) (x : Stream) : (sl.setStream i x).le1 = sl.le1 := rfl
@[simp] theorem Slot.count_le1 (sl : Slot) : sl.count.le1 = sl.le1 := rfl
@[simp] theorem Slot.endCheck_le1 (sl : Slot) (e n : Word) : (sl.endCheck e n).le1 = sl.le1 := by
  simp only [Slot.endCheck]; repeat' split
  all_goals rfl
@[simp] theorem Slot.setG_fmode (sl : Slot) (r : Reg) (v : Word) : (sl.setG r v).fmode = sl.fmode := by
  unfold Slot.setG; split <;> rfl
@[simp] theorem Slot.setP_fmode (sl : Slot) (p : PredIx) (b : Bool) : (sl.setP p b).fmode = sl.fmode := by
  unfold Slot.setP; split <;> rfl
@[simp] theorem Slot.setPw_fmode (sl : Slot) (v : BitVec 16) : (sl.setPw v).fmode = sl.fmode := rfl
@[simp] theorem Slot.setStream_fmode (sl : Slot) (i : Fin 8) (x : Stream) : (sl.setStream i x).fmode = sl.fmode := rfl
@[simp] theorem Slot.count_fmode (sl : Slot) : sl.count.fmode = sl.fmode := rfl
@[simp] theorem Slot.endCheck_fmode (sl : Slot) (e n : Word) : (sl.endCheck e n).fmode = sl.fmode := by
  simp only [Slot.endCheck]; repeat' split
  all_goals rfl
@[simp] theorem Slot.setG_trapPc (sl : Slot) (r : Reg) (v : Word) : (sl.setG r v).trapPc = sl.trapPc := by
  unfold Slot.setG; split <;> rfl
@[simp] theorem Slot.setP_trapPc (sl : Slot) (p : PredIx) (b : Bool) : (sl.setP p b).trapPc = sl.trapPc := by
  unfold Slot.setP; split <;> rfl
@[simp] theorem Slot.setPw_trapPc (sl : Slot) (v : BitVec 16) : (sl.setPw v).trapPc = sl.trapPc := rfl
@[simp] theorem Slot.setStream_trapPc (sl : Slot) (i : Fin 8) (x : Stream) : (sl.setStream i x).trapPc = sl.trapPc := rfl
@[simp] theorem Slot.count_trapPc (sl : Slot) : sl.count.trapPc = sl.trapPc := rfl
@[simp] theorem Slot.endCheck_trapPc (sl : Slot) (e n : Word) : (sl.endCheck e n).trapPc = sl.trapPc := by
  simp only [Slot.endCheck]; repeat' split
  all_goals rfl
@[simp] theorem Slot.setG_trapCause (sl : Slot) (r : Reg) (v : Word) : (sl.setG r v).trapCause = sl.trapCause := by
  unfold Slot.setG; split <;> rfl
@[simp] theorem Slot.setP_trapCause (sl : Slot) (p : PredIx) (b : Bool) : (sl.setP p b).trapCause = sl.trapCause := by
  unfold Slot.setP; split <;> rfl
@[simp] theorem Slot.setPw_trapCause (sl : Slot) (v : BitVec 16) : (sl.setPw v).trapCause = sl.trapCause := rfl
@[simp] theorem Slot.setStream_trapCause (sl : Slot) (i : Fin 8) (x : Stream) : (sl.setStream i x).trapCause = sl.trapCause := rfl
@[simp] theorem Slot.count_trapCause (sl : Slot) : sl.count.trapCause = sl.trapCause := rfl
@[simp] theorem Slot.endCheck_trapCause (sl : Slot) (e n : Word) : (sl.endCheck e n).trapCause = sl.trapCause := by
  simp only [Slot.endCheck]; repeat' split
  all_goals rfl
@[simp] theorem Slot.setG_trapVal (sl : Slot) (r : Reg) (v : Word) : (sl.setG r v).trapVal = sl.trapVal := by
  unfold Slot.setG; split <;> rfl
@[simp] theorem Slot.setP_trapVal (sl : Slot) (p : PredIx) (b : Bool) : (sl.setP p b).trapVal = sl.trapVal := by
  unfold Slot.setP; split <;> rfl
@[simp] theorem Slot.setPw_trapVal (sl : Slot) (v : BitVec 16) : (sl.setPw v).trapVal = sl.trapVal := rfl
@[simp] theorem Slot.setStream_trapVal (sl : Slot) (i : Fin 8) (x : Stream) : (sl.setStream i x).trapVal = sl.trapVal := rfl
@[simp] theorem Slot.count_trapVal (sl : Slot) : sl.count.trapVal = sl.trapVal := rfl
@[simp] theorem Slot.endCheck_trapVal (sl : Slot) (e n : Word) : (sl.endCheck e n).trapVal = sl.trapVal := by
  simp only [Slot.endCheck]; repeat' split
  all_goals rfl
@[simp] theorem Slot.setG_mbWord (sl : Slot) (r : Reg) (v : Word) : (sl.setG r v).mbWord = sl.mbWord := by
  unfold Slot.setG; split <;> rfl
@[simp] theorem Slot.setP_mbWord (sl : Slot) (p : PredIx) (b : Bool) : (sl.setP p b).mbWord = sl.mbWord := by
  unfold Slot.setP; split <;> rfl
@[simp] theorem Slot.setPw_mbWord (sl : Slot) (v : BitVec 16) : (sl.setPw v).mbWord = sl.mbWord := rfl
@[simp] theorem Slot.setStream_mbWord (sl : Slot) (i : Fin 8) (x : Stream) : (sl.setStream i x).mbWord = sl.mbWord := rfl
@[simp] theorem Slot.count_mbWord (sl : Slot) : sl.count.mbWord = sl.mbWord := rfl
@[simp] theorem Slot.endCheck_mbWord (sl : Slot) (e n : Word) : (sl.endCheck e n).mbWord = sl.mbWord := by
  simp only [Slot.endCheck]; repeat' split
  all_goals rfl
@[simp] theorem Slot.setG_mbCount (sl : Slot) (r : Reg) (v : Word) : (sl.setG r v).mbCount = sl.mbCount := by
  unfold Slot.setG; split <;> rfl
@[simp] theorem Slot.setP_mbCount (sl : Slot) (p : PredIx) (b : Bool) : (sl.setP p b).mbCount = sl.mbCount := by
  unfold Slot.setP; split <;> rfl
@[simp] theorem Slot.setPw_mbCount (sl : Slot) (v : BitVec 16) : (sl.setPw v).mbCount = sl.mbCount := rfl
@[simp] theorem Slot.setStream_mbCount (sl : Slot) (i : Fin 8) (x : Stream) : (sl.setStream i x).mbCount = sl.mbCount := rfl
@[simp] theorem Slot.count_mbCount (sl : Slot) : sl.count.mbCount = sl.mbCount := rfl
@[simp] theorem Slot.endCheck_mbCount (sl : Slot) (e n : Word) : (sl.endCheck e n).mbCount = sl.mbCount := by
  simp only [Slot.endCheck]; repeat' split
  all_goals rfl
@[simp] theorem Slot.setG_estat (sl : Slot) (r : Reg) (v : Word) : (sl.setG r v).estat = sl.estat := by
  unfold Slot.setG; split <;> rfl
@[simp] theorem Slot.setP_estat (sl : Slot) (p : PredIx) (b : Bool) : (sl.setP p b).estat = sl.estat := by
  unfold Slot.setP; split <;> rfl
@[simp] theorem Slot.setPw_estat (sl : Slot) (v : BitVec 16) : (sl.setPw v).estat = sl.estat := rfl
@[simp] theorem Slot.setStream_estat (sl : Slot) (i : Fin 8) (x : Stream) : (sl.setStream i x).estat = sl.estat := rfl
@[simp] theorem Slot.count_estat (sl : Slot) : sl.count.estat = sl.estat := rfl
@[simp] theorem Slot.endCheck_estat (sl : Slot) (e n : Word) : (sl.endCheck e n).estat = sl.estat := by
  simp only [Slot.endCheck]; repeat' split
  all_goals rfl
@[simp] theorem Slot.setG_inTrap (sl : Slot) (r : Reg) (v : Word) : (sl.setG r v).inTrap = sl.inTrap := by
  unfold Slot.setG; split <;> rfl
@[simp] theorem Slot.setP_inTrap (sl : Slot) (p : PredIx) (b : Bool) : (sl.setP p b).inTrap = sl.inTrap := by
  unfold Slot.setP; split <;> rfl
@[simp] theorem Slot.setPw_inTrap (sl : Slot) (v : BitVec 16) : (sl.setPw v).inTrap = sl.inTrap := rfl
@[simp] theorem Slot.setStream_inTrap (sl : Slot) (i : Fin 8) (x : Stream) : (sl.setStream i x).inTrap = sl.inTrap := rfl
@[simp] theorem Slot.count_inTrap (sl : Slot) : sl.count.inTrap = sl.inTrap := rfl
@[simp] theorem Slot.endCheck_inTrap (sl : Slot) (e n : Word) : (sl.endCheck e n).inTrap = sl.inTrap := by
  simp only [Slot.endCheck]; repeat' split
  all_goals rfl
@[simp] theorem Slot.setG_grp (sl : Slot) (r : Reg) (v : Word) : (sl.setG r v).grp = sl.grp := by
  unfold Slot.setG; split <;> rfl
@[simp] theorem Slot.setP_grp (sl : Slot) (p : PredIx) (b : Bool) : (sl.setP p b).grp = sl.grp := by
  unfold Slot.setP; split <;> rfl
@[simp] theorem Slot.setPw_grp (sl : Slot) (v : BitVec 16) : (sl.setPw v).grp = sl.grp := rfl
@[simp] theorem Slot.setStream_grp (sl : Slot) (i : Fin 8) (x : Stream) : (sl.setStream i x).grp = sl.grp := rfl
@[simp] theorem Slot.count_grp (sl : Slot) : sl.count.grp = sl.grp := rfl
@[simp] theorem Slot.endCheck_grp (sl : Slot) (e n : Word) : (sl.endCheck e n).grp = sl.grp := by
  simp only [Slot.endCheck]; repeat' split
  all_goals rfl
@[simp] theorem Slot.setG_spInit (sl : Slot) (r : Reg) (v : Word) : (sl.setG r v).spInit = sl.spInit := by
  unfold Slot.setG; split <;> rfl
@[simp] theorem Slot.setP_spInit (sl : Slot) (p : PredIx) (b : Bool) : (sl.setP p b).spInit = sl.spInit := by
  unfold Slot.setP; split <;> rfl
@[simp] theorem Slot.setPw_spInit (sl : Slot) (v : BitVec 16) : (sl.setPw v).spInit = sl.spInit := rfl
@[simp] theorem Slot.setStream_spInit (sl : Slot) (i : Fin 8) (x : Stream) : (sl.setStream i x).spInit = sl.spInit := rfl
@[simp] theorem Slot.count_spInit (sl : Slot) : sl.count.spInit = sl.spInit := rfl
@[simp] theorem Slot.endCheck_spInit (sl : Slot) (e n : Word) : (sl.endCheck e n).spInit = sl.spInit := by
  simp only [Slot.endCheck]; repeat' split
  all_goals rfl
@[simp] theorem Slot.setG_tpInit (sl : Slot) (r : Reg) (v : Word) : (sl.setG r v).tpInit = sl.tpInit := by
  unfold Slot.setG; split <;> rfl
@[simp] theorem Slot.setP_tpInit (sl : Slot) (p : PredIx) (b : Bool) : (sl.setP p b).tpInit = sl.tpInit := by
  unfold Slot.setP; split <;> rfl
@[simp] theorem Slot.setPw_tpInit (sl : Slot) (v : BitVec 16) : (sl.setPw v).tpInit = sl.tpInit := rfl
@[simp] theorem Slot.setStream_tpInit (sl : Slot) (i : Fin 8) (x : Stream) : (sl.setStream i x).tpInit = sl.tpInit := rfl
@[simp] theorem Slot.count_tpInit (sl : Slot) : sl.count.tpInit = sl.tpInit := rfl
@[simp] theorem Slot.endCheck_tpInit (sl : Slot) (e n : Word) : (sl.endCheck e n).tpInit = sl.tpInit := by
  simp only [Slot.endCheck]; repeat' split
  all_goals rfl
@[simp] theorem Slot.setG_amBudget (sl : Slot) (r : Reg) (v : Word) : (sl.setG r v).amBudget = sl.amBudget := by
  unfold Slot.setG; split <;> rfl
@[simp] theorem Slot.setP_amBudget (sl : Slot) (p : PredIx) (b : Bool) : (sl.setP p b).amBudget = sl.amBudget := by
  unfold Slot.setP; split <;> rfl
@[simp] theorem Slot.setPw_amBudget (sl : Slot) (v : BitVec 16) : (sl.setPw v).amBudget = sl.amBudget := rfl
@[simp] theorem Slot.setStream_amBudget (sl : Slot) (i : Fin 8) (x : Stream) : (sl.setStream i x).amBudget = sl.amBudget := rfl
@[simp] theorem Slot.count_amBudget (sl : Slot) : sl.count.amBudget = sl.amBudget := rfl
@[simp] theorem Slot.endCheck_amBudget (sl : Slot) (e n : Word) : (sl.endCheck e n).amBudget = sl.amBudget := by
  simp only [Slot.endCheck]; repeat' split
  all_goals rfl
@[simp] theorem Slot.setG_issues (sl : Slot) (r : Reg) (v : Word) : (sl.setG r v).issues = sl.issues := by
  unfold Slot.setG; split <;> rfl
@[simp] theorem Slot.setP_issues (sl : Slot) (p : PredIx) (b : Bool) : (sl.setP p b).issues = sl.issues := by
  unfold Slot.setP; split <;> rfl
@[simp] theorem Slot.setPw_issues (sl : Slot) (v : BitVec 16) : (sl.setPw v).issues = sl.issues := rfl
@[simp] theorem Slot.setStream_issues (sl : Slot) (i : Fin 8) (x : Stream) : (sl.setStream i x).issues = sl.issues := rfl
@[simp] theorem Slot.endCheck_issues (sl : Slot) (e n : Word) : (sl.endCheck e n).issues = sl.issues := by
  simp only [Slot.endCheck]; repeat' split
  all_goals rfl
@[simp] theorem Slot.setG_signals (sl : Slot) (r : Reg) (v : Word) : (sl.setG r v).signals = sl.signals := by
  unfold Slot.setG; split <;> rfl
@[simp] theorem Slot.setP_signals (sl : Slot) (p : PredIx) (b : Bool) : (sl.setP p b).signals = sl.signals := by
  unfold Slot.setP; split <;> rfl
@[simp] theorem Slot.setPw_signals (sl : Slot) (v : BitVec 16) : (sl.setPw v).signals = sl.signals := rfl
@[simp] theorem Slot.setStream_signals (sl : Slot) (i : Fin 8) (x : Stream) : (sl.setStream i x).signals = sl.signals := rfl
@[simp] theorem Slot.count_signals (sl : Slot) : sl.count.signals = sl.signals := rfl
@[simp] theorem Slot.endCheck_signals (sl : Slot) (e n : Word) : (sl.endCheck e n).signals = sl.signals := by
  simp only [Slot.endCheck]; repeat' split
  all_goals rfl
@[simp] theorem Slot.setG_gen (sl : Slot) (r : Reg) (v : Word) : (sl.setG r v).gen = sl.gen := by
  unfold Slot.setG; split <;> rfl
@[simp] theorem Slot.setP_gen (sl : Slot) (p : PredIx) (b : Bool) : (sl.setP p b).gen = sl.gen := by
  unfold Slot.setP; split <;> rfl
@[simp] theorem Slot.setPw_gen (sl : Slot) (v : BitVec 16) : (sl.setPw v).gen = sl.gen := rfl
@[simp] theorem Slot.setStream_gen (sl : Slot) (i : Fin 8) (x : Stream) : (sl.setStream i x).gen = sl.gen := rfl
@[simp] theorem Slot.count_gen (sl : Slot) : sl.count.gen = sl.gen := rfl
@[simp] theorem Slot.endCheck_gen (sl : Slot) (e n : Word) : (sl.endCheck e n).gen = sl.gen := by
  simp only [Slot.endCheck]; repeat' split
  all_goals rfl
@[simp] theorem Slot.setG_ctx (sl : Slot) (r : Reg) (v : Word) : (sl.setG r v).ctx = sl.ctx := by
  unfold Slot.setG; split <;> rfl
@[simp] theorem Slot.setP_ctx (sl : Slot) (p : PredIx) (b : Bool) : (sl.setP p b).ctx = sl.ctx := by
  unfold Slot.setP; split <;> rfl
@[simp] theorem Slot.setPw_ctx (sl : Slot) (v : BitVec 16) : (sl.setPw v).ctx = sl.ctx := rfl
@[simp] theorem Slot.setStream_ctx (sl : Slot) (i : Fin 8) (x : Stream) : (sl.setStream i x).ctx = sl.ctx := rfl
@[simp] theorem Slot.count_ctx (sl : Slot) : sl.count.ctx = sl.ctx := rfl
@[simp] theorem Slot.endCheck_ctx (sl : Slot) (e n : Word) : (sl.endCheck e n).ctx = sl.ctx := by
  simp only [Slot.endCheck]; repeat' split
  all_goals rfl
@[simp] theorem Slot.setG_work (sl : Slot) (r : Reg) (v : Word) : (sl.setG r v).work = sl.work := by
  unfold Slot.setG; split <;> rfl
@[simp] theorem Slot.setP_work (sl : Slot) (p : PredIx) (b : Bool) : (sl.setP p b).work = sl.work := by
  unfold Slot.setP; split <;> rfl
@[simp] theorem Slot.setPw_work (sl : Slot) (v : BitVec 16) : (sl.setPw v).work = sl.work := rfl
@[simp] theorem Slot.setStream_work (sl : Slot) (i : Fin 8) (x : Stream) : (sl.setStream i x).work = sl.work := rfl
@[simp] theorem Slot.count_work (sl : Slot) : sl.count.work = sl.work := rfl
@[simp] theorem Slot.endCheck_work (sl : Slot) (e n : Word) : (sl.endCheck e n).work = sl.work := by
  simp only [Slot.endCheck]; repeat' split
  all_goals rfl
@[simp] theorem Slot.setG_fork (sl : Slot) (r : Reg) (v : Word) : (sl.setG r v).fork = sl.fork := by
  unfold Slot.setG; split <;> rfl
@[simp] theorem Slot.setP_fork (sl : Slot) (p : PredIx) (b : Bool) : (sl.setP p b).fork = sl.fork := by
  unfold Slot.setP; split <;> rfl
@[simp] theorem Slot.setPw_fork (sl : Slot) (v : BitVec 16) : (sl.setPw v).fork = sl.fork := rfl
@[simp] theorem Slot.setStream_fork (sl : Slot) (i : Fin 8) (x : Stream) : (sl.setStream i x).fork = sl.fork := rfl
@[simp] theorem Slot.count_fork (sl : Slot) : sl.count.fork = sl.fork := rfl
@[simp] theorem Slot.endCheck_fork (sl : Slot) (e n : Word) : (sl.endCheck e n).fork = sl.fork := by
  simp only [Slot.endCheck]; repeat' split
  all_goals rfl
@[simp] theorem Slot.setG_fblock (sl : Slot) (r : Reg) (v : Word) : (sl.setG r v).fblock = sl.fblock := by
  unfold Slot.setG; split <;> rfl
@[simp] theorem Slot.setP_fblock (sl : Slot) (p : PredIx) (b : Bool) : (sl.setP p b).fblock = sl.fblock := by
  unfold Slot.setP; split <;> rfl
@[simp] theorem Slot.setPw_fblock (sl : Slot) (v : BitVec 16) : (sl.setPw v).fblock = sl.fblock := rfl
@[simp] theorem Slot.setStream_fblock (sl : Slot) (i : Fin 8) (x : Stream) : (sl.setStream i x).fblock = sl.fblock := rfl
@[simp] theorem Slot.count_fblock (sl : Slot) : sl.count.fblock = sl.fblock := rfl
@[simp] theorem Slot.endCheck_fblock (sl : Slot) (e n : Word) : (sl.endCheck e n).fblock = sl.fblock := by
  simp only [Slot.endCheck]; repeat' split
  all_goals rfl
@[simp] theorem Slot.setG_fdata (sl : Slot) (r : Reg) (v : Word) : (sl.setG r v).fdata = sl.fdata := by
  unfold Slot.setG; split <;> rfl
@[simp] theorem Slot.setP_fdata (sl : Slot) (p : PredIx) (b : Bool) : (sl.setP p b).fdata = sl.fdata := by
  unfold Slot.setP; split <;> rfl
@[simp] theorem Slot.setPw_fdata (sl : Slot) (v : BitVec 16) : (sl.setPw v).fdata = sl.fdata := rfl
@[simp] theorem Slot.setStream_fdata (sl : Slot) (i : Fin 8) (x : Stream) : (sl.setStream i x).fdata = sl.fdata := rfl
@[simp] theorem Slot.count_fdata (sl : Slot) : sl.count.fdata = sl.fdata := rfl
@[simp] theorem Slot.endCheck_fdata (sl : Slot) (e n : Word) : (sl.endCheck e n).fdata = sl.fdata := by
  simp only [Slot.endCheck]; repeat' split
  all_goals rfl
@[simp] theorem Slot.setG_fpoison (sl : Slot) (r : Reg) (v : Word) : (sl.setG r v).fpoison = sl.fpoison := by
  unfold Slot.setG; split <;> rfl
@[simp] theorem Slot.setP_fpoison (sl : Slot) (p : PredIx) (b : Bool) : (sl.setP p b).fpoison = sl.fpoison := by
  unfold Slot.setP; split <;> rfl
@[simp] theorem Slot.setPw_fpoison (sl : Slot) (v : BitVec 16) : (sl.setPw v).fpoison = sl.fpoison := rfl
@[simp] theorem Slot.setStream_fpoison (sl : Slot) (i : Fin 8) (x : Stream) : (sl.setStream i x).fpoison = sl.fpoison := rfl
@[simp] theorem Slot.count_fpoison (sl : Slot) : sl.count.fpoison = sl.fpoison := rfl
@[simp] theorem Slot.endCheck_fpoison (sl : Slot) (e n : Word) : (sl.endCheck e n).fpoison = sl.fpoison := by
  simp only [Slot.endCheck]; repeat' split
  all_goals rfl
@[simp] theorem Slot.setG_carryPc (sl : Slot) (r : Reg) (v : Word) : (sl.setG r v).carryPc = sl.carryPc := by
  unfold Slot.setG; split <;> rfl
@[simp] theorem Slot.setP_carryPc (sl : Slot) (p : PredIx) (b : Bool) : (sl.setP p b).carryPc = sl.carryPc := by
  unfold Slot.setP; split <;> rfl
@[simp] theorem Slot.setPw_carryPc (sl : Slot) (v : BitVec 16) : (sl.setPw v).carryPc = sl.carryPc := rfl
@[simp] theorem Slot.setStream_carryPc (sl : Slot) (i : Fin 8) (x : Stream) : (sl.setStream i x).carryPc = sl.carryPc := rfl
@[simp] theorem Slot.count_carryPc (sl : Slot) : sl.count.carryPc = sl.carryPc := rfl
@[simp] theorem Slot.endCheck_carryPc (sl : Slot) (e n : Word) : (sl.endCheck e n).carryPc = sl.carryPc := by
  simp only [Slot.endCheck]; repeat' split
  all_goals rfl
@[simp] theorem Slot.setG_carry (sl : Slot) (r : Reg) (v : Word) : (sl.setG r v).carry = sl.carry := by
  unfold Slot.setG; split <;> rfl
@[simp] theorem Slot.setP_carry (sl : Slot) (p : PredIx) (b : Bool) : (sl.setP p b).carry = sl.carry := by
  unfold Slot.setP; split <;> rfl
@[simp] theorem Slot.setPw_carry (sl : Slot) (v : BitVec 16) : (sl.setPw v).carry = sl.carry := rfl
@[simp] theorem Slot.setStream_carry (sl : Slot) (i : Fin 8) (x : Stream) : (sl.setStream i x).carry = sl.carry := rfl
@[simp] theorem Slot.count_carry (sl : Slot) : sl.count.carry = sl.carry := rfl
@[simp] theorem Slot.endCheck_carry (sl : Slot) (e n : Word) : (sl.endCheck e n).carry = sl.carry := by
  simp only [Slot.endCheck]; repeat' split
  all_goals rfl
@[simp] theorem Slot.setG_streams (sl : Slot) (r : Reg) (v : Word) : (sl.setG r v).streams = sl.streams := by
  unfold Slot.setG; split <;> rfl
@[simp] theorem Slot.setP_streams (sl : Slot) (p : PredIx) (b : Bool) : (sl.setP p b).streams = sl.streams := by
  unfold Slot.setP; split <;> rfl
@[simp] theorem Slot.setPw_streams (sl : Slot) (v : BitVec 16) : (sl.setPw v).streams = sl.streams := rfl
@[simp] theorem Slot.count_streams (sl : Slot) : sl.count.streams = sl.streams := rfl
@[simp] theorem Slot.endCheck_streams (sl : Slot) (e n : Word) : (sl.endCheck e n).streams = sl.streams := by
  simp only [Slot.endCheck]; repeat' split
  all_goals rfl
@[simp] theorem Slot.setG_skip (sl : Slot) (r : Reg) (v : Word) : (sl.setG r v).skip = sl.skip := by
  unfold Slot.setG; split <;> rfl
@[simp] theorem Slot.setP_skip (sl : Slot) (p : PredIx) (b : Bool) : (sl.setP p b).skip = sl.skip := by
  unfold Slot.setP; split <;> rfl
@[simp] theorem Slot.setPw_skip (sl : Slot) (v : BitVec 16) : (sl.setPw v).skip = sl.skip := rfl
@[simp] theorem Slot.setStream_skip (sl : Slot) (i : Fin 8) (x : Stream) : (sl.setStream i x).skip = sl.skip := rfl
@[simp] theorem Slot.count_skip (sl : Slot) : sl.count.skip = sl.skip := rfl
@[simp] theorem Slot.endCheck_skip (sl : Slot) (e n : Word) : (sl.endCheck e n).skip = sl.skip := by
  simp only [Slot.endCheck]; repeat' split
  all_goals rfl
@[simp] theorem Slot.setG_faultWait (sl : Slot) (r : Reg) (v : Word) : (sl.setG r v).faultWait = sl.faultWait := by
  unfold Slot.setG; split <;> rfl
@[simp] theorem Slot.setP_faultWait (sl : Slot) (p : PredIx) (b : Bool) : (sl.setP p b).faultWait = sl.faultWait := by
  unfold Slot.setP; split <;> rfl
@[simp] theorem Slot.setPw_faultWait (sl : Slot) (v : BitVec 16) : (sl.setPw v).faultWait = sl.faultWait := rfl
@[simp] theorem Slot.setStream_faultWait (sl : Slot) (i : Fin 8) (x : Stream) : (sl.setStream i x).faultWait = sl.faultWait := rfl
@[simp] theorem Slot.count_faultWait (sl : Slot) : sl.count.faultWait = sl.faultWait := rfl
@[simp] theorem Slot.endCheck_faultWait (sl : Slot) (e n : Word) : (sl.endCheck e n).faultWait = sl.faultWait := by
  simp only [Slot.endCheck]; repeat' split
  all_goals rfl
@[simp] theorem Slot.setG_walkPoison (sl : Slot) (r : Reg) (v : Word) : (sl.setG r v).walkPoison = sl.walkPoison := by
  unfold Slot.setG; split <;> rfl
@[simp] theorem Slot.setP_walkPoison (sl : Slot) (p : PredIx) (b : Bool) : (sl.setP p b).walkPoison = sl.walkPoison := by
  unfold Slot.setP; split <;> rfl
@[simp] theorem Slot.setPw_walkPoison (sl : Slot) (v : BitVec 16) : (sl.setPw v).walkPoison = sl.walkPoison := rfl
@[simp] theorem Slot.setStream_walkPoison (sl : Slot) (i : Fin 8) (x : Stream) : (sl.setStream i x).walkPoison = sl.walkPoison := rfl
@[simp] theorem Slot.count_walkPoison (sl : Slot) : sl.count.walkPoison = sl.walkPoison := rfl
@[simp] theorem Slot.endCheck_walkPoison (sl : Slot) (e n : Word) : (sl.endCheck e n).walkPoison = sl.walkPoison := by
  simp only [Slot.endCheck]; repeat' split
  all_goals rfl
@[simp] theorem Slot.setG_ilen (sl : Slot) (r : Reg) (v : Word) : (sl.setG r v).ilen = sl.ilen := by
  unfold Slot.setG; split <;> rfl
@[simp] theorem Slot.setP_ilen (sl : Slot) (p : PredIx) (b : Bool) : (sl.setP p b).ilen = sl.ilen := by
  unfold Slot.setP; split <;> rfl
@[simp] theorem Slot.setPw_ilen (sl : Slot) (v : BitVec 16) : (sl.setPw v).ilen = sl.ilen := rfl
@[simp] theorem Slot.setStream_ilen (sl : Slot) (i : Fin 8) (x : Stream) : (sl.setStream i x).ilen = sl.ilen := rfl
@[simp] theorem Slot.count_ilen (sl : Slot) : sl.count.ilen = sl.ilen := rfl
@[simp] theorem Slot.endCheck_ilen (sl : Slot) (e n : Word) : (sl.endCheck e n).ilen = sl.ilen := by
  simp only [Slot.endCheck]; repeat' split
  all_goals rfl
@[simp] theorem Slot.setG_latch (sl : Slot) (r : Reg) (v : Word) : (sl.setG r v).latch = sl.latch := by
  unfold Slot.setG; split <;> rfl
@[simp] theorem Slot.setP_latch (sl : Slot) (p : PredIx) (b : Bool) : (sl.setP p b).latch = sl.latch := by
  unfold Slot.setP; split <;> rfl
@[simp] theorem Slot.setPw_latch (sl : Slot) (v : BitVec 16) : (sl.setPw v).latch = sl.latch := rfl
@[simp] theorem Slot.setStream_latch (sl : Slot) (i : Fin 8) (x : Stream) : (sl.setStream i x).latch = sl.latch := rfl
@[simp] theorem Slot.count_latch (sl : Slot) : sl.count.latch = sl.latch := rfl
@[simp] theorem Slot.endCheck_latch (sl : Slot) (e n : Word) : (sl.endCheck e n).latch = sl.latch := by
  simp only [Slot.endCheck]; repeat' split
  all_goals rfl
@[simp] theorem Slot.setG_pops (sl : Slot) (r : Reg) (v : Word) : (sl.setG r v).pops = sl.pops := by
  unfold Slot.setG; split <;> rfl
@[simp] theorem Slot.setP_pops (sl : Slot) (p : PredIx) (b : Bool) : (sl.setP p b).pops = sl.pops := by
  unfold Slot.setP; split <;> rfl
@[simp] theorem Slot.setPw_pops (sl : Slot) (v : BitVec 16) : (sl.setPw v).pops = sl.pops := rfl
@[simp] theorem Slot.setStream_pops (sl : Slot) (i : Fin 8) (x : Stream) : (sl.setStream i x).pops = sl.pops := rfl
@[simp] theorem Slot.count_pops (sl : Slot) : sl.count.pops = sl.pops := rfl
@[simp] theorem Slot.endCheck_pops (sl : Slot) (e n : Word) : (sl.endCheck e n).pops = sl.pops := by
  simp only [Slot.endCheck]; repeat' split
  all_goals rfl
@[simp] theorem Slot.setG_owed (sl : Slot) (r : Reg) (v : Word) : (sl.setG r v).owed = sl.owed := by
  unfold Slot.setG; split <;> rfl
@[simp] theorem Slot.setP_owed (sl : Slot) (p : PredIx) (b : Bool) : (sl.setP p b).owed = sl.owed := by
  unfold Slot.setP; split <;> rfl
@[simp] theorem Slot.setPw_owed (sl : Slot) (v : BitVec 16) : (sl.setPw v).owed = sl.owed := rfl
@[simp] theorem Slot.setStream_owed (sl : Slot) (i : Fin 8) (x : Stream) : (sl.setStream i x).owed = sl.owed := rfl
@[simp] theorem Slot.count_owed (sl : Slot) : sl.count.owed = sl.owed := rfl
@[simp] theorem Slot.endCheck_owed (sl : Slot) (e n : Word) : (sl.endCheck e n).owed = sl.owed := by
  simp only [Slot.endCheck]; repeat' split
  all_goals rfl
@[simp] theorem Slot.setG_ending (sl : Slot) (r : Reg) (v : Word) : (sl.setG r v).ending = sl.ending := by
  unfold Slot.setG; split <;> rfl
@[simp] theorem Slot.setP_ending (sl : Slot) (p : PredIx) (b : Bool) : (sl.setP p b).ending = sl.ending := by
  unfold Slot.setP; split <;> rfl
@[simp] theorem Slot.setPw_ending (sl : Slot) (v : BitVec 16) : (sl.setPw v).ending = sl.ending := rfl
@[simp] theorem Slot.setStream_ending (sl : Slot) (i : Fin 8) (x : Stream) : (sl.setStream i x).ending = sl.ending := rfl
@[simp] theorem Slot.count_ending (sl : Slot) : sl.count.ending = sl.ending := rfl
@[simp] theorem Slot.endCheck_ending (sl : Slot) (e n : Word) : (sl.endCheck e n).ending = sl.ending := by
  simp only [Slot.endCheck]; repeat' split
  all_goals rfl

end Sys2Proof.Machine
end

