-- ==== Sys2Proof/Laws/Tables.lean ====
section
/-! SUPPORT. Tables read after they are written, and with them the units of the part. -/

namespace Sys2Proof.Machine

theorem Tab.get_set {α : Type} (d : α) (t : Tab α) (n m : Nat) (v : α) :
    (t.set n v).get d m = if n = m then v else t.get d m := by
  induction t with
  | nil => simp [Tab.set, Tab.get]
  | cons e t ih =>
    obtain ⟨k, w⟩ := e
    simp only [Tab.set]
    split
    · simp [Tab.get]
    · split
      · subst_vars
        simp only [Tab.get]
        split <;> rfl
      · simp only [Tab.get, ih]
        by_cases h : n = m
        · subst h; simp; omega
        · simp [h]

@[simp] theorem Tab.get_set_self {α : Type} (d : α) (t : Tab α) (n : Nat) (v : α) : (t.set n v).get d n = v := by
  simp [Tab.get_set]

theorem Tab.get_set_ne {α : Type} (d : α) (t : Tab α) {n m : Nat} (v : α) (h : m ≠ n) :
    (t.set n v).get d m = t.get d m := by
  simp [Tab.get_set, Ne.symm h]

theorem Tab.find_set {α : Type} (t : Tab α) (n m : Nat) (v : α) :
    (t.set n v).find m = if n = m then some v else t.find m := by
  induction t with
  | nil => simp [Tab.set, Tab.find]
  | cons e t ih =>
    obtain ⟨k, w⟩ := e
    simp only [Tab.set]
    split
    · simp [Tab.find]
    · split
      · subst_vars
        simp only [Tab.find]
        split <;> rfl
      · simp only [Tab.find, ih]
        by_cases h : n = m
        · subst h; simp; omega
        · simp [h]

@[simp] theorem Tab.find_set_self {α : Type} (t : Tab α) (n : Nat) (v : α) : (t.set n v).find n = some v := by
  simp [Tab.find_set]

theorem Tab.find_del {α : Type} (t : Tab α) (n m : Nat) : (t.del n).find m = if n = m then none else t.find m := by
  induction t with
  | nil => simp [Tab.del, Tab.find]
  | cons e t ih =>
    obtain ⟨k, w⟩ := e
    simp only [Tab.del] at ih ⊢
    by_cases hk : k = n
    · subst hk
      simp only [Tab.find, List.filter_cons, ne_eq, not_true_eq_false, decide_false]
      rw [if_neg (by simp), ih]
      by_cases h : k = m <;> simp [h]
    · simp only [Tab.find, List.filter_cons, ne_eq, hk, not_false_eq_true, decide_true, if_true, ih]
      by_cases h : n = m
      · subst h; simp [hk]
      · simp [h]

/-! ### Units -/

@[simp] theorem State.slot_setSlot (s : State) (k : Nat) (v : Slot) : (s.setSlot k v).slot k = v := by
  simp [State.slot]
theorem State.slot_setSlot_ne (s : State) {j k : Nat} (v : Slot) (h : j ≠ k) : (s.setSlot k v).slot j = s.slot j := by
  simp [State.slot, Tab.get_set_ne _ _ _ h]
@[simp] theorem State.slot_modSlot (s : State) (k : Nat) (f : Slot → Slot) : (s.modSlot k f).slot k = f (s.slot k) := by
  simp [State.slot]
theorem State.slot_modSlot_ne (s : State) {j k : Nat} (f : Slot → Slot) (h : j ≠ k) : (s.modSlot k f).slot j = s.slot j := by
  simp [State.slot, Tab.get_set_ne _ _ _ h]
@[simp] theorem State.core_setCore (s : State) (k : Nat) (v : Core) : (s.setCore k v).core k = v := by
  simp [State.core]
theorem State.core_setCore_ne (s : State) {j k : Nat} (v : Core) (h : j ≠ k) : (s.setCore k v).core j = s.core j := by
  simp [State.core, Tab.get_set_ne _ _ _ h]
@[simp] theorem State.core_modCore (s : State) (k : Nat) (f : Core → Core) : (s.modCore k f).core k = f (s.core k) := by
  simp [State.core]
theorem State.core_modCore_ne (s : State) {j k : Nat} (f : Core → Core) (h : j ≠ k) : (s.modCore k f).core j = s.core j := by
  simp [State.core, Tab.get_set_ne _ _ _ h]
@[simp] theorem State.cell_setCell (s : State) (k : Nat) (v : Cell) : (s.setCell k v).cell k = v := by
  simp [State.cell]
theorem State.cell_setCell_ne (s : State) {j k : Nat} (v : Cell) (h : j ≠ k) : (s.setCell k v).cell j = s.cell j := by
  simp [State.cell, Tab.get_set_ne _ _ _ h]
@[simp] theorem State.cell_modCell (s : State) (k : Nat) (f : Cell → Cell) : (s.modCell k f).cell k = f (s.cell k) := by
  simp [State.cell]
theorem State.cell_modCell_ne (s : State) {j k : Nat} (f : Cell → Cell) (h : j ≠ k) : (s.modCell k f).cell j = s.cell j := by
  simp [State.cell, Tab.get_set_ne _ _ _ h]
@[simp] theorem State.cluster_modCluster (s : State) (k : Nat) (f : Cluster → Cluster) : (s.modCluster k f).cluster k = f (s.cluster k) := by
  simp [State.cluster]
theorem State.cluster_modCluster_ne (s : State) {j k : Nat} (f : Cluster → Cluster) (h : j ≠ k) : (s.modCluster k f).cluster j = s.cluster j := by
  simp [State.cluster, Tab.get_set_ne _ _ _ h]
@[simp] theorem State.die_modDie (s : State) (k : Nat) (f : Die → Die) : (s.modDie k f).die k = f (s.die k) := by
  simp [State.die]
theorem State.die_modDie_ne (s : State) {j k : Nat} (f : Die → Die) (h : j ≠ k) : (s.modDie k f).die j = s.die j := by
  simp [State.die, Tab.get_set_ne _ _ _ h]
@[simp] theorem State.blm_modBlm (s : State) (k : Nat) (f : Blm → Blm) : (s.modBlm k f).blm k = f (s.blm k) := by
  simp [State.blm]
theorem State.blm_modBlm_ne (s : State) {j k : Nat} (f : Blm → Blm) (h : j ≠ k) : (s.modBlm k f).blm j = s.blm j := by
  simp [State.blm, Tab.get_set_ne _ _ _ h]
@[simp] theorem State.ctx_modCtx (s : State) (k : Nat) (f : Context → Context) : (s.modCtx k f).ctx k = f (s.ctx k) := by
  simp [State.ctx]
theorem State.ctx_modCtx_ne (s : State) {j k : Nat} (f : Context → Context) (h : j ≠ k) : (s.modCtx k f).ctx j = s.ctx j := by
  simp [State.ctx, Tab.get_set_ne _ _ _ h]

/-! ### One unit after an update of another kind -/

@[simp] theorem State.modCore_slot (s : State) (k : Nat) (f : Core → Core) (j : Nat) : (s.modCore k f).slot j = s.slot j := rfl
@[simp] theorem State.modCell_slot (s : State) (k : Nat) (f : Cell → Cell) (j : Nat) : (s.modCell k f).slot j = s.slot j := rfl
@[simp] theorem State.modCluster_slot (s : State) (k : Nat) (f : Cluster → Cluster) (j : Nat) : (s.modCluster k f).slot j = s.slot j := rfl
@[simp] theorem State.modDie_slot (s : State) (k : Nat) (f : Die → Die) (j : Nat) : (s.modDie k f).slot j = s.slot j := rfl
@[simp] theorem State.modBlm_slot (s : State) (k : Nat) (f : Blm → Blm) (j : Nat) : (s.modBlm k f).slot j = s.slot j := rfl
@[simp] theorem State.modCtx_slot (s : State) (k : Nat) (f : Context → Context) (j : Nat) : (s.modCtx k f).slot j = s.slot j := rfl
@[simp] theorem State.modSched_slot (s : State) (f : Sched → Sched) (j : Nat) : (s.modSched f).slot j = s.slot j := rfl
@[simp] theorem State.modSeq_slot (s : State) (f : Sequencer → Sequencer) (j : Nat) : (s.modSeq f).slot j = s.slot j := rfl
@[simp] theorem State.modPart_slot (s : State) (f : Part → Part) (j : Nat) : (s.modPart f).slot j = s.slot j := rfl
@[simp] theorem State.modFix_slot (s : State) (f : Fix → Fix) (j : Nat) : (s.modFix f).slot j = s.slot j := rfl
@[simp] theorem State.modLink_slot (s : State) (f : Link → Link) (j : Nat) : (s.modLink f).slot j = s.slot j := rfl
@[simp] theorem State.putByte_slot (s : State) (a : Nat) (b : Byte) (j : Nat) : (s.putByte a b).slot j = s.slot j := rfl
@[simp] theorem State.putBytes_slot (s : State) (bs : List (Nat × Byte)) (j : Nat) : (s.putBytes bs).slot j = s.slot j := rfl
@[simp] theorem State.modSlot_core (s : State) (k : Nat) (f : Slot → Slot) (j : Nat) : (s.modSlot k f).core j = s.core j := rfl
@[simp] theorem State.modCell_core (s : State) (k : Nat) (f : Cell → Cell) (j : Nat) : (s.modCell k f).core j = s.core j := rfl
@[simp] theorem State.modCluster_core (s : State) (k : Nat) (f : Cluster → Cluster) (j : Nat) : (s.modCluster k f).core j = s.core j := rfl
@[simp] theorem State.modDie_core (s : State) (k : Nat) (f : Die → Die) (j : Nat) : (s.modDie k f).core j = s.core j := rfl
@[simp] theorem State.modBlm_core (s : State) (k : Nat) (f : Blm → Blm) (j : Nat) : (s.modBlm k f).core j = s.core j := rfl
@[simp] theorem State.modCtx_core (s : State) (k : Nat) (f : Context → Context) (j : Nat) : (s.modCtx k f).core j = s.core j := rfl
@[simp] theorem State.modSched_core (s : State) (f : Sched → Sched) (j : Nat) : (s.modSched f).core j = s.core j := rfl
@[simp] theorem State.modSeq_core (s : State) (f : Sequencer → Sequencer) (j : Nat) : (s.modSeq f).core j = s.core j := rfl
@[simp] theorem State.modPart_core (s : State) (f : Part → Part) (j : Nat) : (s.modPart f).core j = s.core j := rfl
@[simp] theorem State.modFix_core (s : State) (f : Fix → Fix) (j : Nat) : (s.modFix f).core j = s.core j := rfl
@[simp] theorem State.modLink_core (s : State) (f : Link → Link) (j : Nat) : (s.modLink f).core j = s.core j := rfl
@[simp] theorem State.putByte_core (s : State) (a : Nat) (b : Byte) (j : Nat) : (s.putByte a b).core j = s.core j := rfl
@[simp] theorem State.putBytes_core (s : State) (bs : List (Nat × Byte)) (j : Nat) : (s.putBytes bs).core j = s.core j := rfl
@[simp] theorem State.modSlot_cell (s : State) (k : Nat) (f : Slot → Slot) (j : Nat) : (s.modSlot k f).cell j = s.cell j := rfl
@[simp] theorem State.modCore_cell (s : State) (k : Nat) (f : Core → Core) (j : Nat) : (s.modCore k f).cell j = s.cell j := rfl
@[simp] theorem State.modCluster_cell (s : State) (k : Nat) (f : Cluster → Cluster) (j : Nat) : (s.modCluster k f).cell j = s.cell j := rfl
@[simp] theorem State.modDie_cell (s : State) (k : Nat) (f : Die → Die) (j : Nat) : (s.modDie k f).cell j = s.cell j := rfl
@[simp] theorem State.modBlm_cell (s : State) (k : Nat) (f : Blm → Blm) (j : Nat) : (s.modBlm k f).cell j = s.cell j := rfl
@[simp] theorem State.modCtx_cell (s : State) (k : Nat) (f : Context → Context) (j : Nat) : (s.modCtx k f).cell j = s.cell j := rfl
@[simp] theorem State.modSched_cell (s : State) (f : Sched → Sched) (j : Nat) : (s.modSched f).cell j = s.cell j := rfl
@[simp] theorem State.modSeq_cell (s : State) (f : Sequencer → Sequencer) (j : Nat) : (s.modSeq f).cell j = s.cell j := rfl
@[simp] theorem State.modPart_cell (s : State) (f : Part → Part) (j : Nat) : (s.modPart f).cell j = s.cell j := rfl
@[simp] theorem State.modFix_cell (s : State) (f : Fix → Fix) (j : Nat) : (s.modFix f).cell j = s.cell j := rfl
@[simp] theorem State.modLink_cell (s : State) (f : Link → Link) (j : Nat) : (s.modLink f).cell j = s.cell j := rfl
@[simp] theorem State.putByte_cell (s : State) (a : Nat) (b : Byte) (j : Nat) : (s.putByte a b).cell j = s.cell j := rfl
@[simp] theorem State.putBytes_cell (s : State) (bs : List (Nat × Byte)) (j : Nat) : (s.putBytes bs).cell j = s.cell j := rfl
@[simp] theorem State.modSlot_cluster (s : State) (k : Nat) (f : Slot → Slot) (j : Nat) : (s.modSlot k f).cluster j = s.cluster j := rfl
@[simp] theorem State.modCore_cluster (s : State) (k : Nat) (f : Core → Core) (j : Nat) : (s.modCore k f).cluster j = s.cluster j := rfl
@[simp] theorem State.modCell_cluster (s : State) (k : Nat) (f : Cell → Cell) (j : Nat) : (s.modCell k f).cluster j = s.cluster j := rfl
@[simp] theorem State.modDie_cluster (s : State) (k : Nat) (f : Die → Die) (j : Nat) : (s.modDie k f).cluster j = s.cluster j := rfl
@[simp] theorem State.modBlm_cluster (s : State) (k : Nat) (f : Blm → Blm) (j : Nat) : (s.modBlm k f).cluster j = s.cluster j := rfl
@[simp] theorem State.modCtx_cluster (s : State) (k : Nat) (f : Context → Context) (j : Nat) : (s.modCtx k f).cluster j = s.cluster j := rfl
@[simp] theorem State.modSched_cluster (s : State) (f : Sched → Sched) (j : Nat) : (s.modSched f).cluster j = s.cluster j := rfl
@[simp] theorem State.modSeq_cluster (s : State) (f : Sequencer → Sequencer) (j : Nat) : (s.modSeq f).cluster j = s.cluster j := rfl
@[simp] theorem State.modPart_cluster (s : State) (f : Part → Part) (j : Nat) : (s.modPart f).cluster j = s.cluster j := rfl
@[simp] theorem State.modFix_cluster (s : State) (f : Fix → Fix) (j : Nat) : (s.modFix f).cluster j = s.cluster j := rfl
@[simp] theorem State.modLink_cluster (s : State) (f : Link → Link) (j : Nat) : (s.modLink f).cluster j = s.cluster j := rfl
@[simp] theorem State.putByte_cluster (s : State) (a : Nat) (b : Byte) (j : Nat) : (s.putByte a b).cluster j = s.cluster j := rfl
@[simp] theorem State.putBytes_cluster (s : State) (bs : List (Nat × Byte)) (j : Nat) : (s.putBytes bs).cluster j = s.cluster j := rfl
@[simp] theorem State.modSlot_die (s : State) (k : Nat) (f : Slot → Slot) (j : Nat) : (s.modSlot k f).die j = s.die j := rfl
@[simp] theorem State.modCore_die (s : State) (k : Nat) (f : Core → Core) (j : Nat) : (s.modCore k f).die j = s.die j := rfl
@[simp] theorem State.modCell_die (s : State) (k : Nat) (f : Cell → Cell) (j : Nat) : (s.modCell k f).die j = s.die j := rfl
@[simp] theorem State.modCluster_die (s : State) (k : Nat) (f : Cluster → Cluster) (j : Nat) : (s.modCluster k f).die j = s.die j := rfl
@[simp] theorem State.modBlm_die (s : State) (k : Nat) (f : Blm → Blm) (j : Nat) : (s.modBlm k f).die j = s.die j := rfl
@[simp] theorem State.modCtx_die (s : State) (k : Nat) (f : Context → Context) (j : Nat) : (s.modCtx k f).die j = s.die j := rfl
@[simp] theorem State.modSched_die (s : State) (f : Sched → Sched) (j : Nat) : (s.modSched f).die j = s.die j := rfl
@[simp] theorem State.modSeq_die (s : State) (f : Sequencer → Sequencer) (j : Nat) : (s.modSeq f).die j = s.die j := rfl
@[simp] theorem State.modPart_die (s : State) (f : Part → Part) (j : Nat) : (s.modPart f).die j = s.die j := rfl
@[simp] theorem State.modFix_die (s : State) (f : Fix → Fix) (j : Nat) : (s.modFix f).die j = s.die j := rfl
@[simp] theorem State.modLink_die (s : State) (f : Link → Link) (j : Nat) : (s.modLink f).die j = s.die j := rfl
@[simp] theorem State.putByte_die (s : State) (a : Nat) (b : Byte) (j : Nat) : (s.putByte a b).die j = s.die j := rfl
@[simp] theorem State.putBytes_die (s : State) (bs : List (Nat × Byte)) (j : Nat) : (s.putBytes bs).die j = s.die j := rfl
@[simp] theorem State.modSlot_blm (s : State) (k : Nat) (f : Slot → Slot) (j : Nat) : (s.modSlot k f).blm j = s.blm j := rfl
@[simp] theorem State.modCore_blm (s : State) (k : Nat) (f : Core → Core) (j : Nat) : (s.modCore k f).blm j = s.blm j := rfl
@[simp] theorem State.modCell_blm (s : State) (k : Nat) (f : Cell → Cell) (j : Nat) : (s.modCell k f).blm j = s.blm j := rfl
@[simp] theorem State.modCluster_blm (s : State) (k : Nat) (f : Cluster → Cluster) (j : Nat) : (s.modCluster k f).blm j = s.blm j := rfl
@[simp] theorem State.modDie_blm (s : State) (k : Nat) (f : Die → Die) (j : Nat) : (s.modDie k f).blm j = s.blm j := rfl
@[simp] theorem State.modCtx_blm (s : State) (k : Nat) (f : Context → Context) (j : Nat) : (s.modCtx k f).blm j = s.blm j := rfl
@[simp] theorem State.modSched_blm (s : State) (f : Sched → Sched) (j : Nat) : (s.modSched f).blm j = s.blm j := rfl
@[simp] theorem State.modSeq_blm (s : State) (f : Sequencer → Sequencer) (j : Nat) : (s.modSeq f).blm j = s.blm j := rfl
@[simp] theorem State.modPart_blm (s : State) (f : Part → Part) (j : Nat) : (s.modPart f).blm j = s.blm j := rfl
@[simp] theorem State.modFix_blm (s : State) (f : Fix → Fix) (j : Nat) : (s.modFix f).blm j = s.blm j := rfl
@[simp] theorem State.modLink_blm (s : State) (f : Link → Link) (j : Nat) : (s.modLink f).blm j = s.blm j := rfl
@[simp] theorem State.putByte_blm (s : State) (a : Nat) (b : Byte) (j : Nat) : (s.putByte a b).blm j = s.blm j := rfl
@[simp] theorem State.putBytes_blm (s : State) (bs : List (Nat × Byte)) (j : Nat) : (s.putBytes bs).blm j = s.blm j := rfl
@[simp] theorem State.modSlot_ctx (s : State) (k : Nat) (f : Slot → Slot) (j : Nat) : (s.modSlot k f).ctx j = s.ctx j := rfl
@[simp] theorem State.modCore_ctx (s : State) (k : Nat) (f : Core → Core) (j : Nat) : (s.modCore k f).ctx j = s.ctx j := rfl
@[simp] theorem State.modCell_ctx (s : State) (k : Nat) (f : Cell → Cell) (j : Nat) : (s.modCell k f).ctx j = s.ctx j := rfl
@[simp] theorem State.modCluster_ctx (s : State) (k : Nat) (f : Cluster → Cluster) (j : Nat) : (s.modCluster k f).ctx j = s.ctx j := rfl
@[simp] theorem State.modDie_ctx (s : State) (k : Nat) (f : Die → Die) (j : Nat) : (s.modDie k f).ctx j = s.ctx j := rfl
@[simp] theorem State.modBlm_ctx (s : State) (k : Nat) (f : Blm → Blm) (j : Nat) : (s.modBlm k f).ctx j = s.ctx j := rfl
@[simp] theorem State.modSched_ctx (s : State) (f : Sched → Sched) (j : Nat) : (s.modSched f).ctx j = s.ctx j := rfl
@[simp] theorem State.modSeq_ctx (s : State) (f : Sequencer → Sequencer) (j : Nat) : (s.modSeq f).ctx j = s.ctx j := rfl
@[simp] theorem State.modPart_ctx (s : State) (f : Part → Part) (j : Nat) : (s.modPart f).ctx j = s.ctx j := rfl
@[simp] theorem State.modFix_ctx (s : State) (f : Fix → Fix) (j : Nat) : (s.modFix f).ctx j = s.ctx j := rfl
@[simp] theorem State.modLink_ctx (s : State) (f : Link → Link) (j : Nat) : (s.modLink f).ctx j = s.ctx j := rfl
@[simp] theorem State.putByte_ctx (s : State) (a : Nat) (b : Byte) (j : Nat) : (s.putByte a b).ctx j = s.ctx j := rfl
@[simp] theorem State.putBytes_ctx (s : State) (bs : List (Nat × Byte)) (j : Nat) : (s.putBytes bs).ctx j = s.ctx j := rfl

end Sys2Proof.Machine
end

