-- ==== Sys2Proof/Laws/Memory.lean ====
section
/-! SUPPORT. The byte memory: a read after a write, the canonical form, and what the operations over storage do to both
(log 1). -/

namespace Sys2Proof.Machine

/-! ### The canonical form -/

theorem Memory.wfFrom_mono : ∀ (m : List Host.Cell) {lo hi : Nat}, lo ≤ hi → Memory.wfFrom hi m = true →
    Memory.wfFrom lo m = true
  | [], _, _, _, _ => rfl
  | (k, v) :: t, lo, hi, h, w => by
    simp only [Memory.wfFrom, Bool.and_eq_true, decide_eq_true_eq] at w ⊢
    exact ⟨⟨by omega, w.1.2⟩, w.2⟩

/-- An address below the first listed one reads as one that nothing lists. -/
theorem Memory.read_below : ∀ (m : List Host.Cell) {lo a : Nat}, Memory.wfFrom lo m = true → a < lo → Memory.read m a = 0
  | [], _, _, _, _ => rfl
  | (k, v) :: t, lo, a, w, h => by
    simp only [Memory.wfFrom, Bool.and_eq_true, decide_eq_true_eq] at w
    simp only [Memory.read]
    rw [if_neg (by omega)]
    exact Memory.read_below t w.2 (by omega)

theorem Memory.wfFrom_write : ∀ (m : List Host.Cell) {lo a : Nat} (b : Byte), Memory.wfFrom lo m = true → lo ≤ a →
    Memory.wfFrom lo (Memory.write m a b) = true
  | [], lo, a, b, _, h => by
    simp only [Memory.write]
    split
    · rfl
    · simp_all [Memory.wfFrom]
  | (k, v) :: t, lo, a, b, w, h => by
    have w' := w
    simp only [Memory.wfFrom, Bool.and_eq_true, decide_eq_true_eq] at w
    simp only [Memory.write]
    split
    · split
      · exact w'
      · rename_i h1 h2
        simp only [Memory.wfFrom, Bool.and_eq_true, decide_eq_true_eq]
        exact ⟨⟨h, h2⟩, ⟨by omega, w.1.2⟩, w.2⟩
    · split
      · split
        · exact Memory.wfFrom_mono t (by omega) w.2
        · rename_i h1 h2 h3
          simp only [Memory.wfFrom, Bool.and_eq_true, decide_eq_true_eq]
          exact ⟨⟨h, h3⟩, h2 ▸ w.2⟩
      · simp only [Memory.wfFrom, Bool.and_eq_true, decide_eq_true_eq]
        exact ⟨w.1, Memory.wfFrom_write t b w.2 (by omega)⟩

/-- A write keeps the canonical form. -/
theorem Memory.wf_write {m : List Host.Cell} (a : Nat) (b : Byte) (h : Memory.wf m = true) :
    Memory.wf (Memory.write m a b) = true := Memory.wfFrom_write m b h (Nat.zero_le a)

theorem Memory.wfFrom_filter (p : Host.Cell → Bool) : ∀ (m : List Host.Cell) {lo : Nat}, Memory.wfFrom lo m = true →
    Memory.wfFrom lo (m.filter p) = true
  | [], _, _ => rfl
  | (k, v) :: t, lo, w => by
    simp only [Memory.wfFrom, Bool.and_eq_true, decide_eq_true_eq] at w
    rw [List.filter_cons]
    split
    · simp only [Memory.wfFrom, Bool.and_eq_true, decide_eq_true_eq]
      exact ⟨w.1, Memory.wfFrom_filter p t w.2⟩
    · exact Memory.wfFrom_mono _ (by omega) (Memory.wfFrom_filter p t w.2)

/-- Bytes taken out keep it. -/
theorem Memory.wf_filter (p : Host.Cell → Bool) {m : List Host.Cell} (h : Memory.wf m = true) :
    Memory.wf (m.filter p) = true := Memory.wfFrom_filter p m h

/-- Writes of many bytes keep it. -/
theorem Memory.wf_writes : ∀ (bs : List (Nat × Byte)) {m : List Host.Cell}, Memory.wf m = true →
    Memory.wf (bs.foldl (fun m e => Memory.write m e.1 e.2) m) = true
  | [], _, h => h
  | e :: bs, _, h => Memory.wf_writes bs (Memory.wf_write e.1 e.2 h)

/-- Bytes placed from an address on keep it. -/
theorem storeFrom_wf : ∀ (bs : List Byte) {m : List Host.Cell} (a : Nat), Memory.wf m = true →
    Memory.wf (storeFrom m a bs) = true
  | [], _, _, h => h
  | b :: bs, _, a, h => storeFrom_wf bs (a + 1) (Memory.wf_write a b h)

/-! ### A read after a write -/

theorem Memory.read_write_from : ∀ (m : List Host.Cell) {lo : Nat} (a c : Nat) (b : Byte), Memory.wfFrom lo m = true →
    Memory.read (Memory.write m a b) c = if a = c then b else Memory.read m c
  | [], lo, a, c, b, _ => by
    simp only [Memory.write]
    split <;> simp_all [Memory.read]
  | (k, v) :: t, lo, a, c, b, w => by
    simp only [Memory.wfFrom, Bool.and_eq_true, decide_eq_true_eq] at w
    have low {x : Nat} (h : x ≤ k) : Memory.read t x = 0 := Memory.read_below t w.2 (by omega)
    simp only [Memory.write]
    split
    · split
      · by_cases h : a = c
        · subst h
          simp only [Memory.read]
          rw [if_neg (by omega), low (by omega)]
          simp_all
        · simp [h]
      · simp only [Memory.read]
    · split
      · rename_i h1 h2
        subst h2
        split
        · by_cases h : a = c
          · subst h; simp_all
          · simp [Memory.read, h]
        · simp only [Memory.read]
          by_cases h : a = c <;> simp [h]
      · simp only [Memory.read]
        rw [Memory.read_write_from t a c b w.2]
        by_cases h : a = c
        · subst h; simp; omega
        · simp [h]

/-- A byte reads as it was written last, and no other byte changes. -/
theorem Memory.read_write {m : List Host.Cell} (a c : Nat) (b : Byte) (h : Memory.wf m = true) :
    Memory.read (Memory.write m a b) c = if a = c then b else Memory.read m c := Memory.read_write_from m a c b h

/-- Bytes that a list of writes does not name stay. -/
theorem Memory.read_writes_ne : ∀ (bs : List (Nat × Byte)) {m : List Host.Cell} {c : Nat}, Memory.wf m = true →
    (∀ e ∈ bs, e.1 ≠ c) → Memory.read (bs.foldl (fun m e => Memory.write m e.1 e.2) m) c = Memory.read m c
  | [], _, _, _, _ => rfl
  | e :: bs, m, c, h, k => by
    rw [List.foldl_cons, Memory.read_writes_ne bs (Memory.wf_write _ _ h) fun x hx => k x (List.mem_cons_of_mem _ hx),
      Memory.read_write _ _ _ h, if_neg (k e List.mem_cons_self)]

/-! ### Storage -/

theorem State.putByte_byte (s : State) (a c : Nat) (b : Byte) (h : Memory.wf s.mem = true) :
    (s.putByte a b).byte c = if a = c then b else s.byte c := Memory.read_write a c b h

theorem State.putBytes_byte_ne (s : State) (bs : List (Nat × Byte)) (c : Nat) (h : Memory.wf s.mem = true)
    (k : ∀ e ∈ bs, e.1 ≠ c) : (s.putBytes bs).byte c = s.byte c := Memory.read_writes_ne bs h k

theorem State.putByte_wf {s : State} (a : Nat) (b : Byte) (h : Memory.wf s.mem = true) :
    Memory.wf (s.putByte a b).mem = true := Memory.wf_write a b h

theorem State.putBytes_wf {s : State} (bs : List (Nat × Byte)) (h : Memory.wf s.mem = true) :
    Memory.wf (s.putBytes bs).mem = true := Memory.wf_writes bs h

@[simp] theorem State.clearPoison_mem (s : State) (as : List Nat) : (s.clearPoison as).mem = s.mem := rfl
@[simp] theorem State.clearPoison_byte (s : State) (as : List Nat) (a : Nat) : (s.clearPoison as).byte a = s.byte a := rfl

theorem State.rekey_wf {s : State} (key a : Nat) (h : Memory.wf s.mem = true) : Memory.wf (s.rekey key a).mem = true := by
  simp only [State.rekey]
  split
  · exact h
  · exact State.putBytes_wf _ h

theorem State.hbmWrite_wf {s : State} (key : Nat) (bs : List (Nat × Byte)) (h : Memory.wf s.mem = true) :
    Memory.wf (s.hbmWrite key bs).mem = true := by
  have go : ∀ (l : List (Nat × Byte)) (s : State), Memory.wf s.mem = true →
      Memory.wf (l.foldl (fun s e => s.rekey key e.1) s).mem = true := by
    intro l
    induction l with
    | nil => exact fun _ h => h
    | cons e l ih => exact fun s h => ih _ (State.rekey_wf key e.1 h)
  exact State.putBytes_wf bs (go bs s h)

theorem State.copyInto_wf {s : State} (u frame : Nat) (h : Memory.wf s.mem = true) :
    Memory.wf (s.copyInto u frame).mem = true := State.putBytes_wf _ (Memory.wf_filter _ h)

theorem State.putHome_wf {s : State} (bs : List (Nat × Byte)) (h : Memory.wf s.mem = true) :
    Memory.wf (s.putHome bs).mem = true := State.putBytes_wf _ h

theorem State.takeFrame_wf {s : State} (f u : Nat) (h : Memory.wf s.mem = true) :
    Memory.wf (s.takeFrame f u).2.mem = true := State.putHome_wf _ (State.putHome_wf _ h)

theorem State.copyUnit_wf {s : State} (f u : Nat) (h : Memory.wf s.mem = true) : Memory.wf (s.copyUnit f u).mem = true := by
  simp only [State.copyUnit, State.modFix_mem]
  exact State.copyInto_wf _ _ (State.takeFrame_wf _ _ h)

theorem State.cow_wf (count : Nat) : ∀ (as : List Nat) {s : State}, Memory.wf s.mem = true →
    Memory.wf (s.cow count as).mem = true
  | [], _, h => h
  | a :: as, s, h => by
    simp only [State.cow, List.foldl_cons]
    refine State.cow_wf count as ?_
    split
    · exact State.copyUnit_wf _ _ h
    · exact h

theorem State.nearWrite_wf {s : State} (count : Nat) (bs : List (Nat × Byte)) (h : Memory.wf s.mem = true) :
    Memory.wf (s.nearWrite count bs).mem = true := State.putBytes_wf _ (State.cow_wf _ _ h)

end Sys2Proof.Machine
end

