-- ==== Sys2Proof/Laws/Home.lean ====
section
/-! SUPPORT. The home slices and storage of either kind: what their operations leave of memory, and that they keep its
canonical form. -/

namespace Sys2Proof.Machine

/-! ### Operations that change no byte of storage -/

@[simp] theorem State.hbmRead_mem (s : State) (key : Nat) (as : List Nat) : (s.hbmRead key as).2.mem = s.mem := by
  simp only [State.hbmRead]
  split <;> rfl

@[simp] theorem State.homeRead_mem (s : State) (count : Nat) (key : Nat) (as : List Nat) :
    (s.homeRead count key as).2.mem = s.mem := by
  simp [State.homeRead]

@[simp] theorem State.physRead_mem (s : State) (count : Nat) (key : Nat) (as : List Nat) :
    (s.physRead count key as).2.mem = s.mem := by
  unfold State.physRead
  split <;> simp

@[simp] theorem State.homeLine_mem (s : State) (key l : Nat) : (s.homeLine key l).2.2.mem = s.mem := by
  simp only [State.homeLine]
  split <;> simp

@[simp] theorem State.setTags_mem (s : State) (l : Nat) (m : BitVec 16) (t : OwnerTag) : (s.setTags l m t).mem = s.mem := by
  simp only [State.setTags]

/-- A fold of updates that leave memory leaves memory. -/
theorem State.foldl_mem {α : Type} (f : State → α → State) (h : ∀ s x, (f s x).mem = s.mem) :
    ∀ (l : List α) (s : State), (l.foldl f s).mem = s.mem
  | [], _ => rfl
  | x :: l, s => by rw [List.foldl_cons, State.foldl_mem f h l, h]

/-- A fold of updates that keep the canonical form keeps it. -/
theorem State.foldl_wf {α : Type} (f : State → α → State)
    (h : ∀ s x, Memory.wf s.mem = true → Memory.wf (f s x).mem = true) :
    ∀ (l : List α) {s : State}, Memory.wf s.mem = true → Memory.wf (l.foldl f s).mem = true
  | [], _, w => w
  | x :: l, s, w => by rw [List.foldl_cons]; exact State.foldl_wf f h l (h s x w)

@[simp] theorem State.endOthers_mem (s : State) (l : Nat) (m : BitVec 16) (keep : Option Nat) :
    (s.endOthers l m keep).mem = s.mem := by
  simp only [State.endOthers]
  exact State.foldl_mem _ (fun s c => by simp) _ _

@[simp] theorem State.markPoison_mem (s : State) (l : Nat) (m : BitVec 16) : (s.markPoison l m).mem = s.mem := rfl

/-! ### Operations that write storage -/

theorem State.l2Spill_wf {s : State} (l : Nat) (x : L2Line) (h : Memory.wf s.mem = true) :
    Memory.wf (s.l2Spill l x).mem = true := by
  simp only [State.l2Spill, State.markPoison_mem]
  exact State.hbmWrite_wf _ _ h

theorem State.l2Evict_wf {s : State} (l : Nat) (h : Memory.wf s.mem = true) : Memory.wf (s.l2Evict l).mem = true := by
  simp only [State.l2Evict]
  split
  · exact h
  · exact State.l2Spill_wf _ _ h

theorem State.l2Room_wf {s : State} (l : Nat) (h : Memory.wf s.mem = true) :
    Memory.wf (s.l2Room l).mem = true := by
  simp only [State.l2Room]
  split
  · exact h
  · split
    · exact State.l2Evict_wf _ (by simpa using h)
    · simpa using h

theorem State.homeWrite_wf {s : State} (count : Nat) (thru : Bool) (key : Nat) (bs : List (Nat × Byte))
    (h : Memory.wf s.mem = true) : Memory.wf (s.homeWrite count thru key bs).mem = true := by
  simp only [State.homeWrite]
  exact State.hbmWrite_wf _ _ (State.cow_wf _ _ h)

theorem State.homeStore_wf {s : State} (count : Nat) (thru : Bool) (key : Nat) (keep : Option Nat) (bs : List (Nat × Byte))
    (h : Memory.wf s.mem = true) : Memory.wf (s.homeStore count thru key keep bs).mem = true := by
  simp only [State.homeStore]
  exact State.homeWrite_wf _ _ _ _ (State.foldl_wf _ (fun s l w => by simpa using w) _ h)

theorem State.physWrite_wf {s : State} (count : Nat) (key : Nat) (bs : List (Nat × Byte)) (h : Memory.wf s.mem = true) :
    Memory.wf (s.physWrite count key bs).mem = true := by
  have far : ∀ far : List (Nat × Byte),
      Memory.wf (if far = [] then s else s.homeStore count true key none far).mem = true := by
    intro far
    split
    · exact h
    · exact State.homeStore_wf _ _ _ _ _ h
  simp only [State.physWrite]
  split
  · exact far _
  · exact State.nearWrite_wf _ _ (far _)

theorem State.report_wf {s : State} (die type cause ctx place : Nat) (addr detail : Word) (h : Memory.wf s.mem = true) :
    Memory.wf (s.report die type cause ctx place addr detail).mem = true := by
  simp only [State.report]
  split
  · simpa using State.physWrite_wf _ _ _ h
  · simpa using h

theorem State.correct_wf {s : State} (w : Nat) (h : Memory.wf s.mem = true) : Memory.wf (s.correct w).mem = true := by
  simp only [State.correct]
  split
  · exact State.report_wf _ _ _ _ _ _ _ (State.report_wf _ _ _ _ _ _ _ (by simpa using h))
  · exact State.report_wf _ _ _ _ _ _ _ (by simpa using h)

theorem State.noteSoft_wf {s : State} (as : List Nat) (h : Memory.wf s.mem = true) :
    Memory.wf (s.noteSoft as).mem = true := State.foldl_wf _ (fun _ w k => State.correct_wf w k) _ h

theorem State.l2Fetch_wf {s : State} (key l : Nat) (h : Memory.wf s.mem = true) :
    Memory.wf (s.l2Fetch key l).mem = true := by
  simp only [State.l2Fetch]
  split
  · exact h
  · exact State.l2Room_wf _ (by simpa using State.noteSoft_wf _ h)

end Sys2Proof.Machine
end

