-- ==== Sys2Proof/Laws/Ops.lean ====
section
/-! SUPPORT. The shared operations over slots: operands, the frame of an issue, holds, and taking an exception; each lemma
says once what its operation can do. -/

namespace Sys2Proof.Machine

/-! ### Operands -/

@[simp] theorem Slot.g_zero (sl : Slot) : sl.g 0 = 0 := rfl

theorem Slot.g_setG (sl : Slot) (r q : Reg) (v : Word) :
    (sl.setG r v).g q = if q = r ∧ r ≠ 0 then v else sl.g q := by
  unfold Slot.g Slot.setG
  by_cases hr : r = 0
  · simp [hr]
  · by_cases hq : q = 0
    · subst hq
      simp only [if_true, hr, if_false]
      rw [if_neg (fun h => hr h.1.symm)]
    · simp only [hr, hq, if_false, ne_eq, not_false_eq_true, and_true, Vector.getElem_set, BitVec.toNat_inj]
      by_cases h : r = q
      · simp [h]
      · simp [h, Ne.symm h]

/-- A register that is not in stream mode is read as it is. -/
theorem readG_plain (s : State) (r : Reg) (h : s.me.plain r = true) : readG r s = .ok (s.me.g r, s) := by
  simp only [Slot.plain, Slot.streamOf, State.me] at h
  simp only [readG, getSlot, bind, StateT.bind, Except.bind]
  cases hr : streamIx r with
  | none => rfl
  | some i =>
    simp only [hr] at h
    cases hm : (s.slot s.cur).streams[i].mapped
    · simp only [hm]; rfl
    · exact absurd hm (by simpa using h)

theorem readOpnd_plain (s : State) (b : Opnd 5) (h : s.me.plainOp b = true) : readOpnd b s = .ok (s.me.op b, s) := by
  cases b with
  | field r => exact readG_plain s r h
  | lit v => rfl

/-- A register that is not in stream mode takes the value; g0 takes none. -/
theorem writeG_plain (s : State) (r : Reg) (v : Word) (h : s.me.plain r = true) :
    writeG r v s = .ok ((), s.modSlot s.cur fun sl => sl.setG r v) := by
  simp only [Slot.plain, Slot.streamOf, State.me] at h
  simp only [writeG, getSlot, bind, StateT.bind, Except.bind]
  cases hr : streamIx r with
  | none => rfl
  | some i =>
    simp only [hr] at h
    cases hm : (s.slot s.cur).streams[i].mapped
    · simp only [hm]; rfl
    · exact absurd hm (by simpa using h)

/-! ### The frame of an issue (R146, R162, R168) -/

/-- An instruction whose guard fails goes on without an effect. -/
theorem issue_off (g : Guard) (len : Nat) (body : Act Next) (s : State) (h : s.me.guardHolds g = false)
    (hc : s.me.counted = false) : issue g len body s = .next (s.retire len .seq) := by
  simp only [State.me] at h hc
  simp [issue, h, hc]

/-- An instruction whose action goes on retires as the action says, with what it read of read streams still in them while it has
not completed (R142). -/
theorem issue_through (g : Guard) (len : Nat) (body : Act Next) (s t : State) (n : Next) (h : s.me.guardHolds g = true)
    (hb : body s = .ok (n, t)) (hn : n.awaits = false ∨ (s.cell (cellOf s.cur)).cutBegun = false) :
    issue g len body s = .next ((t.unsettle s n).retire len n) := by
  simp only [State.me] at h
  simp only [issue, h, Bool.or_true, if_true, hb]
  rcases hn with hn | hn <;> simp [hn]

/-- What it read is gone where it has completed. -/
theorem issue_ok (g : Guard) (len : Nat) (body : Act Next) (s t : State) (n : Next) (h : s.me.guardHolds g = true)
    (hb : body s = .ok (n, t)) (hn : n.awaits = false ∨ (s.cell (cellOf s.cur)).cutBegun = false)
    (hu : n.unsettled = false) : issue g len body s = .next (t.retire len n) := by
  rw [issue_through g len body s t n h hb hn, State.unsettle, hu]
  rfl

/-- One whose action stops leaves what the stop says. -/
theorem issue_stop (g : Guard) (len : Nat) (body : Act Next) (s : State) (x : Stop) (h : s.me.guardHolds g = true)
    (hb : body s = .error x) : issue g len body s = s.stopped x := by
  simp only [State.me] at h
  simp only [issue, h, Bool.or_true, if_true, hb]

/-- Every issue answers a next state. -/
theorem State.stopped_next (s : State) (x : Stop) : ∃ t, s.stopped x = .next t := by
  cases x <;> exact ⟨_, rfl⟩

theorem issue_next (g : Guard) (len : Nat) (body : Act Next) (s : State) : ∃ t, issue g len body s = .next t := by
  unfold issue
  split
  · split
    · split
      · exact ⟨_, rfl⟩
      · exact ⟨_, rfl⟩
    · exact State.stopped_next _ _
  · exact ⟨_, rfl⟩

/-! ### What retiring leaves -/

@[simp] theorem State.retire_cur (s : State) (len : Nat) (n : Next) : (s.retire len n).cur = s.cur := by
  simp only [State.retire]; split <;> rfl
@[simp] theorem State.retire_mem (s : State) (len : Nat) (n : Next) : (s.retire len n).mem = s.mem := by
  simp only [State.retire]; split <;> rfl
@[simp] theorem State.retire_byte (s : State) (len : Nat) (n : Next) (a : Nat) : (s.retire len n).byte a = s.byte a := by
  simp [State.byte]

/-- The issuing slot after it retires. -/
theorem State.retire_me (s : State) (len : Nat) (n : Next) :
    (s.retire len n).me = ({ s.me with faultWait := none, walkPoison := none
                                       latch := if n.again then s.me.latch else [] }.count).goOn len n := by
  simp only [State.retire, State.me]
  split <;> simp

/-- No other slot changes. -/
theorem State.retire_slot_ne (s : State) (len : Nat) (n : Next) {k : Nat} (h : k ≠ s.cur) :
    (s.retire len n).slot k = s.slot k := by
  simp only [State.retire]
  split
  · simp [State.slot_modSlot_ne _ _ h]
  · simp [State.slot_modSlot_ne _ _ h]

/-- Of the cells, only a place in the queues of waiters. -/
theorem State.retire_cell (s : State) (len : Nat) (n : Next) (c : Nat) :
    { (s.retire len n).cell c with queueWait := [] } = { s.cell c with queueWait := [] } := by
  simp only [State.retire]
  split
  · by_cases h : c = cellOf s.cur
    · subst h; simp [Cell.leaveQueues]
    · simp [State.cell_modCell_ne _ _ h]
  · rfl

/-- Retiring changes slots and those places alone. -/
theorem State.retire_rest (s : State) (len : Nat) (n : Next) :
    s.retire len n = { s with slots := (s.retire len n).slots, cells := (s.retire len n).cells } := by
  simp only [State.retire]
  split <;> rfl

theorem State.retire_onlyMine (s : State) (len : Nat) (n : Next) : OnlyMine s (s.retire len n) :=
  ⟨s.retire_rest len n, fun _ h => s.retire_slot_ne len n h, s.retire_cell len n⟩

/-! ### Completion of a form that writes its slot alone -/

/-- What goes on in sequence, apart from its PC, loops and issue count. -/
theorem Slot.goOn_seq_bare (sl : Slot) (len : Nat) : (sl.goOn len .seq).bare = sl.bare := by
  simp only [Slot.goOn, Slot.endCheck]
  repeat' split
  all_goals rfl

/-- What goes on in sequence passes the loop-end check of R209. -/
theorem Slot.goOn_seq_loops (sl : Slot) (len : Nat) :
    ((sl.goOn len .seq).pc, (sl.goOn len .seq).lc0, (sl.goOn len .seq).lc1) = sl.afterLoops (sl.pc + natW len) := by
  simp only [Slot.goOn, Slot.endCheck, Slot.afterLoops, natW]
  split <;> split <;> simp_all <;> split <;> simp_all <;> split <;> simp_all

/-- A form whose action changes its own slot by f, and of it neither run state, PC, loops nor what is counted, does f. -/
theorem completes_of_slot (s : State) (len : Nat) (f : Slot → Slot)
    (hb : ∀ sl : Slot, (f sl).counted = sl.counted ∧ (f sl).issues = sl.issues ∧ (f sl).pc = sl.pc) :
    Completes s ((s.modSlot s.cur f).retire len .seq) len f := by
  have me : ((s.modSlot s.cur f).retire len .seq).me =
      ({ f s.me with faultWait := none, walkPoison := none, latch := [] }.count).goOn len .seq := by
    rw [State.retire_me]; simp [State.me, Next.again]
  obtain ⟨h1, h2, h3⟩ := hb s.me
  refine ⟨?_, ?_, ?_, ?_, ?_, fun a => by simp [State.byte]⟩
  · rw [me, Slot.goOn_seq_bare]; rfl
  · rw [me]; rfl
  · rw [me]; simp [Slot.goOn, Slot.count, h1, h2]
  · rw [me, Slot.goOn_seq_loops]
    simp [Slot.movesOn, Slot.afterLoops, Slot.count, h3]
  · refine ⟨?_, ?_, ?_⟩
    · rw [State.retire_rest]; rfl
    · intro k hk
      rw [State.retire_slot_ne _ _ _ (by simpa using hk), State.slot_modSlot_ne _ _ hk]
    · intro c
      rw [State.retire_cell]; rfl

/-- The whole of such a form: guard, action, and its completion. -/
theorem does_of_body {i : Instr} {s : State} {g : Guard} {len : Nat} {body : Act Next} {f : Slot → Slot}
    (hi : exec i s = issue g len body s) (hg : s.me.guardHolds g = true)
    (hb : body s = .ok (.seq, s.modSlot s.cur f))
    (hf : ∀ sl : Slot, (f sl).counted = sl.counted ∧ (f sl).issues = sl.issues ∧ (f sl).pc = sl.pc) : Does i s len f :=
  ⟨_, by rw [hi, issue_ok g len body s _ _ hg hb (.inl rfl) rfl], completes_of_slot s len f hf⟩

/-- A form of two operands, gA and gB or a literal, that writes gD. -/
theorem does_binOp {i : Instr} {s : State} {g : Guard} {b : Opnd 5} {a d : Reg} {f : Word → Word → Word}
    (hi : exec i s = binOp g b a d f s) (hg : s.me.guardHolds g = true) (ha : s.me.plain a = true)
    (hb : s.me.plainOp b = true) (hd : s.me.plain d = true) :
    Does i s (opLen g b) fun sl => sl.setG d (f (s.me.g a) (s.me.op b)) := by
  refine does_of_body hi hg ?_ fun sl => by simp
  simp only [bind, StateT.bind, Except.bind, readG_plain s a ha, readOpnd_plain s b hb, writeG_plain s d _ hd]
  rfl

/-- A form of one operand that writes gD. -/
theorem does_unOp {i : Instr} {s : State} {g : Guard} {a d : Reg} {f : Word → Word}
    (hi : exec i s = unOp g a d f s) (hg : s.me.guardHolds g = true) (ha : s.me.plain a = true)
    (hd : s.me.plain d = true) : Does i s (formLen g) fun sl => sl.setG d (f (s.me.g a)) := by
  refine does_of_body hi hg ?_ fun sl => by simp
  simp only [bind, StateT.bind, Except.bind, readG_plain s a ha, writeG_plain s d _ hd]
  rfl

/-- A form of gA and an immediate that writes gD. -/
theorem does_immOp {i : Instr} {s : State} {g : Guard} {o : Opnd 14} {a d : Reg} {f : Word → Word → Word}
    (hi : exec i s = immOp g o a d f s) (hg : s.me.guardHolds g = true) (ha : s.me.plain a = true)
    (hd : s.me.plain d = true) : Does i s (opLen g o) fun sl => sl.setG d (f (s.me.g a) (imm o)) := by
  refine does_of_body hi hg ?_ fun sl => by simp
  simp only [bind, StateT.bind, Except.bind, readG_plain s a ha, writeG_plain s d _ hd]
  rfl

/-- A compare: it writes one predicate. -/
theorem does_cmpOp {i : Instr} {s : State} {g : Guard} {b : Opnd 5} {a : Reg} {p : PredIx} {f : Word → Word → Bool}
    (hi : exec i s = cmpOp g b a p f s) (hg : s.me.guardHolds g = true) (ha : s.me.plain a = true)
    (hb : s.me.plainOp b = true) : Does i s (opLen g b) fun sl => sl.setP p (f (s.me.g a) (s.me.op b)) := by
  refine does_of_body hi hg ?_ fun sl => by simp
  simp only [bind, StateT.bind, Except.bind, readG_plain s a ha, readOpnd_plain s b hb]
  rfl

/-- A form of two predicates that writes one. -/
theorem does_predOp {i : Instr} {s : State} {g : Guard} {b a d : PredIx} {f : Bool → Bool → Bool}
    (hi : exec i s = predOp g b a d f s) (hg : s.me.guardHolds g = true) :
    Does i s (formLen g) fun sl => sl.setP d (f (s.me.p a) (s.me.p b)) :=
  does_of_body hi hg rfl fun sl => by simp

/-! ### Taking an exception (R293) -/

/-- In work that has a vector, a trap saves PC, cause and value and goes to the vector. -/
theorem State.trapEntry_vectored (s : State) (c : Nat) (v : Word) (h : s.vectored = true) :
    s.trapEntry s.cur c v = s.modSlot s.cur fun sl =>
      { sl with run := .run, pend := .none, faultWait := none, walkPoison := none, latch := [], pops := [], counted := false
                owed := none, carry := [], trapPc := sl.pc, trapCause := BitVec.ofNat 64 c, trapVal := v, inTrap := true
                pc := (s.ctx s.me.ctx).trapVec } := by
  simp only [State.vectored, Bool.and_eq_true, bne_iff_ne, ne_eq] at h
  obtain ⟨⟨hw, ht⟩, hv⟩ := h
  simp only [State.trapEntry]
  have go : ¬((s.slot s.cur).inTrap = true ∨ (s.ctx (s.slot s.cur).ctx).trapVec = 0) := by
    rintro (h | h)
    · simp [State.me, h] at ht
    · exact hv h
  cases hk : (s.slot s.cur).work <;> simp only [State.me, hk, Bool.false_eq_true] at hw <;> simp only [go, if_false] <;> rfl

/-- What a trap leaves where the work has a vector. -/
theorem traps_of {i : Instr} {s : State} {c : Nat} {v : Word} (hv : s.vectored = true)
    (hi : exec i s = s.stopped (.trap c v)) : Traps i s c v := by
  refine ⟨_, hi, ?_⟩
  have hs : s.countIssue.vectored = true := by
    simpa [State.vectored, State.countIssue, State.me, Slot.count] using hv
  have hc : s.countIssue.cur = s.cur := rfl
  rw [← hc, State.trapEntry_vectored _ _ _ hs]
  simp [State.me, State.countIssue, Slot.count, natW]

/-- The return from a trap goes on where it was taken. -/
@[simp] theorem Slot.eret_pc (sl : Slot) : sl.eret.pc = sl.trapPc := rfl
@[simp] theorem Slot.eret_inTrap (sl : Slot) : sl.eret.inTrap = false := rfl
@[simp] theorem Slot.eret_regs (sl : Slot) : sl.eret.regs = sl.regs := rfl

end Sys2Proof.Machine
end

