-- ==== Sys2Proof/Laws/PerInstr.lean ====
section
/-! SUPPORT. For every constructor of Instr: its encoding has the number of words that LEN of its first word says, or it is
an event and has none (R163). -/

namespace Sys2Proof.Laws

open Sys2Proof Encode

namespace Encoded

/-- The words of an instruction are as many as LEN of its word 0 says (R163); an event has no words. -/
def Statement (i : Instr) : Prop := encode i = [] ∨ Decode.lenWords ((encode i).headD 0) = (encode i).length

/-- LEN of a word as a number. -/
abbrev len (w : W32) : BitVec 2 := Decode.fld w 0 2

/-- The low two bits of a word whose last field is LEN. -/
theorem low_append {n : Nat} (x : BitVec n) (l : BitVec 2) : (x ++ l).extractLsb' 0 2 = l := by
  ext i hi
  simp [BitVec.getLsbD_append, hi]

theorem len_wA (fn : BitVec 5) (sub : BitVec 4) (b a d : BitVec 5) (maj : BitVec 6) (l : BitVec 2) :
    len (wA fn sub b a d maj l) = l := low_append _ _
theorem len_wX (fn : BitVec 5) (ix : BitVec 9) (a d : BitVec 5) (maj : BitVec 6) (l : BitVec 2) :
    len (wX fn ix a d maj l) = l := low_append _ _
theorem len_wI (imm : BitVec 14) (a d : BitVec 5) (maj : BitVec 6) (l : BitVec 2) :
    len (wI imm a d maj l) = l := low_append _ _
theorem len_wB (off : BitVec 11) (c : BitVec 3) (b a : BitVec 5) (maj : BitVec 6) (l : BitVec 2) :
    len (wB off c b a maj l) = l := low_append _ _
theorem len_wJ (off : BitVec 24) (maj : BitVec 6) (l : BitVec 2) : len (wJ off maj l) = l :=
  low_append _ _
theorem len_wM (off : BitVec 5) (n : BitVec 4) (h : BitVec 2) (z : BitVec 3) (b d : BitVec 5) (maj : BitVec 6)
    (l : BitVec 2) : len (wM off n h z b d maj l) = l := low_append _ _

/-- Words that LEN counts, from LEN. -/
theorem lenWords_of (w : W32) {l : BitVec 2} (h : len w = l) :
    Decode.lenWords w = match l.toNat with | 0 => 1 | 1 => 3 | 2 => 3 | _ => 5 := by
  subst h; rfl

/-- A form that may stand in one word. -/
theorem of_plain {i : Instr} (g : Guard) (l : Option Word) (w0 : BitVec 2 → W32) (h : ∀ x, len (w0 x) = x)
    (e : encode i = plain g l w0) : Statement i := by
  refine .inr ?_
  rw [e]
  cases g <;> cases l <;> simp only [plain, litWords, List.headD_cons, List.length_cons, List.length_nil] <;>
    rw [lenWords_of _ (h _)] <;> rfl

/-- A form of three words. -/
theorem of_three {i : Instr} (w0 w1 w2 : W32) (h : len w0 = 1) (e : encode i = [w0, w1, w2]) : Statement i := by
  refine .inr ?_
  rw [e]
  simp only [List.headD_cons, List.length_cons, List.length_nil]
  rw [lenWords_of _ h]; rfl

/-- An engine form. -/
theorem of_eng {i : Instr} (x : Ext) (tb ta td : TileIx) (f : BitVec 17) (w0 : W32) (h : len w0 = 1)
    (e : encode i = eng x tb ta td f w0) : Statement i := by
  cases hd : x.done <;> simp only [eng, hd] at e <;> exact of_three _ _ _ h e

/-- A vector form without a scalar. -/
theorem of_vec {i : Instr} (x : Ext) (fn : BitVec 5) (maj : BitVec 6) (s : BitVec 4) (td ta tb : TileIx) (f : BitVec 17)
    (e : encode i = vec x fn maj s td ta tb f) : Statement i := of_eng _ _ _ _ _ _ (len_wA ..) e

end Encoded

open Encoded

theorem Encoded.add (g : Guard) (w : Wd) (b : Opnd 5) (a d : Reg) : Encoded.Statement (.add g w b a d) :=
  of_plain _ _ _ (fun _ => len_wA ..) rfl
theorem Encoded.sub (g : Guard) (w : Wd) (b : Opnd 5) (a d : Reg) : Encoded.Statement (.sub g w b a d) :=
  of_plain _ _ _ (fun _ => len_wA ..) rfl
theorem Encoded.and (g : Guard) (b : Opnd 5) (a d : Reg) : Encoded.Statement (.and g b a d) :=
  of_plain _ _ _ (fun _ => len_wA ..) rfl
theorem Encoded.or (g : Guard) (b : Opnd 5) (a d : Reg) : Encoded.Statement (.or g b a d) :=
  of_plain _ _ _ (fun _ => len_wA ..) rfl
theorem Encoded.xor (g : Guard) (b : Opnd 5) (a d : Reg) : Encoded.Statement (.xor g b a d) :=
  of_plain _ _ _ (fun _ => len_wA ..) rfl
theorem Encoded.andn (g : Guard) (b : Opnd 5) (a d : Reg) : Encoded.Statement (.andn g b a d) :=
  of_plain _ _ _ (fun _ => len_wA ..) rfl
theorem Encoded.orn (g : Guard) (b : Opnd 5) (a d : Reg) : Encoded.Statement (.orn g b a d) :=
  of_plain _ _ _ (fun _ => len_wA ..) rfl
theorem Encoded.shl (g : Guard) (w : Wd) (b : Opnd 5) (a d : Reg) : Encoded.Statement (.shl g w b a d) :=
  of_plain _ _ _ (fun _ => len_wA ..) rfl
theorem Encoded.shr (g : Guard) (w : Wd) (b : Opnd 5) (a d : Reg) : Encoded.Statement (.shr g w b a d) :=
  of_plain _ _ _ (fun _ => len_wA ..) rfl
theorem Encoded.sar (g : Guard) (w : Wd) (b : Opnd 5) (a d : Reg) : Encoded.Statement (.sar g w b a d) :=
  of_plain _ _ _ (fun _ => len_wA ..) rfl
theorem Encoded.rol (g : Guard) (w : Wd) (b : Opnd 5) (a d : Reg) : Encoded.Statement (.rol g w b a d) :=
  of_plain _ _ _ (fun _ => len_wA ..) rfl
theorem Encoded.min (g : Guard) (w : Wd) (b : Opnd 5) (a d : Reg) : Encoded.Statement (.min g w b a d) :=
  of_plain _ _ _ (fun _ => len_wA ..) rfl
theorem Encoded.max (g : Guard) (w : Wd) (b : Opnd 5) (a d : Reg) : Encoded.Statement (.max g w b a d) :=
  of_plain _ _ _ (fun _ => len_wA ..) rfl
theorem Encoded.minu (g : Guard) (w : Wd) (b : Opnd 5) (a d : Reg) : Encoded.Statement (.minu g w b a d) :=
  of_plain _ _ _ (fun _ => len_wA ..) rfl
theorem Encoded.maxu (g : Guard) (w : Wd) (b : Opnd 5) (a d : Reg) : Encoded.Statement (.maxu g w b a d) :=
  of_plain _ _ _ (fun _ => len_wA ..) rfl
theorem Encoded.mul (g : Guard) (w : Wd) (b : Opnd 5) (a d : Reg) : Encoded.Statement (.mul g w b a d) :=
  of_plain _ _ _ (fun _ => len_wA ..) rfl
theorem Encoded.mulh (g : Guard) (b : Opnd 5) (a d : Reg) : Encoded.Statement (.mulh g b a d) :=
  of_plain _ _ _ (fun _ => len_wA ..) rfl
theorem Encoded.mulhu (g : Guard) (b : Opnd 5) (a d : Reg) : Encoded.Statement (.mulhu g b a d) :=
  of_plain _ _ _ (fun _ => len_wA ..) rfl
theorem Encoded.madd (g : Guard) (w : Wd) (b : Opnd 5) (a d : Reg) : Encoded.Statement (.madd g w b a d) :=
  of_plain _ _ _ (fun _ => len_wA ..) rfl
theorem Encoded.div (g : Guard) (w : Wd) (b : Opnd 5) (a d : Reg) : Encoded.Statement (.div g w b a d) :=
  of_plain _ _ _ (fun _ => len_wA ..) rfl
theorem Encoded.divu (g : Guard) (w : Wd) (b : Opnd 5) (a d : Reg) : Encoded.Statement (.divu g w b a d) :=
  of_plain _ _ _ (fun _ => len_wA ..) rfl
theorem Encoded.rem (g : Guard) (w : Wd) (b : Opnd 5) (a d : Reg) : Encoded.Statement (.rem g w b a d) :=
  of_plain _ _ _ (fun _ => len_wA ..) rfl
theorem Encoded.remu (g : Guard) (w : Wd) (b : Opnd 5) (a d : Reg) : Encoded.Statement (.remu g w b a d) :=
  of_plain _ _ _ (fun _ => len_wA ..) rfl
theorem Encoded.clz (g : Guard) (w : Wd) (a d : Reg) : Encoded.Statement (.clz g w a d) :=
  of_plain _ _ _ (fun _ => len_wA ..) rfl
theorem Encoded.ctz (g : Guard) (w : Wd) (a d : Reg) : Encoded.Statement (.ctz g w a d) :=
  of_plain _ _ _ (fun _ => len_wA ..) rfl
theorem Encoded.popc (g : Guard) (w : Wd) (a d : Reg) : Encoded.Statement (.popc g w a d) :=
  of_plain _ _ _ (fun _ => len_wA ..) rfl
theorem Encoded.sext (g : Guard) (x : Wx) (a d : Reg) : Encoded.Statement (.sext g x a d) :=
  of_plain _ _ _ (fun _ => len_wA ..) rfl
theorem Encoded.zext (g : Guard) (x : Wx) (a d : Reg) : Encoded.Statement (.zext g x a d) :=
  of_plain _ _ _ (fun _ => len_wA ..) rfl
theorem Encoded.sel (g : Guard) (p : PredIx) (b : Opnd 5) (a d : Reg) : Encoded.Statement (.sel g p b a d) :=
  of_plain _ _ _ (fun _ => len_wA ..) rfl
theorem Encoded.addi (g : Guard) (i : Opnd 14) (a d : Reg) : Encoded.Statement (.addi g i a d) :=
  of_plain _ _ _ (fun _ => len_wI ..) rfl
theorem Encoded.andi (g : Guard) (i : Opnd 14) (a d : Reg) : Encoded.Statement (.andi g i a d) :=
  of_plain _ _ _ (fun _ => len_wI ..) rfl
theorem Encoded.ori (g : Guard) (i : Opnd 14) (a d : Reg) : Encoded.Statement (.ori g i a d) :=
  of_plain _ _ _ (fun _ => len_wI ..) rfl
theorem Encoded.xori (g : Guard) (i : Opnd 14) (a d : Reg) : Encoded.Statement (.xori g i a d) :=
  of_plain _ _ _ (fun _ => len_wI ..) rfl
theorem Encoded.shli (g : Guard) (w : Wd) (k : BitVec 6) (a d : Reg) : Encoded.Statement (.shli g w k a d) :=
  of_plain _ _ _ (fun _ => len_wI ..) rfl
theorem Encoded.shri (g : Guard) (w : Wd) (k : BitVec 6) (a d : Reg) : Encoded.Statement (.shri g w k a d) :=
  of_plain _ _ _ (fun _ => len_wI ..) rfl
theorem Encoded.sari (g : Guard) (w : Wd) (k : BitVec 6) (a d : Reg) : Encoded.Statement (.sari g w k a d) :=
  of_plain _ _ _ (fun _ => len_wI ..) rfl
theorem Encoded.li (g : Guard) (i : Opnd 14) (d : Reg) : Encoded.Statement (.li g i d) :=
  of_plain _ _ _ (fun _ => len_wI ..) rfl
theorem Encoded.lpc (g : Guard) (i : Opnd 14) (d : Reg) : Encoded.Statement (.lpc g i d) :=
  of_plain _ _ _ (fun _ => len_wI ..) rfl
theorem Encoded.extr (g : Guard) (l p : BitVec 6) (a d : Reg) : Encoded.Statement (.extr g l p a d) :=
  of_plain _ _ _ (fun _ => len_wI ..) rfl
theorem Encoded.ins (g : Guard) (l p : BitVec 6) (a d : Reg) : Encoded.Statement (.ins g l p a d) :=
  of_plain _ _ _ (fun _ => len_wI ..) rfl
theorem Encoded.cmp (g : Guard) (c : Cc) (w : Wd) (b : Opnd 5) (a : Reg) (p : PredIx) : Encoded.Statement (.cmp g c w b a p) :=
  of_plain _ _ _ (fun _ => len_wA ..) rfl
theorem Encoded.cmpi (g : Guard) (c : Cc) (i : Opnd 10) (a : Reg) (p : PredIx) : Encoded.Statement (.cmpi g c i a p) :=
  of_plain _ _ _ (fun _ => len_wI ..) rfl
theorem Encoded.fcmp (g : Guard) (c : Fcc) (t : Fty) (b : Opnd 5) (a : Reg) (p : PredIx) : Encoded.Statement (.fcmp g c t b a p) :=
  of_plain _ _ _ (fun _ => len_wA ..) rfl
theorem Encoded.pand (g : Guard) (b a d : PredIx) : Encoded.Statement (.pand g b a d) :=
  of_plain _ _ _ (fun _ => len_wA ..) rfl
theorem Encoded.por (g : Guard) (b a d : PredIx) : Encoded.Statement (.por g b a d) :=
  of_plain _ _ _ (fun _ => len_wA ..) rfl
theorem Encoded.pxor (g : Guard) (b a d : PredIx) : Encoded.Statement (.pxor g b a d) :=
  of_plain _ _ _ (fun _ => len_wA ..) rfl
theorem Encoded.pandn (g : Guard) (b a d : PredIx) : Encoded.Statement (.pandn g b a d) :=
  of_plain _ _ _ (fun _ => len_wA ..) rfl
theorem Encoded.pget (g : Guard) (d : Reg) : Encoded.Statement (.pget g d) := of_plain _ _ _ (fun _ => len_wA ..) rfl
theorem Encoded.pset (g : Guard) (a : Reg) : Encoded.Statement (.pset g a) := of_plain _ _ _ (fun _ => len_wA ..) rfl
theorem Encoded.fadd (g : Guard) (t : Fty) (b : Opnd 5) (a d : Reg) : Encoded.Statement (.fadd g t b a d) :=
  of_plain _ _ _ (fun _ => len_wA ..) rfl
theorem Encoded.fsub (g : Guard) (t : Fty) (b : Opnd 5) (a d : Reg) : Encoded.Statement (.fsub g t b a d) :=
  of_plain _ _ _ (fun _ => len_wA ..) rfl
theorem Encoded.fmul (g : Guard) (t : Fty) (b : Opnd 5) (a d : Reg) : Encoded.Statement (.fmul g t b a d) :=
  of_plain _ _ _ (fun _ => len_wA ..) rfl
theorem Encoded.fmin (g : Guard) (t : Fty) (b : Opnd 5) (a d : Reg) : Encoded.Statement (.fmin g t b a d) :=
  of_plain _ _ _ (fun _ => len_wA ..) rfl
theorem Encoded.fmax (g : Guard) (t : Fty) (b : Opnd 5) (a d : Reg) : Encoded.Statement (.fmax g t b a d) :=
  of_plain _ _ _ (fun _ => len_wA ..) rfl
theorem Encoded.fdiv (g : Guard) (t : Fty) (b : Opnd 5) (a d : Reg) : Encoded.Statement (.fdiv g t b a d) :=
  of_plain _ _ _ (fun _ => len_wA ..) rfl
theorem Encoded.fsqrt (g : Guard) (t : Fty) (a d : Reg) : Encoded.Statement (.fsqrt g t a d) :=
  of_plain _ _ _ (fun _ => len_wA ..) rfl
theorem Encoded.fma (g : Guard) (t : Fty) (b : Opnd 5) (a d : Reg) : Encoded.Statement (.fma g t b a d) :=
  of_plain _ _ _ (fun _ => len_wA ..) rfl
theorem Encoded.fms (g : Guard) (t : Fty) (b : Opnd 5) (a d : Reg) : Encoded.Statement (.fms g t b a d) :=
  of_plain _ _ _ (fun _ => len_wA ..) rfl
theorem Encoded.fnma (g : Guard) (t : Fty) (b : Opnd 5) (a d : Reg) : Encoded.Statement (.fnma g t b a d) :=
  of_plain _ _ _ (fun _ => len_wA ..) rfl
theorem Encoded.fabs (g : Guard) (t : Fty) (a d : Reg) : Encoded.Statement (.fabs g t a d) :=
  of_plain _ _ _ (fun _ => len_wA ..) rfl
theorem Encoded.fneg (g : Guard) (t : Fty) (a d : Reg) : Encoded.Statement (.fneg g t a d) :=
  of_plain _ _ _ (fun _ => len_wA ..) rfl
theorem Encoded.fclass (g : Guard) (t : Fty) (a d : Reg) : Encoded.Statement (.fclass g t a d) :=
  of_plain _ _ _ (fun _ => len_wA ..) rfl
theorem Encoded.fcvt (g : Guard) (k : CvtKind) (a d : Reg) : Encoded.Statement (.fcvt g k a d) :=
  of_plain _ _ _ (fun _ => len_wA ..) rfl
theorem Encoded.bcc (g : Guard) (c : Bcc) (o : Opnd 11) (b a : Reg) : Encoded.Statement (.bcc g c o b a) :=
  of_plain _ _ _ (fun _ => len_wB ..) rfl
theorem Encoded.bp (g : Guard) (o : Opnd 11) (p : PredIx) : Encoded.Statement (.bp g o p) :=
  of_plain _ _ _ (fun _ => len_wB ..) rfl
theorem Encoded.bnp (g : Guard) (o : Opnd 11) (p : PredIx) : Encoded.Statement (.bnp g o p) :=
  of_plain _ _ _ (fun _ => len_wB ..) rfl
theorem Encoded.j (g : Guard) (o : Opnd 24) : Encoded.Statement (.j g o) := of_plain _ _ _ (fun _ => len_wJ ..) rfl
theorem Encoded.jal (g : Guard) (o : Opnd 24) : Encoded.Statement (.jal g o) :=
  of_plain _ _ _ (fun _ => len_wJ ..) rfl
theorem Encoded.jr (g : Guard) (a : Reg) : Encoded.Statement (.jr g a) := of_plain _ _ _ (fun _ => len_wA ..) rfl
theorem Encoded.jalr (g : Guard) (a d : Reg) : Encoded.Statement (.jalr g a d) :=
  of_plain _ _ _ (fun _ => len_wA ..) rfl
theorem Encoded.loop (g : Guard) (l : BitVec 1) (i : BitVec 14) (a : Reg) : Encoded.Statement (.loop g l i a) :=
  of_plain _ _ _ (fun _ => len_wI ..) rfl
theorem Encoded.align (i : BitVec 14) : Encoded.Statement (.align i) :=
  of_plain .always none _ (fun _ => len_wI ..) rfl
theorem Encoded.nop (g : Guard) : Encoded.Statement (.nop g) := of_plain _ _ _ (fun _ => len_wA ..) rfl
theorem Encoded.exit (g : Guard) : Encoded.Statement (.exit g) := of_plain _ _ _ (fun _ => len_wA ..) rfl
theorem Encoded.ld (g : Guard) (z : LdSize) (h : Hint) (n : BitVec 4) (o : Opnd 5) (b d : Reg) : Encoded.Statement (.ld g z h n o b d) :=
  of_plain _ _ _ (fun _ => len_wM ..) rfl
theorem Encoded.st (g : Guard) (z : StSize) (h : Hint) (o : Opnd 5) (b s : Reg) : Encoded.Statement (.st g z h o b s) :=
  of_plain _ _ _ (fun _ => len_wM ..) rfl
theorem Encoded.ldRaw (g : Guard) (z : StSize) (h : Hint) (n : BitVec 4) (o : Opnd 5) (b d : Reg) : Encoded.Statement (.ldRaw g z h n o b d) :=
  of_plain _ _ _ (fun _ => len_wM ..) rfl
theorem Encoded.stRaw (g : Guard) (z : StSize) (h : Hint) (o : Opnd 5) (b s : Reg) : Encoded.Statement (.stRaw g z h o b s) :=
  of_plain _ _ _ (fun _ => len_wM ..) rfl
theorem Encoded.amsend (g : Guard) (b a d : Reg) : Encoded.Statement (.amsend g b a d) :=
  of_plain _ _ _ (fun _ => len_wA ..) rfl
theorem Encoded.aadd (g : Guard) (z : Asz) (b a d : Reg) : Encoded.Statement (.aadd g z b a d) :=
  of_plain _ _ _ (fun _ => len_wA ..) rfl
theorem Encoded.amin (g : Guard) (z : Asz) (b a d : Reg) : Encoded.Statement (.amin g z b a d) :=
  of_plain _ _ _ (fun _ => len_wA ..) rfl
theorem Encoded.amax (g : Guard) (z : Asz) (b a d : Reg) : Encoded.Statement (.amax g z b a d) :=
  of_plain _ _ _ (fun _ => len_wA ..) rfl
theorem Encoded.aminu (g : Guard) (z : Asz) (b a d : Reg) : Encoded.Statement (.aminu g z b a d) :=
  of_plain _ _ _ (fun _ => len_wA ..) rfl
theorem Encoded.amaxu (g : Guard) (z : Asz) (b a d : Reg) : Encoded.Statement (.amaxu g z b a d) :=
  of_plain _ _ _ (fun _ => len_wA ..) rfl
theorem Encoded.aand (g : Guard) (z : Asz) (b a d : Reg) : Encoded.Statement (.aand g z b a d) :=
  of_plain _ _ _ (fun _ => len_wA ..) rfl
theorem Encoded.aor (g : Guard) (z : Asz) (b a d : Reg) : Encoded.Statement (.aor g z b a d) :=
  of_plain _ _ _ (fun _ => len_wA ..) rfl
theorem Encoded.axor (g : Guard) (z : Asz) (b a d : Reg) : Encoded.Statement (.axor g z b a d) :=
  of_plain _ _ _ (fun _ => len_wA ..) rfl
theorem Encoded.aswp (g : Guard) (z : Asz) (b a d : Reg) : Encoded.Statement (.aswp g z b a d) :=
  of_plain _ _ _ (fun _ => len_wA ..) rfl
theorem Encoded.acas (g : Guard) (z : Asz) (b a d : Reg) : Encoded.Statement (.acas g z b a d) :=
  of_plain _ _ _ (fun _ => len_wA ..) rfl
theorem Encoded.homeAtomic (q : AtomReq) : Encoded.Statement (.homeAtomic q) := .inl rfl
theorem Encoded.fence (g : Guard) (s : Scope) : Encoded.Statement (.fence g s) :=
  of_plain _ _ _ (fun _ => len_wA ..) rfl
theorem Encoded.acq (g : Guard) (s : Scope) (b a : Reg) : Encoded.Statement (.acq g s b a) :=
  of_plain _ _ _ (fun _ => len_wA ..) rfl
theorem Encoded.rel (g : Guard) (s : Scope) (b a : Reg) : Encoded.Statement (.rel g s b a) :=
  of_plain _ _ _ (fun _ => len_wA ..) rfl
theorem Encoded.invr (g : Guard) (b a : Reg) : Encoded.Statement (.invr g b a) :=
  of_plain _ _ _ (fun _ => len_wA ..) rfl
theorem Encoded.vsync (g : Guard) (a : Reg) : Encoded.Statement (.vsync g a) :=
  of_plain _ _ _ (fun _ => len_wA ..) rfl
theorem Encoded.smap (g : Guard) (a d : Reg) : Encoded.Statement (.smap g a d) :=
  of_plain _ _ _ (fun _ => len_wA ..) rfl
theorem Encoded.sunmap (g : Guard) (a : Reg) : Encoded.Statement (.sunmap g a) :=
  of_plain _ _ _ (fun _ => len_wA ..) rfl
theorem Encoded.sstat (g : Guard) (a d : Reg) : Encoded.Statement (.sstat g a d) :=
  of_plain _ _ _ (fun _ => len_wA ..) rfl
theorem Encoded.sskip (g : Guard) (b a : Reg) : Encoded.Statement (.sskip g b a) :=
  of_plain _ _ _ (fun _ => len_wA ..) rfl
theorem Encoded.spref (g : Guard) (a : Reg) : Encoded.Statement (.spref g a) :=
  of_plain _ _ _ (fun _ => len_wA ..) rfl
theorem Encoded.tbind (q : Pg) (view : BitVec 2) (plane : Bool) (fmt : BitVec 4) (cols rows : BitVec 12) (b a : Reg) (td : TileIx) : Encoded.Statement (.tbind q view plane fmt cols rows b a td) :=
  of_three _ _ _ (len_wA ..) rfl
theorem Encoded.tfree (q : Pg) (td : TileIx) : Encoded.Statement (.tfree q td) := of_three _ _ _ (len_wA ..) rfl
theorem Encoded.tstate (q : Pg) (dw : BitVec 2) (d : Reg) (td : TileIx) : Encoded.Statement (.tstate q dw d td) :=
  of_three _ _ _ (len_wA ..) rfl
theorem Encoded.twait (q : Pg) (td : TileIx) : Encoded.Statement (.twait q td) := of_three _ _ _ (len_wA ..) rfl
theorem Encoded.tmarkR (q : Pg) (td : TileIx) : Encoded.Statement (.tmarkR q td) := of_three _ _ _ (len_wA ..) rfl
theorem Encoded.tmarkE (q : Pg) (td : TileIx) : Encoded.Statement (.tmarkE q td) := of_three _ _ _ (len_wA ..) rfl
theorem Encoded.cpLd (x : Ext) (e : Option (Reg × Reg)) (td : TileIx) : Encoded.Statement (.cpLd x e td) := by
  cases e <;> exact of_eng _ _ _ _ _ _ (len_wA ..) rfl
theorem Encoded.cpSt (x : Ext) (e : Option (Reg × Reg)) (td : TileIx) : Encoded.Statement (.cpSt x e td) := by
  cases e <;> exact of_eng _ _ _ _ _ _ (len_wA ..) rfl
theorem Encoded.cp2d (x : Ext) (out : Bool) (row0 : BitVec 16) (b a : Reg) (td : TileIx) : Encoded.Statement (.cp2d x out row0 b a td) :=
  of_eng _ _ _ _ _ _ (len_wA ..) rfl
theorem Encoded.fill (x : Ext) (a : Reg) (td : TileIx) : Encoded.Statement (.fill x a td) :=
  of_eng _ _ _ _ _ _ (len_wA ..) rfl
theorem Encoded.gather (x : Ext) (b a : Reg) (td ta : TileIx) : Encoded.Statement (.gather x b a td ta) :=
  of_eng _ _ _ _ _ _ (len_wA ..) rfl
theorem Encoded.scatter (x : Ext) (b a : Reg) (td ta : TileIx) : Encoded.Statement (.scatter x b a td ta) :=
  of_eng _ _ _ _ _ _ (len_wA ..) rfl
theorem Encoded.gatherSublist (q : Sublist) : Encoded.Statement (.gatherSublist q) := .inl rfl
theorem Encoded.halo (x : Ext) (w : BitVec 3) (td : TileIx) : Encoded.Statement (.halo x w td) :=
  of_eng _ _ _ _ _ _ (len_wA ..) rfl
theorem Encoded.haloArrival (q : HaloMsg) : Encoded.Statement (.haloArrival q) := .inl rfl
theorem Encoded.cprot (x : Ext) (split : Bool) (b a : Reg) (td ta : TileIx) : Encoded.Statement (.cprot x split b a td ta) :=
  of_eng _ _ _ _ _ _ (len_wA ..) rfl
theorem Encoded.cvPlane (x : Ext) (td ta : TileIx) : Encoded.Statement (.cvPlane x td ta) :=
  of_eng _ _ _ _ _ _ (len_wA ..) rfl
theorem Encoded.cvUnplane (x : Ext) (td ta : TileIx) : Encoded.Statement (.cvUnplane x td ta) :=
  of_eng _ _ _ _ _ _ (len_wA ..) rfl
theorem Encoded.cvQ (x : Ext) (m : QSel) (h : BitVec 5) (td ta : TileIx) : Encoded.Statement (.cvQ x m h td ta) := by
  cases m <;> exact of_eng _ _ _ _ _ _ (len_wA ..) rfl
theorem Encoded.cvF (x : Ext) (m : RndSel) (td ta : TileIx) : Encoded.Statement (.cvF x m td ta) :=
  of_eng _ _ _ _ _ _ (len_wA ..) rfl
theorem Encoded.cvTr (x : Ext) (td ta : TileIx) : Encoded.Statement (.cvTr x td ta) :=
  of_eng _ _ _ _ _ _ (len_wA ..) rfl
theorem Encoded.tiLoad (x : Ext) (t : BitVec 2) (a : Reg) : Encoded.Statement (.tiLoad x t a) :=
  of_eng _ _ _ _ _ _ (len_wA ..) rfl
theorem Encoded.tiEval (x : Ext) (r : Fty) (t : BitVec 2) (td ta : TileIx) : Encoded.Statement (.tiEval x r t td ta) :=
  of_eng _ _ _ _ _ _ (len_wA ..) rfl
theorem Encoded.mma (x : Ext) (z : Bool) (bp ap : BitVec 4) (td ta tb : TileIx) : Encoded.Statement (.mma x z bp ap td ta tb) :=
  of_eng _ _ _ _ _ _ (len_wA ..) rfl
theorem Encoded.maccRd (x : Ext) (t : MaccTy) (m : RndSel) (s : Option Reg) (td ta : TileIx) : Encoded.Statement (.maccRd x t m s td ta) := by
  cases s <;> exact of_eng _ _ _ _ _ _ (len_wA ..) rfl
theorem Encoded.vadd (x : Ext) (t : VSat) (br : Br) (mk : Option TileIx) (td ta tb : TileIx) : Encoded.Statement (.vadd x t br mk td ta tb) :=
  of_vec _ _ _ _ _ _ _ _ rfl
theorem Encoded.vsub (x : Ext) (t : VSat) (br : Br) (mk : Option TileIx) (td ta tb : TileIx) : Encoded.Statement (.vsub x t br mk td ta tb) :=
  of_vec _ _ _ _ _ _ _ _ rfl
theorem Encoded.vmul (x : Ext) (t : VSat) (br : Br) (mk : Option TileIx) (td ta tb : TileIx) : Encoded.Statement (.vmul x t br mk td ta tb) :=
  of_vec _ _ _ _ _ _ _ _ rfl
theorem Encoded.vfma (x : Ext) (t : VFmaTy) (br : Br) (mk : Option TileIx) (td ta tb : TileIx) : Encoded.Statement (.vfma x t br mk td ta tb) :=
  of_vec _ _ _ _ _ _ _ _ rfl
theorem Encoded.vmin (x : Ext) (t : Vty) (br : Br) (mk : Option TileIx) (td ta tb : TileIx) : Encoded.Statement (.vmin x t br mk td ta tb) :=
  of_vec _ _ _ _ _ _ _ _ rfl
theorem Encoded.vmax (x : Ext) (t : Vty) (br : Br) (mk : Option TileIx) (td ta tb : TileIx) : Encoded.Statement (.vmax x t br mk td ta tb) :=
  of_vec _ _ _ _ _ _ _ _ rfl
theorem Encoded.vabs (x : Ext) (t : VSat) (mk : Option TileIx) (td ta : TileIx) : Encoded.Statement (.vabs x t mk td ta) :=
  of_vec _ _ _ _ _ _ _ _ rfl
theorem Encoded.vneg (x : Ext) (t : VSat) (mk : Option TileIx) (td ta : TileIx) : Encoded.Statement (.vneg x t mk td ta) :=
  of_vec _ _ _ _ _ _ _ _ rfl
theorem Encoded.vcmp (x : Ext) (c : VCmp) (br : Br) (mk : Option TileIx) (td ta tb : TileIx) : Encoded.Statement (.vcmp x c br mk td ta tb) :=
  of_vec _ _ _ _ _ _ _ _ rfl
theorem Encoded.vsel (x : Ext) (t : Vty) (br : Br) (tm td ta tb : TileIx) : Encoded.Statement (.vsel x t br tm td ta tb) :=
  of_vec _ _ _ _ _ _ _ _ rfl
theorem Encoded.vscale (x : Ext) (t : VSat) (mk : Option TileIx) (a : Reg) (td ta : TileIx) : Encoded.Statement (.vscale x t mk a td ta) :=
  of_eng _ _ _ _ _ _ (len_wA ..) rfl
theorem Encoded.vaddsc (x : Ext) (t : VSat) (mk : Option TileIx) (a : Reg) (td ta : TileIx) : Encoded.Statement (.vaddsc x t mk a td ta) :=
  of_eng _ _ _ _ _ _ (len_wA ..) rfl
theorem Encoded.vred (x : Ext) (o : VRedOp) (cols : Bool) (mk : Option TileIx) (td ta : TileIx) : Encoded.Statement (.vred x o cols mk td ta) := by
  cases o <;> exact of_vec _ _ _ _ _ _ _ _ rfl
theorem Encoded.vcvt (x : Ext) (u t : Vty) (m : RndSel) (mk : Option TileIx) (td ta : TileIx) : Encoded.Statement (.vcvt x u t m mk td ta) :=
  of_vec _ _ _ _ _ _ _ _ rfl
theorem Encoded.vmov (x : Ext) (t : Vty) (mk : Option TileIx) (td ta : TileIx) : Encoded.Statement (.vmov x t mk td ta) :=
  of_vec _ _ _ _ _ _ _ _ rfl
theorem Encoded.vbcast (x : Ext) (t : Vty) (br : BcastBr) (mk : Option TileIx) (td ta : TileIx) : Encoded.Statement (.vbcast x t br mk td ta) :=
  of_vec _ _ _ _ _ _ _ _ rfl
theorem Encoded.vand (x : Ext) (t : Vty) (br : Br) (mk : Option TileIx) (td ta tb : TileIx) : Encoded.Statement (.vand x t br mk td ta tb) :=
  of_vec _ _ _ _ _ _ _ _ rfl
theorem Encoded.vor (x : Ext) (t : Vty) (br : Br) (mk : Option TileIx) (td ta tb : TileIx) : Encoded.Statement (.vor x t br mk td ta tb) :=
  of_vec _ _ _ _ _ _ _ _ rfl
theorem Encoded.vxor (x : Ext) (t : Vty) (br : Br) (mk : Option TileIx) (td ta tb : TileIx) : Encoded.Statement (.vxor x t br mk td ta tb) :=
  of_vec _ _ _ _ _ _ _ _ rfl
theorem Encoded.vshl (x : Ext) (t : Ity) (sat : Bool) (mk : Option TileIx) (a : Reg) (td ta : TileIx) : Encoded.Statement (.vshl x t sat mk a td ta) :=
  of_eng _ _ _ _ _ _ (len_wA ..) rfl
theorem Encoded.vshr (x : Ext) (t : Ity) (arith : Bool) (mk : Option TileIx) (a : Reg) (td ta : TileIx) : Encoded.Statement (.vshr x t arith mk a td ta) :=
  of_eng _ _ _ _ _ _ (len_wA ..) rfl
theorem Encoded.vmuli (x : Ext) (t : Ity) (sat : Bool) (sh : BitVec 6) (mk : Option TileIx) (a : Reg) (td ta : TileIx) : Encoded.Statement (.vmuli x t sat sh mk a td ta) :=
  of_eng _ _ _ _ _ _ (len_wA ..) rfl
theorem Encoded.vclamp (x : Ext) (t : Vty) (mk : Option TileIx) (b a : Reg) (td ta : TileIx) : Encoded.Statement (.vclamp x t mk b a td ta) :=
  of_eng _ _ _ _ _ _ (len_wA ..) rfl
theorem Encoded.txsub (g : Guard) (a : Reg) : Encoded.Statement (.txsub g a) :=
  of_plain _ _ _ (fun _ => len_wA ..) rfl
theorem Encoded.txsubf (g : Guard) (a : Reg) : Encoded.Statement (.txsubf g a) :=
  of_plain _ _ _ (fun _ => len_wA ..) rfl
theorem Encoded.txend (g : Guard) : Encoded.Statement (.txend g) := of_plain _ _ _ (fun _ => len_wA ..) rfl
theorem Encoded.txnum (g : Guard) (d : Reg) : Encoded.Statement (.txnum g d) :=
  of_plain _ _ _ (fun _ => len_wA ..) rfl
theorem Encoded.txwd (g : Guard) (b a d : Reg) : Encoded.Statement (.txwd g b a d) :=
  of_plain _ _ _ (fun _ => len_wA ..) rfl
theorem Encoded.txq (g : Guard) (a d : Reg) : Encoded.Statement (.txq g a d) :=
  of_plain _ _ _ (fun _ => len_wA ..) rfl
theorem Encoded.mergeGateReceive (die fromPart : Nat) (q : LockMsg) : Encoded.Statement (.mergeGateReceive die fromPart q) :=
  .inl rfl
theorem Encoded.blmRequestArrival (blm : Nat) (q : BlmMsg) : Encoded.Statement (.blmRequestArrival blm q) := .inl rfl
theorem Encoded.blmRelease (blm num : Nat) (x : Gran) : Encoded.Statement (.blmRelease blm num x) := .inl rfl
theorem Encoded.grantPushArrival (cell num : Nat) (x : Gran) (data : List Byte) (poison : List Nat) : Encoded.Statement (.grantPushArrival cell num x data poison) :=
  .inl rfl
theorem Encoded.writeOnlyTileClear (cell num : Nat) (t : TileIx) : Encoded.Statement (.writeOnlyTileClear cell num t) :=
  .inl rfl
theorem Encoded.txnDispatch (cell num : Nat) : Encoded.Statement (.txnDispatch cell num) := .inl rfl
theorem Encoded.drainAck (cell num : Nat) (x : Gran) : Encoded.Statement (.drainAck cell num x) := .inl rfl
theorem Encoded.withdrawalNotice (cell num : Nat) : Encoded.Statement (.withdrawalNotice cell num) := .inl rfl
theorem Encoded.callat (g : Guard) (a d : Reg) : Encoded.Statement (.callat g a d) :=
  of_plain _ _ _ (fun _ => len_wX ..) rfl
theorem Encoded.launch (g : Guard) (a d : Reg) : Encoded.Statement (.launch g a d) :=
  of_plain _ _ _ (fun _ => len_wX ..) rfl
theorem Encoded.tpost (g : Guard) (q : BitVec 2) (a d : Reg) : Encoded.Statement (.tpost g q a d) :=
  of_plain _ _ _ (fun _ => len_wX ..) rfl
theorem Encoded.taskwd (g : Guard) (a : Reg) : Encoded.Statement (.taskwd g a) :=
  of_plain _ _ _ (fun _ => len_wX ..) rfl
theorem Encoded.dcset (g : Guard) (n : BitVec 8) (a d : Reg) : Encoded.Statement (.dcset g n a d) :=
  of_plain _ _ _ (fun _ => len_wX ..) rfl
theorem Encoded.dcdec (g : Guard) (n : BitVec 8) (a : Reg) : Encoded.Statement (.dcdec g n a) :=
  of_plain _ _ _ (fun _ => len_wX ..) rfl
theorem Encoded.rfork (q : Pg) (a d : Reg) : Encoded.Statement (.rfork q a d) := of_three _ _ _ (len_wX ..) rfl
theorem Encoded.rforkClaim (k core : Nat) : Encoded.Statement (.rforkClaim k core) := .inl rfl
theorem Encoded.bar (g : Guard) (n : BitVec 8) (d : Reg) : Encoded.Statement (.bar g n d) :=
  of_plain _ _ _ (fun _ => len_wX ..) rfl
theorem Encoded.barq (g : Guard) (n : BitVec 8) (d : Reg) : Encoded.Statement (.barq g n d) :=
  of_plain _ _ _ (fun _ => len_wX ..) rfl
theorem Encoded.semadd (g : Guard) (n : BitVec 5) (a d : Reg) : Encoded.Statement (.semadd g n a d) :=
  of_plain _ _ _ (fun _ => len_wX ..) rfl
theorem Encoded.semwait (g : Guard) (n : BitVec 5) (a d : Reg) : Encoded.Statement (.semwait g n a d) :=
  of_plain _ _ _ (fun _ => len_wX ..) rfl
theorem Encoded.semset (g : Guard) (n : BitVec 5) (a : Reg) : Encoded.Statement (.semset g n a) :=
  of_plain _ _ _ (fun _ => len_wX ..) rfl
theorem Encoded.msend (g : Guard) (m : BitVec 2) (a d : Reg) : Encoded.Statement (.msend g m a d) :=
  of_plain _ _ _ (fun _ => len_wX ..) rfl
theorem Encoded.mrecv (g : Guard) (m : BitVec 2) (d : Reg) : Encoded.Statement (.mrecv g m d) :=
  of_plain _ _ _ (fun _ => len_wX ..) rfl
theorem Encoded.mpoll (g : Guard) (m : BitVec 2) (d : Reg) : Encoded.Statement (.mpoll g m d) :=
  of_plain _ _ _ (fun _ => len_wX ..) rfl
theorem Encoded.mfsr (g : Guard) (x : BitVec 9) (d : Reg) : Encoded.Statement (.mfsr g x d) :=
  of_plain _ _ _ (fun _ => len_wX ..) rfl
theorem Encoded.mtsr (g : Guard) (x : BitVec 9) (a : Reg) : Encoded.Statement (.mtsr g x a) :=
  of_plain _ _ _ (fun _ => len_wX ..) rfl
theorem Encoded.trap (g : Guard) (n : BitVec 9) : Encoded.Statement (.trap g n) :=
  of_plain _ _ _ (fun _ => len_wX ..) rfl
theorem Encoded.brk (g : Guard) (n : BitVec 9) : Encoded.Statement (.brk g n) :=
  of_plain _ _ _ (fun _ => len_wX ..) rfl
theorem Encoded.eret (g : Guard) : Encoded.Statement (.eret g) := of_plain _ _ _ (fun _ => len_wX ..) rfl
theorem Encoded.rng (g : Guard) (a d : Reg) : Encoded.Statement (.rng g a d) :=
  of_plain _ _ _ (fun _ => len_wX ..) rfl
theorem Encoded.fix (g : Guard) (d : Reg) : Encoded.Statement (.fix g d) := of_plain _ _ _ (fun _ => len_wX ..) rfl
theorem Encoded.fixq (g : Guard) (a d : Reg) : Encoded.Statement (.fixq g a d) :=
  of_plain _ _ _ (fun _ => len_wX ..) rfl
theorem Encoded.sqctlWrite (v : Word) : Encoded.Statement (.sqctlWrite v) := .inl rfl
theorem Encoded.estatClear (k : Nat) : Encoded.Statement (.estatClear k) := .inl rfl
theorem Encoded.wdogWrite (cell : Nat) (v : Word) : Encoded.Statement (.wdogWrite cell v) := .inl rfl
theorem Encoded.qringWrite (core q : Nat) (v : Word) : Encoded.Statement (.qringWrite core q v) := .inl rfl
theorem Encoded.groupEntryWrite (n : Nat) (v : Word) : Encoded.Statement (.groupEntryWrite n v) := .inl rfl
theorem Encoded.keyselWrite (v : Word) : Encoded.Statement (.keyselWrite v) := .inl rfl
theorem Encoded.keydataWrite (v : Word) : Encoded.Statement (.keydataWrite v) := .inl rfl
theorem Encoded.fetchBlockDelivery (cluster ctx block : Nat) (cell : Option Nat) (data : List Byte) (poison : List Nat) : Encoded.Statement (.fetchBlockDelivery cluster ctx block cell data poison) :=
  .inl rfl
theorem Encoded.memoryReplyArrival (k : Nat) (r : Reply) : Encoded.Statement (.memoryReplyArrival k r) := .inl rfl
theorem Encoded.fillRequest (cell line key fixCount : Nat) : Encoded.Statement (.fillRequest cell line key fixCount) :=
  .inl rfl
theorem Encoded.fillDataArrival (cell line : Nat) (data : LineData) (poison lost : BitVec 16) : Encoded.Statement (.fillDataArrival cell line data poison lost) :=
  .inl rfl
theorem Encoded.registration (cell line : Nat) (mask : BitVec 16) : Encoded.Statement (.registration cell line mask) :=
  .inl rfl
theorem Encoded.registrationAck (cell line : Nat) (mask : BitVec 16) : Encoded.Statement (.registrationAck cell line mask) :=
  .inl rfl
theorem Encoded.registrationRetry (cell line : Nat) (mask : BitVec 16) : Encoded.Statement (.registrationRetry cell line mask) :=
  .inl rfl
theorem Encoded.registrationResend (cell line : Nat) (mask : BitVec 16) : Encoded.Statement (.registrationResend cell line mask) :=
  .inl rfl
theorem Encoded.ownershipLostNotice (cell line : Nat) (mask : BitVec 16) : Encoded.Statement (.ownershipLostNotice cell line mask) :=
  .inl rfl
theorem Encoded.recall (cell line : Nat) (mask : BitVec 16) : Encoded.Statement (.recall cell line mask) := .inl rfl
theorem Encoded.copyBack (cell line : Nat) (mask nodata : BitVec 16) (data : LineData) (poison : BitVec 16) (key fixCount : Nat) : Encoded.Statement (.copyBack cell line mask nodata data poison key fixCount) :=
  .inl rfl
theorem Encoded.copyBackAck (cell line : Nat) (mask dropped : BitVec 16) : Encoded.Statement (.copyBackAck cell line mask dropped) :=
  .inl rfl
theorem Encoded.writeThrough (q : MemReq) : Encoded.Statement (.writeThrough q) := .inl rfl
theorem Encoded.viewEngineAccess (q : MemReq) : Encoded.Statement (.viewEngineAccess q) := .inl rfl
theorem Encoded.walkComplete (cluster : Nat) (q : WalkReq) : Encoded.Statement (.walkComplete cluster q) := .inl rfl
theorem Encoded.fixFieldUpdate (cluster : Nat) (leaf : Leaf) (who : Agent) : Encoded.Statement (.fixFieldUpdate cluster leaf who) :=
  .inl rfl
theorem Encoded.plumeFaultMessage (die router child : Nat) (drop : Bool) (who : Nat) (f : PageFault) : Encoded.Statement (.plumeFaultMessage die router child drop who f) :=
  .inl rfl
theorem Encoded.plumeReply (die router ctx page : Nat) (declined : Bool) : Encoded.Statement (.plumeReply die router ctx page declined) :=
  .inl rfl
theorem Encoded.faultReplyArrival (cluster ctx page : Nat) (declined : Bool) : Encoded.Statement (.faultReplyArrival cluster ctx page declined) :=
  .inl rfl
theorem Encoded.reply (die ctx page : Nat) (declined : Bool) : Encoded.Statement (.reply die ctx page declined) :=
  .inl rfl
theorem Encoded.replayall (die : Nat) : Encoded.Statement (.replayall die) := .inl rfl
theorem Encoded.inval (die ctx page count : Nat) : Encoded.Statement (.inval die ctx page count) := .inl rfl
theorem Encoded.swout (die ctx area : Nat) : Encoded.Statement (.swout die ctx area) := .inl rfl
theorem Encoded.swin (die ctx area : Nat) : Encoded.Statement (.swin die ctx area) := .inl rfl
theorem Encoded.teardown (die ctx : Nat) : Encoded.Statement (.teardown die ctx) := .inl rfl
theorem Encoded.teardownArrival (core ctx : Nat) : Encoded.Statement (.teardownArrival core ctx) := .inl rfl
theorem Encoded.sextantRead (p : Datagram) : Encoded.Statement (.sextantRead p) := .inl rfl
theorem Encoded.sextantWrite (p : Datagram) : Encoded.Statement (.sextantWrite p) := .inl rfl
theorem Encoded.sextantStart (p : Datagram) : Encoded.Statement (.sextantStart p) := .inl rfl
theorem Encoded.sextantFix (p : Datagram) : Encoded.Statement (.sextantFix p) := .inl rfl
theorem Encoded.sextantRollback (p : Datagram) : Encoded.Statement (.sextantRollback p) := .inl rfl
theorem Encoded.sextantPod (p : Datagram) (r : PodRec) : Encoded.Statement (.sextantPod p r) := .inl rfl
theorem Encoded.sextantAck (p : Datagram) : Encoded.Statement (.sextantAck p) := .inl rfl
theorem Encoded.sextantResend (n : Nat) : Encoded.Statement (.sextantResend n) := .inl rfl
theorem Encoded.managementOp (p : Datagram) : Encoded.Statement (.managementOp p) := .inl rfl
theorem Encoded.attestationRequest (p : Datagram) : Encoded.Statement (.attestationRequest p) := .inl rfl
theorem Encoded.azimuthFlitReceive (port n : Nat) (ok : Bool) (src incarn : Nat) (m : AzMsg) : Encoded.Statement (.azimuthFlitReceive port n ok src incarn m) :=
  .inl rfl
theorem Encoded.azimuthHeartbeatFlit (port : Nat) : Encoded.Statement (.azimuthHeartbeatFlit port) := .inl rfl
theorem Encoded.deathNotice (part : Nat) (cell : Option Nat) : Encoded.Statement (.deathNotice part cell) := .inl rfl
theorem Encoded.fixStartReceive (no : Nat) : Encoded.Statement (.fixStartReceive no) := .inl rfl
theorem Encoded.fixBoundReceive (no bound : Nat) : Encoded.Statement (.fixBoundReceive no bound) := .inl rfl
theorem Encoded.fixMarkerArrival (cell cls : Nat) : Encoded.Statement (.fixMarkerArrival cell cls) := .inl rfl
theorem Encoded.bootStageComplete (ok : Bool) : Encoded.Statement (.bootStageComplete ok) := .inl rfl
theorem Encoded.powerMeasure (watts : W32) (temp : BitVec 48) : Encoded.Statement (.powerMeasure watts temp) :=
  .inl rfl
theorem Encoded.undefinedEncoding (w0 : W32) : Encoded.Statement (.undefinedEncoding w0) := .inl rfl
theorem Encoded.sequencerWithdrawal (k : Nat) (tag mask : W32) (ctx : Nat) : Encoded.Statement (.sequencerWithdrawal k tag mask ctx) :=
  .inl rfl
theorem Encoded.secondLevelTlbHit (core : Nat) (leaf : Leaf) (fetch : Bool) (who : Agent) : Encoded.Statement (.secondLevelTlbHit core leaf fetch who) :=
  .inl rfl
theorem Encoded.integerDivideComplete : Encoded.Statement (.integerDivideComplete) := .inl rfl
theorem Encoded.fpDivideComplete : Encoded.Statement (.fpDivideComplete) := .inl rfl
theorem Encoded.alignHoldExpire : Encoded.Statement (.alignHoldExpire) := .inl rfl
theorem Encoded.streamRefill : Encoded.Statement (.streamRefill) := .inl rfl
theorem Encoded.streamDrain : Encoded.Statement (.streamDrain) := .inl rfl
theorem Encoded.engineCommandStart : Encoded.Statement (.engineCommandStart) := .inl rfl
theorem Encoded.engineOperationFinish : Encoded.Statement (.engineOperationFinish) := .inl rfl
theorem Encoded.submissionAccept : Encoded.Statement (.submissionAccept) := .inl rfl
theorem Encoded.batchClose : Encoded.Statement (.batchClose) := .inl rfl
theorem Encoded.mergeGateForward : Encoded.Statement (.mergeGateForward) := .inl rfl
theorem Encoded.blmGrant : Encoded.Statement (.blmGrant) := .inl rfl
theorem Encoded.txnBudgetOverrun : Encoded.Statement (.txnBudgetOverrun) := .inl rfl
theorem Encoded.rforkShareStart : Encoded.Statement (.rforkShareStart) := .inl rfl
theorem Encoded.keyInstallComplete : Encoded.Statement (.keyInstallComplete) := .inl rfl
theorem Encoded.fetchPortSelect : Encoded.Statement (.fetchPortSelect) := .inl rfl
theorem Encoded.inboxAccept : Encoded.Statement (.inboxAccept) := .inl rfl
theorem Encoded.ringToChipMove : Encoded.Statement (.ringToChipMove) := .inl rfl
theorem Encoded.taskDispatch : Encoded.Statement (.taskDispatch) := .inl rfl
theorem Encoded.activeMessageStart : Encoded.Statement (.activeMessageStart) := .inl rfl
theorem Encoded.handlerBudgetOverrun : Encoded.Statement (.handlerBudgetOverrun) := .inl rfl
theorem Encoded.remoteAccess : Encoded.Statement (.remoteAccess) := .inl rfl
theorem Encoded.patrolScrub : Encoded.Statement (.patrolScrub) := .inl rfl
theorem Encoded.replayallArrival : Encoded.Statement (.replayallArrival) := .inl rfl
theorem Encoded.fscmdComplete : Encoded.Statement (.fscmdComplete) := .inl rfl
theorem Encoded.swoutSave : Encoded.Statement (.swoutSave) := .inl rfl
theorem Encoded.swinRestore : Encoded.Statement (.swinRestore) := .inl rfl
theorem Encoded.teardownComplete : Encoded.Statement (.teardownComplete) := .inl rfl
theorem Encoded.sinkWatchdogExpire : Encoded.Statement (.sinkWatchdogExpire) := .inl rfl
theorem Encoded.heartbeatProbe : Encoded.Statement (.heartbeatProbe) := .inl rfl
theorem Encoded.heartbeatLimitExpire : Encoded.Statement (.heartbeatLimitExpire) := .inl rfl
theorem Encoded.fixBoundSet : Encoded.Statement (.fixBoundSet) := .inl rfl
theorem Encoded.fixGo : Encoded.Statement (.fixGo) := .inl rfl
theorem Encoded.fixGoArrival : Encoded.Statement (.fixGoArrival) := .inl rfl
theorem Encoded.cutTake : Encoded.Statement (.cutTake) := .inl rfl
theorem Encoded.unitCopyOnWrite : Encoded.Statement (.unitCopyOnWrite) := .inl rfl
theorem Encoded.partFixComplete : Encoded.Statement (.partFixComplete) := .inl rfl
theorem Encoded.fixTimeout : Encoded.Statement (.fixTimeout) := .inl rfl
theorem Encoded.powerGood : Encoded.Statement (.powerGood) := .inl rfl
theorem Encoded.thermalShutdown : Encoded.Statement (.thermalShutdown) := .inl rfl
theorem Encoded.idleTurn : Encoded.Statement (.idleTurn) := .inl rfl
theorem Encoded.gateStallCycle : Encoded.Statement (.gateStallCycle) := .inl rfl
theorem Encoded.rotationBoundary : Encoded.Statement (.rotationBoundary) := .inl rfl

end Sys2Proof.Laws
end

