-- ==== Sys2Proof/Tests/Slice0.lean ====
section
/-! SUPPORT. Tests: ill-formed terms that the check refuses, words of the spec's encodings, states that meet the
hypotheses of the statements, and single steps with results from the spec. -/

open Sys2Proof Sys2Proof.Machine

namespace Sys2Proof.Tests

set_option Elab.async false

/-! ### Well-formedness -/

/-- A shift by 32 at width 32 is undefined (R173). -/
theorem test_wf_shift : (Instr.shli .always .w32 32 1 2).wf = false ∧ (Instr.shli .always .w32 31 1 2).wf = true := by decide
/-- pos + len = 65 (R173). -/
theorem test_wf_bits : (Instr.extr .always 63 1 1 2).wf = false ∧ (Instr.ins .always 63 0 1 2).wf = true := by decide
/-- A literal above the width of the type (R177). -/
theorem test_wf_fp_literal : (Instr.fadd .always .bf16 (.lit 0x10000) 1 2).wf = false ∧
    (Instr.fadd .always .f32 (.lit 0x100000000) 1 2).wf = false ∧ (Instr.fadd .always .f32 (.lit 0x10000) 1 2).wf = true := by decide
/-- A loop that would end before its own end, or behind it (R208). -/
theorem test_wf_loop : (Instr.loop .always 0 0 1).wf = false ∧ (Instr.loop (.pred false 1) 0 2 1).wf = false ∧
    (Instr.loop .always 0 0x2000 1).wf = false ∧ (Instr.loop .always 0 1 1).wf = true := by decide
/-- `align` takes 0 to 8,191 (R211). -/
theorem test_wf_align : (Instr.align 0x2000).wf = false ∧ (Instr.align 0x1FFF).wf = true := by decide
/-- A stream register is g20 to g27 (R180). -/
theorem test_wf_stream : (Instr.smap .always 1 19).wf = false ∧ (Instr.sunmap .always 28).wf = false ∧
    (Instr.spref .always 27).wf = true := by decide
/-- DW 3 of `tstate` (R234). -/
theorem test_wf_tstate : (Instr.tstate ⟨false, 0⟩ 3 1 5).wf = false ∧ (Instr.tstate ⟨false, 0⟩ 2 1 5).wf = true := by decide
/-- Runs of registers past g31, or from g0 (R270). -/
theorem test_wf_runs : (Instr.rng .always 1 31).wf = false ∧ (Instr.launch .always 1 0).wf = false ∧
    (Instr.rfork ⟨false, 0⟩ 1 28).wf = false ∧ (Instr.amsend .always 1 2 29).wf = false ∧
    (Instr.rng .always 1 30).wf = true := by decide
/-- GSEM without GCOUNT, and p0 as status predicate (R167). -/
theorem test_wf_ext : (Instr.fill ⟨false, 0, 0, 1, .none⟩ 1 2).wf = false ∧ (Instr.fill ⟨false, 0, 0, 0, .pred 0⟩ 1 2).wf = false ∧
    (Instr.fill ⟨false, 0, 1, 1, .pred 1⟩ 1 2).wf = true := by decide
/-- Units that do not exist (R14, R15, R20). -/
theorem test_wf_units : (Instr.estatClear 49216).wf = false ∧ (Instr.rforkClaim 0 3076).wf = false ∧
    (Instr.wdogWrite 1024 0).wf = false ∧ (Instr.replayall 4).wf = false ∧ (Instr.blmRelease 1536 0 (.mem 0)).wf = false ∧
    (Instr.azimuthHeartbeatFlit 24).wf = false ∧ (Instr.teardown 0 65536).wf = false ∧ (Instr.qringWrite 0 4 0).wf = false ∧
    (Instr.groupEntryWrite 256 0).wf = false ∧ (Instr.fixFieldUpdate 256 ⟨0, 0, 0, 0, 0⟩ (.slot 0 0)).wf = false := by decide

/-! ### Decoding -/

/-- Whether each word list decodes to its instruction. -/
def reads (l : List (List W32 × Instr)) : Bool :=
  l.all fun e => match decodeWords e.1 with
    | .ok i => decide (i = e.2)
    | .error _ => false

/-- Words of integer register forms (R172), written out from the spec's encodings. -/
theorem test_decode_alu : reads [
    ([0x001CC500], .add .always .d64 (.field 7) 6 5),
    ([0x089CC500], .sub .always .w32 (.field 7) 6 5),
    ([0x101CC500], .and .always (.field 7) 6 5),
    ([0x181CC500], .or .always (.field 7) 6 5),
    ([0x201CC500], .xor .always (.field 7) 6 5),
    ([0x281CC500], .andn .always (.field 7) 6 5),
    ([0x301CC500], .orn .always (.field 7) 6 5),
    ([0x381CC500], .shl .always .d64 (.field 7) 6 5),
    ([0x409CC500], .shr .always .w32 (.field 7) 6 5),
    ([0x481CC500], .sar .always .d64 (.field 7) 6 5),
    ([0x509CC500], .rol .always .w32 (.field 7) 6 5),
    ([0x581CC500], .min .always .d64 (.field 7) 6 5),
    ([0x609CC500], .max .always .w32 (.field 7) 6 5),
    ([0x681CC500], .minu .always .d64 (.field 7) 6 5),
    ([0x709CC500], .maxu .always .w32 (.field 7) 6 5),
    ([0x001CC504], .mul .always .d64 (.field 7) 6 5),
    ([0x081CC504], .mulh .always (.field 7) 6 5),
    ([0x101CC504], .mulhu .always (.field 7) 6 5),
    ([0x189CC504], .madd .always .w32 (.field 7) 6 5),
    ([0x201CC504], .div .always .d64 (.field 7) 6 5),
    ([0x289CC504], .divu .always .w32 (.field 7) 6 5),
    ([0x301CC504], .rem .always .d64 (.field 7) 6 5),
    ([0x389CC504], .remu .always .w32 (.field 7) 6 5)] = true := by decide

/-- Words of bit counts, `sel`, immediates and fields (R172, R173, R195 to R197), written out from the spec's encodings. -/
theorem test_decode_bits : reads [
    ([0x0080C508], .clz .always .w32 6 5),
    ([0x0800C508], .ctz .always .d64 6 5),
    ([0x1080C508], .popc .always .w32 6 5),
    ([0x1880C508], .sext .always .h 6 5),
    ([0x2100C508], .zext .always .w 6 5),
    ([0x011CC50C], .sel .always 2 (.field 7) 6 5),
    ([0xFFC04420], .addi .always (.field 0x3FF0) 2 4),
    ([0xFFC04424], .andi .always (.field 0x3FF0) 2 4),
    ([0xFFC04428], .ori .always (.field 0x3FF0) 2 4),
    ([0xFFC0442C], .xori .always (.field 0x3FF0) 2 4),
    ([0x0084C530], .shli .always .d64 33 6 5),
    ([0x410C8430], .shri .always .w32 3 4 4),
    ([0x80FCC530], .sari .always .d64 63 6 5),
    ([0x00000A36, 0x9ABCDEF0, 0x12345678], .li .always (.lit 0x123456789ABCDEF0) 10),
    ([0x00140938], .lpc .always (.field 5) 9),
    ([0x0320C53C], .extr .always 3 8 6 5),
    ([0x8724C53C], .ins .always 7 9 6 5)] = true := by decide

/-- Words of compares and predicates (R174, R175), written out from the spec's encodings. -/
theorem test_decode_flags : reads [
    ([0x309CC340], .cmp .always .ltu .w32 (.field 7) 6 3),
    ([0x21908344], .cmpi .always .lt (.field 100) 4 3),
    ([0x309CC348], .fcmp .always .un .bf16 (.field 7) 6 3),
    ([0x000C414C], .pand .always 3 2 1),
    ([0x080C414C], .por .always 3 2 1),
    ([0x100C414C], .pxor .always 3 2 1),
    ([0x180C414C], .pandn .always 3 2 1),
    ([0x2000054C], .pget .always 5),
    ([0x2800C04C], .pset .always 6)] = true := by decide

/-- Words of scalar floating point (R177), written out from the spec's encodings. -/
theorem test_decode_fp : reads [
    ([0x001CC550], .fadd .always .f32 (.field 7) 6 5),
    ([0x089CC550], .fsub .always .bf16 (.field 7) 6 5),
    ([0x101CC550], .fmul .always .f32 (.field 7) 6 5),
    ([0x189CC550], .fmin .always .bf16 (.field 7) 6 5),
    ([0x201CC550], .fmax .always .f32 (.field 7) 6 5),
    ([0x289CC550], .fdiv .always .bf16 (.field 7) 6 5),
    ([0x3080C550], .fsqrt .always .bf16 6 5),
    ([0x001CC554], .fma .always .f32 (.field 7) 6 5),
    ([0x089CC554], .fms .always .bf16 (.field 7) 6 5),
    ([0x101CC554], .fnma .always .f32 (.field 7) 6 5),
    ([0x0080C558], .fabs .always .bf16 6 5),
    ([0x0800C558], .fneg .always .f32 6 5),
    ([0x1080C558], .fclass .always .bf16 6 5),
    ([0x3800C55C], .fcvt .always .i64f32 6 5)] = true := by decide

/-- Words of branches, jumps, loops (R176, R206, R208), written out from the spec's encodings. -/
theorem test_decode_control : reads [
    ([0xFFA8A460], .bcc .always .lt (.field 0x7FD) 5 4),
    ([0x00C00364], .bp .always (.field 6) 3),
    ([0x00C40365, 0x00000012, 0], .bnp (.pred true 2) (.field 6) 3),
    ([0xFFFFFE68], .j .always (.field 0xFFFFFE)),
    ([0x0000036C], .jal .always (.field 3)),
    ([0x00002070], .jr .always 1),
    ([0x08012170], .jalr .always 9 1),
    ([0x0024E174], .loop .always 1 9 7),
    ([0x01900078], .align 100),
    ([0x0000007C], .nop .always),
    ([0x0800007C], .exit .always)] = true := by decide

/-- Words of loads, stores, atomics, ordering, streams (R178 to R180), written out from the spec's encodings. -/
theorem test_decode_memory_1 : reads [
    ([0x31884980], .ld .always .w .none 3 (.field 6) 2 9),
    ([0x30244984], .st .always .h .na (.field 6) 2 9),
    ([0x37CC4988], .ldRaw .always .d .bypass 15 (.field 6) 2 9),
    ([0xF800498C], .stRaw .always .b .none (.field 31) 2 9),
    ([0x002D4490], .amsend .always 11 10 4),
    ([0x009CC5A0], .aadd .always .d 7 6 5),
    ([0x081CC5A0], .amin .always .w 7 6 5),
    ([0x109CC5A0], .amax .always .d 7 6 5),
    ([0x181CC5A0], .aminu .always .w 7 6 5),
    ([0x209CC5A0], .amaxu .always .d 7 6 5),
    ([0x281CC5A0], .aand .always .w 7 6 5),
    ([0x309CC5A0], .aor .always .d 7 6 5),
    ([0x381CC5A0], .axor .always .w 7 6 5),
    ([0x409CC5A0], .aswp .always .d 7 6 5),
    ([0x009CC5A4], .acas .always .d 7 6 5),
    ([0x030000A8], .fence .always .pod),
    ([0x0A9480A8], .acq .always .part 5 4),
    ([0x111480A8], .rel .always .cell 5 4),
    ([0x181480A8], .invr .always 5 4),
    ([0x0000C0AC], .vsync .always 6),
    ([0x000134B0], .smap .always 9 20),
    ([0x0802A0B0], .sunmap .always 21),
    ([0x100285B0], .sstat .always 20 5),
    ([0x181B60B0], .sskip .always 6 27)] = true := by decide

/-- Words of loads, stores, atomics, ordering, streams (R178 to R180), written out from the spec's encodings. -/
theorem test_decode_memory_2 : reads [
    ([0x2002C0B0], .spref .always 22)] = true := by decide

/-- Words of tile table, copy, conversion and interpolation forms (R181, R234, R236), written out from the spec's encodings. -/
theorem test_decode_tiles_1 : reads [
    ([0x001C00B9, 0x000000A0, 0x05040008], .tbind ⟨false, 0⟩ 0 false 5 64 8 7 0 5),
    ([0x001CC0B9, 0x000000A0, 0x51040008], .tbind ⟨false, 0⟩ 2 true 1 64 8 7 6 5),
    ([0x080000B9, 0x00000512, 0], .tfree ⟨true, 2⟩ 40),
    ([0x100009B9, 0x00000500, 0x00000002], .tstate ⟨false, 0⟩ 2 9 40),
    ([0x180000B9, 0x00000400, 0], .twait ⟨false, 0⟩ 32),
    ([0x200000B9, 0x00000503, 0], .tmarkR ⟨false, 3⟩ 40),
    ([0x280000B9, 0x00000500, 0], .tmarkE ⟨false, 0⟩ 40),
    ([0x000000C1, 0x00000080, 0x20600000], .cpLd ⟨false, 0, 0, 0, .sem 3 0⟩ none 4),
    ([0x001CC0C1, 0x00000080, 0x00000001], .cpLd ⟨false, 0, 0, 0, .none⟩ (some (6, 7)) 4),
    ([0x081CC0C1, 0x00000080, 0x00000001], .cpSt ⟨false, 0, 0, 0, .none⟩ (some (6, 7)) 4),
    ([0x080000C1, 0x00000080, 0], .cpSt ⟨false, 0, 0, 0, .none⟩ none 4),
    ([0x101CC0C1, 0x58800092, 0x59018001], .cp2d ⟨true, 2, 5, 17, .counter 200⟩ true 0x8001 7 6 4),
    ([0x1800C0C1, 0x00000080, 0x60600000], .fill ⟨false, 0, 0, 0, .mailbox 3⟩ 6 4),
    ([0x001CC0C5, 0x00004880, 0x23FE0000], .gather ⟨false, 0, 0, 0, .sem 31 15⟩ 7 6 4 9),
    ([0x081CC0C5, 0x00004880, 0], .scatter ⟨false, 0, 0, 0, .none⟩ 7 6 4 9),
    ([0x000000C9, 0x00000080, 0x00000002], .halo ⟨false, 0, 0, 0, .none⟩ 2 4),
    ([0x089CC0C9, 0x00004880, 0], .cprot ⟨false, 0, 0, 0, .none⟩ true 7 6 4 9),
    ([0x000000D1, 0x000028C0, 0x80400000], .cvPlane ⟨false, 0, 0, 0, .pred 2⟩ 6 5),
    ([0x080000D1, 0x000028C0, 0], .cvUnplane ⟨false, 0, 0, 0, .none⟩ 6 5),
    ([0x108000D1, 0x000020A0, 0x00000002], .cvQ ⟨false, 0, 0, 0, .none⟩ (.rnd .ne) 2 5 4),
    ([0x129CC0D1, 0x000020A0, 0x0000001F], .cvQ ⟨false, 0, 0, 0, .none⟩ (.stochastic 6 7) 31 5 4),
    ([0x1A0000D1, 0x000020A0, 0], .cvF ⟨false, 0, 0, 0, .none⟩ .dn 5 4),
    ([0x200000D1, 0x000020A0, 0], .cvTr ⟨false, 0, 0, 0, .none⟩ 5 4),
    ([0x0000C0D9, 0, 0x00000003], .tiLoad ⟨false, 0, 0, 0, .none⟩ 3 6)] = true := by decide

/-- Words of tile table, copy, conversion and interpolation forms (R181, R234, R236), written out from the spec's encodings. -/
theorem test_decode_tiles_2 : reads [
    ([0x088000D9, 0x00000840, 0], .tiEval ⟨false, 0, 0, 0, .none⟩ .bf16 0 2 1)] = true := by decide

/-- Words of matrix and vector forms (R182, R253, R260, R261, R265 to R268), written out from the spec's encodings. -/
theorem test_decode_vector_1 : reads [
    ([0x000000E1, 0x00124140, 0x20400000], .mma ⟨false, 0, 0, 0, .sem 2 0⟩ false 0 0 10 8 9),
    ([0x008000E1, 0x00040800, 0x20200000], .mma ⟨false, 0, 0, 0, .sem 1 0⟩ true 0 0 0 1 2),
    ([0x000000E1, 0x00124140, 0x00000053], .mma ⟨false, 0, 0, 0, .none⟩ false 5 3 10 8 9),
    ([0x0080A0E5, 0x000050E0, 0x00000003], .maccRd ⟨false, 0, 0, 0, .none⟩ .bf16 .ne (some 5) 7 10),
    ([0x010000E5, 0x000050E0, 0x00000006], .maccRd ⟨false, 0, 0, 0, .none⟩ .i32 .up none 7 10),
    ([0x000000E9, 0x00185160, 0], .vadd ⟨false, 0, 0, 0, .none⟩ (.f .f32) .full none 11 10 12),
    ([0x090000E9, 0x004F34E0, 0], .vsub ⟨false, 0, 0, 0, .none⟩ (.i .i32 false) .full none 39 38 39),
    ([0x118000E9, 0x00185160, 0x00014049], .vmul ⟨false, 0, 0, 0, .none⟩ (.i .i8 true) .row (some 9) 11 10 12),
    ([0x190000E9, 0x00185160, 0x00018000], .vfma ⟨false, 0, 0, 0, .none⟩ (.i32 true) .col none 11 10 12),
    ([0x208000E9, 0x00185160, 0x0000C000], .vmin ⟨false, 0, 0, 0, .none⟩ .bf16 .sc none 11 10 12),
    ([0x298000E9, 0x00185160, 0], .vmax ⟨false, 0, 0, 0, .none⟩ .i8 .full none 11 10 12),
    ([0x310000E9, 0x00005160, 0x00010000], .vabs ⟨false, 0, 0, 0, .none⟩ (.i .i32 true) none 11 10),
    ([0x380000E9, 0x00005160, 0x00000043], .vneg ⟨false, 0, 0, 0, .none⟩ (.f .f32) (some 3) 11 10),
    ([0x410000E9, 0x000A2060, 0x00000800], .vcmp ⟨false, 0, 0, 0, .none⟩ (.i .i32 .lt) .full none 3 4 5),
    ([0x488000E9, 0x00185160, 0x00004009], .vsel ⟨false, 0, 0, 0, .none⟩ .bf16 .row 9 11 10 12),
    ([0x5900A0E9, 0x00010400, 0], .vaddsc ⟨false, 0, 0, 0, .none⟩ (.i .i32 false) none 5 32 32),
    ([0x5100C0E9, 0x00005160, 0x00010000], .vscale ⟨false, 0, 0, 0, .none⟩ (.i .i32 true) none 6 11 10),
    ([0x600000E9, 0x00005160, 0x00000880], .vred ⟨false, 0, 0, 0, .none⟩ (.max .f32) true none 11 10),
    ([0x610000E9, 0x00005160, 0x00010000], .vred ⟨false, 0, 0, 0, .none⟩ (.sum (.i .i32 true)) false none 11 10),
    ([0x680000E9, 0x00005160, 0x00001080], .vcvt ⟨false, 0, 0, 0, .none⟩ .bf16 .f32 .ne none 11 10),
    ([0x710000E9, 0x000124A0, 0], .vmov ⟨false, 0, 0, 0, .none⟩ .i32 none 37 36),
    ([0x798000E9, 0x00005160, 0x00008000], .vbcast ⟨false, 0, 0, 0, .none⟩ .i8 .col none 11 10),
    ([0x010000ED, 0x00185160, 0], .vand ⟨false, 0, 0, 0, .none⟩ .i32 .full none 11 10 12),
    ([0x098000ED, 0x00185160, 0x00004000], .vor ⟨false, 0, 0, 0, .none⟩ .i8 .row none 11 10 12)] = true := by decide

/-- Words of matrix and vector forms (R182, R253, R260, R261, R265 to R268), written out from the spec's encodings. -/
theorem test_decode_vector_2 : reads [
    ([0x100000ED, 0x00185160, 0x0000007F], .vxor ⟨false, 0, 0, 0, .none⟩ .f32 .full (some 63) 11 10 12),
    ([0x1980C0ED, 0x00005160, 0x00010000], .vshl ⟨false, 0, 0, 0, .none⟩ .i8 true none 6 11 10),
    ([0x2100C0ED, 0x00005160, 0x00000080], .vshr ⟨false, 0, 0, 0, .none⟩ .i32 true none 6 11 10),
    ([0x2900C0ED, 0x00005160, 0x00001580], .vmuli ⟨false, 0, 0, 0, .none⟩ .i32 false 0x2B none 6 11 10),
    ([0x309CC0ED, 0x00005160, 0], .vclamp ⟨false, 0, 0, 0, .none⟩ .bf16 none 7 6 11 10)] = true := by decide

/-- Words of transactions, tasks and synchronisation (R183, R270), written out from the spec's encodings. -/
theorem test_decode_tasks : reads [
    ([0x000120F0], .txsub .always 9),
    ([0x080120F0], .txsubf .always 9),
    ([0x100000F0], .txend .always),
    ([0x180005F0], .txnum .always 5),
    ([0x201CC5F0], .txwd .always 7 6 5),
    ([0x2800C5F0], .txq .always 6 5),
    ([0x0000C5F4], .callat .always 6 5),
    ([0x0800C5F4], .launch .always 6 5),
    ([0x100CC5F4], .tpost .always 3 6 5),
    ([0x1800C0F4], .taskwd .always 6),
    ([0x201169F4], .dcset .always 4 11 9),
    ([0x2B20C0F4], .dcdec .always 200 6),
    ([0x300134F5, 0, 0], .rfork ⟨false, 0⟩ 9 20),
    ([0x382404F4], .bar .always 9 4),
    ([0x43FC04F4], .barq .always 255 4),
    ([0x4844A4F4], .semadd .always 17 5 4),
    ([0x5044A4F4], .semwait .always 17 5 4),
    ([0x587CA0F4], .semset .always 31 5),
    ([0x600CC5F4], .msend .always 3 6 5),
    ([0x680005F4], .mrecv .always 0 5),
    ([0x700805F4], .mpoll .always 2 5)] = true := by decide

/-- Words of system forms (R183, R270), written out from the spec's encodings. -/
theorem test_decode_system : reads [
    ([0x004405F8], .mfsr .always 17 5),
    ([0x0A00C0F8], .mtsr .always 128 6),
    ([0x0C0CC0F8], .mtsr .always 259 6),
    ([0x17FC00F8], .trap .always 511),
    ([0x181400F8], .brk .always 5),
    ([0x200000F8], .eret .always),
    ([0x28008AF8], .rng .always 4 10),
    ([0x300005F8], .fix .always 5),
    ([0x3800C5F8], .fixq .always 6 5)] = true := by decide

/-- Words that are no instruction: an unassigned opcode, a literal where none is taken, an ill-formed run, reserved bits. -/
theorem test_decode_refused : ([[0xFC], [0xFC, 0, 0], [0x0000E0A9, 0, 0], [0x001CC501, 3, 1]] : List (List W32)).all
    (fun ws => match decodeWords ws with | .ok _ => false | .error _ => true) = true := by decide

/-- Every word of the tables above is the encoder's own. -/
theorem test_encode : encode (.add .always .d64 (.field 7) 6 5) = [0x001CC500] ∧
    encode (.li .always (.lit 0x123456789ABCDEF0) 10) = [0x00000A36, 0x9ABCDEF0, 0x12345678] ∧
    encode (.tfree ⟨true, 2⟩ 40) = [0x080000B9, 0x00000512, 0] := by decide

/-! ### States that witnesses stand in -/

/-- A slot at work in context 3, at 0x1000. -/
def going : Slot := { Slot.reset with
  run := .run, pc := 0x1000, ctx := 3, work := .task 0, gen := 1
  regs := Vector.ofFn fun i => BitVec.ofNat 64 (i.val * 0x1234) }

/-- A part in which one slot is at work, in a context with a trap vector. -/
def at_ (k : Nat) (sl : Slot) : State := { State.reset with
  cur := k, slots := [(k, sl)], ctxs := [(3, { Context.reset with trapVec := 0x2000 })] }

def s5 : State := at_ 5 going

/-- The same with a privileged context. -/
def sup (s : State) : State := { s with ctxs := [(3, { Context.reset with trapVec := 0x2000, priv := true })] }

/-- Words as bytes of memory from address a. -/
def bytesOf (a : Nat) (ws : List Word) : List Host.Cell :=
  ((List.range (ws.length * 8)).map fun i =>
    ((a + i : Nat), BitVec.ofNat 8 ((ws.getD (i / 8) 0).toNat / 2 ^ (8 * (i % 8))))).filter fun e => e.2 ≠ 0

/-- Local address of n bytes at an offset of the tile window of a slot. -/
def near (k off n : Nat) : Nat := (nearLocal (cellOf k) (0xFF80000000000000 + off) n).getD 0

/-- A stream of g20 with a count, a direction, a size code and a buffer. -/
def rs (cnt dir sz : Nat) (buf : List SElem) (pos : Nat) (stride : Nat := 8) : Stream := { Stream.reset with
  mapped := true, dw0 := 0xFF80000000000100, dw1 := BitVec.ofNat 64 stride, dw4 := BitVec.ofNat 64 (cnt + 2 ^ 32)
  dw5 := BitVec.ofNat 64 (2 ^ 32 + dir * 256 + sz), pos := pos, buf := buf }

/-- What a monadic read answers, and the state it leaves. -/
def valueOf (x : Except Stop (Word × State)) : Word := match x with | .ok y => y.1 | .error _ => 0
def leaves {α : Type} (x : Except Stop (α × State)) : State := match x with | .ok y => y.2 | .error _ => State.reset
def answers {α : Type} (x : Except Stop (α × State)) : Bool := match x with | .ok _ => true | .error _ => false

/-! ### Witnesses: states that meet the hypotheses -/

theorem witness_IntegerResults : s5.me.guardHolds .always = true ∧ s5.me.plain 6 = true ∧ s5.me.plainOp (.field 7) = true ∧
    s5.me.plain 5 = true ∧ s5.me.plainOp (.lit 9) = true ∧ s5.me.guardHolds (.pred false 0) = true := by decide

theorem witness_DivisionResults : s5.me.guardHolds .always = true ∧ s5.me.plain 6 = true ∧ s5.me.plainOp (.field 7) = true ∧
    s5.me.plain 5 = true ∧ s5.me.lc0 = 0 ∧ s5.me.lc1 = 0 := by decide

theorem witness_BitAndImmediateResults : s5.me.guardHolds .always = true ∧ s5.me.plain 6 = true ∧
    s5.me.plainOp (.field 7) = true ∧ s5.me.plain 5 = true ∧ bitsOk 1 62 = true ∧ bitsOk 0 63 = true ∧
    shiftOk .w32 31 = true ∧ shiftOk .d64 63 = true := by decide

theorem witness_CompareAndPredicateResults : s5.me.guardHolds .always = true ∧ s5.me.plain 6 = true ∧
    s5.me.plainOp (.field 7) = true ∧ s5.me.plain 5 = true := by decide

/-- Streams of g20 and g21: a read stream with two values, and a write stream. -/
def strm (buf : List SElem := [.val 77, .val 78]) (pos : Nat := 1) : State :=
  at_ 5 ((going.setStream 0 (rs 5 0 3 buf pos)).setStream 1 (rs 5 1 3 [] 1))
def strm1 : State := leaves (readG 20 strm)
def strm2 : State := leaves (readOpnd (.field 20) strm1)

theorem witness_StreamOperands : strm.me.guardHolds .always = true ∧ readG 20 strm = .ok (77, strm1) ∧
    readOpnd (.field 20) strm1 = .ok (78, strm2) ∧ answers (writeG 21 155 strm2) = true ∧
    answers (writeG 21 77 strm1) = true := by decide +kernel

theorem witness_StreamOperands_stops :
    readG 20 (strm [.mark 7 0x99]) = .error (.trap 7 0x99) ∧ (strm [.mark 7 0x99]).vectored = true ∧
    readG 20 (strm []) = .error (.wait wMem []) := by decide +kernel

theorem witness_StreamReads : streamIx 20 = some 0 ∧ strm.me.streams[0].mapped = true ∧ strm.me.streams[0].writes = false ∧
    strm.me.streams[0].buf = [.val 77, .val 78] ∧ streamIx 21 = some 1 ∧ strm.me.streams[1].mapped = true ∧
    strm.me.streams[1].writes = true ∧ (strm [.mark 7 9]).me.streams[0].buf = [.mark 7 9] ∧
    (strm []).me.streams[0].buf = [] ∧ (strm []).me.streams[0].pos < (strm []).me.streams[0].total ∧
    (strm [] 5).me.streams[0].total ≤ (strm [] 5).me.streams[0].pos ∧ streamIx 27 = some 7 := by decide +kernel

theorem witness_StreamWrites : streamIx 21 = some 1 ∧ (strm.me.streams[1]).mapped = true ∧ (strm.me.streams[0]).writes = false ∧
    (strm.me.streams[1]).writes = true ∧ (strm.me.streams[1]).pos < (strm.me.streams[1]).total ∧
    (strm.me.streams[1]).buf.length < 64 ∧ (strm.cell (cellOf 5)).cutBegun = false ∧ strm.part.secureCells = [] ∧
    strm.fix.want = 0 ∧ strm.link.pod.k = 0 ∧
    (let x := strm.me.streams[1]
     let a := x.addr x.pos
     canonical a.toNat = true ∧ canonical (a + natW (x.bytes - 1)).toNat = true ∧ isNear a.toNat = true ∧ a.toNat % x.bytes = 0 ∧
      nearLocal (cellOf 5) a.toNat x.bytes = some (near 5 0x108 8) ∧ strm.lostWord (addrsFrom (near 5 0x108 8) 8) = none ∧
      answers (storeCheck (!x.dec) true a x.bytes 9 strm) = true) ∧
    (let far (d : Word) : State := at_ 5 (going.setStream 1 { rs 5 1 3 [] 1 with dw0 := d })
     let at1 (d : Word) : Word := ((far d).me.streams[1]).addr 1
     (far 0x0180000000000000).me.streams[1].writes = true ∧ canonical (at1 0x0180000000000000).toNat = false ∧
      answers (storeCheck true true (at1 0x0180000000000000) 8 9 (far 0x0180000000000000)) = false ∧
      canonical (at1 0xFF80000000700000).toNat = true ∧ nearLocal (cellOf 5) (at1 0xFF80000000700000).toNat 8 = none ∧
      (at1 0xFF80000000000101).toNat % 8 ≠ 0 ∧ (nearLocal (cellOf 5) (at1 0xFF80000000000101).toNat 8).isSome = true) ∧
    (let full := at_ 5 (going.setStream 1 (rs 5 1 3 (List.replicate 64 (.val 1)) 1))
     full.me.streams[1].pos < full.me.streams[1].total ∧ 64 ≤ full.me.streams[1].buf.length) ∧
    (let past := at_ 5 (going.setStream 1 (rs 5 1 3 [] 5))
     past.me.streams[1].total ≤ past.me.streams[1].pos) := by decide +kernel

/-- A word of near memory that is marked lost. -/
def lostS : State := { strm with owners := [(near 5 0x108 8 / 64, ⟨Vector.replicate 16 .lost, Vector.replicate 16 0, false⟩)] }

theorem witness_StreamWrites_lost : (lostS.lostWord (addrsFrom (near 5 0x108 8) 8)).isSome = true ∧
    answers (storeCheck true true (lostS.me.streams[1].addr 1) 8 9 lostS) = true := by decide +kernel

theorem witness_FloatArithmetic : s5.me.guardHolds .always = true ∧ s5.me.plain 6 = true ∧ s5.me.plainOp (.field 7) = true ∧
    s5.me.plain 5 = true ∧ s5.me.lc0 = 0 ∧ s5.me.lc1 = 0 := by decide

theorem witness_FloatUnaryResults : s5.me.guardHolds .always = true ∧ s5.me.plain 6 = true ∧ s5.me.plain 5 = true := by decide

theorem witness_Bf16RoundTrip : (0 : Nat) < 4 ∧ (3 : Nat) < 4 ∧ isNan (unpack bf16 0x7FC0) = true ∧
    isNan (unpack bf16 0x7F80) = false := by decide

theorem witness_PatternValues : (0x7F800001 : Nat) < 2 ^ (fp32.p + 8) ∧ (0xFFFF : Nat) < 2 ^ (bf16.p + 8) := by decide

/-- 3 / 2, and minus 0, as data. -/
theorem witness_RoundedResults : (Fp.fin false 3 (-1)).Is false (3 / 2) ∧ (Fp.fin true 0 0).Is true 0 ∧ (0 : Nat) < 4 ∧
    (3 / 2 : ℝ) ≠ 0 := by
  refine ⟨⟨3, -1, rfl, by norm_num⟩, ⟨0, 0, rfl, by norm_num⟩, by norm_num, by norm_num⟩

theorem witness_SpecialResults : isNan (.nan true) = true ∧ (Fp.fin false 1 0).Is false 1 ∧ (1 : ℝ) ≠ 0 ∧ (Fp.fin true 0 5).Is true 0 := by
  refine ⟨by decide, ⟨1, 0, rfl, by norm_num⟩, by norm_num, ⟨0, 5, rfl, by norm_num⟩⟩

/-- 1 above the largest 8-bit integer, and 5 / 2, whose nearest integer is 2. -/
theorem witness_ConvertedResults : (Fp.fin false 1 7).Is false 128 ∧ (0 : Nat) < 8 ∧ (-1 : Int) ≠ 0 ∧ (Fp.fin false 5 (-1)).Is false (5 / 2) := by
  refine ⟨⟨1, 7, rfl, by norm_num⟩, by norm_num, by norm_num, ⟨5, -1, rfl, by norm_num⟩⟩

theorem witness_ComparedResults : (Fp.fin true 0 0).Is true 0 ∧ (Fp.fin false 0 0).Is false 0 ∧ isNan (.nan false) = true := by
  refine ⟨⟨0, 0, rfl, by norm_num⟩, ⟨0, 0, rfl, by norm_num⟩, by decide⟩

def odd : State := at_ 5 (going.setG 6 0x2002)

theorem witness_BranchResults : s5.me.guardHolds .always = true ∧ s5.me.plain 6 = true ∧ s5.me.plain 7 = true ∧
    s5.me.plain 5 = true ∧ s5.me.p 0 = true ∧ s5.me.p 3 = false ∧ (s5.me.g 6).toNat % 4 = 0 ∧
    (odd.me.g 6).toNat % 4 ≠ 0 ∧ odd.vectored = true := by decide

theorem witness_LoopSets : s5.me.guardHolds .always = true ∧ s5.me.plain 6 = true ∧ s5.me.g 6 ≠ 0 ∧ s5.me.lc0 = 0 ∧
    s5.me.lc1 = 0 ∧
    (let z := at_ 5 { going.setG 6 0 with fblock := some (0x1000 / 64), fdata := Vector.ofFn fun i => BitVec.ofNat 32 i.val }
     let last := z.me.pc + (((9 : BitVec 14).signExtend 64 : Word) <<< (2 : Nat))
     z.me.g 6 = 0 ∧ z.me.fblock = some (last.toNat / 64) ∧ z.me.fpoison.getLsbD (wordIx last.toNat) = false ∧
      Decode.lenWords (lineWord z.me.fdata (last.toNat / 4)) = Decode.lenWords 9) := by decide +kernel

theorem witness_LoopEndCheck : s5.me.guardHolds .always = true := by decide

/-- A guarded form of each kind: an integer form, a form of the copy engine on a core of role D, a system form; and a form of
the matrix engine there. -/
theorem witness_GuardOff : s5.me.counted = false ∧ s5.me.guardHolds (.pred false 3) = false ∧ s5.me.guardHolds (.pred true 0) = false ∧
    (Instr.add (.pred false 3) .d64 (.field 7) 6 5).guard = some (.pred false 3) ∧
    (Instr.add (.pred false 3) .d64 (.field 7) 6 5).onEngine = none ∧
    (Instr.fill ⟨false, 3, 0, 0, .none⟩ 7 5).guard = some (.pred false 3) ∧ (Instr.fill ⟨false, 3, 0, 0, .none⟩ 7 5).onEngine = some .copy ∧
    roleOf s5.cur = engRole .copy ∧ (Instr.mfsr (.pred false 3) 17 5).guard = some (.pred false 3) ∧
    (∀ x, (Instr.mfsr (.pred false 3) 17 5).sysReg = some x → (regAccess (isFsc (coreOf s5.cur)) x).isSome = true) ∧
    (Instr.maccRd ⟨false, 3, 0, 0, .none⟩ .f32 .rm none 6 5).onEngine = some .matrix ∧ roleOf s5.cur ≠ engRole .matrix ∧ s5.vectored = true := by
  refine ⟨by decide, by decide, by decide, by decide, by decide, by decide, by decide, by decide, by decide, ?_, by decide, by decide, by decide⟩
  intro x h; cases h; decide

/-- A fault service core at work. -/
def fscS : State := { at_ (3072 * 16) (going.setG 6 0x1000) with ctxs := [(3, { Context.reset with trapVec := 0x2000, priv := true })] }

theorem witness_ReadSystemRegister : s5.me.guardHolds .always = true ∧ s5.me.plain 5 = true ∧
    (∀ n ∈ List.range 23 ++ [64, 65, 66, 67, 68, 69, 70, 71, 72, 73, 74, 75, 76, 77, 78, 79, 81, 82, 129, 130, 131, 132, 133, 134, 192,
        193, 194],
      ∃ r ∈ regAccess (isFsc (coreOf s5.cur)) n, regTrap ((sup s5).privOf 5) ((sup s5).secureOf 5) r.rd = none) ∧
    (∀ n ∈ [256, 257, 258, 260, 261], ∃ r ∈ regAccess (isFsc (coreOf fscS.cur)) n,
      regTrap (fscS.privOf fscS.cur) (fscS.secureOf fscS.cur) r.rd = none) ∧
    (∃ r ∈ regAccess (isFsc (coreOf fscS.cur)) 449, regTrap (fscS.privOf fscS.cur) (fscS.secureOf fscS.cur) r.rd = none) := by
  decide +kernel

theorem witness_WriteSlotRegister : (sup s5).me.guardHolds .always = true ∧ (sup s5).me.plain 6 = true ∧
    (sup s5).me.lc0 = 0 ∧ (sup s5).me.lc1 = 0 ∧ (sup s5).privOf (sup s5).cur = true ∧ (sup s5).me.pc ≠ (sup s5).me.le0 := by
  decide

theorem witness_WriteCoreRegister : (sup s5).me.guardHolds .always = true ∧ (sup s5).me.plain 6 = true ∧
    (sup s5).privOf (sup s5).cur = true ∧ fscS.me.guardHolds .always = true ∧ fscS.me.plain 6 = true ∧
    fscS.privOf fscS.cur = true ∧ fscS.secureOf fscS.cur = true ∧ isFsc (coreOf fscS.cur) = true ∧ fscS.part.keyBusy = false ∧
    (match exec (.keydataWrite (fscS.me.g 6)) fscS with | .next _ => true | _ => false) = true := by decide +kernel

theorem witness_WriteFscmd : fscS.me.guardHolds .always = true ∧ fscS.me.plain 6 = true ∧ isFsc (coreOf fscS.cur) = true ∧
    (fscS.die (dieOfSlot fscS.cur)).busy = false ∧
    (∀ n : Fin 6, slice (natW (n.val * 2 ^ 44 + 3 * 2 ^ 48)) 47 44 = n.val ∧ slice (natW (n.val * 2 ^ 44)) 43 42 < 2) ∧
    slice (natW (15 * 2 ^ 44)) 47 44 = 15 ∧ slice (natW (2 * 2 ^ 42)) 47 44 = 0 ∧ 2 ≤ slice (natW (2 * 2 ^ 42)) 43 42 := by
  decide +kernel

theorem witness_RegisterPrivilege : s5.vectored = true ∧ s5.me.plain 6 = true ∧ s5.me.guardHolds .always = true ∧
    regAccess (isFsc (coreOf s5.cur)) 511 = none ∧ s5.privOf s5.cur = false ∧ s5.secureOf s5.cur = false ∧
    regAccess (isFsc (coreOf s5.cur)) 75 = some ⟨.priv, some .priv⟩ ∧
    regAccess (isFsc (coreOf s5.cur)) 192 = some ⟨.user, some .priv⟩ ∧
    regAccess (isFsc (coreOf s5.cur)) 448 = some ⟨.secure, some .secure⟩ ∧
    regAccess (isFsc (coreOf s5.cur)) 18 = some ⟨.user, none⟩ := by decide +kernel

theorem witness_TrapAndReturn : s5.vectored = true ∧ s5.me.guardHolds .always = true := by decide

def inTrap : State := at_ 5 { going with inTrap := true }

theorem witness_TrapEndsWork : inTrap.me.guardHolds .always = true ∧ inTrap.me.inTrap = true ∧
    (∀ num r, inTrap.me.work ≠ .role num r) ∧ (∀ k, inTrap.me.work ≠ .handler k) := by
  refine ⟨by decide, by decide, ?_, ?_⟩ <;> simp [inTrap, State.me, at_, going, State.slot, Tab.get]

theorem witness_RngAndFixq : s5.me.guardHolds .always = true ∧ s5.me.plain 6 = true ∧ s5.me.plain 10 = true ∧
    s5.me.plain (10 + 1) = true ∧ runOk 10 1 2 = true := by decide

/-! Near memory -/

/-- g6 names an offset of a near window, whose bytes are not 0. -/
def mem6 (off : Nat) : State := { at_ 5 ((going.setG 6 (0xFF80000000000000 + BitVec.ofNat 64 off)).setG 7 0x8000000080000003) with
  mem := bytesOf (near 5 (off / 8 * 8) 8) [0x8182838485868788, 0x9192939495969798] }

theorem witness_NearLoads : slotOk 5 = true ∧ (mem6 0x100).me.guardHolds .always = true ∧ (mem6 0x100).me.plain 6 = true ∧
    (mem6 0x100).me.plain 5 = true ∧ (mem6 0x100).soft = [] ∧ (mem6 0x100).poison = [] ∧ (mem6 0x100).fix.copies = [] ∧
    (mem6 0x100).part.secureCells = [] ∧
    ∀ z ∈ [LdSize.b, .h, .w, .d, .bu, .hu, .wu],
      let n := (ldBytes z).1
      let a := ((mem6 0x100).me.g 6 + (1 : BitVec 5).zeroExtend 64 * natW n).toNat
      a % n = 0 ∧ isNear a = true ∧ nearLocal (cellOf 5) a n = some (near 5 (0x100 + n) n) := by decide +kernel

theorem witness_NearStores : slotOk 5 = true ∧ (mem6 0x800100).sound ∧ (mem6 0x800100).me.guardHolds .always = true ∧
    (mem6 0x800100).me.plain 6 = true ∧ (mem6 0x800100).me.plain 7 = true ∧ (mem6 0x800100).fix.want = 0 ∧
    (mem6 0x800100).fix.copies = [] ∧ (mem6 0x800100).part.secureCells = [] ∧
    ∀ z ∈ [StSize.b, .h, .w, .d],
      let n := stBytes z
      let a := ((mem6 0x800100).me.g 6 + (1 : BitVec 5).zeroExtend 64 * natW n).toNat
      a % n = 0 ∧ isNear a = true ∧ nearLocal (cellOf 5) a n = some (near 5 (0x800100 + n) n) := by
  unfold State.sound
  decide +kernel

theorem witness_NearAtomics : slotOk 5 = true ∧ (mem6 0x100).sound ∧ (mem6 0x100).me.guardHolds .always = true ∧
    (mem6 0x100).me.plain 6 = true ∧ (mem6 0x100).me.plain 7 = true ∧ (mem6 0x100).me.plain 5 = true ∧
    (mem6 0x100).soft = [] ∧ (mem6 0x100).fix.want = 0 ∧ (mem6 0x100).fix.copies = [] ∧ (mem6 0x100).poison = [] ∧
    (mem6 0x100).part.secureCells = [] ∧ ((mem6 0x100).me.g 6).toNat % 8 = 0 ∧ isNear ((mem6 0x100).me.g 6).toNat = true ∧
    nearLocal (cellOf 5) ((mem6 0x100).me.g 6).toNat 8 = some (near 5 0x100 8) ∧
    nearLocal (cellOf 5) ((mem6 0x100).me.g 6).toNat 4 = some (near 5 0x100 4) := by
  unfold State.sound
  decide +kernel

def bad6 (v : Word) : State := at_ 5 (going.setG 6 v)

theorem witness_BadNearAccess : (bad6 0).me.guardHolds .always = true ∧ (bad6 0).me.plain 6 = true ∧ (bad6 0).me.plain 5 = true ∧
    (bad6 0).vectored = true ∧ (bad6 0).part.secureCells = [] ∧ canonical 0x0180000000000000 = false ∧
    canonical 0xFF80000000000101 = true ∧ isNear 0xFF80000000000101 = true ∧
    (nearLocal (cellOf 5) 0xFF80000000000101 4).isSome = true ∧ 0xFF80000000000101 % 4 ≠ 0 ∧
    canonical 0xFF80000000700000 = true ∧ isNear 0xFF80000000700000 = true ∧
    nearLocal (cellOf 5) 0xFF80000000700000 4 = none ∧ nearLocal (cellOf 5) 0xFF80000000700000 2 = none := by decide +kernel

/-! Streams -/

/-- A descriptor of a read stream of five doublewords (R141). -/
def desc : List Word := [0xFF80000000000200, 8, 0, 0, 5 + 2 ^ 32, 2 ^ 32 + 3]
def forms (x : Stream) : State :=
  { at_ 5 ((going.setStream 2 x).setG 7 0xFF80000000000100 |>.setG 8 3) with mem := bytesOf (near 5 0x100 48) desc }

theorem witness_StreamForms : (forms Stream.reset).me.guardHolds .always = true ∧ (forms Stream.reset).me.plain 7 = true ∧
    (forms Stream.reset).me.plain 8 = true ∧ (forms Stream.reset).me.plain 9 = true ∧
    (forms Stream.reset).ownRecord ((forms Stream.reset).me.g 7) 6 (near 5 0x100 48) ∧
    ((forms Stream.reset).me.g 7).toNat % 16 = 0 ∧ (forms Stream.reset).me.streams[2].mapped = false ∧
    (forms Stream.reset).nearWords (near 5 0x100 48) 6 = desc ∧
    ({ Stream.reset with mapped := true, dw0 := 0xFF80000000000200, dw1 := 8, dw2 := 0, dw3 := 0
                         dw4 := 5 + 2 ^ 32, dw5 := 2 ^ 32 + 3 } : Stream).valid = true ∧
    (forms (rs 5 0 3 [.val 4, .val 5] 1)).me.streams[2].mapped = true ∧
    (forms (rs 5 0 3 [.val 4, .val 5] 1)).me.streams[2].writes = false ∧
    ((forms Stream.reset).cell (cellOf 5)).cutBegun = false ∧
    (forms (rs 5 1 3 [] 3)).me.streams[2].mapped = true ∧ (forms (rs 5 1 3 [] 3)).me.streams[2].writes = true ∧
    (forms Stream.reset).vectored = true := by
  unfold State.ownRecord
  decide +kernel

def traffic (x : Stream) : State :=
  { at_ 5 (going.setStream 2 x) with mem := bytesOf (near 5 0x100 48) desc, cur := 5 * 8 + 2 }

theorem witness_StreamRefill : (traffic (rs 5 0 3 [.val 4] 3)).cur = 5 * 8 + 2 ∧ slotOk 5 = true ∧
    (traffic (rs 5 0 3 [.val 4] 1)).sound ∧ (traffic (rs 5 0 3 [.val 4] 3)).soft = [] ∧
    (traffic (rs 5 0 3 [.val 4] 3)).poison = [] ∧ (traffic (rs 5 0 3 [.val 4] 3)).fix.copies = [] ∧
    (traffic (rs 5 0 3 [.val 4] 3)).fix.want = 0 ∧ (traffic (rs 5 0 3 [.val 4] 3)).part.secureCells = [] ∧
    (let x := ((traffic (rs 5 0 3 [.val 4] 1)).slot 5).streams[2]
     let a (j : Nat) : Word := x.addr (x.pos + x.buf.length + j)
     x.wants = true ∧ x.dec = false ∧ min (64 - x.buf.length) (x.total - (x.pos + x.buf.length)) = 3 ∧
      ∀ j : Fin 3, (a j).toNat % x.bytes = 0 ∧ isNear (a j).toNat = true ∧
        nearLocal (cellOf 5) (a j).toNat x.bytes = some (near 5 (0x110 + 8 * j.val) 8)) := by
  unfold State.sound
  decide +kernel

def pushed : SElem := .push 0xFF80000000000108 (addrsFrom (near 5 0x108 8) 8) 0 none 0x1122334455667788

theorem witness_StreamDrain : (traffic (rs 5 1 3 [pushed] 3)).sound ∧ (traffic (rs 5 1 3 [pushed] 3)).link.pod.k = 0 ∧
    (let x := ((traffic (rs 5 1 3 [pushed] 3)).slot 5).streams[2]
     x.blocked = false ∧ x.mapped = true ∧ x.buf = [pushed]) ∧ placeOf (near 5 0x108 8) = .tile (cellOf 5) := by
  unfold State.sound
  decide +kernel

/-! Signals and work -/

def semS (v : BitVec 16) (a : Word) : State :=
  { at_ 5 (going.setG 7 a) with cells := [(0, { Cell.reset with sem := Cell.reset.sem.set! 3 v })] }

theorem witness_SemaphoreResults : (semS 6 5).me.guardHolds .always = true ∧ (semS 6 5).me.plain 7 = true ∧
    (semS 6 5).me.plain 6 = true ∧ ((semS 6 5).me.g 7).truncate 16 ≠ (0 : BitVec 16) ∧
    (((semS 6 5).me.g 7).truncate 16 : BitVec 16).toNat ≤ ((semS 6 5).cell 0).sem[3].toNat ∧
    ((semS 6 5).cell 0).firstFor true 3 5 = true ∧ ((semS 6 0).me.g 7).truncate 16 = (0 : BitVec 16) ∧
    ((semS 6 7).cell 0).sem[3].toNat < (((semS 6 7).me.g 7).truncate 16 : BitVec 16).toNat ∧
    ((semS 6 6).cell 0).sem[3].toNat = (((semS 6 6).me.g 7).truncate 16 : BitVec 16).toNat := by decide +kernel

def mbS (n : BitVec 16) : State := at_ 5 { going with mbWord := #v[1, 2, 0x33, 4], mbCount := #v[0, 0, n, 9] }

theorem witness_MailboxResults : (mbS 3).me.guardHolds .always = true ∧ (mbS 3).me.plain 7 = true ∧
    (mbS 0).me.mbCount[2] = 0 ∧ (mbS 3).me.mbCount[2] ≠ 0 := by decide

/-- A task descriptor (R278). -/
def taskDesc : List Word := [0x4000, 1, 2, 3, 4, 0, 0, 0]
/-- gA in g7, gD in g6, gB in g8. -/
def sgS (a d : Word) (n : Nat := 0) : State :=
  { at_ 5 (((going.setG 7 a).setG 6 d).setG 8 0x4000) with
    mem := bytesOf (near 5 0x100 64) taskDesc
    cores := [(0, { Core.reset with outbox := List.replicate n ⟨0, some 1, 5, 1, [], ⟨0, .taskwd 1 2 3⟩⟩ })] }

theorem witness_SignalsSent : (sgS 0x20 0x4000).me.guardHolds .always = true ∧ (∀ r : Fin 32, (sgS 0x20 0x4000).me.plain (BitVec.ofNat 5 r.val) = true) ∧
    (sgS 0x20 0x4000).me.freelance = true ∧ ((sgS 0x20 0x4000).core 0).outbox.length < 16 ∧
    ((sgS 0x20 0x4000 15).core 0).outbox.length < 16 ∧
    badPlace 0 1 false ((sgS 0x20 0x4000).me.g 7) = false ∧ runOk 6 1 2 = true ∧ (sgS 0x20 0x4000).me.g 6 ≠ 0 ∧
    ((sgS 0x20 0x4000).me.g 6).toNat % 4 = 0 ∧ badPlace 0 1 true ((sgS 0x20 0x4000).me.g 7) = false ∧
    (sgS 0x20 0x4000).link.pod.k = 0 ∧ (sgS 0x20 0x4000).link.pod.n = 1 := by decide +kernel

theorem witness_SignalsSent_descriptor :
    let s := sgS 0x20 0xFF80000000000100
    s.ownRecord (s.me.g 6) 8 (near 5 0x100 64) ∧ (s.me.g 6).toNat % 64 = 0 ∧
    badDescriptor 0 1 (s.nearWords (near 5 0x100 64) 8) = false := by
  unfold State.ownRecord
  decide +kernel

theorem witness_ActiveMessageSent : (sgS 0x2F 0x11).me.guardHolds .always = true ∧
    (∀ r : Fin 32, (sgS 0x2F 0x11).me.plain (BitVec.ofNat 5 r.val) = true) ∧ (sgS 0x2F 0x11).me.inRole = false ∧
    (sgS 0x2F 0x11).link.pod.n = 1 ∧ badAmPlace 1 ((sgS 0x2F 0x11).me.g 7) = false ∧ ((sgS 0x2F 0x11).me.g 8).toNat % 4 = 0 ∧
    runOk 6 0 4 = true ∧ ((sgS 0x2F 0x11).core 0).amOut.length < 16 ∧
    (let c : Core := { Core.reset with amOut := List.replicate 16 (0, 1, ⟨0, 0, 0, 0, 0, 0, 0, 0⟩) }
     16 ≤ (({ sgS 0x2F 0x11 with cores := [(0, c)] } : State).core 0).amOut.length) := by decide +kernel

theorem witness_SignalsWaitForRoom : (sgS 0x20 0x4000 16).me.guardHolds .always = true ∧ (sgS 0x20 0x4000 16).me.plain 7 = true ∧
    (sgS 0x20 0x4000 16).me.plain 6 = true ∧ (sgS 0x20 0x4000 16).me.freelance = true ∧
    16 ≤ ((sgS 0x20 0x4000 16).core 0).outbox.length ∧ badPlace 0 1 false ((sgS 0x20 0x4000 16).me.g 7) = false ∧
    badPlace 0 1 true ((sgS 0x20 0x4000 16).me.g 7) = false := by decide +kernel

def g9 : Slot := { going with grp := #v[9, 0x109, 0, 0x109] }
def bG (x : Group) : State := { at_ 5 g9 with
  slots := [(5, g9), (7, { going with run := .wait wSem, pend := .bar 6 9, ilen := 4 })]
  part := { s5.part with groups := [(9, x)] } }

theorem witness_BarrierResults : (bG ⟨true, 4, 1, 3⟩).me.guardHolds .always = true ∧ (bG ⟨true, 4, 1, 3⟩).me.plain 6 = true ∧
    (bG ⟨true, 4, 1, 3⟩).me.freelance = true ∧ (bG ⟨true, 4, 1, 3⟩).fix.active = false ∧ (bG ⟨true, 4, 1, 3⟩).saved = [] ∧
    (bG ⟨true, 4, 1, 3⟩).part.groups.get Group.reset 9 = ⟨true, 4, 1, 3⟩ ∧ (bG ⟨true, 4, 1, 3⟩).me.inGroup 9 = true ∧
    (bG ⟨true, 4, 2, 3⟩).slots.contains (7, { going with run := .wait wSem, pend := .bar 6 9, ilen := 4 }) = true ∧ (1 : Nat) + 1 < 3 ∧ (bG ⟨true, 4, 2, 3⟩).part.groups.get Group.reset 9 = ⟨true, 4, 2, 3⟩ ∧ (3 : Nat) ≤ 2 + 1 ∧
    (bG ⟨true, 4, 2, 3⟩).me.inGroup 9 = true ∧
    (bG ⟨false, 4, 2, 3⟩).part.groups.get Group.reset 9 = ⟨false, 4, 2, 3⟩ ∧ (bG ⟨false, 4, 2, 3⟩).vectored = true := by
  decide +kernel

theorem witness_CounterSet : (sgS 0xFFFF 0).me.guardHolds .always = true ∧ (sgS 0xFFFF 0).me.plain 7 = true ∧
    (sgS 0xFFFF 0).me.plain 6 = true ∧ (sgS 0xFFFF 0).me.freelance = true ∧ ((sgS 0xFFFF 0).cell 0).dcAt.get 0 4 / 4 ≠ (sgS 0xFFFF 0).cycle + 1 ∧
    (sgS 0 0x4000).me.g 7 = 0 ∧ ((sgS 0xFFFF 0).me.g 7).toNat < 2 ^ 16 ∧
    2 ^ 16 ≤ ((sgS 0x10000 0).me.g 7).toNat ∧ (sgS 0x10000 0).vectored = true := by decide +kernel

theorem witness_CounterSet_bound :
    let s := sgS 5 0xFF80000000000100
    (s.me.g 7).toNat < 2 ^ 16 ∧ s.me.g 7 ≠ 0 ∧ (6 : Reg) ≠ 0 ∧ s.ownRecord (s.me.g 6) 8 (near 5 0x100 64) ∧ (s.me.g 6).toNat % 64 = 0 ∧
    badDescriptor s.link.pod.k s.link.pod.n (s.nearWords (near 5 0x100 64) 8) = false := by
  unfold State.ownRecord
  decide +kernel

def exS (w : Work) : State := at_ 5 { going with work := w }
/-- A reply route of kind 1 to mailbox 1 of place 0x23 (R279). -/
def route : Word := 0x4000000002000023

/-- A reply route of kind 2 to counter 7 of the cell of place 0x40 (R279). -/
def route2 : Word := 0x800000000E000040

theorem witness_ExitEndsWork : (exS (.task 0)).me.guardHolds .always = true ∧ slotOk 5 = true ∧
    (exS .none).me.work = .none ∧ (exS (.task 0)).me.work = .task 0 ∧ slice (0 : Word) 63 62 = 0 ∧
    (exS (.handler 4)).me.work = .handler 4 ∧ (exS (.task route)).me.work = .task route ∧ slice route 63 62 = 1 ∧
    ((exS (.task route)).cell 0).cutBegun = false ∧ ((exS (.task route)).cell 0).logging = false ∧
    ((exS (.task route)).core 0).outbox.length < 16 ∧ (exS (.task route2)).me.work = .task route2 ∧ slice route2 63 62 = 2 := by decide

def m1 : TaskMsg := ⟨0x4000, 1, 2, 3, 4, 0x77, 9, 3, 5⟩
def am1 : AmMsg := ⟨0x4000, 1, 2, 3, 4, 3, 77, 0⟩
def dpS (c : Core) : State := { s5 with cores := [(1, c)], slots := [(16, going)], cur := 1 }

theorem witness_WorkBegins :
    (dpS { Core.reset with fifo := [m1] }).nextWork 1 = some (m1, none) ∧
    (dpS { Core.reset with fifo := [m1] }).freeSlot 1 = some 17 ∧
    ((dpS { Core.reset with fifo := [m1] }).core 1).dispatched ≠ (dpS { Core.reset with fifo := [m1] }).cycle + 1 ∧
    (dpS { Core.reset with q := #v[[], [], [m1], []] }).nextWork 1 = some (m1, some 2) ∧
    ((dpS { Core.reset with amIn := [am1] }).core 1).amIn = [am1] ∧
    ((dpS { Core.reset with amIn := [am1] }).slot 31).run = .free ∧
    ((dpS { Core.reset with amIn := [am1] }).ctx 3).out = false ∧ (exS (.handler 4)).me.work = .handler 4 := by decide +kernel

def ibS (x : CoreMsg) (c : Cell := Cell.reset) (rest : List Sent := [⟨0, .launch m1⟩]) : State :=
  { s5 with cores := [(1, { Core.reset with inbox := ⟨0, x⟩ :: rest, landed := (s5.cycle, 2) })], slots := [(17, going)], cur := 1
            cells := [(0, c)] }

theorem witness_InboxResults :
    ((ibS (.mail 17 2 7 3 5)).core 1).inbox = [⟨0, .mail 17 2 7 3 5⟩, ⟨0, .launch m1⟩] ∧
    0 ≤ ((ibS (.mail 17 2 7 3 5)).cell 0).fixNo ∧ ((ibS (.mail 17 2 7 3 5)).core 1).tearing 3 = false ∧
    ((ibS (.mail 17 2 7 3 5)).slot 17).runs 3 = true ∧
    ((ibS (.decrement 4 3 5 7) { Cell.reset with dc := [(4, ⟨2, none⟩)] }).cell 0).dc.get Counter.reset 4 = ⟨2, none⟩ ∧
    ((ibS (.decrement 4 3 5 7) { Cell.reset with dc := [(4, ⟨1, some (1, 2, m1)⟩)] }).cell 0).dc.get Counter.reset 4 =
      ⟨1, some (1, 2, m1)⟩ ∧
    ((ibS (.launch m1)).core 1).fifo.length < 16 ∧ ((ibS (.task 2 m1)).core 1).q[2].length < 64 ∧
    ((ibS (.task 2 m1)).core 1).ringCount[2] = 0 ∧ ((ibS (.taskwd 1 2 3)).core 1).tearing 3 = false ∧
    (∀ i : Fin 4, ((ibS (.taskwd 1 2 3)).core 1).ringCount[i] = 0) ∧ ((ibS (.jobLaunch 0 4 m1)).core 1).fifo.length < 16 := by
  decide +kernel

/-- Two decrements of one counter that have come in one cclk. -/
def dec2 : State := ibS (.decrement 4 3 5 7) { Cell.reset with dc := [(4, ⟨3, none⟩)] } [⟨0, .decrement 4 3 9 1⟩]

theorem witness_InboxResults_pair : (dec2.core 1).inbox = [⟨0, .decrement 4 3 5 7⟩, ⟨0, .decrement 4 3 9 1⟩] ∧
    (dec2.core 1).justCame dec2.cycle = true ∧ (dec2.core 1).tearing 3 = false ∧ 0 ≤ (dec2.cell 0).fixNo ∧
    3 ≤ ((dec2.cell 0).dc.get Counter.reset 4).count.toNat ∧
    ((ibS (.decrement 4 3 5 7)).core 1).inbox.tail.head? = some ⟨0, .launch m1⟩ := by decide +kernel

def riS (r : RingRead := .idle) : State := { s5 with
  cur := 1 * 4 + 2, mem := bytesOf 0x40000 [1, 2, 3]
  cores := [(1, { Core.reset with ringCount := #v[0, 0, 5, 0], qring := #v[0, 0, 0x40000, 0], ringRead := #v[.idle, .idle, r, .idle] })] }

theorem witness_RingMoves_reply : (∀ r ∈ ([.block [(0x40000, 1)] [], .block [] [7], .lost 7, .barred 7] : List Reply),
    ((riS (.got r)).core 1).ringRead[2] = .got r) ∧ ((riS).core 1).ringRead[2] = .idle := by decide +kernel

theorem witness_RingMoves :
    let riS := riS
    riS.cur = 1 * 4 + 2 ∧ riS.owners = [] ∧ riS.soft = [] ∧ riS.poison = [] ∧ riS.unitKey = [] ∧ riS.fix.copies = [] ∧ riS.l2 = [] ∧
    placeOf (ringEntry (riS.core 1).qring[2] (riS.core 1).ringHead[2]) = .hbm ∧
    riS.ringBarred (ringEntry (riS.core 1).qring[2] (riS.core 1).ringHead[2]) = false := by decide +kernel

def fk : Fork := ⟨10, 3, 0x5000, 6, 0x6000, 0xFF80000000800100, 0, []⟩
def fkS (n grain : Word) : State := at_ 5 ((((((going.setG 7 0xFF80000000800100).setG 10 n).setG 11 grain).setG 12 0x5000).setG 13 6).setG 14 0x6000)
def fkW : State := at_ 5 { going with fork := some fk, run := .wait wMem }

theorem witness_RangeForks : slotOk 5 = true ∧ (fkS 10 3).sound ∧ (fkS 10 3).fix.want = 0 ∧ (fkS 10 3).fix.copies = [] ∧
    (fkS 10 3).me.guardHolds (.pred false 0) = true ∧ (∀ r : Fin 32, (fkS 10 3).me.plain (BitVec.ofNat 5 r.val) = true) ∧
    (fkS 10 3).me.freelance = true ∧ (fkS 10 3).part.secureCells = [] ∧ runOk 10 1 5 = true ∧ ((fkS 10 3).me.g 7).toNat % 16 = 0 ∧
    ((fkS 10 3).me.g (10 + 2)).toNat % 4 = 0 ∧ ((fkS 10 3).me.g (10 + 4)).toNat % 4 = 0 ∧
    nearWindow + 0x800000 ≤ ((fkS 10 3).me.g 7).toNat ∧
    nearLocal (cellOf 5) ((fkS 10 3).me.g 7).toNat 16 = some (near 5 0x800100 16) ∧
    ((fkS 10 3).cell 0).cutBegun = false ∧ 3 < ((fkS 10 3).me.g 10).toNat ∧ ((fkS 3 0).me.g 10).toNat ≤ 3 ∧
    (fkW.slot 5).fork = some fk ∧ 5 / 16 ≠ 1 ∧ fkW.sound ∧ fkW.me.fork = some fk ∧ fk.claimedSlots = [] ∧
    nearLocal (cellOf 5) fk.joinVa.toNat 16 = some (near 5 0x800100 16) := by
  unfold State.sound
  decide +kernel

/-! Transactions -/

/-- A record without tiles (R100), in own near memory, and a slot whose g7 names it. -/
def recWords : List Word := [0x4000, 0, 0, 11, 12, 13, 14, 0x77, 0, 0x40, 0, 0, 0, 0, 0, 0]
def recS (ws : List Word) (w : Work := .task 0) : State :=
  { at_ 5 ({ going with work := w }.setG 7 0xFF80000000000100 |>.setG 8 0xFFFF) with mem := bytesOf (near 5 0x100 128) ws }

theorem witness_RecordRead : (recS recWords).ownRecord 0xFF80000000000100 16 (near 5 0x100 128) ∧
    0xFF80000000000100 % 64 = 0 ∧ (recS recWords).nearWords (near 5 0x100 128) 16 = recWords ∧
    headerOffence false recWords = none ∧ slice (recWords.getD 8 0) 4 0 = 0 ∧ slice (recWords.getD 8 0) 12 8 = 0 ∧
    (headerOffence false (0x4001 :: recWords.tail)).isSome = true := by
  unfold State.ownRecord
  decide +kernel

def rec0 : TxRec := { pcd := 0x4000, pcc := 0, pca := 0, a0 := 1, a1 := 2, a2 := 3, a3 := 4, dw7 := 0x500000077, dw8 := 0, out := 0, reads := [], writes := [] }
def sub0 : Submission := { record := rec0, reads := [], writes := [], slot := 5, ctx := 3, priv := false, secure := false, parent := none, restart := false, fixCount := 0 }
def txn0 : Txn := { sub := sub0, cell := 0, batch := 0, num := 0, stage := .numbered, verdict := none, wants := [], granted := [], pushes := [], released := [], drains := [], lastGrant := 0, roles := [], queue := [], soundingDone := false, voidAt := 0 }
def withTxn (s : State) (t : Txn) : State := { s with seq := { s.seq with batch := 1, sizes := [(0, 3)], txns := [t] } }
/-- A sounding that has been dispatched to slot 5. -/
def sounding : Txn := { txn0 with stage := .dispatched, sub := { sub0 with record := { rec0 with dw8 := 0x40000 } }, roles := [⟨0, 5, false, 0⟩] }

/-- A role of a sounding at its signals: gA in g7, gD in g6. -/
def sgR (a d : Word) : State := withTxn { at_ 5 ({ (going.setG 7 a).setG 6 d with work := .role 0 0 }) with
  mem := bytesOf (near 5 0x100 64) taskDesc } sounding

theorem witness_SignalsDeferred : (sgR 0x20 0x4000).me.guardHolds .always = true ∧
    (∀ r : Fin 32, (sgR 0x20 0x4000).me.plain (BitVec.ofNat 5 r.val) = true) ∧ (sgR 0x20 0x4000).me.work = .role 0 0 ∧
    (sgR 0x20 0x4000).txn 0 = some sounding ∧ sounding.stage = .dispatched ∧
    (((sgR 0x20 0x4000).seq.txns.filter fun z => z.cell = cellOf 5).map fun z => z.queue.length).sum < 64 ∧
    badPlace 0 1 false ((sgR 0x20 0x4000).me.g 7) = false ∧ badPlace 0 1 true ((sgR 0x20 0x4000).me.g 7) = false ∧
    runOk 6 1 2 = true ∧ (sgR 0x20 0x4000).me.g 6 ≠ 0 ∧ ((sgR 0x20 0x4000).me.g 6).toNat % 4 = 0 ∧
    (let s := sgR 0x20 0xFF80000000000100
     s.ownRecord (s.me.g 6) 8 (near 5 0x100 64) ∧ (s.me.g 6).toNat % 64 = 0 ∧
      badDescriptor 0 1 (s.nearWords (near 5 0x100 64) 8) = false) := by
  unfold State.ownRecord
  decide +kernel

def isSub (x : Except Stop (RecordRead × State)) : Bool := match x with | .ok (.sub _, _) => true | _ => false
def submitted : State := leaves (readTransaction false 0xFF80000000000100 (recS recWords))
def following : State := withTxn (recS recWords (.role 0 0)) sounding
def followed : State := leaves (readTransaction true 0xFF80000000000100 following)

theorem witness_TransactionForms : (recS recWords).me.guardHolds .always = true ∧ (recS recWords).me.plain 7 = true ∧
    (recS recWords).me.plain 8 = true ∧ (recS recWords).me.plain 9 = true ∧ ((recS recWords).cell 0).cutBegun = false ∧
    (submitted.cell (cellOf submitted.cur)).cutBegun = false ∧ (recS recWords).me.freelance = true ∧
    (recS recWords).me.g 7 = 0xFF80000000000100 ∧
    isSub (readTransaction false 0xFF80000000000100 (recS recWords)) = true ∧ submitted.cur = (recS recWords).cur ∧
    submitted.seq.waiting.length < 64 ∧ 5 ≠ noSlot := by decide +kernel

theorem witness_TransactionForms_role : following.me.work = .role 0 0 ∧ followed.me.work = .role 0 0 ∧
    following.me.guardHolds .always = true ∧ following.me.plain 7 = true ∧ (following.cell 0).cutBegun = false ∧
    (followed.cell 0).cutBegun = false ∧ following.mayFollow 0 = true ∧ followed.cur = following.cur ∧
    isSub (readTransaction true 0xFF80000000000100 following) = true ∧
    followed.txn 0 = some sounding ∧ sounding.stage = .dispatched := by decide +kernel

theorem witness_TransactionEffects : s5.me.guardHolds .always = true ∧ s5.me.plain 7 = true ∧ s5.me.plain 8 = true ∧
    s5.me.plain 9 = true ∧ s5.vectored = true ∧ (sup following).me.work = .role 0 0 ∧
    (sup following).txn 0 = some sounding ∧ sounding.stage = .dispatched ∧ (sup following).fix.active = false ∧
    (sup following).privOf 5 = true ∧ (sup following).me.guardHolds .always = true := by decide +kernel

def waitingS : State := { s5 with seq := { s5.seq with waiting := [sub0] } }

theorem witness_SequencerSteps : waitingS.seq.waiting = [sub0] ∧ waitingS.takesSub = true ∧ sub0.slot ≠ noSlot ∧
    (withTxn s5 { txn0 with stage := .accepted }).seq.txns = [{ txn0 with stage := .accepted }] ∧
    (withTxn s5 { txn0 with stage := .accepted }).fix.active = false := by decide +kernel

def entry (num : Nat) (excl granted : Bool) : LockEntry := ⟨num, 0, .mem 5, excl, false, 0, granted, false⟩
def lockS (d : Die) (b : Blm) : State := { s5 with dies := [(1, d)], blms := [(1, b)], cur := 1 }

theorem witness_LockSteps :
    (lockS { Die.reset with gate := [(0, [.close 0])] } Blm.reset).gateNext 1 = some (0, .close 0) ∧
    (lockS { Die.reset with gate := [(0, [.request 3 4 7 [], .close 0])] } Blm.reset).gateNext 1 = some (0, .request 3 4 7 []) ∧
    (lockS Die.reset { Blm.reset with entries := [entry 3 true false], safe := some 255 }).grantNext 1 = some (entry 3 true false) ∧
    (entry 3 true false).void = false ∧ (entry 3 true false).read = false ∧ (entry 3 true false).cell / 1024 = s5.link.pod.k ∧
    ((lockS Die.reset { Blm.reset with entries := [entry 3 true true] }).blm 1).entries.any
      (fun y => y.num = 3 ∧ y.gran = .mem 5 ∧ y.granted) = true := by decide +kernel

theorem witness_LocksExclude :
    let es := [entry 3 false true, entry 4 false true, entry 5 true false]
    (∀ x ∈ es, ∀ y ∈ es, x.gran = y.gran → (x.num = y.num → x = y) ∧
      (y.granted = true → x.num < y.num → x.granted = true ∧ x.excl = false ∧ y.excl = false)) ∧
    entry 3 false true ∈ es ∧ entry 4 false true ∈ es ∧ entry 3 false true ≠ entry 4 false true ∧
    ((lockS Die.reset { Blm.reset with entries := es }).blm 1).entries = es := by decide +kernel

def txnS (t : Txn) (sl : Slot := going) (c : Cell := Cell.reset) : State := { withTxn (at_ 5 sl) t with cells := [(0, c)] }
def oneRole : Txn := { txn0 with lastGrant := 0 }
def roleS : State := { txnS oneRole with sched := { Sched.reset with cycle := 64 } }
def draining : Txn := { txn0 with stage := .committed, drains := [(.mem 5, 0 + 2)] }
def emptyTile : Tile := { Tile.reset with v := true, state := .empty, fmt := 3, cols := 4, rows := 3, base := 5, size := 1 }

theorem witness_TransactionEvents : (txnS txn0).txn 0 = some txn0 ∧ txn0.stage = .numbered ∧
    ((txnS txn0 going { Cell.reset with tiles := Cell.reset.tiles.set 33 emptyTile }).cell 0).tile 33 = emptyTile ∧
    emptyTile.v = true ∧ emptyTile.state = .empty ∧ (txnS txn0).sound ∧ (txnS txn0).fix.want = 0 ∧ (txnS txn0).fix.copies = [] ∧
    roleS.txn 0 = some oneRole ∧ oneRole.num = 0 ∧ oneRole.cell = 0 ∧ roleS.txnReady oneRole = true ∧ oneRole.roles = [] ∧
    oneRole.sub.reads = [] ∧ entries oneRole.sub.record = [(0, 0x4000)] ∧ roleS.freeSlot (0 * 3 + 0) = some 0 ∧
    oneRole.lastGrant + 64 ≤ roleS.cycle ∧ (txnS draining).txn 0 = some draining ∧ draining.drains = [(.mem 5, 0 + 2)] ∧
    draining.sub.writes = [] ∧ (txnS sounding { going with work := .role 0 0 }).me.work = .role 0 0 ∧
    (txnS sounding { going with work := .role 0 0 }).txn 0 = some sounding := by
  unfold State.sound
  decide +kernel

def withdrawing : State := txnS txn0 { going with pend := .txwd 6 [] 0, run := .wait wMem }

/-- The same with a submission that it selects. -/
def withdrawing2 : State := { withdrawing with seq := { withdrawing.seq with txns := [txn0, { txn0 with stage := .accepted }] } }

theorem witness_Withdrawal : (withdrawing2.slot 5).pend = .txwd 6 [] 0 ∧ 5 ≠ noSlot ∧ withdrawing2.txn txn0.num = some txn0 ∧
    withdrawing2.seq.txns = [txn0, { txn0 with stage := .accepted }] ∧
    (txn0.sub.ctx == 3 && ((txn0.sub.record.dw7.truncate 32 : W32) ^^^ 0x77) &&& 0xFFFFFFFF == 0) = true ∧
    txn0.sub.record.out = 0 ∧ sqDet withdrawing2.seq.sqctl = false := by decide +kernel

def deciding (st : TxnStage) : State :=
  { txnS { txn0 with stage := st } { going with pend := .txwd 6 [0] 0, run := .wait wMem } with cur := 0 }

theorem witness_WithdrawalDecided : (deciding .numbered).txn 0 = some { txn0 with stage := .numbered } ∧ txn0.cell = 0 ∧
    (deciding .numbered).cutFirst 0 (deciding .numbered).cur = false ∧ ((deciding .numbered).slots.map fun e => e.1).Nodup ∧
    ((deciding .numbered).slot 5).pend = .txwd 6 [0] 0 ∧ txn0.roles = [] ∧
    (deciding .dispatched).txn 0 = some { txn0 with stage := .dispatched } := by decide +kernel

/-! Ordering and the memory system -/

def line (v d o : BitVec 16) : L1Line :=
  { data := Vector.ofFn fun i => BitVec.ofNat 32 (i.val * 0x1111111), v := v, d := d, o := o, poison := 0, copying := 0
    evicting := false, va := 0x1000, vas := [], ctx := 3, budget := 0, reads := 0, used := 0, key := 0 }
def cached : Cell := { Cell.reset with l1 := [(64, line 0xFFFF 0x0F 0x03)], regq := (List.range 4).map fun i => ⟨64, i, i < 2⟩ }
def ordS (a b : Word) (c : Cell := cached) : State := { at_ 5 ((going.setG 7 a).setG 8 b) with cells := [(0, c)] }

theorem witness_OrderingForms : (ordS 0x1000 0x40).me.guardHolds .always = true ∧ (ordS 0x1000 0x40).me.plain 7 = true ∧
    (ordS 0x1000 0x40).me.plain 8 = true ∧ slotOk 5 = true ∧ ((ordS 0x1000 0x40).cell 0).cutBegun = false ∧
    ((ordS 0x1000 0x40).cell 0).logging = false ∧ canonical ((ordS 0x1000 0x40).me.g 7).toNat = true ∧
    ((ordS 0x1000 0x40).me.g 7).toNat + ((ordS 0x1000 0x40).me.g 8).toNat ≤ 2 ^ 64 ∧
    canonical ((ordS 0xFFFFFFFFFFFFFF00 0x100).me.g 7).toNat = true ∧
    ((ordS 0xFFFFFFFFFFFFFF00 0x100).me.g 7).toNat + ((ordS 0xFFFFFFFFFFFFFF00 0x100).me.g 8).toNat ≤ 2 ^ 64 := by decide +kernel

theorem witness_ViewForms : (ordS 0x1000 0x40).me.guardHolds .always = true ∧ (ordS 0x1000 0x40).me.plain 7 = true ∧
    (ordS 0x1000 0x40).me.plain 8 = true ∧ canonical ((ordS 0x1000 0x40).me.g 7).toNat = true ∧
    ((ordS 0x1000 0x40).me.g 7).toNat + ((ordS 0x1000 0x40).me.g 8).toNat ≤ 2 ^ 64 ∧ (7 : Reg) ≠ 0 ∧
    (ordS 4095 0).me.g 7 ≠ 0 ∧ ((ordS 4095 0).me.g 7).toNat < 4096 ∧ ((ordS 4095 0).cell 0).cutBegun = false ∧
    5 ≠ noSlot ∧ (ordS 0 0).me.g 7 = 0 ∧ 4096 ≤ ((ordS 4096 0).me.g 7).toNat ∧ (ordS 0 0).vectored = true := by decide +kernel

def pending (p : Pend) : State := at_ 5 { going with run := .wait wMem, pend := p, counted := true, ilen := 4 }

theorem witness_RepliesComplete : slotOk 5 = true ∧ (pending .plain).cur = 5 ∧ (pending .plain).me.plain 6 = true ∧
    ((pending .plain).cell 0).logging = false ∧ (pending .plain).me.pend = .plain ∧ (pending .plain).vectored = true ∧
    (pending .plain).me.pend ≠ .none ∧ (pending (.word 6)).me.pend = .word 6 ∧ (pending (.bar 6 1)).me.pend = .bar 6 1 ∧
    (pending (.fix 6 1)).me.pend = .fix 6 1 ∧ (pending (.txwd 6 [] 1)).me.pend = .txwd 6 [] 1 ∧
    (pending (.load 6 .zext)).me.pend = .load 6 .zext ∧ (pending (.atom 6 .w)).me.pend = .atom 6 .w := by
  decide +kernel

def l2line : L2Line := ⟨Vector.ofFn fun i => BitVec.ofNat 32 (i.val + 0x7000), 0x3, 0, 0⟩
def fillReq : FillReq := ⟨64, 0, 0, 0x1000, [], 3, 0x10⟩
def cacheS (c : Cell) (r : Option OwnerRec := none) : State :=
  { s5 with cells := [(2, c)], l2 := [(64, l2line)], owners := match r with | some t => [(64, t)] | none => [] }

theorem witness_Fills : placeOf (64 * 64) = .hbm ∧ (cacheS cached).soft = [] ∧ (cacheS cached).fix.copies = [] ∧
    (cacheS cached).owners.find 64 = none ∧ (cacheS cached).l2.find 64 = some l2line ∧
    (((cacheS { Cell.reset with l1 := [(64, line 0x0F 0x0F 0)], fills := [fillReq] }).cell 2).fills.find?
      (fun q => q.line = 64)) = some fillReq ∧
    (cacheS { Cell.reset with l1 := [(64, line 0x0F 0x0F 0)], fills := [fillReq] }).l1 2 64 = some (line 0x0F 0x0F 0) := by
  decide +kernel

theorem witness_Registrations : (cacheS cached).owners.find 64 = none ∧
    ((cacheS cached).recordsOf (homeSlice (64 * 64))).length < 1700 ∧ (cacheS cached).l1 2 64 = some (line 0xFFFF 0x0F 0x03) ∧
    (0x3 : BitVec 16) &&& ~~~(line 0xFFFF 0x0F 0x03).d = 0 ∧
    (0xC : BitVec 16) &&& ((cacheS cached).cell 2).regMask 64 ≠ 0 := by decide +kernel

theorem witness_CopyBacks : placeOf (64 * 64) = .hbm ∧ (cacheS cached).l2.find 64 = some l2line ∧ (cacheS cached).fix.want = 0 ∧
    (cacheS cached).fix.copies = [] ∧ (cacheS cached).l1 2 64 = some (line 0xFFFF 0x0F 0x03) ∧
    (line 0xFFFF 0x0F 0x03).evicting = false := by decide +kernel

def memReq (a : Nat) (w al : Bool) : MemReq := ⟨5, 0, w, al, addrsFrom a 8, leBytes 8 0x1122334455667788, 0, 0, [], false, false, 0⟩
def atomReq (a : Nat) : AtomReq := ⟨5, 0, .add, .d, addrsFrom a 8, 0x1020304050607080, 0, [], 0, false, 0, false, 0⟩
def memS (a : Nat) (rem : List RemoteReq := []) : State :=
  { s5 with mem := bytesOf a [0xFFEEDDCCBBAA9988], cores := [(0, { Core.reset with remIn := rem })], cur := 0 }

theorem witness_RequestsServed : (memS 0x1000).sound ∧ (memS 0x1000).soft = [] ∧ (memS 0x1000).poison = [] ∧
    (memS 0x1000).unitKey = [] ∧ (memS 0x1000).fix.copies = [] ∧ (memS 0x1000).fix.want = 0 ∧ (memS 0x1000).l2 = [] ∧
    (memS 0x1000).owners = [] ∧ (memS 0x1000).part.keyGen = [] ∧ 5 < noSlot ∧ 0x1000 % 8 = 0 ∧ placeOf 0x1000 = .hbm ∧
    (memReq 0x1000 true false).alloc = false ∧ (memReq 0x1000 true false).write = true ∧
    (memReq 0x1000 false false).write = false ∧ (atomReq 0x1000).op = .add ∧ (atomReq 0x1000).size = .d ∧
    (atomReq 0x1000).dirty = [] ∧ placeOf (near 5 0x100 8) = .tile 0 ∧ near 5 0x100 8 % 8 = 0 ∧
    (memS (near 5 0x100 8) [.mem 0 (memReq (near 5 0x100 8) true true)]).sound ∧
    ((memS (near 5 0x100 8) [.mem 0 (memReq (near 5 0x100 8) true true)]).core 0).remIn =
      [.mem s5.link.pod.k (memReq (near 5 0x100 8) true true)] ∧ placeOf 0x6000000000 = .hole ∧
    (memReq 0x1000 true false).data.length = 8 ∧ (memReq 0x1000 true false).scale = [] ∧ (memReq 0x1000 true false).piece = false ∧
    ((memS (near 5 0x100 8) [.atom 0 (atomReq (near 5 0x100 8))]).core 0).remIn = [.atom s5.link.pod.k (atomReq (near 5 0x100 8))] := by
  unfold State.sound
  decide +kernel

/-! Tiles and engines -/

def tile_ (st : TileState) (fmt cols rows : Nat) (hold : Nat := 0) (plane : Bool := false) : Tile :=
  { state := st, v := true, plane := plane, fmt := fmt, view := 0, hold := hold, cols := cols, rows := rows, base := 7
    gva := 0x1000, pitch := 0, size := 4 }

/-- A slot of a core of cell 0, with tiles. -/
def tileS (ts : List (Nat × Tile)) (core : Nat) (sl : Slot := going.setG 8 0x10) : State :=
  { at_ (core * 16 + 5) sl with
    cells := [(0, { Cell.reset with tiles := ts.foldl (fun v e => v.set! e.1 e.2) Cell.reset.tiles })] }

theorem witness_TileForms_bind :
    let s := tileS [(5, tile_ .empty 3 4 4)] 0
    s.me.guardHolds (.pred false 0) = true ∧ s.me.plain 7 = true ∧ s.me.plain 8 = true ∧ s.me.plain 6 = true ∧
    slice (s.me.g 8) 63 30 = 0 ∧ layoutOk false 3 16 = true ∧
    slice (s.me.g 8) 12 0 * 256 + tileUnits false 3 16 4 * 256 ≤ 0x100000 ∧ (s.myTile 5).v = true ∧
    (s.myTile 5).may .dst = true ∧ (s.cell 0).firstFor false 5 s.cur = true ∧ ((tileS [] 0).myTile 5).v = false ∧
    (tileS [] 0).vectored = true := by decide +kernel

theorem witness_TileForms_wait :
    let s := tileS [(5, tile_ .ready 3 4 4)] 0
    s.me.inRole = false ∧ (s.myTile 5).v = true ∧ (s.myTile 5).state = .ready ∧
    (s.cell 0).firstFor false 5 s.cur = true ∧ ((tileS [(5, tile_ .filling 3 4 4)] 0).myTile 5).v = true ∧
    ((tileS [(5, tile_ .filling 3 4 4)] 0).myTile 5).state ≠ .ready := by decide +kernel

def ext0 : Ext := ⟨false, 0, 3, 2, .none⟩
/-- g7 and g8 as a form's registers. -/
def regs78 (a b : Word) : Slot := (going.setG 7 a).setG 8 b

theorem witness_CopyForms :
    let s := tileS [(5, tile_ .ready 3 12 12), (6, tile_ .ready 4 12 12)] 0 (regs78 0x4000 0x40)
    let e := tileS [(5, tile_ .empty 3 12 12), (6, tile_ .ready 4 12 12)] 0 (regs78 0x4000 0x40)
    s.me.plain 7 = true ∧ s.me.plain 8 = true ∧ (s.myTile 5).plane = false ∧ slice (0x40 : Word) 63 17 = 0 ∧
    (rangeOk (globalSpan (globalTile (s.myTile 5) [])).1 (globalSpan (globalTile (s.myTile 5) [])).2) ∧
    (rangeOk (globalSpan (globalTile (s.myTile 5) [0x4000, 0x40])).1 (globalSpan (globalTile (s.myTile 5) [0x4000, 0x40])).2) ∧
    MayIssue e .copy ext0 [5] [(5, .dst)] ∧ MayIssue s .copy ext0 [5] [(5, .src)] ∧ s.me.inRole = false ∧
    rangeOk (rowAddr 0x4000 0x40 0 0) (rowAddr 0x4000 0x40 0 11 + 48) ∧ byElement (s.myTile 5) = true ∧
    (s.myTile 6).plane = false ∧ (s.myTile 6).fmt = 4 ∧ (s.myTile 5).rows ≤ (s.myTile 6).rows ∧
    MayIssue e .copy ext0 [5, 6] [(5, .dst), (6, .src)] ∧ MayIssue s .copy ext0 [5, 6] [(5, .src), (6, .src)] ∧
    3 * (3 + 1) ≤ (s.myTile 5).rows ∧ 3 * (3 + 1) ≤ (s.myTile 5).cols := by
  unfold MayIssue rangeOk
  decide +kernel

theorem witness_CopyForms_rotate :
    let v : Word := BitVec.ofNat 64 (4 * 2 ^ 36 + 2 * 2 ^ 24 + 3 * 2 ^ 12 + 1)
    let s := tileS [(5, tile_ .ready 3 12 12), (6, tile_ .ready 3 12 12)] 0 (regs78 v 0x4000)
    MayIssue s .copy ext0 [5, 6] (usesOf true 5 [6]) ∧ rotatable (s.myTile 5) = true ∧ rotatable (s.myTile 6) = true ∧
    slice v 63 48 = 0 ∧ slice v 47 36 % 2 = 0 ∧ 2 ≤ slice v 47 36 ∧ slice v 47 36 ≤ (s.myTile 5).cols ∧ slice v 35 24 ≠ 0 ∧
    slice v 23 12 + slice v 35 24 ≤ (s.myTile 5).rows ∧ slice v 11 0 + slice v 35 24 ≤ (s.myTile 6).rows ∧
    (s.myTile 5).fmt = (s.myTile 6).fmt ∧ (s.myTile 5).cols = (s.myTile 6).cols ∧
    rangeOk (s.me.g 8).toInt ((s.me.g 8).toInt + 4 * slice v 47 36 - 1) := by
  unfold MayIssue rangeOk
  decide +kernel

def convS (d a : Tile) : State := tileS [(5, d), (6, a)] 1 (regs78 0x4000 0x40)

theorem witness_ConversionForms_plane :
    MayIssue (convS (tile_ .empty 5 64 4 0 true) (tile_ .ready 5 64 4)) .conv ext0 [5, 6] [(5, .dst), (6, .src)] ∧
    planePair (tile_ .ready 5 64 4) (tile_ .empty 5 64 4 0 true) = true ∧
    MayIssue (convS (tile_ .empty 5 64 4) (tile_ .ready 5 64 4 0 true)) .conv ext0 [5, 6] [(5, .dst), (6, .src)] ∧
    MayIssue (convS (tile_ .empty 5 64 4) (tile_ .ready 3 64 4)) .conv ext0 [5, 6] [(5, .dst), (6, .src)] ∧
    isBfx 5 = true ∧ isBfx 3 = false ∧ byteFmt 3 = true ∧ byteFmt 2 = true := by
  unfold MayIssue
  decide +kernel

theorem witness_ConversionForms :
    MayIssue (convS (tile_ .empty 2 64 4) (tile_ .ready 3 64 4)) .conv ext0 [5, 6] [(5, .dst), (6, .src)] ∧
    MayIssue (convS (tile_ .empty 3 4 64) (tile_ .ready 3 64 4)) .conv ext0 [5, 6] [(5, .dst), (6, .src)] ∧
    MayIssue (convS (tile_ .empty 2 64 4) (tile_ .ready 3 64 4)) .table ext0 [] [] ∧
    MayIssue (convS (tile_ .empty 2 64 4) (tile_ .ready 3 64 4)) .table ext0 [5, 6] (usesOf false 5 [6]) := by
  unfold MayIssue
  decide +kernel

def matS (d a b : Tile) : State := tileS [(5, d), (6, a), (7, b)] 2 (regs78 0x4000 0x40)

theorem witness_MatrixForms :
    MayIssue (matS (tile_ .empty 3 8 4) (tile_ .ready 5 64 4 0 true) (tile_ .ready 5 64 8 0 true)) .matrix ext0 [5, 6, 7]
      (usesOf false 5 [6, 7]) ∧ matrixOperand (tile_ .ready 5 64 4 0 true) 1 = true ∧
    matrixOperand (tile_ .ready 5 64 8 0 true) 2 = true ∧
    MayIssue (matS (tile_ .ready 4 8 4) (tile_ .ready 1 64 4 0 true) (tile_ .ready 1 64 8 0 true)) .matrix ext0 [5, 6, 7]
      (usesOf true 5 [6, 7]) ∧ matrixOperand (tile_ .ready 1 64 4 0 true) 1 = true ∧
    MayIssue (matS (tile_ .empty 3 64 4) (tile_ .ready 3 64 4) Tile.reset) .matrix ext0 [5, 6] (usesOf false 5 [6]) ∧
    maccFmt .f32 = 3 := by
  unfold MayIssue
  decide +kernel

/-- Tiles 5, 6, 7 and 9 of a core of role A. -/
def vecS (a b c d : Tile) : State := tileS [(5, a), (6, b), (7, c), (9, d)] 2 (regs78 0x4000 0x40)

theorem witness_VectorForms :
    let s := vecS (tile_ .empty 3 8 4) (tile_ .ready 3 8 4) (tile_ .ready 3 8 4) (tile_ .ready 1 8 4)
    MayIssue s .vector ext0 [5, 6, 7] (usesOf false 5 [6, 7]) ∧ rowTile (s.myTile 5) 3 (4, 8) = true ∧
    rowTile (s.myTile 6) 3 (4, 8) = true ∧ rowTile (s.myTile 7) 3 (brShape .full 4 8) = true ∧ vsatFmt (.f .f32) = 3 ∧
    vtyFmt .f32 = 3 ∧ vfmaFmt (.f .f32) = 3 ∧ MayIssue s .vector ext0 [5, 6] (usesOf false 5 [6]) ∧
    MayIssue s .vector ext0 [5, 6, 7, 9] (usesOf false 5 [6, 7, 9]) ∧ rowTile (s.myTile 9) 1 (4, 8) = true := by
  unfold MayIssue
  decide +kernel

theorem witness_VectorForms_masked :
    let s := vecS (tile_ .ready 3 8 4) (tile_ .ready 3 8 4) (tile_ .ready 3 8 1) (tile_ .ready 1 8 4)
    MayIssue s .vector ext0 [5, 6, 7, 9] (usesOf true 5 [6, 7, 9]) ∧ rowTile (s.myTile 7) 3 (brShape .row 4 8) = true ∧
    rowTile (s.myTile 9) 1 (4, 8) = true ∧ MayIssue s .vector ext0 [5, 6, 9] (usesOf true 5 [6, 9]) := by
  unfold MayIssue
  decide +kernel

theorem witness_VectorForms_other :
    let c := vecS (tile_ .empty 1 8 4) (tile_ .ready 3 8 4) (tile_ .ready 3 8 4) (tile_ .ready 1 8 4)
    let r := vecS (tile_ .empty 3 8 1) (tile_ .ready 3 8 4) (tile_ .ready 3 8 4) (tile_ .ready 1 8 4)
    let m := vecS (tile_ .ready 3 8 1) (tile_ .ready 3 8 4) (tile_ .ready 3 8 4) (tile_ .ready 1 8 4)
    let b := vecS (tile_ .empty 3 8 4) (tile_ .ready 3 8 1) (tile_ .ready 3 8 4) (tile_ .ready 1 8 4)
    let i := vecS (tile_ .empty 4 8 4) (tile_ .ready 4 8 4) (tile_ .ready 4 1 1) (tile_ .ready 1 8 4)
    MayIssue c .vector ext0 [5, 6, 7] (usesOf false 5 [6, 7]) ∧ rowTile (c.myTile 5) 1 (4, 8) = true ∧
    vcmpFmt (.f .f32 .lt) = 3 ∧ MayIssue r .vector ext0 [5, 6] (usesOf false 5 [6]) ∧
    rowTile (r.myTile 5) (vredFmt (.max .f32)) (1, (r.myTile 6).cols) = true ∧ rowTile (r.myTile 6) 3 (4, 8) = true ∧
    MayIssue m .vector ext0 [5, 6, 9] (usesOf true 5 [6, 9]) ∧ rowTile (m.myTile 5) 3 (1, 8) = true ∧
    MayIssue b .vector ext0 [5, 6] (usesOf false 5 [6]) ∧ rowTile (b.myTile 6) 3 (brShape (bcastBr .row) 4 8) = true ∧
    MayIssue i .vector ext0 [5, 6] (usesOf false 5 [6]) ∧ rowTile (i.myTile 5) (ityFmt .i32) (4, 8) = true ∧
    rowTile (i.myTile 6) (ityFmt .i32) (4, 8) = true := by
  unfold MayIssue
  decide +kernel

def cmdOf (op : Instr) (gate : Nat × Nat) (vals : List Word) (tiles : List (Nat × Tile)) (dsts : List Nat) : Cmd :=
  ⟨op, 5, 1, 3, false, false, 0, vals, tiles, [], dsts, gate, .none, none⟩
/-- A command of cell 0's engine e in progress, over tiles 0, 1, … in the order in which it names them; and a state with it. -/
def jobOf (e : Eng) (op : Instr) (vals : List Word) (tiles : List Tile) : Job :=
  ⟨0, e, Running.start (cmdOf op (0, 0) vals ((List.range tiles.length).zip tiles) [])⟩
def jobS (x : Job) (m : List Host.Cell := []) : State := { s5 with mem := m, cells := [(0, { Cell.reset with
  eng := Cell.reset.eng.set (engIx x.eng) ⟨[], some x.r⟩ })] }
def rowT (fmt cols rows base : Nat) (plane : Bool := false) (gva : Word := 0xFF80000000000400) : Tile :=
  { tile_ .filling fmt cols rows 0 plane with base := base, gva := gva }
/-- A page of HBM that its fix need not copy before a write. -/
def leafW : Leaf := ⟨3, 7 * 65536, 0x500101F, 0, 0x140000⟩
def pageS (x : Job) (m : List Host.Cell := []) : State := { jobS x m with cores := [(0, { Core.reset with dtlb := [leafW] })] }

/-- A tile in near memory; the same in a page; and element (1, 2) of each. -/
def ldJob : Job := jobOf .copy (.cpLd ext0 none 5) [] [rowT 3 4 4 7]
def stJob : Job := jobOf .copy (.cpSt ext0 none 5) [] [rowT 3 4 4 7 false 0x70000]
def rowsJob : Job := jobOf .copy (.cp2d ext0 false (-1) 8 7 5) [0xFF80000000000400, 0x40] [rowT 3 4 4 7]

theorem witness_CopyElements : ldJob.calm (jobS ldJob) ∧ byElement (ldJob.tile 0) = true ∧ (ldJob.tile 0).view = 0 ∧
    1 < (ldJob.tile 0).rows ∧ 2 < (ldJob.tile 0).cols ∧ ldJob.r.cmd.vals.length = 0 ∧ rangeBad ((0xFF80000000000400 : Word).toInt + 24) = false ∧
    ldJob.reaches (jobS ldJob) 0 0xFF80000000000418 4 (near 0 0x418 4) ∧ rowsJob.calm (jobS rowsJob) ∧
    rowsJob.reaches (jobS rowsJob) 0 0xFF80000000000408 4 (near 0 0x408 4) ∧ (rowsJob.tile 0).rb = 4 * 4 := by
  unfold Job.calm State.quiet State.sound Job.reaches
  refine ⟨by decide +kernel, by decide +kernel, by decide +kernel, by decide +kernel, by decide +kernel, by decide +kernel,
    by decide +kernel, ⟨by decide +kernel, ?_⟩, by decide +kernel, ⟨by decide +kernel, ?_⟩, by decide +kernel⟩ <;>
  · rw [if_pos (by decide +kernel)]
    decide +kernel

theorem witness_CopyElements_page : stJob.calm (pageS stJob) ∧ stJob.reaches (pageS stJob) 1 0x70000 1 0x5000000 ∧
    stJob.reaches (pageS stJob) 1 0x70018 4 0x5000018 ∧ 0x5000018 % 64 + 4 ≤ 64 := by
  unfold Job.calm State.quiet State.sound Job.reaches
  refine ⟨by decide +kernel, ⟨by decide +kernel, ?_⟩, ⟨by decide +kernel, ?_⟩, by decide⟩ <;>
  · rw [if_neg (by decide +kernel)]
    exact ⟨leafW, by decide +kernel⟩

/-- Two rows of the list 3, 2; row 1 of a `gather`, and the second strip of a long row of a `scatter`. -/
def listJob (out : Bool) (cols : Nat) (base : Word) (ix : List Int) (got : List (Nat × List Byte)) : Job :=
  let y := jobOf .copy (if out then .scatter ext0 7 8 5 6 else .gather ext0 7 8 5 6) [base, 0x10] [rowT 3 cols 2 7, rowT 4 1 2 9]
  { y with r := { y.r with index := ix, got := got } }
def listJob1 : Job := listJob false 4 0xFF80000000000400 [] []
def listS1 : State := jobS listJob1 (bytesOf (elemAddr 0 (rowT 4 1 2 9) 0 0) [3] ++ bytesOf (elemAddr 0 (rowT 4 1 2 9) 1 0) [2])
def listJob2 : Job := listJob false 4 0xFF80000000000400 [3, 2] []
def tileBytes : List Byte := (jobS ldJob).bytesAt (tileAddr 0 (7 * 256) + 320) 320
def listJob3 : Job := listJob true 80 0xFF80000000000490 [3, 2] [(1, tileBytes)]

theorem witness_ListedRows : listJob1.calm listS1 ∧ (listJob1.tile 1).plane = false ∧ (listJob1.tile 1).fmt = 4 ∧
    (∀ i ∈ ([3, 2] : List Int), rangeOk ((0xFF80000000000400 : Word).toInt + i * 16) ((0xFF80000000000400 : Word).toInt + i * 16 + 16 - 1)) ∧
    ((List.range 2).map fun i => (BitVec.ofNat 32 (listS1.elemAt 0 (listJob1.tile 1) i 0)).toInt) = [3, 2] ∧
    listJob2.calm (jobS listJob2) ∧ 1 < listJob2.r.index.length ∧ listJob2.r.fault = none ∧ listJob2.r.subs = [] ∧ listJob2.r.got = [] ∧
    min 16 (256 * 0 - (tileAddr 0 (7 * 256) + 16) % 256) < min 16 (256 * (0 + 1) - (tileAddr 0 (7 * 256) + 16) % 256) ∧
    listJob2.reaches (jobS listJob2) 0 0xFF80000000000420 16 (near 0 0x420 16) := by
  unfold Job.calm State.quiet State.sound Job.reaches rangeOk
  refine ⟨by decide +kernel, by decide +kernel, by decide +kernel, by decide +kernel, by decide +kernel, by decide +kernel, by decide +kernel,
    by decide +kernel, by decide +kernel, by decide +kernel, by decide +kernel, by decide +kernel, ?_⟩
  rw [if_pos (by decide +kernel)]
  decide +kernel

theorem witness_ListedRows_strip : listJob3.calm (jobS listJob3) ∧ (listJob3.tile 0).rb = 320 ∧
    listJob3.r.got = [(1, (jobS listJob3).bytesAt (tileAddr 0 (listJob3.tile 0).at_ + 1 * 320) 320)] ∧
    min 320 (256 * 1 - (0xFF800000000004B0 : Word).toNat % 256) < min 320 (256 * (1 + 1) - (0xFF800000000004B0 : Word).toNat % 256) ∧
    listJob3.reaches (jobS listJob3) 1 0xFF800000000004B0 320 (near 0 0x4B0 320) := by
  unfold Job.calm State.quiet State.sound Job.reaches
  refine ⟨by decide +kernel, by decide +kernel, by decide +kernel, by decide +kernel, by decide +kernel, ?_⟩
  rw [if_pos (by decide +kernel)]
  decide +kernel

/-- One row of four elements, and the element that its last unit writes. -/
def rotJob (split : Bool) (got : List (Nat × List Byte)) : Job :=
  let y := jobOf .copy (.cprot ext0 split 7 8 5 6) [0x4001001000, 0xFF80000000000400] [rowT 3 4 2 7, rowT 3 4 2 9]
  { y with r := { y.r with got := got } }

theorem witness_RotatedElements : (rotJob true []).calm (jobS (rotJob true [])) ∧ (rotJob false []).calm (jobS (rotJob false [])) ∧
    rotatable ((rotJob true []).tile 0) = true ∧ slice (0x4001001000 : Word) 47 36 = 4 ∧ slice (0x4001001000 : Word) 35 24 = 1 ∧
    (rotJob true [(2, [1, 2, 3, 4])]).calm (jobS (rotJob true [(2, [1, 2, 3, 4])])) ∧
    (0xFF80000000000400 : Word).toNat % 8 = 0 ∧ (rotJob true []).reaches (jobS (rotJob true [])) 0 0xFF80000000000400 16 (near 0 0x400 16) := by
  unfold Job.calm State.quiet State.sound Job.reaches
  refine ⟨by decide +kernel, by decide +kernel, by decide +kernel, by decide +kernel, by decide +kernel, by decide +kernel, by decide +kernel,
    by decide +kernel, ?_⟩
  rw [if_pos (by decide +kernel)]
  decide +kernel

/-- Elements and blocks of the conversion, table and matrix engines. -/
def tableJob : Job := jobOf .table (.tiEval ext0 .f32 1 5 6) [] [rowT 3 4 2 7, rowT 3 4 2 9]
def tableS : State := (jobS tableJob).modCell 0 fun c => { c with interp := c.interp.set 1 ⟨true, 3, [0xBF800000, 0x3F800000]⟩ }

theorem witness_ConversionElements : tableS.quiet ∧ 1 < (tableJob.tile 0).rows ∧ 3 < (tableJob.tile 0).cols ∧
    (((tableS.cell 0).interp[1]).valid = true ∧ ((tableS.cell 0).interp[1]).ctx = tableJob.r.cmd.ctx) ∧
    (jobOf .conv (.cvF ext0 .ne 5 6) [] [rowT 3 64 2 7, rowT 5 64 2 9]).r.cmd.op = .cvF ext0 .ne 5 6 ∧ isBfx 5 = true ∧
    isBfx 3 = false ∧ maccFmt .i32 = 4 := by
  unfold State.quiet State.sound
  decide +kernel

theorem witness_Interpolation : (unpack fp32 ((⟨true, 3, [0xBF800000, 0x3F800000]⟩ : Interp).word 0)).Is true 1 ∧
    (unpack fp32 ((⟨true, 3, [0xBF800000, 0x3F800000]⟩ : Interp).word 1)).Is false 1 ∧ signed true (1 : ℝ) < signed false 1 ∧
    (Fp.fin false 1 (-1)).Is false (1 / 2) := by
  refine ⟨⟨8388608, -23, by decide +kernel, by norm_num⟩, ⟨8388608, -23, by decide +kernel, by norm_num⟩, by norm_num [signed],
    ⟨1, -1, rfl, by norm_num⟩⟩

def planeJob : Job := jobOf .conv (.cvPlane ext0 5 6) [] [rowT 5 64 2 7 true, rowT 5 64 2 9]

theorem witness_ConversionBlocks : (jobS planeJob).quiet ∧ 1 < (planeJob.tile 0).rows ∧ 1 < (planeJob.tile 0).cols / 32 ∧
    isBfx (planeJob.tile 0).fmt = true ∧ (planeJob.tile 1).fmt = (planeJob.tile 0).fmt ∧
    (planeJob.tile 1).cols = (planeJob.tile 0).cols := by
  unfold State.quiet State.sound
  decide +kernel

/-- 3 / 2 and minus 1, of which the first is the largest of its class. -/
theorem witness_Quantised : (8 : Nat) ∈ [4, 6, 8, 12] ∧ (0 : Nat) < 4 ∧
    (∀ x ∈ [Fp.fin false 3 (-1), .fin true 1 0], ∃ a u, x.Is a u) ∧ (Fp.fin false 3 (-1)).Is false (3 / 2) := by
  refine ⟨by decide, by decide, ?_, ⟨3, -1, rfl, by norm_num⟩⟩
  intro x h
  rcases List.mem_cons.mp h with rfl | h
  · exact ⟨_, _, 3, -1, rfl, rfl⟩
  · obtain rfl := List.mem_singleton.mp h
    exact ⟨_, _, 1, 0, rfl, rfl⟩

theorem witness_BlockProducts : List.Forall₂ (fun (x : Fp) (u : ℝ) => ∃ a w, x.Is a w ∧ u = signed a w) [.fin false 3 (-1)] [3 / 2] ∧
    (Fp.fin true 0 0).Is true 0 ∧ (Fp.fin false 1 1).Is false 2 ∧ (2 : ℝ) ≠ 0 ∧ (∀ b z, ¬(Fp.inf true).Is b z) ∧
    (fpProd (.inf true) (.fin false 1 0)).1 = .inf true := by
  refine ⟨.cons ⟨false, 3 / 2, ⟨3, -1, rfl, by norm_num⟩, by simp [signed]⟩ .nil, ⟨0, 0, rfl, by norm_num⟩, ⟨1, 1, rfl, by norm_num⟩,
    by norm_num, ?_, by decide +kernel⟩
  rintro b z ⟨m, e, h, -⟩
  cases h

def mmaJob : Job := jobOf .matrix (.mma ext0 false 2 1 5 6 7) [] [rowT 3 96 65 7, rowT 5 64 65 9 true, rowT 5 64 96 40 true]

theorem witness_MatrixElements : (jobS mmaJob).quiet ∧ (mmaJob.tile 0).plane = false ∧ (mmaJob.tile 0).fmt = 3 ∧
    matrixOperand (mmaJob.tile 1) 1 = true ∧ matrixOperand (mmaJob.tile 2) 2 = true ∧ 64 * 1 < (mmaJob.tile 0).rows ∧
    64 * 1 < (mmaJob.tile 0).cols := by
  unfold State.quiet State.sound
  decide +kernel

/-- A masked sum whose mask's element (0, 1) is 0. -/
def vecJob : Job := jobOf .vector (.vadd ext0 (.f .f32) .row (some 7) 5 6 8) [] [rowT 3 4 2 7, rowT 3 4 2 9, rowT 3 4 1 11, rowT 1 4 2 13]

theorem witness_VectorElements : (jobS vecJob (bytesOf (tileAddr 0 (13 * 256)) [1])).quiet ∧ 0 < (vecJob.tile 0).rows ∧
    1 < (vecJob.tile 0).cols ∧ (jobS vecJob (bytesOf (tileAddr 0 (13 * 256)) [1])).elemAt 0 (vecJob.tile 3) 0 1 = 0 ∧
    (jobS vecJob (bytesOf (tileAddr 0 (13 * 256)) [1])).elemAt 0 (vecJob.tile 3) 0 0 = 1 ∧ vecJob.r.cmd.tiles.length = 4 := by
  unfold State.quiet State.sound
  decide +kernel

theorem witness_Reductions : ([1, 2] : List Nat) ≠ [] := by decide

def fillTile : Tile := tile_ .filling 3 4 4
def fillCmd (g : Nat × Nat) : Cmd := cmdOf (.fill ext0 7 5) g [0x1122334455667788] [(5, fillTile)] [5]
def engS (g : Nat × Nat) (sem : BitVec 16) : State := { s5 with cur := 0, cells := [(0, { Cell.reset with
  sem := Cell.reset.sem.set! 2 sem, eng := Cell.reset.eng.set 0 ⟨[fillCmd g], none⟩ })] }

theorem witness_EngineSteps_start : ((engS (3, 2) 5).cell (0 / 5)).engine (engOf (0 % 5)) = ⟨[fillCmd (3, 2)], none⟩ ∧
    ((engS (3, 2) 5).cell 0).gateHolds (fillCmd (3, 2)).gate = true ∧
    ((engS (3, 2) 2).cell 0).engine (engOf 0) = ⟨[fillCmd (3, 2)], none⟩ ∧
    ((engS (3, 2) 2).cell 0).gateHolds (fillCmd (3, 2)).gate = false := by decide +kernel

def fillRun : Running := { Running.start (fillCmd (0, 0)) with due := 3, at_ := 12, paid := 4 }
def fillS : State := { s5 with cur := 0 * 5, cells := [(0, { Cell.reset with
  tiles := Cell.reset.tiles.set! 5 fillTile, eng := Cell.reset.eng.set 0 ⟨[], some fillRun⟩ })] }

theorem witness_EngineSteps_fill : fillS.sound ∧ fillS.fix.want = 0 ∧ fillS.fix.copies = [] ∧
    ((fillS.cell 0).engine .copy).cur = some fillRun ∧ fillRun.cmd.op = .fill ext0 7 5 ∧ fillRun.cmd.tiles = [(5, fillTile)] ∧
    fillRun.cmd.vals = [0x1122334455667788] ∧ fillRun.cmd.dsts = [5] ∧ fillRun.cmd.srcs = [] ∧ fillRun.cmd.txn = none ∧
    fillRun.cmd.done = .none ∧ fillRun.wait = none ∧ fillRun.missing = [] ∧ fillRun.fault = none ∧ byElement fillTile = true ∧
    fillRun.acks = 0 ∧ fillRun.paid ≠ 0 ∧ fillRun.at_ + fillRun.paid = fillTile.rows * fillTile.cols ∧ fillS.part.secureCells = [] := by
  unfold State.sound
  decide +kernel

def subl (sc : Bool) (data : List (List Byte)) : Sublist := ⟨0, 2, sc, [(0, addrsFrom 0x1000 4)], data, 0⟩
def sublS : State := { s5 with mem := bytesOf 0x1000 [0x1122334455667788], cells := [(0, { Cell.reset with
  eng := Cell.reset.eng.set 0 ⟨[], some { fillRun with missing := [1, 2] }⟩ })] }

theorem witness_EngineSteps_sublist : (∀ e ∈ (subl false []).rows, ∀ b ∈ e.2, placeOf b ≠ .hole) ∧ sublS.sound ∧ sublS.soft = [] ∧
    sublS.poison = [] ∧ sublS.fix.want = 0 ∧ sublS.fix.copies = [] ∧ (subl true [[1, 2, 3, 4]]).rows = [(0, addrsFrom 0x1000 ([1, 2, 3, 4] : List Byte).length)] ∧
    ((sublS.cell (subl true []).requester).engine .copy).cur = some { fillRun with missing := [1, 2] } := by
  unfold State.sound
  decide +kernel

def halo_ (rows : List (Nat × List Byte)) : HaloMsg := ⟨3, 0, 5, 5, 3, 1, fillTile.dword 0, rows, true, true, true, 0⟩
def haloS : State := { s5 with cells := [(0, { Cell.reset with tiles := Cell.reset.tiles.set! 5 fillTile }),
  (3, { Cell.reset with eng := Cell.reset.eng.set 0 ⟨[], some { fillRun with missing := [0, 2] }⟩ })] }

theorem witness_EngineSteps_halo : haloS.sound ∧ haloS.fix.want = 0 ∧ haloS.fix.copies = [] ∧
    haloS.cutFirst 0 (halo_ []).fixCount = false ∧ (haloS.slot (0 * 48 + 5 % 48)).runs 3 = true ∧
    ((haloS.cell 0).tile (halo_ []).tile.toNat).v = true ∧
    shapeOf (((haloS.cell 0).tile (halo_ []).tile.toNat).dword 0) = shapeOf (halo_ []).dw0 ∧
    ((haloS.cell 3).engine .copy).cur = some { fillRun with missing := [0, 2] } := by
  unfold State.sound
  decide +kernel

/-- A border for a slot that runs nothing, and the last of one that did not land. -/
theorem witness_EngineSteps_halo_dropped : { halo_ [(0, [1])] with slot := 6 }.rows ≠ [] ∧ (haloS.slot (0 * 48 + 6 % 48)).runs 3 = false ∧
    haloS.cutFirst 0 (halo_ [(0, [1])]).fixCount = false ∧ (halo_ []).landed = true ∧ { halo_ [] with last := false }.last = false := by
  decide +kernel

/-! Fetch, translations and faults -/

def fetchReq (sel : Option Nat := none) : FetchReq := ⟨5, 3, 0xFF80000000000100 / 64, 4, 1, sel⟩
def fetchS : State := { s5 with cur := 0, mem := bytesOf (near 5 0x100 64) [1, 2, 3]
                                clusters := [(0, { Cluster.reset with freqs := [fetchReq] })] }
def hungry : Slot := { going with run := .wait wFetch }
def hungryS : State := { at_ 5 { hungry with pc := 0xFF80000000000104 } with cur := 6, clusters := [(0, { Cluster.reset with freqs := [fetchReq (some 6)] })] }

theorem witness_FetchSteps : (fetchS.cluster 0).freqs = [fetchReq] ∧ fetchReq.sel = none ∧ isNear (64 * fetchReq.block) = true ∧
    nearLocal (cellOf 5) (64 * fetchReq.block) 64 = some (near 5 0x100 64) ∧ fetchS.soft = [] ∧ fetchS.poison = [] ∧
    fetchS.fix.copies = [] ∧ clusterOf (cellOf 5) = 0 ∧ (hungryS.cluster 0).freqs.contains (fetchReq (some 6)) = true ∧
    (fetchReq (some 6)).servedBy 3 (0xFF80000000000100 / 64) (some 0) hungryS.cur = true ∧ (fetchReq (some 6)).slot = 5 ∧
    (fetchReq (some 6)).gen = (hungryS.slot 5).gen.toNat ∧
    (hungryS.slot 5).wantsBlock 3 (0xFF80000000000100 / 64) = true := by decide +kernel

/-- Page tables for one page, and a slot that asks for it. -/
def tables (pg : Nat) (dw0 : Word) : List Host.Cell :=
  ((List.range 4).flatMap fun l => bytesOf (0x100000 + l * 0x10000 + 16 * walkIndex l pg)
    [BitVec.ofNat 64 (0x100000 + (l + 1) * 0x10000 + 0x301), 0]) ++ bytesOf (0x140000 + 16 * walkIndex 4 pg) [dw0, 0]
def leaf7 (dw0 : Word) : Leaf := ⟨3, 7 * 65536, dw0, 0, 0x140000 + 16 * walkIndex 4 7⟩
def asked (faulted : Bool) : FaultWait := ⟨3, 7, 0, false, 0x70000, faulted, false⟩
def asks (faulted : Bool) : Slot :=
  { going with run := .wait wMem, pend := .retry, faultWait := some (asked faulted), latch := [1] }
def waiter : Waiter := ⟨.slot 5 1, 0, false, 0⟩
def walkReq : WalkReq := ⟨3, 7, [waiter]⟩
/-- A valid leaf, readable, writable and executable by users, at frame 0x5000000. -/
def dwp : Word := 0x500001F
/-- The oldest of three requests, at a core whose instruction TLB holds its page. -/
def fetchMany : State := { fetchS with
  cores := [(0, { Core.reset with itlb := [leaf7 dwp] })]
  clusters := [(0, { Cluster.reset with freqs := [{ fetchReq with at_ := 7 }, ⟨21, 3, 0x70000 / 64, 4, 1, none⟩, ⟨5, 3, 0x70000 / 64, 4, 1, none⟩] })] }

theorem witness_FetchSteps_many :
    let q : FetchReq := ⟨5, 3, 0x70000 / 64, 4, 1, none⟩
    q ∈ (fetchMany.cluster fetchMany.cur).freqs ∧ isNear (64 * q.block) = false ∧
    (∀ r ∈ (fetchMany.cluster fetchMany.cur).freqs, r.sel = none → r ≠ q → q.at_ < r.at_ ∨ (q.at_ = r.at_ ∧ coreOf q.slot < coreOf r.slot)) ∧
    ((fetchMany.core (coreOf q.slot)).itlb.find? fun l => leafCovers l q.ctx (pageOf (64 * q.block))).isSome = true := by
  decide +kernel

def walkS (dw0 : Word) (stlb : List Leaf := []) (faulted : Bool := false) : State := { at_ 5 (asks faulted) with
  mem := tables 7 dw0, ctxs := [(3, { Context.reset with trapVec := 0x2000, root := 0x100000 })]
  clusters := [(0, { Cluster.reset with walks := [walkReq], stlb := stlb })] }
/-- The same without the walk. -/
def walkS1 (dw0 : Word) : State := (walkS dw0).modCluster 0 fun c => { c with walks := [] }

theorem witness_TranslationSteps_walk : ((walkS dwp).cluster 0).walks = [walkReq] ∧ ((walkS dwp).cluster 0).walkQueue = [] ∧
    sameWalk walkReq walkReq = true ∧ walkReq.agents = [waiter] ∧ waiter.who = .slot 5 1 ∧ (walkS dwp).asking 5 1 (asked false) ∧
    (asked false).ctx = walkReq.ctx ∧ (asked false).page = walkReq.page ∧
    ((walkS1 dwp).walk 3 7).1 = .leaf (leaf7 dwp) ∧ ((walkS1 0).walk 3 7).1 = .fault 4 false ∧
    ((walkS 0).cluster 0).faults = [] := by
  unfold State.asking
  decide +kernel

theorem witness_TranslationSteps_hit : (walkS dwp [leaf7 dwp]).asking 5 1 (asked false) ∧ (asked false).ctx = (leaf7 dwp).ctx ∧
    leafCovers (leaf7 dwp) 3 (asked false).page = true ∧
    leaf7 dwp ∈ ((walkS dwp [leaf7 dwp]).cluster (clusterOf (cellOfCore 0))).stlb ∧
    leaf7 dwp ∉ ((walkS dwp).cluster (clusterOf (cellOfCore 0))).stlb := by
  unfold State.asking
  decide +kernel

theorem witness_TranslationSteps_fix :
    let s1 := (walkS dwp [leaf7 dwp]).l2Fetch 0 ((leaf7 dwp).entryAt / 64)
    s1.homePoison (addrsFrom (leaf7 dwp).entryAt 16) = none ∧ natW (s1.physNat (leaf7 dwp).entryAt 8) = dwp ∧
    natW (s1.physNat ((leaf7 dwp).entryAt + 8) 8) = 0 ∧ bitOf dwp 0 = true ∧ s1.malformedLeaf (leaf7 dwp) = false ∧
    fixNeeded true (leaf7 dwp) = true ∧ (walkS dwp [leaf7 dwp]).fix.no = 0 ∧ (walkS dwp [leaf7 dwp]).fix.copies = [] ∧
    (walkS dwp [leaf7 dwp]).soft = [] ∧ s1.fix.active = false ∧ s1.fix.want = 0 ∧ placeOf (leaf7 dwp).entryAt = .hbm ∧ (leaf7 dwp).entryAt % 16 = 0 ∧
    (let s0 := (walkS 0 [leaf7 dwp]).l2Fetch 0 ((leaf7 dwp).entryAt / 64)
     s0.homePoison (addrsFrom (leaf7 dwp).entryAt 16) = none ∧
      bitOf (natW (s0.physNat (leaf7 dwp).entryAt 8)) 0 = false) := by decide +kernel

def pageFault : PageFault := ⟨3, 7, 0, 4, false⟩
def faultEntry : FaultEntry := ⟨pageFault, [waiter]⟩
def routerS (r : Nat) : State := { s5 with dies := [(1, { Die.reset with routers := [(r, ⟨[⟨3, 7, [2]⟩], []⟩)] })] }
def faultS : State := { at_ 5 (asks true) with clusters := [(0, { Cluster.reset with faults := [faultEntry], stlb := [leaf7 dwp] })] }

theorem witness_FaultTree : (s5.router 0 3).pending = [] ∧ (s5.router 0 plumeRoot).pending = [] ∧
    ((routerS 3).router 1 3).pending = [⟨3, 7, [2]⟩] ∧ ((routerS 3).router 1 3).held = [] ∧
    ((routerS plumeRoot).router 1 plumeRoot).pending = [⟨3, 7, [2]⟩] ∧ (faultS.cluster 0).faults = [faultEntry] ∧
    faultS.asking 5 1 (asked true) ∧ (asked true).faulted = true ∧ clusterOf (cellOf 5) = 0 ∧ waiter.who = .slot 5 1 ∧ faultS.saved = [] ∧ (faultS.ctx 3).out = false ∧
    (faultS.slot 5).inRole = false ∧ (s5.router 1 plumeRoot).pending.any (fun p => p.ctx == 3 && p.page == 7) = false := by
  unfold State.asking
  decide +kernel

/-! Contexts -/

def opS (o : CtxOp) (sl : Slot := going) : State :=
  { at_ 5 sl with ctxOps := [o], ctxs := [(3, { Context.reset with trapVec := 0x2000, out := true })] }
def saving : CtxOp := ⟨3, 3, 0x100000, 0, [7]⟩
def savedSlot : Saved := ⟨5, 0x100000, 1, 0, { going with run := .run }⟩
def restoring : CtxOp := ⟨4, 3, 0x100000, 0, [5]⟩
def restoreS : State := { opS restoring Slot.reset with saved := [savedSlot], mem := bytesOf (savedSlot.at_ + 0x158) [1] }

theorem witness_ContextSteps : (opS saving).swoutOf (opS saving).me.ctx = some saving ∧
    (opS saving).saveState (opS saving).cur = some (1, 0) ∧
    restoreS.saved.find? (fun y => y.isOf restoreS.cur restoring.ctx) = some savedSlot ∧
    restoreS.ctxOps.find? (fun p => p.kind == 4 && p.left.contains restoreS.cur) = some restoring ∧ restoreS.me.run = .free ∧
    leNat ((((restoreS.physRead 0 0 (addrsFrom ({ savedSlot with area := 0x100000 } : Saved).at_ 1024)).1).drop 0x158).take 8) % 8 = 1 ∧
    savedSlot.slot.pend = .none ∧
    (opS ⟨5, 3, 0, 0, []⟩).ctxOps.find? (fun p => p.kind == 5 && p.die == 0) = some ⟨5, 3, 0, 0, []⟩ ∧
    (opS restoring).ctxOps.find? (fun p => p.die == 0 && (p.kind == 3 || p.kind == 4)) = some restoring := by
  decide +kernel

/-! Registers, turns and housekeeping -/

theorem witness_TurnSteps_align :
    let s := { at_ 5 going with slots := [(5, going), (16, { going with pc := 0xFE0 })] }
    (0x40 : BitVec 14) ≠ 0 ∧ slotOf s.cur ≠ 15 ∧ s.anyTrails s.cur (s.me.pc.toNat - 0x40) s.me.pc.toNat = true ∧
    s5.anyTrails 5 (0x1000 - 0x40) 0x1000 = false ∧
    (at_ 5 { going with pend := .hold 5 6 7, run := .wait wFetch }).me.pend = .hold 5 6 7 := by decide +kernel

def idle (r : Run) (skip : Nat := 0) : State := at_ 5 { going with run := r, skip := skip }

theorem witness_TurnSteps_idle : (idle .free).me.run = .free ∧ (idle (.wait wTile)).me.run = .wait wTile ∧
    (idle (.wait wSem)).me.run = .wait wSem ∧ (idle (.wait wMem)).me.run = .wait wMem ∧
    (idle (.wait wExec)).me.run = .wait wExec ∧ (idle (.wait wFault)).me.run = .wait wFault ∧
    (idle (.wait wFetch)).me.run = .wait wFetch ∧ (idle .run 3).me.run = .run ∧ (idle .run 3).me.skip ≠ 0 ∧
    (idle .run 3).powerHeld 5 = false := by decide

def boundary : State := { s5 with slots := [(5, { going with ending := true }), (6, going)] }

theorem witness_TurnSteps_boundary : boundary.ctxOps = [] ∧ boundary.fix.active = false ∧
    (∀ e ∈ boundary.slots, boundary.slot e.1 = e.2) ∧ (∀ e ∈ boundary.slots, e.2.fork = none) ∧
    (boundary.slot 5).ending = true ∧ (boundary.slot 6).ending = false := by decide +kernel

theorem witness_Housekeeping : s5.soft.contains (scrubWord s5.part.scrubAt) = false ∧
    ({ s5 with soft := [scrubWord 0] } : State).soft.contains (scrubWord s5.part.scrubAt) = true := by decide

/-! The host port, the links, fixes and start-up -/

def dgram (op seq : Nat) (arg : Word) (len : Nat := 0) (pl : List Byte := []) (ack : Nat := 0) : Datagram := ⟨1, op, seq, ack, arg, len, pl, 0⟩
def hostS (stage : Nat := 4) (m : List Host.Cell := []) : State := { s5 with
  part := { s5.part with stage := stage }, mem := m, link := { Link.reset with seqIn := 8, seqOut := 3 } }
/-- A job record (R312, R313), and an entry of a group table. -/
def job : List Host.Cell := bytesOf 0x2000 [0x4000, 5, 3 * 2 ^ 48 + 4 * 2 ^ 30 + 2 * 2 ^ 18, 0x3000, 0, 0, 0, 0] ++ bytesOf 0x3000 [0x8000000000000005, 7]

theorem witness_HostPort : (hostS).mayTake (dgram 1 9 0x1000 24) ∧ (hostS).l2 = [] ∧ (hostS).unitKey = [] ∧ (hostS).soft = [] ∧
    holdsMemory 0x1000 24 = true ∧ holdsMemory 0x6000000000 24 = false ∧ (hostS).sound ∧ (hostS).fix.want = 0 ∧
    holdsMemory 0x1001 3 = true ∧ holdsMemory 0x6000000000 3 = false ∧ (hostS 4 job).mayTake (dgram 3 9 0x2000) ∧
    holdsMemory 0x2000 64 = true ∧ (hostS 4 job).badStart 0x2000 = none ∧ (hostS 4 job).recordWord 0x2000 4 = 0 ∧
    (hostS 4 job).recordWord 0x2000 3 ≠ 0 ∧ ((hostS 4 job).badStart 0x2004).isSome = true ∧ (hostS).fix.active = false ∧
    (hostS).link.pod.k = 0 := by
  unfold State.mayTake State.hears State.sound
  decide +kernel

theorem witness_HostPort_ops : (hostS).mayTake (dgram 17 9 4) ∧ (hostS).mayTake (dgram 16 9 4) ∧ (hostS).mayTake (dgram 31 9 4) ∧
    (hostS).mayTake (dgram 2 9 0x1001 3 [1, 2, 3]) ∧ (hostS).mayTake (dgram 4 9 0) ∧ (hostS).mayTake (dgram 6 9 0) := by
  unfold State.mayTake State.hears
  decide +kernel

def oldFix : PartImage := ⟨4, 512, [], [(3, ⟨true, 1, 2, 3⟩)], []⟩
/-- A slot that waits for a word, as a cut captures it. -/
def awaits : Slot := { going with run := .wait wMem, pend := .word 6 }
/-- The image of fix 4 as cuts leave it, with one slot in each cell, which is at work or waits for a reply that is in the log. -/
def wholeFix : PartImage := { oldFix with cells := (List.range 1024).map fun c =>
  { cell := c, slots := [if c % 2 = 0 then (c * 48, 1, going) else (c * 48, 3, awaits)],
    cores := [(c * 3, { Core.reset with fifo := [m1] }), (c * 3 + 1, Core.reset), (c * 3 + 2, Core.reset)]
    tiles := Cell.reset.tiles, sem := Cell.reset.sem, dc := [], interp := Cell.reset.interp, log := [.reply (c * 48) .done] } }
def wholeS : State := { hostS with fix := { Fix.reset with images := [wholeFix], no := 6, want := 6, copies := [(7, 5, 0x500000), (8, 3, 0x510000)] }
                                   part := { (hostS).part with fixlast := 4 } }

theorem witness_RollbackRestores : wholeFix.whole ∧ wholeS.fix.images.find? (fun i => i.no = 4) = some wholeFix ∧
    wholeS.fix.apart ∧ wholeS.sound ∧ wholeS.l2 = [] ∧ wholeS.part.fixlast.toNat = 4 ∧ wholeS.mayTake (dgram 5 9 4) := by
  refine ⟨⟨?_, ?_⟩, by simp [wholeS, wholeFix, oldFix], by unfold Fix.apart; decide +kernel, by unfold State.sound; decide +kernel, rfl, by decide, ?_⟩
  · simp [wholeFix, Function.comp_def]
  · simp only [wholeFix, List.mem_map, List.mem_range]
    rintro i ⟨c, hc, rfl⟩
    by_cases h : c % 2 = 0 <;> simp [h]
  · unfold State.mayTake State.hears
    decide +kernel

theorem witness_RollbackRestores_slots : going.fork = none ∧ awaits.fork = none ∧ slotOf (1 * 48) < 15 ∧
    (∀ bs, (going.ofRecord bs).pend = .none) ∧ ∀ bs, (awaits.ofRecord bs).pend = .word 6 :=
  ⟨rfl, rfl, by decide, fun _ => rfl, fun _ => rfl⟩

def rollS : State := { hostS with fix := { Fix.reset with images := [oldFix], no := 6, want := 6 }
                                  part := { (hostS).part with fixlast := 4 } }

theorem witness_HostPort_rollback : rollS.mayTake (dgram 5 9 4) ∧ rollS.fix.images = [oldFix] ∧ oldFix.no = 4 ∧
    rollS.part.fixlast.toNat = 4 ∧ oldFix.cells = [] ∧ oldFix.subs = [] ∧ rollS.fix.copies = [] ∧ rollS.fix.active = false ∧
    ∀ q ∈ rollS.fix.images, q.no ≠ 5 := by
  unfold State.mayTake State.hears
  decide +kernel

def window3 : State := { hostS with link := { (hostS).link with window := [(dgram 1 1 0, 5), (dgram 1 2 0, 6), (dgram 1 3 0, 7)] } }

theorem witness_HostWindow : window3.hears (dgram 7 9 0 0 [] 2) ∧ (dgram 7 9 0 0 [] 2).op = 7 ∧
    window3.link.window = [(dgram 1 1 0, 5)] ++ (dgram 1 2 0, 6) :: [(dgram 1 3 0, 7)] ∧
    (dgram 1 2 0).seq = (dgram 7 9 0 0 [] 2).ack ∧ (∀ e ∈ [(dgram 1 1 0, 5)], e.1.seq ≠ 2) ∧ (6 : Nat) ≠ 0 ∧
    ¬(hostS).hears { dgram 1 9 0 with ver := 2 } ∧ ¬(hostS 0).hears (dgram 1 9 0) ∧
    (hostS).hears (dgram 1 10 0) ∧ (dgram 1 10 0).seq ≠ ((hostS).link.seqIn + 1) % 2 ^ 32 ∧
    (hostS 2).hears (dgram 1 9 0) ∧ (hostS 2).part.stage < 4 ∧ (dgram 1 9 0).op < 16 ∧
    (dgram 1 9 0).seq = ((hostS 2).link.seqIn + 1) % 2 ^ 32 := by
  unfold State.hears
  decide

def flitS (next : Nat) : State := { s5 with link := { Link.reset with
  azNext := [(2, next)], pod := { PodRec.reset with n := 2, incarns := [(1, 6)] } } }
def silentS (cyc : Nat) (dead : List Nat := []) : State := { flitS 4 with
  cur := 1, sched := { Sched.reset with cycle := cyc }, link := { (flitS 4).link with heard := [(1, 3)], dead := dead } }
def probeS : State := { s5 with cur := 1, cells := [(260, { Cell.reset with silent := true, misses := 3 })] }

theorem witness_LinksAndDeaths : (flitS 4).link.azNext.get 0 2 = 4 ∧ podIncarn (flitS 4).link.pod 1 = 6 ∧ (flitS 4).cutFirst (replyCell 5) 0 = false ∧ (flitS 5).link.azNext.get 0 2 ≠ 4 ∧
    (7 : Nat) ≠ podIncarn (flitS 4).link.pod 1 ∧ azCell (.reply 5 .done 0 (some 3)) = some 3 ∧ azCell .heartbeat = none ∧
    (1 * 2 ^ 16 + 6) % 2 ^ 16 = podIncarn (flitS 4).link.pod 1 ∧ (1 * 2 ^ 16 + 6) / 2 ^ 16 ≠ podCellIncarn (flitS 4).link.pod 1 3 ∧
    (6 : Nat) / 2 ^ 16 = podCellIncarn (flitS 4).link.pod 1 3 ∧ (flitS 4).replyHeld (3072 * 16) = false ∧ (probeS.cell 260).silent = true ∧ (probeS.cell 260).misses = 3 ∧
    (probeS.cell 260).dead = false ∧ (silentS 5 [1]).link.dead.contains 1 = true ∧ (silentS 5).cycle < (silentS 5).silentAt 1 ∧
    (silentS (2 ^ 20 + 3)).link.dead.contains 1 = false ∧ (silentS (2 ^ 20 + 3)).silentAt 1 ≤ (silentS (2 ^ 20 + 3)).cycle ∧
    (silentS (2 ^ 20 + 3)).cycle < (silentS (2 ^ 20 + 3)).silentAt 1 + (silentS (2 ^ 20 + 3)).link.pod.heartbeat ∧
    (silentS (2 ^ 22 + 7)).silentAt 1 + (silentS (2 ^ 22 + 7)).link.pod.heartbeat ≤ (silentS (2 ^ 22 + 7)).cycle ∧
    (silentS (2 ^ 22 + 7)).link.heard.get 0 1 < (silentS (2 ^ 22 + 7)).silentAt 1 := by decide +kernel

def fixS (f : Fix) (k : Nat := 0) (n : Nat := 1) : State :=
  { s5 with fix := f, link := { Link.reset with pod := { PodRec.reset with k := k, n := n } } }
def fixing (phase : Nat) : Fix := { Fix.reset with want := 2, active := true, phase := phase }
/-- A pool of a fix area with free frames (R353). -/
def pool : List Host.Cell := bytesOf (State.reset.fixArea + 24) [0x10, 0x200000, 4, 0, 5] ++ bytesOf 0x200000 [0x500000]

theorem witness_FixStarts : s5.me.guardHolds .always = true ∧ s5.me.plain 6 = true ∧ s5.me.inRole = false ∧
    (sup (fixS Fix.reset)).privOf 5 = true ∧ ((fixS Fix.reset).cell 0).cutBegun = false ∧ (fixS Fix.reset).fix.active = false ∧
    (fixS Fix.reset).link.pod.k = 0 ∧ (fixS (fixing 0)).fixOpen = true ∧ s5.privOf 5 = false ∧ bitOf s5.part.fixctl 0 = false ∧
    s5.vectored = true ∧ (fixS (fixing 0)).fix.active = true ∧ (fixS (fixing 0)).fix.phase = 0 ∧ (fixS (fixing 0)).fix.want = 2 ∧
    (fixS { Fix.reset with want := 2 } 1 2).link.pod.k ≠ 0 ∧ (fixS { Fix.reset with want := 2 } 1 2).fix.want < 3 ∧
    (fixS { fixing 2 with reports := [(0, 5), (1, 7)] } 0 2).fix.reports.length = 2 ∧ (fixS (fixing 2)).fix.phase = 2 ∧
    ({ fixS { fixing 3 with next := 256 } with mem := pool, seq := { Sequencer.reset with batch := 1 } } : State).fixGoDue = true ∧
    ((fixS { fixing 6 with no := 2 }).cell 3).fixNo < 2 := by decide +kernel

def waitsFix : Slot := { going with run := .wait wMem, pend := .fix 6 2, counted := true, ilen := 4 }
def cutS (cuts : List Nat) : State := { fixS { fixing 6 with no := 2, cuts := cuts } with
  cur := 0, cells := [(0, { Cell.reset with cutBegun := true, fixNo := 1, markers := [1, 2] })], mem := pool, slots := [(5, waitsFix)] }
def copyS (copies : List (Nat × Nat × Nat)) : State := { fixS { fixing 6 with no := 2, copies := copies } with cur := 7, mem := pool }

theorem witness_FixCuts : (cutS []).cutReady 0 = true ∧ (cutS []).poolEmpty = false ∧ (cutS []).fix.cuts.length < 1023 ∧
    ((cutS []).slot 5).pend = .fix 6 2 ∧ 2 ≤ (cutS []).fix.no ∧ ((cutS []).slot 5).plain 6 = true ∧ 5 / 48 = (cutS []).cur ∧
    ((cutS []).cell 0).markers.contains 3 = false ∧ (0 : Nat) < 1024 ∧ 1024 ≤ 1024 ∧ (copyS []).needsCopy 2 7 = true ∧ (copyS []).poolEmpty = false ∧
    (copyS [(7, 2, 0x50000)]).needsCopy 2 7 = false := by decide +kernel

theorem witness_UnitCopied : (copyS []).sound ∧ (copyS []).l2 = [] ∧ (copyS []).copiesPast 2 7 = [] ∧ (copyS []).fixArea + 48 = 48 ∧
    localAddr ((copyS []).fixDword 32) + (copyS []).fixDword 48 % 2 ^ ((copyS []).fixDword 40 % 64) * 16 = 0x200000 ∧
    localAddr ((copyS []).fixDword 0x200000) / 65536 * 65536 = 0x500000 ∧ unitOf 48 ≠ 7 ∧ unitOf 0x200000 ≠ 7 ∧ unitOf 0x500000 ≠ 7 ∧
    unitOf 0x500000 ≠ unitOf 48 ∧ unitOf 0x500000 ≠ unitOf 0x200000 ∧ (copyS []).fix.no ≤ (copyS []).fix.want ∧
    (∀ e ∈ [((0x70008 : Nat), (9 : Byte))], unitOf e.1 = 7) := by
  unfold State.sound
  decide +kernel

theorem witness_FixCuts_last : (cutS ((List.range 1023).map (· + 1))).cutReady 0 = true ∧
    (cutS ((List.range 1023).map (· + 1))).fix.cuts.length = 1023 := by decide +kernel

def doneS : State := { fixS { fixing 8 with told := true, no := 2, cuts := List.range 1024, images := [⟨2, 512, [], [], []⟩] } with mem := pool }
def lateS : State := { fixS { fixing 6 with no := 2, cuts := List.range 1020 } with mem := pool, sched := { Sched.reset with cycle := 2 ^ 24 } }

theorem witness_FixCuts_end : doneS.partComplete = true ∧ doneS.fix.queued = false ∧ lateS.fixFails = true ∧
    lateS.manifestOver = false ∧ lateS.fix.cuts.contains 1022 = false := by decide +kernel

def stageS (n : Nat) : State := { s5 with part := { Part.reset with stage := n } }

theorem witness_StartAndPower : (stageS 0).part.stage = 0 ∧ (stageS 1).part.stage = 1 ∧ (stageS 1).part.bootFail = false ∧
    (stageS 2).part.stage = 2 ∧ (stageS 3).part.stage = 3 ∧ { (stageS 2).part with bootFail := true }.bootFail = true ∧ anyDie (115 * 16) false 115 = true ∧ anyDie (115 * 16 - 1) false 115 = false ∧
    s5.part.pwrLimit < (2401 : W32).toNat ∧ ¬ s5.part.pwrLimit < (2400 : W32).toNat ∧
    anyDie (100 * 16) true s5.part.thermLimit = false ∧ anyDie (100 * 16 + 1) true s5.part.thermLimit = true := by decide +kernel

/-! Steps -/

/-- A core's turn at which slot 0 has words in its buffer. -/
def turnS (n : Nat) (ws : List W32) (pc : Word) : State := { s5 with
  slots := [(turnCore n * 16, { going with pc := pc, fblock := some (pc.toNat / 64)
                                           fdata := Vector.ofFn fun i => ws.getD (i.val - pc.toNat % 64 / 4) 0 })]
  part := { Part.reset with stage := 4 }, sched := { Sched.reset with phase := .turns n } }

theorem witness_StepRunsDecoded :
    let s := turnS 2 [0x001CC500] 0x1000
    let t : State := { s with sched := { s.sched with phase := .turns 3 }, cur := turnCore 2 * 16 }
    s.sched.now = [] ∧ s.sched.phase = .turns 2 ∧ s.part.stage = 4 ∧ s.cycle % 16 ≠ 15 ∧ t.turnHeld = false ∧
    t.overBudget 96 = false ∧ turnCore 2 = 6 ∧ (s.slot 96).pc.toNat % 4 = 0 ∧ (s.slot 96).missingAt = none ∧
    (s.slot 96).fetched.1 = [(0x001CC500, false)] := by decide +kernel

theorem witness_DecodeEncode : (Instr.add .always .d64 (.field 7) 6 5).wf = true ∧
    encode (.add .always .d64 (.field 7) 6 5) ≠ [] := by decide

theorem witness_WordsMeanOne : reads [([0x001CC500, 7], .add .always .d64 (.field 7) 6 5)] = true := by decide

theorem witness_MemoryStaysCanonical : s5.sound ∧ (match step s5 with | .next _ => true | _ => false) = true := by
  unfold State.sound
  decide +kernel

theorem witness_HardWiredRegisters : (5 : Reg) ≠ 0 ∧ (3 : PredIx) ≠ 0 ∧ (6 : Reg) ≠ 5 := by decide

theorem witness_RegisterSteps : ({ s5 with part := { s5.part with keyWord := 7 } } : State).part.keyWord % 8 = 7 := by decide

/-! Transactions with tiles -/

/-- A tile of 2 rows of 4 elements of FP32 for t33, in page 7. -/
def desc7 : TileDesc := ⟨0x70000, BitVec.ofNat 64 (2 + 4 * 2 ^ 12 + 3 * 2 ^ 24 + 1 * 2 ^ 30)⟩
def bind7 : TileBind := ⟨desc7, [leaf7 dwp], none⟩
def sub7 : Submission := { sub0 with record := { rec0 with reads := [desc7] }, reads := [bind7] }
def reading : Txn := { txn0 with sub := sub7, granted := tileArea 0 desc7 }

/-- An accepted follow, between two submissions. -/
def batchOf (det : Word) : Sequencer := { Sequencer.reset with sqctl := det, txns := [{ txn0 with stage := .accepted },
  { txn0 with stage := .accepted, sub := { sub0 with parent := some 5 } }, { txn0 with stage := .accepted, sub := sub7 }] }

theorem witness_BatchOrder : ((batchOf 1).txns.all fun y => decide (placeLow y.sub.slot < 2 ^ 16)) = true ∧
    sqDet (batchOf 1).sqctl = true ∧ sqDet (batchOf 0).sqctl = false := by decide +kernel

theorem witness_BatchNumbers : ({ s5 with seq := batchOf 0 } : State).fixCloses = false ∧ (batchOf 0).batchOrder.length = 3 ∧
    (locksOf 0 0 sub7).length = 3 ∧ ((locksOf 0 0 sub7).all fun e => e.1 / 4096 = 0) = true := by decide +kernel

theorem witness_FixBatchEmpty :
    let s : State := { fixS { fixing 3 with next := 512 } with seq := { Sequencer.reset with batch := 1 } }
    s.fixCloses = true ∧ s.seq.closeAsked = false := by decide +kernel

theorem witness_PushedData : (txnS reading).txn 0 = some reading ∧ reading.stage = .numbered ∧ reading.cell = 0 ∧
    reading.sub.reads = [bind7] ∧ reading.writeOnly = [] ∧ reading.pushes = [] ∧ (txnS reading).sound ∧
    (txnS reading).fix.want = 0 ∧ (txnS reading).fix.copies = [] ∧ (List.replicate 256 (7 : Byte)).length = 256 ∧
    bytesIn 0 bind7 (.mem 0x50000) ≠ [] ∧ ((bytesIn 0 bind7 (.mem 0x50000)).map fun e => e.1).Nodup ∧
    (tileArea 0 desc7).all reading.granted.contains = true ∧ (((txnS reading).cell 0).tile (TileDesc.handle desc7)).v = false := by
  unfold State.sound
  decide +kernel

theorem witness_LastDrain :
    let y : Txn := { reading with stage := .committed, drains := [(.mem 5, 1)], wants := locksOf 0 0 sub7 }
    (txnS y).txn 0 = some y ∧ y.drains = [(.mem 5, 1)] ∧ granPart 0 (.mem 5) = 0 ∧ recHandles y.sub.record = [33] ∧
    (∃ w ∈ y.wants, w.2.gran = .handle 0 33) ∧ y.sub.record.out = 0 := by decide +kernel

/-- A submission whose outcome goes to page 7, and its withdrawal. -/
def outSub : Txn := { txn0 with stage := .accepted, sub := { sub0 with record := { rec0 with out := 0x70010 } } }
def outS : State := { walkS1 dwp with
  slots := [(5, { going with pend := .txwd 6 [] 0, run := .wait wMem })], seq := { s5.seq with txns := [outSub] } }
def outWalked : Walked × State := ({ outS with seq := { outS.seq with txns := [] } } : State).walk 3 7

theorem witness_WithdrawnOutcome : (outS.slot 5).pend = .txwd 6 [] 0 ∧ sqDet outS.seq.sqctl = false ∧ outS.fix.active = false ∧
    outS.fix.want = 0 ∧ outS.fix.copies = [] ∧ outS.seq.txns = [outSub] ∧ outSub.verdict = none ∧
    ((outSub.sub.record.dw7.truncate 32 : W32) ^^^ 0x77) &&& 0xFFFFFFFF = 0 ∧ outSub.sub.record.out ≠ 0 ∧
    canonical outSub.sub.record.out.toNat = true ∧ isNear outSub.sub.record.out.toNat = false ∧
    pageOf outSub.sub.record.out.toNat = 7 ∧ outWalked.1 = .leaf (leaf7 dwp) ∧
    outcomeBar outWalked.2 outSub.sub (leaf7 dwp) = none ∧ lFrame (leaf7 dwp) + (0x70010 - (leaf7 dwp).vbase) = 0x5000010 ∧
    addrPart 0x5000010 = 0 ∧ localAddr 0x5000010 = 0x5000010 ∧ ∀ i : Fin 16, placeOf (0x5000010 + i.val) = .hbm := by decide +kernel

/-! Ordering forms that wait -/

def ordO (acq rel sent : Bool) (wait : List (Nat × BitVec 16) := []) : OrderOp :=
  { acq, rel, all := false, lo := 0x1000, hi := 0x1008, ctx := 3, due := 4, relSent := sent, todo := [], wait }
/-- A slot that waits for an ordering form, with a dirty line. -/
def ordW (o : OrderOp) (x : L1Line) (regq : List RegEntry := []) : State := { at_ 5 { going with run := .wait wMem, pend := .order o } with
  cells := [(0, { Cell.reset with l1 := [(64, x)], regq := regq })], sched := { Sched.reset with cycle := 9 } }

theorem witness_OrderingWaits :
    (∀ o ∈ [ordO false true false, ordO false true true [(64, 1)], ordO true false false], ∀ x ∈ [line 0xF 0x3 0x3, line 0xF 0 0],
      ((ordW o x).slot 5).pend = .order o ∧ ((ordW o x).slot 5).drained = true ∧ o.due ≤ (ordW o x).cycle) ∧
    (let o := ordO false true false
     (ordW o (line 0xF 0x3 0x3)).l1 0 64 = some (line 0xF 0x3 0x3) ∧
      (line 0xF 0x3 0x3).d &&& (line 0xF 0x3 0x3).o &&& ~~~(((ordW o (line 0xF 0x3 0x3)).cell 0).regMask 64) &&&
        regionMask false 0x1000 0x1008 3 (line 0xF 0x3 0x3) = 3 ∧
      ((line 0xF 0 0).d ||| (line 0xF 0 0).copying) &&& regionMask false 0x1000 0x1008 3 (line 0xF 0 0) = 0) ∧
    (let x := { line 0xF 0 0 with copying := 1 }
     (1 : BitVec 16) &&& x.copying ≠ 0 ∧ (1 : BitVec 16) &&& (line 0xF 0 0).copying = 0 ∧
      (line 0xF 0 2).v &&& ~~~(line 0xF 0 2).d &&& (line 0xF 0 2).o &&& regionMask false 0x1000 0x1008 3 (line 0xF 0 2) ≠ 0) := by
  decide +kernel

/-! ### Single steps, with results that the spec states -/

/-- The state after an instruction, or reset where it stops. -/
def after (i : Instr) (s : State) : State := match exec i s with | .next t => t | _ => State.reset
/-- A slot with values in g5, g6 and g7. -/
def regs (d a b : Word) : State := at_ 5 (((going.setG 5 d).setG 6 a).setG 7 b)

/-- R146 and R328: an instruction whose reply has come goes on in that cclk, and a turn does not issue it again. -/
theorem test_goes_on_without_turn :
    let s := turnS 2 [0x001CC500] 0x1000
    let t : State := { s with slots := s.slots.map fun e => (e.1, { e.2 with counted := true }), cur := 96 }
    t.turnHeld = true ∧ t.dueGoOn.sched.now = [(.add .always .d64 (.field 7) 6 5, 96)] ∧ s.dueGoOn.sched.now = [] := by
  decide +kernel

/-- The worked example of R197. -/
theorem test_extr : (after (.extr .always 3 8 6 5) (regs 0 0xA5C3 0)).me.g 5 = 0x5 := by decide +kernel
/-- The worked example of R198: −100 against 100, signed and unsigned. -/
theorem test_cmpi : (after (.cmpi .always .lt (.field 100) 6 3) (regs 0 0xFFFFFFFFFFFFFF9C 0)).me.p 3 = true ∧
    (after (.cmpi .always .ltu (.field 100) 6 3) (regs 0 0xFFFFFFFFFFFFFF9C 0)).me.p 3 = false := by decide +kernel
/-- R49 and R192: a quotient by zero is all ones, and the most negative dividend by -1 is itself. -/
theorem test_div : (after .integerDivideComplete (after (.div .always .d64 (.field 7) 6 5) (regs 0 9 0))).me.g 5 = BitVec.allOnes 64 ∧
    (after .integerDivideComplete (after (.div .always .d64 (.field 7) 6 5)
      (regs 0 0x8000000000000000 0xFFFFFFFFFFFFFFFF))).me.g 5 = 0x8000000000000000 := by decide +kernel
/-- The worked example of `fma.f32` (R203): a tie that nearest even keeps, and NX. -/
theorem test_fma : (after (.fma .always .f32 (.field 7) 6 5) (regs 0xBF800000 0x3F800001 0x3F800001)).me.g 5 = 0x34800000 ∧
    (after (.fma .always .f32 (.field 7) 6 5) (regs 0xBF800000 0x3F800001 0x3F800001)).me.fmode = natW fNX := by decide +kernel
/-- The worked examples of `fmin` and `fmax` (R202). -/
theorem test_fminmax : (after (.fmin .always .f32 (.field 7) 6 5) (regs 0 0 0x80000000)).me.g 5 = 0x80000000 ∧
    (after (.fmax .always .f32 (.field 7) 6 5) (regs 0 0x7F800001 0x3F800000)).me.g 5 = 0x3F800000 ∧
    (after (.fmax .always .f32 (.field 7) 6 5) (regs 0 0x7F800001 0x3F800000)).me.fmode = natW fNV := by decide +kernel
/-- The worked examples of `fcvt` (R205): an out-of-range value, and a tie. -/
theorem test_fcvt : (after (.fcvt .always .i32f32 6 5) (regs 0 0x4F000000 0)).me.g 5 = 0x7FFFFFFF ∧
    (after (.fcvt .always .i32f32 6 5) (regs 0 0xC0200000 0)).me.g 5 = 0xFFFFFFFFFFFFFFFE := by decide +kernel
/-- The worked example of `fdiv.bf16` by zero (R203). -/
theorem test_fdiv : (after .fpDivideComplete (after (.fdiv .always .bf16 (.field 7) 6 5) (regs 0 0x3F80 0))).me.g 5 = 0x7F80 ∧
    (after .fpDivideComplete (after (.fdiv .always .bf16 (.field 7) 6 5) (regs 0 0x3F80 0))).me.fmode = natW fDZ := by
  decide +kernel
/-- The worked example of a subnormal product (R54, R55): exact, four turns; flushed with FTZ. -/
theorem test_fmul_subnormal :
    let t := after (.fmul .always .f32 (.field 7) 6 5) (regs 0 0x00800000 0x3F000000)
    t.me.g 5 = 0x00400000 ∧ t.me.fmode = 0 ∧ t.me.skip = 4 := by decide +kernel

/-- The worked examples of FP32 to BF16 (R53, R56). -/
theorem test_narrow : [(0x3FC08000, 0), (0x3FC18000, 0), (0xBFC1FFFF, 1), (0xBFC10001, 3), (0x7F7FFFFF, 0), (0x7F7FFFFF, 1)].map
    (fun (x : Nat × Nat) => (fpToFp bf16 x.2 false (unpack fp32 x.1)).bits) =
    [0x3FC0, 0x3FC2, 0xBFC1, 0xBFC2, 0x7F80, 0x7F7F] := by decide +kernel

/-- The worked example of quantisation (R59): 6.0, −1.25 and 0.3 in a BFX4 block. -/
theorem test_quantise :
    let b := quantise 4 2 (.rm 0) id ([0x40C00000, 0xBFA00000, 0x3E99999A].map (unpack fp32) ++ List.replicate 29 (unpack fp32 0))
    b.codes.take 4 = [0x7, 0xD, 0x2, 0] ∧ b.e0 = 0x7E ∧ b.e1 = 0x82 := by decide +kernel

/-- The worked example of a block product (R62, R65): 1.0 + 2.125. -/
theorem test_block_product :
    let a := recordData 5 [0x3, 0x5, 0x2, 0x3, 0x827E]
    let b := recordData 5 [0, 0x7, 0, 0, 0x7F7F]
    accStep false false 0x3F800000 (blockSum a b) = 0x40480000 := by decide +kernel

/-- The worked example of table interpolation (R67). -/
theorem test_interpolate :
    let words := [0, 0x41000000, 0, 0] ++ (List.range 256).flatMap fun i =>
      if i = 105 then [0x3F800000, 0x40000000, 0x3F400000] else [0, 0, 0]
    interpolate ⟨true, 3, words⟩ false (unpack fp32 0x40530000) = 0x400C0000 := by decide +kernel

/-- The worked example of a rotation (R140) in a BF16 tile. -/
theorem test_rotate : rotatePair 2 0 false 0x3F19999A 0x3F4CCCCD 0x3F80 0x4000 = (0xBF80, 0x4000) := by decide +kernel

/-- A store and a load of a word in own near memory, and the sign (R216). -/
theorem test_ld_st :
    let s := at_ 5 ((going.setG 6 0xFF80000000000100).setG 7 0x80000001)
    let t := after (.st .always .w .none (.field 1) 6 7) s
    (after (.ld .always .w .none 0 (.field 1) 6 5) t).me.g 5 = 0xFFFFFFFF80000001 ∧
    (after (.ld .always .bu .none 0 (.field 7) 6 5) t).me.g 5 = 0x80 := by decide +kernel
/-- An atomic addition gives the old value (R223). -/
theorem test_aadd :
    let s := at_ 5 ((going.setG 6 0xFF80000000000100).setG 7 5)
    let t := after (.aadd .always .w 7 6 5) s
    t.me.g 5 = 0 ∧ (after (.aadd .always .w 7 6 5) t).me.g 5 = 5 := by decide +kernel
/-- A branch back (R206), and a link (R207). -/
theorem test_branches : (after (.bcc .always .lt (.field 0x7FD) 7 6) (regs 0 1 2)).me.pc = 0x1000 - 12 ∧
    (after (.jal .always (.field 4)) s5).me.pc = 0x1010 ∧ (after (.jal .always (.field 4)) s5).me.g 1 = 0x1004 := by decide +kernel
/-- `trap 5` saves PC, cause and value, and goes to TRAPVEC (R293, R294); `eret` returns. -/
theorem test_trap :
    let t := after (.trap .always 5) s5
    t.me.pc = 0x2000 ∧ t.me.trapPc = 0x1000 ∧ t.me.trapCause = 25 ∧ t.me.trapVal = 5 ∧ t.me.inTrap = true ∧
    (after (.eret .always) t).me.pc = 0x1000 ∧ (after (.eret .always) t).me.inTrap = false := by decide +kernel
/-- A user slot's read of QAGE traps with *privilege* (R287). -/
theorem test_privilege : (after (.mfsr .always 75 5) s5).me.trapCause = natW cPrivilege ∧
    (after (.mfsr .always 75 5) (sup s5)).me.g 5 = 0x10000 := by decide +kernel
/-- Two reads of a stream by one instruction take two elements (R142). -/
theorem test_stream_add : (after (.add .always .d64 (.field 20) 20 5) strm).me.g 5 = 155 := by decide +kernel

/-- The word of an instruction, placed where the next step fetches, runs as the first instruction after reset. -/
theorem test_first_step : (match step (State.reset.withFetchWord 32 0x001CC500) with
    | .next t => decide (t.me.pc.toNat % 4 = 0) && decide (t.me.run = .run)
    | _ => false) = true := by decide +kernel
end Sys2Proof.Tests
end

/-! PROOFS. The state right after reset: what each unit and each byte reads. The tables of `State.reset` list nothing, so
a unit reads its own reset value. -/

namespace Sys2Proof.Machine

/-! ### Units and memory after reset -/

@[simp] theorem State.reset_slot (k : Nat) : State.reset.slot k = Slot.reset := rfl
@[simp] theorem State.reset_core (c : Nat) : State.reset.core c = Core.reset := rfl
@[simp] theorem State.reset_cell (c : Nat) : State.reset.cell c = Cell.reset := rfl
@[simp] theorem State.reset_ctx (x : Nat) : State.reset.ctx x = Context.reset := rfl
@[simp] theorem State.reset_byte (a : Nat) : State.reset.byte a = 0 := rfl

/-- Memory that lists nothing is in canonical form (log 1). -/
theorem State.reset_sound : State.reset.sound := by
  unfold State.sound
  rfl

/-! ### Fields of the units -/

/-- Each handle of a cell names an empty tile after reset: the 64 tiles of the cell by their table, and a handle past them by
the default of `Cell.tile` (R124). -/
@[simp] theorem Cell.reset_tile (h : Nat) : Cell.reset.tile h = Tile.reset := by
  by_cases hh : h < 64
  · simp [Cell.tile, Cell.reset, hh]
  · simp [Cell.tile, hh]

/-- CLOSE, in bits 47:32 of SQCTL, is 4,000 cclk after reset; the other fields are 0 (R104). -/
theorem Sequencer.reset_sqctl_toNat : Sequencer.reset.sqctl.toNat = 4000 * 2 ^ 32 := by
  simp [Sequencer.reset]

theorem Part.reset_values : Part.reset.stage = 0 ∧ Part.reset.bootFail = false ∧ Part.reset.thermLimit = 100 ∧
    Part.reset.pwrLimit = 2400 ∧ Part.reset.vrtb = 0 ∧ Part.reset.fixlast = 0 := by
  simp [Part.reset]

theorem Slot.reset_values : Slot.reset.run = .free ∧ Slot.reset.fmode = 0 ∧ Slot.reset.amBudget = 1024 ∧
    Slot.reset.inTrap = false ∧ Slot.reset.issues = 0 := by
  simp [Slot.reset]

theorem Core.reset_values : Core.reset.qage = 0x10000 ∧ Core.reset.stmem = 0 ∧ Core.reset.fifo = [] := by
  simp [Core.reset]

theorem Cell.reset_values : Cell.reset.wdog = 0x1000000 ∧ ∀ h, Cell.reset.tile h = Tile.reset :=
  ⟨rfl, Cell.reset_tile⟩

theorem Context.reset_values : Context.reset.trapVec = 0 ∧ Context.reset.priv = false := by
  simp [Context.reset]

/-! ### The obligation -/

/-- Settles O60: every unit reads as its reset record (`State.reset_slot` and the lemmas beside it), and that record holds
the values of the statement. -/
theorem resetState : Obligations.ResetState := by
  unfold Obligations.ResetState
  simp only [State.reset_slot, State.reset_core, State.reset_cell, State.reset_ctx]
  obtain ⟨stage, bootFail, thermLimit, pwrLimit, vrtb, fixlast⟩ := Part.reset_values
  exact ⟨State.reset_sound, rfl, stage, bootFail, thermLimit, pwrLimit, Sequencer.reset_sqctl_toNat, rfl, vrtb, fixlast,
    fun _ => Slot.reset_values, fun _ => Core.reset_values, fun _ => Cell.reset_values, fun _ => Context.reset_values,
    State.reset_byte⟩

end Sys2Proof.Machine

/-! PROOFS. The lock managers (R107 to R109): what reading and writing storage leaves of the bank lock managers, what a merge
gate and a bank lock manager do in one step, and the exclusion that grants and releases keep. -/

namespace Sys2Proof.Machine

/-! ### Storage leaves the bank lock managers -/

/-- A fold of updates that each leave a view of the state leaves it. -/
theorem State.foldl_keeps {α β : Type} (view : State → β) {f : State → α → State} (h : ∀ s x, view (f s x) = view s) :
    ∀ (l : List α) (s : State), view (l.foldl f s) = view s
  | [], _ => rfl
  | x :: l, s => by rw [List.foldl_cons, State.foldl_keeps view h l, h]

@[simp] theorem State.clearPoison_blms (s : State) (as : List Nat) : (s.clearPoison as).blms = s.blms := rfl
@[simp] theorem State.markPoison_blms (s : State) (l : Nat) (m : BitVec 16) : (s.markPoison l m).blms = s.blms := rfl
@[simp] theorem State.putHome_blms (s : State) (bs : List (Nat × Byte)) : (s.putHome bs).blms = s.blms := rfl
@[simp] theorem State.setTags_blms (s : State) (l : Nat) (m : BitVec 16) (t : OwnerTag) : (s.setTags l m t).blms = s.blms := by
  simp only [State.setTags]
@[simp] theorem State.toPart_blms (s : State) (p : Nat) (m : AzMsg) : (s.toPart p m).blms = s.blms := rfl
@[simp] theorem State.toPart_mem (s : State) (p : Nat) (m : AzMsg) : (s.toPart p m).mem = s.mem := rfl

@[simp] theorem State.takeFrame_blms (s : State) (f u : Nat) : (s.takeFrame f u).2.blms = s.blms := by
  simp only [State.takeFrame, State.putFixDword, State.putHome_blms]

@[simp] theorem State.copyInto_blms (s : State) (u frame : Nat) : (s.copyInto u frame).blms = s.blms := by
  simp only [State.copyInto, State.putBytes_blms]

@[simp] theorem State.copyUnit_blms (s : State) (f u : Nat) : (s.copyUnit f u).blms = s.blms := by
  simp only [State.copyUnit, State.modFix_blms, State.copyInto_blms, State.takeFrame_blms]

@[simp] theorem State.rekey_blms (s : State) (key a : Nat) : (s.rekey key a).blms = s.blms := by
  simp only [State.rekey]
  split <;> rfl

@[simp] theorem State.hbmWrite_blms (s : State) (key : Nat) (bs : List (Nat × Byte)) : (s.hbmWrite key bs).blms = s.blms := by
  simp only [State.hbmWrite, State.clearPoison_blms, State.putBytes_blms]
  exact State.foldl_keeps State.blms (fun s e => State.rekey_blms s key e.1) bs s

@[simp] theorem State.hbmRead_blms (s : State) (key : Nat) (as : List Nat) : (s.hbmRead key as).2.blms = s.blms := by
  simp only [State.hbmRead]
  split <;> rfl

@[simp] theorem State.homeRead_blms (s : State) (count key : Nat) (as : List Nat) :
    (s.homeRead count key as).2.blms = s.blms := by
  simp [State.homeRead]

@[simp] theorem State.physRead_blms (s : State) (count key : Nat) (as : List Nat) :
    (s.physRead count key as).2.blms = s.blms := by
  unfold State.physRead
  split <;> simp

@[simp] theorem State.homeLine_blms (s : State) (key l : Nat) : (s.homeLine key l).2.2.blms = s.blms := by
  simp only [State.homeLine]
  split <;> simp

@[simp] theorem State.cow_blms (s : State) (count : Nat) (as : List Nat) : (s.cow count as).blms = s.blms :=
  State.foldl_keeps State.blms (fun s a => by split <;> simp) as s

@[simp] theorem State.nearWrite_blms (s : State) (count : Nat) (bs : List (Nat × Byte)) :
    (s.nearWrite count bs).blms = s.blms := by
  simp [State.nearWrite, State.nearPut]

@[simp] theorem State.homeWrite_blms (s : State) (count : Nat) (thru : Bool) (key : Nat) (bs : List (Nat × Byte)) :
    (s.homeWrite count thru key bs).blms = s.blms := by
  simp [State.homeWrite, State.homePut]

@[simp] theorem State.endOthers_blms (s : State) (l : Nat) (m : BitVec 16) (keep : Option Nat) :
    (s.endOthers l m keep).blms = s.blms := by
  simp only [State.endOthers]
  exact State.foldl_keeps State.blms (fun s c => by simp) _ s

@[simp] theorem State.endLines_blms (s : State) (keep : Option Nat) (as : List Nat) : (s.endLines keep as).blms = s.blms :=
  State.foldl_keeps State.blms (fun s l => State.endOthers_blms s l (maskOf l as) keep) _ s

@[simp] theorem State.physWrite_blms (s : State) (count key : Nat) (bs : List (Nat × Byte)) :
    (s.physWrite count key bs).blms = s.blms := by
  simp only [State.physWrite]
  split <;> split <;> simp [State.homeStore]

@[simp] theorem State.report_blms (s : State) (die type cause ctx place : Nat) (addr detail : Word) :
    (s.report die type cause ctx place addr detail).blms = s.blms := by
  simp only [State.report]
  split <;> simp

@[simp] theorem State.l2Evict_blms (s : State) (l : Nat) : (s.l2Evict l).blms = s.blms := by
  simp only [State.l2Evict, State.l2Spill]
  split <;> simp

@[simp] theorem State.l2Room_blms (s : State) (l : Nat) : (s.l2Room l).blms = s.blms := by
  simp only [State.l2Room]
  split
  · rfl
  · split <;> simp

/-! ### The lock entries of a bank lock manager -/

/-- The lock entries that a bank lock manager holds, apart from the error counter of its bank. -/
def State.lockEntries (s : State) (b : Nat) : List LockEntry := (s.blm b).entries

theorem State.lockEntries_of_blms {s t : State} (h : t.blms = s.blms) : t.lockEntries = s.lockEntries := by
  funext b
  simp only [State.lockEntries, State.blm, h]

theorem State.lockEntries_modBlm (s : State) (k : Nat) (f : Blm → Blm) :
    (s.modBlm k f).lockEntries k = (f (s.blm k)).entries := by
  simp [State.lockEntries]

/-- An update of a bank lock manager that leaves its entries leaves those of every one. -/
theorem State.modBlm_lockEntries (s : State) (k : Nat) {f : Blm → Blm} (h : (f (s.blm k)).entries = (s.blm k).entries) :
    (s.modBlm k f).lockEntries = s.lockEntries := by
  funext b
  by_cases hb : b = k
  · subst hb
    simpa [State.lockEntries] using h
  · simp [State.lockEntries, State.blm_modBlm_ne s f hb]

@[simp] theorem State.report_lockEntries (s : State) (die type cause ctx place : Nat) (addr detail : Word) :
    (s.report die type cause ctx place addr detail).lockEntries = s.lockEntries := State.lockEntries_of_blms (by simp)

@[simp] theorem State.physWrite_lockEntries (s : State) (count key : Nat) (bs : List (Nat × Byte)) :
    (s.physWrite count key bs).lockEntries = s.lockEntries := State.lockEntries_of_blms (by simp)

@[simp] theorem State.freeWord_lockEntries (s : State) : s.freeWord.2.lockEntries = s.lockEntries := rfl
@[simp] theorem State.toPart_lockEntries (s : State) (p : Nat) (m : AzMsg) : (s.toPart p m).lockEntries = s.lockEntries := rfl

/-- A corrected error counts in the bank of a lock manager, whose entries stay (R45). -/
@[simp] theorem State.correct_lockEntries (s : State) (w : Nat) : (s.correct w).lockEntries = s.lockEntries := by
  have counted : (s.correct w).blms = (s.modBlm (bankOf (8 * w)).1 fun x => { x with corrected := x.corrected + 1 }).blms := by
    simp only [State.correct]
    split <;> simp
  rw [State.lockEntries_of_blms counted, State.modBlm_lockEntries]
  rfl

@[simp] theorem State.noteSoft_lockEntries (s : State) (as : List Nat) : (s.noteSoft as).lockEntries = s.lockEntries :=
  State.foldl_keeps State.lockEntries State.correct_lockEntries _ s

@[simp] theorem State.l2Fetch_lockEntries (s : State) (key l : Nat) : (s.l2Fetch key l).lockEntries = s.lockEntries := by
  simp only [State.l2Fetch]
  split
  · rfl
  · rw [← State.noteSoft_lockEntries s (addrsFrom (64 * l) 64)]
    exact State.lockEntries_of_blms (by simp)

@[simp] theorem State.walkFrom_lockEntries (ctx page : Nat) (secure : Bool) : ∀ (fuel level table : Nat) (s : State),
    (s.walkFrom ctx page secure fuel level table).2.lockEntries = s.lockEntries
  | 0, _, _, _ => rfl
  | fuel + 1, level, table, s => by
    have deeper := State.walkFrom_lockEntries ctx page secure fuel (level + 1)
    simp only [State.walkFrom]
    repeat' split
    all_goals simp [deeper]

@[simp] theorem State.walk_lockEntries (s : State) (ctx page : Nat) : (s.walk ctx page).2.lockEntries = s.lockEntries :=
  State.walkFrom_lockEntries ..

/-! ### What a release tells a transaction -/

/-- The write of an outcome, and each report that it cannot be written, leave the locks (R114). -/
@[simp] theorem State.writeOutcome_lockEntries (s : State) (x : Submission) (cell num : Nat) (n : Word) (v : Verdict) :
    (s.writeOutcome x cell num n v).lockEntries = s.lockEntries := by
  unfold State.writeOutcome
  simp only
  split
  · rfl
  split
  · simp
  split
  · simp
  have walked := State.walk_lockEntries s x.ctx (pageOf x.record.out.toNat)
  rcases hw : s.walk x.ctx (pageOf x.record.out.toNat) with ⟨end_, s'⟩
  rw [hw] at walked
  cases end_ with
  | fault level malformed => simp [walked]
  | poison a => simp [State.walkSoft, walked]
  | leaf l =>
    simp only
    split
    · simp [walked]
    split
    · simp [walked]
    split <;> simp [walked]

@[simp] theorem State.finishTxn_lockEntries (s : State) (num : Nat) : (s.finishTxn num).lockEntries = s.lockEntries := by
  unfold State.finishTxn
  split
  · rfl
  split
  · rfl
  split
  · exact State.writeOutcome_lockEntries ..
  · rfl

@[simp] theorem State.noteReleased_lockEntries (s : State) (num : Nat) (x : Gran) :
    (s.noteReleased num x).lockEntries = s.lockEntries := by
  simp only [State.noteReleased]
  split
  · split <;> exact State.finishTxn_lockEntries ..
  · exact State.finishTxn_lockEntries ..

/-! ### Messages on their way -/

theorem State.sendIn_flies (s : State) (cls src dst n : Nat) (p : Parcel) :
    ∃ f ∈ (s.sendIn cls src dst n p).sched.flight, f.cls = cls ∧ f.parcel = p :=
  ⟨_, List.mem_append_right _ (List.mem_singleton_self _), rfl, rfl⟩

theorem State.send_flies (s : State) (cls src dst : Nat) (p : Parcel) :
    ∃ f ∈ (s.send cls src dst p).sched.flight, f.cls = cls ∧ f.parcel = p := State.sendIn_flies ..

/-! ### Merge gates (R107, R108) -/

/-- The die after its gate has forwarded the head of a source part's buffer. -/
def Die.popGate (d : Die) (part : Nat) : Die := { d with gate := d.gate.set part (d.gate.get [] part).tail }

@[simp] theorem Die.popGate_gate (d : Die) (part : Nat) :
    (d.popGate part).gate.get [] part = (d.gate.get [] part).tail := by simp [Die.popGate]

@[simp] theorem Die.popGate_nextGlobal (d : Die) (part : Nat) : (d.popGate part).nextGlobal = d.nextGlobal := rfl

@[simp] theorem State.send_die (s : State) (cls src dst : Nat) (p : Parcel) (j : Nat) :
    (s.send cls src dst p).die j = s.die j := rfl

/-- A forwarded request goes to its BLM on the lock channel, and the gate stays at its batch. -/
theorem mergeGateForward_request {s : State} {part num cell b : Nat} {ws : List LockWant}
    (h : s.gateNext s.cur = some (part, .request num cell b ws)) :
    exec .mergeGateForward s = .next ((s.modDie s.cur (·.popGate part)).send clsLock (0x2000 + s.cur) (blmChan b)
      (msg (.blmRequestArrival b (.request num cell ws)))) := by
  show execMergeGateForward s = _
  simp only [execMergeGateForward, h]
  rfl

/-- Tells the BLMs of a die the number up to which they may grant. -/
def State.announceSafe (s : State) (die safe : Nat) : State :=
  (blmsOfDie die).foldl (fun s b => s.send clsLock (0x2000 + die) (blmChan b) (msg (.blmRequestArrival b (.safe safe)))) s

@[simp] theorem State.announceSafe_die (s : State) (die safe j : Nat) : (s.announceSafe die safe).die j = s.die j := by
  unfold State.announceSafe
  exact State.foldl_keeps (fun s => s.die j) (fun s b => by simp) _ s

@[simp] theorem State.announceSafe_mem (s : State) (die safe : Nat) : (s.announceSafe die safe).mem = s.mem := by
  unfold State.announceSafe
  exact State.foldl_keeps State.mem (fun s b => by simp) _ s

/-- A forwarded marker ends its batch: the gate goes on with the next one, and the BLMs of its die learn the number up to
which they may grant. -/
theorem mergeGateForward_close {s : State} {part g : Nat} (h : s.gateNext s.cur = some (part, .close g)) :
    exec .mergeGateForward s = .next (((s.modDie s.cur (·.popGate part)).modDie s.cur fun d =>
      { d with nextGlobal := g + 1, safe := some (g * 256 + 255) }).announceSafe s.cur (g * 256 + 255)) := by
  show execMergeGateForward s = _
  simp only [execMergeGateForward, h]
  rfl

/-! ### Grants (R109) -/

/-- An entry after a grant to `e`: the entry of its number and granule holds the lock. -/
def LockEntry.afterGrant (e y : LockEntry) : LockEntry :=
  if y.num = e.num ∧ y.gran = e.gran then { y with granted := true } else y

/-- What goes with a grant: a granule's bytes and poison marks if its entry asks for them, and the state after the read. -/
def State.grantData (s : State) (e : LockEntry) : List Byte × List Nat × State :=
  match e.read, e.gran with
  | true, .mem g => s.readGran (s.txnFix e.num) e.key g
  | _, _ => ([], [], s)

@[simp] theorem State.readGran_lockEntries (s : State) (count key g : Nat) :
    (s.readGran count key g).2.2.lockEntries = s.lockEntries := by
  simp only [State.readGran]
  rw [State.lockEntries_of_blms (State.physRead_blms ..), State.noteSoft_lockEntries]

@[simp] theorem State.grantData_lockEntries (s : State) (e : LockEntry) : (s.grantData e).2.2.lockEntries = s.lockEntries := by
  unfold State.grantData
  split
  · exact State.readGran_lockEntries ..
  · rfl

/-- A grant to an entry that asks for no data carries none. -/
theorem State.grantData_bare (s : State) {e : LockEntry} (h : e.read = false) : s.grantData e = ([], [], s) := by
  simp [State.grantData, h]

@[simp] theorem State.sendGrant_lockEntries (s : State) (blm cell : Nat) (data : List Byte) (i : Instr) :
    (s.sendGrant blm cell data i).lockEntries = s.lockEntries := by
  unfold State.sendGrant
  split
  · rfl
  split <;> rfl

/-- The state after a grant to `e` at a BLM, before its message leaves. -/
def State.markGranted (s : State) (blm : Nat) (e : LockEntry) : State :=
  s.modBlm blm fun b => { b with entries := b.entries.map e.afterGrant }

@[simp] theorem State.markGranted_lockEntries (s : State) (blm : Nat) (e : LockEntry) :
    (s.markGranted blm e).lockEntries blm = (s.lockEntries blm).map e.afterGrant := by
  simp [State.markGranted, State.lockEntries]

theorem blmGrant_none {s : State} (h : s.grantNext s.cur = none) : exec .blmGrant s = .next s := by
  show execBlmGrant s = _
  simp [execBlmGrant, h]

theorem blmGrant_void {s : State} {e : LockEntry} (h : s.grantNext s.cur = some e) (hv : e.void = true) :
    exec .blmGrant s = .next (s.dropEntry s.cur e.num e.gran) := by
  show execBlmGrant s = _
  simp [execBlmGrant, h, hv]

/-- A grant to an entry of this part goes to its cell, one to an entry of another part goes to that part. -/
theorem blmGrant_live {s : State} {e : LockEntry} (h : s.grantNext s.cur = some e) (hv : e.void = false) :
    let d := (s.markGranted s.cur e).grantData e
    exec .blmGrant s = .next (if e.cell / 1024 = s.link.pod.k then
      d.2.2.sendGrant s.cur (e.cell % 1024) d.1 (.grantPushArrival (e.cell % 1024) e.num e.gran d.1 d.2.1)
      else d.2.2.toPart (e.cell / 1024) (.push (e.cell % 1024) e.num e.gran d.1 d.2.1)) := by
  show execBlmGrant s = _
  simp only [execBlmGrant, h, hv, Bool.false_eq_true, if_false]
  exact (apply_ite Host.Outcome.next _ _ _).symm

/-- A live entry is granted where it stands, and no other changes. -/
theorem blmGrant_live_entries {s : State} {e : LockEntry} (h : s.grantNext s.cur = some e) (hv : e.void = false) :
    ∃ t, exec .blmGrant s = .next t ∧ t.lockEntries s.cur = (s.lockEntries s.cur).map e.afterGrant ∧
      (e.read = false → t.mem = s.mem ∧ (e.cell / 1024 = s.link.pod.k → ∃ f ∈ t.sched.flight, f.cls = clsLock ∧
        f.parcel = .step (.grantPushArrival (e.cell % 1024) e.num e.gran [] []) 0)) := by
  refine ⟨_, blmGrant_live h hv, ?_, fun hr => ?_⟩
  · split <;> simp
  · rw [State.grantData_bare _ hr]
    simp only [State.sendGrant, if_true]
    split
    · exact ⟨by simp [State.markGranted], fun _ => State.send_flies ..⟩
    · next away => exact ⟨by simp [State.markGranted], fun here => absurd here away⟩

/-! ### Releases (R109) -/

/-- Whether an entry is not the one of a number and granule. -/
def LockEntry.differs (num : Nat) (x : Gran) (y : LockEntry) : Bool := !(y.num == num && y.gran == x)

theorem State.dropEntry_lockEntries (s : State) (blm num : Nat) (x : Gran) :
    (s.dropEntry blm num x).lockEntries blm = (s.lockEntries blm).filter (LockEntry.differs num x) := by
  simp only [State.dropEntry]
  split
  · rw [State.noteReleased_lockEntries, State.lockEntries_modBlm]
    rfl
  · rw [State.toPart_lockEntries, State.lockEntries_modBlm]
    rfl

/-- A release removes the granted entry that it names. -/
theorem blmRelease_granted {s : State} {blm num : Nat} {x : Gran}
    (h : (s.blm blm).entries.any (fun y => y.num = num ∧ y.gran = x ∧ y.granted) = true) :
    exec (.blmRelease blm num x) s = .next (s.dropEntry blm num x) := by
  show execBlmRelease blm num x s = _
  rw [execBlmRelease, if_pos h]

/-- A release that names no granted entry leaves the entries. -/
theorem blmRelease_stale {s : State} {blm num : Nat} {x : Gran}
    (h : ¬ (s.blm blm).entries.any (fun y => y.num = num ∧ y.gran = x ∧ y.granted) = true) :
    ∃ t, exec (.blmRelease blm num x) s = .next t ∧ t.lockEntries = s.lockEntries := by
  have ran : execBlmRelease blm num x s = _ := if_neg h
  exact ⟨_, ran, State.modBlm_lockEntries s blm rfl⟩

/-! ### The exclusion (R109) -/

/-- A BLM holds one entry of a number for a granule, and an entry is granted only while every earlier entry of its granule is
granted and both are shared. -/
def Exclusive (es : List LockEntry) : Prop :=
  ∀ x y, x ∈ es → y ∈ es → x.gran = y.gran →
    (x.num = y.num → x = y) ∧ (y.granted = true → x.num < y.num → x.granted = true ∧ x.excl = false ∧ y.excl = false)

theorem Exclusive.filter {es : List LockEntry} (h : Exclusive es) (p : LockEntry → Bool) : Exclusive (es.filter p) :=
  fun x y hx hy => h x y (List.mem_of_mem_filter hx) (List.mem_of_mem_filter hy)

/-- Two granted entries of one granule are shared: the later one was granted over the earlier. -/
theorem Exclusive.shared {es : List LockEntry} (h : Exclusive es) {x y : LockEntry} (hx : x ∈ es) (hy : y ∈ es)
    (hg : x.gran = y.gran) (gx : x.granted = true) (gy : y.granted = true) (hne : x ≠ y) :
    x.excl = false ∧ y.excl = false := by
  rcases Nat.lt_trichotomy x.num y.num with lt | eq | gt
  · exact ((h x y hx hy hg).2 gy lt).2
  · exact absurd ((h x y hx hy hg).1 eq) hne
  · exact ((h y x hy hx hg.symm).2 gx gt).2.symm

@[simp] theorem LockEntry.afterGrant_num (e y : LockEntry) : (e.afterGrant y).num = y.num := by
  unfold LockEntry.afterGrant; split <;> rfl
@[simp] theorem LockEntry.afterGrant_gran (e y : LockEntry) : (e.afterGrant y).gran = y.gran := by
  unfold LockEntry.afterGrant; split <;> rfl
@[simp] theorem LockEntry.afterGrant_excl (e y : LockEntry) : (e.afterGrant y).excl = y.excl := by
  unfold LockEntry.afterGrant; split <;> rfl

/-- After a grant the lock is held by those that held it and by the entry of the grant. -/
theorem LockEntry.afterGrant_granted_iff (e y : LockEntry) :
    (e.afterGrant y).granted = true ↔ y.granted = true ∨ y.num = e.num ∧ y.gran = e.gran := by
  unfold LockEntry.afterGrant
  split <;> simp [*]

/-- What a BLM has seen to before it grants an entry: every earlier entry of the granule is granted, and both are shared. -/
theorem Blm.grantable_earlier {b : Blm} {e x : LockEntry} (h : b.grantable e = true) (hx : x ∈ b.entries)
    (hg : x.gran = e.gran) (lt : x.num < e.num) : x.granted = true ∧ x.excl = false ∧ e.excl = false := by
  simp only [Blm.grantable, Bool.and_eq_true, List.all_eq_true] at h
  have allowed : e.num ≤ x.num ∨ (e.excl = false ∧ x.granted = true) ∧ x.excl = false := by
    simpa [hg] using h.2 x hx
  rcases allowed with le | ⟨⟨he, hgr⟩, hex⟩
  · omega
  · exact ⟨hgr, hex, he⟩

/-- A grant keeps the exclusion: what the granted entry needs of earlier ones is what the BLM asks before it grants. -/
theorem Exclusive.afterGrant {b : Blm} {e : LockEntry} (h : Exclusive b.entries) (he : e ∈ b.entries)
    (hg : b.grantable e = true) : Exclusive (b.entries.map e.afterGrant) := by
  intro x' y' hx' hy' same
  obtain ⟨x, hx, rfl⟩ := List.mem_map.mp hx'
  obtain ⟨y, hy, rfl⟩ := List.mem_map.mp hy'
  simp only [LockEntry.afterGrant_num, LockEntry.afterGrant_gran, LockEntry.afterGrant_excl,
    LockEntry.afterGrant_granted_iff] at same ⊢
  obtain ⟨unique, earlier⟩ := h x y hx hy same
  refine ⟨fun eq => congrArg e.afterGrant (unique eq), fun gy lt => ?_⟩
  rcases gy with gy | ⟨num, gran⟩
  · obtain ⟨gx, shared⟩ := earlier gy lt
    exact ⟨.inl gx, shared⟩
  · obtain rfl : y = e := (h y e hy he gran).1 num
    obtain ⟨gx, shared⟩ := Blm.grantable_earlier hg hx same lt
    exact ⟨.inl gx, shared⟩

/-- The entry that a BLM grants next is one of its own that it may grant. -/
theorem State.grantNext_spec {s : State} {blm : Nat} {e : LockEntry} (h : s.grantNext blm = some e) :
    e ∈ (s.blm blm).entries ∧ (s.blm blm).grantable e = true :=
  ⟨List.mem_of_find?_eq_some h, (Bool.and_eq_true .. ▸ List.find?_some h).1⟩

theorem blmGrant_exclusive {s : State} (h : Exclusive (s.lockEntries s.cur)) :
    ∃ t, exec .blmGrant s = .next t ∧ Exclusive (t.lockEntries s.cur) := by
  cases hn : s.grantNext s.cur with
  | none => exact ⟨s, blmGrant_none hn, h⟩
  | some e =>
    cases hv : e.void with
    | true => exact ⟨_, blmGrant_void hn hv, State.dropEntry_lockEntries s .. ▸ h.filter _⟩
    | false =>
      obtain ⟨t, ran, entries, -⟩ := blmGrant_live_entries hn hv
      obtain ⟨mem, may⟩ := State.grantNext_spec hn
      exact ⟨t, ran, entries ▸ Exclusive.afterGrant h mem may⟩

theorem blmRelease_exclusive {s : State} (blm num : Nat) (x : Gran) (h : Exclusive (s.lockEntries blm)) :
    ∃ t, exec (.blmRelease blm num x) s = .next t ∧ Exclusive (t.lockEntries blm) := by
  by_cases held : (s.blm blm).entries.any (fun y => y.num = num ∧ y.gran = x ∧ y.granted) = true
  · exact ⟨_, blmRelease_granted held, State.dropEntry_lockEntries s .. ▸ h.filter _⟩
  · obtain ⟨t, ran, entries⟩ := blmRelease_stale held
    exact ⟨t, ran, entries ▸ h⟩

/-! ### The obligation -/

theorem lockSteps : Claim.LockSteps := by
  intro s die part blm num cell g b q ws e x
  refine ⟨?receive, ?close, ?request, ?safe, ?arrive, ?grant, ?release⟩
  case receive =>
    exact ⟨_, rfl, rfl, by simp, fun p hp => by simp [Tab.get_set_ne _ _ _ hp]⟩
  case close =>
    intro h
    exact ⟨_, mergeGateForward_close h, by simp, by simp, by simp, by simp⟩
  case request =>
    intro h
    refine ⟨_, mergeGateForward_request h, ?_, ?_, by simp, ?_⟩
    · simp
    · simp
    · obtain ⟨f, hf, -, parcel⟩ := State.send_flies (s.modDie s.cur (·.popGate part)) clsLock (0x2000 + s.cur) (blmChan b)
        (msg (.blmRequestArrival b (.request num cell ws)))
      exact ⟨f, hf, parcel⟩
  case safe => exact ⟨_, rfl, by simp, by simp⟩
  case arrive => exact ⟨_, rfl, rfl, by simp⟩
  case grant =>
    intro h hv
    obtain ⟨t, ran, entries, bare⟩ := blmGrant_live_entries h hv
    exact ⟨t, ran, entries, fun hr => (bare hr).1, fun here hr => (bare hr).2 here⟩
  case release => exact fun held => ⟨_, blmRelease_granted held, State.dropEntry_lockEntries ..⟩

theorem locksExclude : Claim.LocksExclude :=
  ⟨fun _ h => blmGrant_exclusive h, fun _ blm num x h => blmRelease_exclusive blm num x h,
    fun _ _ _ h hx hy hg gx gy hne => Exclusive.shared h hx hy hg gx gy hne⟩

/-- Settles O30: the steps of the merge gates and the BLMs one by one (`lockSteps`), and the exclusion as an invariant of a
BLM's entries (`Exclusive`), kept by a grant since the BLM asks for it first, and by a release since it only removes. -/
theorem lockManagers : Obligations.LockManagers := ⟨lockSteps, locksExclude⟩

end Sys2Proof.Machine

/-! PROOFS. A write of QRING that is discarded (R317) still writes the entry of its core back into the table of cores. In a
state whose table lists a core of a higher number before that core, the entry then stands there a second time. -/

namespace Sys2Proof.Machine

/-- A privileged slot of core 0, whose rings hold entries; the table of cores lists core 1 before core 0. -/
def unorderedCores : State := { State.reset with
  cores := [(1, Core.reset), (0, { Core.reset with ringCount := Vector.replicate 4 1 })]
  ctxs := [(0, { Context.reset with priv := true })] }

/-- The write of QRING 0 there leaves three entries in the table of cores, where two stood. -/
theorem mtsr_qring_unorderedCores :
    ∃ t, exec (.mtsr .always 76 0) unorderedCores = .next t ∧ t.cores.length = 3 := by
  exact ⟨_, rfl, by decide⟩

/-- Refutes O13: a ring of core 0 holds entries, so that by `WriteCoreRegister` `mtsr` of QRING 0 completes from the very state
that it finds; but the write puts core 0's entry, which it does not change, into the table once more, before core 1's. -/
theorem not_writeSystemRegister : ¬ Obligations.WriteSystemRegister := by
  rintro ⟨-, writesCore, -⟩
  obtain ⟨privileged, -, -⟩ := writesCore unorderedCores .always 0 rfl rfl
  obtain ⟨t, ran, done⟩ := privileged (by decide) (76, _) (List.mem_of_getElem? (i := 12) rfl)
  have stays : Completes unorderedCores t (formLen .always) id := done
  obtain ⟨u, ran', three⟩ := mtsr_qring_unorderedCores
  obtain rfl : u = t := Host.Outcome.next.inj (ran'.symm.trans ran)
  have two : u.cores = unorderedCores.cores := by rw [stays.mine.rest]
  exact absurd three (by rw [two]; decide)

end Sys2Proof.Machine

/-! PROOFS. Scalar floating point (R51, R55, R201 to R203): what its forms leave in their slot, and the two steps of a
division or a square root, which leaves the rotation and is completed by its event. -/

namespace Sys2Proof.Machine

/-! ### Changes of one slot, one after the other -/

/-- Of two writes of one entry the second stays. -/
@[simp] theorem Tab.set_set {α : Type} (t : Tab α) (n : Nat) (v w : α) : (t.set n v).set n w = t.set n w := by
  induction t with
  | nil => simp [Tab.set]
  | cons e t ih =>
    obtain ⟨k, x⟩ := e
    simp only [Tab.set]
    split
    · simp [Tab.set]
    · split
      · simp [Tab.set]
      · simp [Tab.set, *]

/-- Two changes of one slot are one. -/
theorem State.modSlot_modSlot (s : State) (k : Nat) (f g : Slot → Slot) :
    (s.modSlot k f).modSlot k g = s.modSlot k fun sl => g (f sl) := by
  simp [State.modSlot, State.setSlot, State.slot]

/-! ### Results that are written at once -/

/-- An action after one that goes on. -/
theorem Act.bind_ok {α β : Type} {x : Act α} {f : α → Act β} {s t : State} {a : α} (h : x s = .ok (a, t)) :
    (x >>= f) s = f a t := by
  simp only [bind, StateT.bind, Except.bind, h]

/-- The four turns are a change of the slot. -/
theorem skipIf_after (s : State) (f : Slot → Slot) (b : Bool) :
    skipIf b (s.modSlot s.cur f) =
      .ok ((), s.modSlot s.cur fun sl => { f sl with skip := if b then 4 else (f sl).skip }) := by
  cases b
  · rfl
  · exact congrArg (fun z => Except.ok ((), z)) (s.modSlot_modSlot s.cur f fun sl => { sl with skip := 4 })

/-- A result, its flags and its turns are one change of the slot. -/
theorem writeG_setFlags_skipIf (s : State) (d : Reg) (v : Word) (flags : Nat) (sub : Bool) (hd : s.me.plain d = true) :
    (do writeG d v; setFlags flags; skipIf sub : Act Unit) s = .ok ((), s.modSlot s.cur (fpEffect d v flags sub)) := by
  rw [Act.bind_ok (writeG_plain s d v hd)]
  exact (congrArg (skipIf sub) (s.modSlot_modSlot ..)).trans (skipIf_after ..)

theorem finishFp_plain (s : State) (d : Reg) (r : FRes) (sub : Bool) (hd : s.me.plain d = true) :
    finishFp d r sub s = .ok (.seq, s.modSlot s.cur (fpEffect d (natW r.bits) r.flags sub)) := by
  have same : finishFp d r sub =
      (do writeG d (natW r.bits); setFlags r.flags; skipIf sub : Act Unit) >>= fun _ => pure .seq := by
    simp only [finishFp, bind_assoc]
  rw [same, Act.bind_ok (writeG_setFlags_skipIf s d _ _ _ hd)]
  rfl

/-- It changes nothing that an issue reads again. -/
theorem fpEffect_frame (d : Reg) (v : Word) (flags : Nat) (sub : Bool) (sl : Slot) :
    (fpEffect d v flags sub sl).counted = sl.counted ∧ (fpEffect d v flags sub sl).issues = sl.issues ∧
      (fpEffect d v flags sub sl).pc = sl.pc := by
  simp [fpEffect]

section
variable {i : Instr} {s : State} {g : Guard} {t : Fty} {b : Opnd 5} {a d : Reg}

/-- A two-operand form (R201). -/
theorem does_fpBin {f : FpFmt → Nat → Bool → Fp → Fp → FRes} (hi : exec i s = fpBin g t b a d f s)
    (hg : s.me.guardHolds g = true) (ha : s.me.plain a = true) (hb : s.me.plainOp b = true) (hd : s.me.plain d = true) :
    let ftz := ftzOf s.me.fmode
    let rd (v : Word) : Fp := readFp (ftyFmt t) ftz (fpBits t v)
    let r := f (ftyFmt t) (rmOf s.me.fmode) ftz (rd (s.me.g a)) (rd (s.me.op b))
    Does i s (opLen g b)
      (fpEffect d (natW r.bits) r.flags (meetsSub t ftz [s.me.g a, s.me.op b] || (!ftz && r.sub))) := by
  refine does_of_body hi hg ?_ (fpEffect_frame _ _ _ _)
  simp only [bind, StateT.bind, Except.bind, readG_plain s a ha, readOpnd_plain s b hb, getSlot]
  exact finishFp_plain s d _ _ hd

/-- A fused form (R201). -/
theorem does_fusedOp {negProd negAdd : Bool} (hi : exec i s = fusedOp g t b a d negProd negAdd s)
    (hg : s.me.guardHolds g = true) (ha : s.me.plain a = true) (hb : s.me.plainOp b = true) (hd : s.me.plain d = true) :
    let ftz := ftzOf s.me.fmode
    let rd (v : Word) : Fp := readFp (ftyFmt t) ftz (fpBits t v)
    let x := rd (s.me.g a)
    let z := rd (s.me.g d)
    let r := fpFma (ftyFmt t) (rmOf s.me.fmode) ftz (if negProd then negFp x else x) (rd (s.me.op b))
      (if negAdd then negFp z else z)
    Does i s (opLen g b)
      (fpEffect d (natW r.bits) r.flags (meetsSub t ftz [s.me.g a, s.me.op b, s.me.g d] || (!ftz && r.sub))) := by
  refine does_of_body hi hg ?_ (fpEffect_frame _ _ _ _)
  simp only [bind, StateT.bind, Except.bind, readG_plain s a ha, readOpnd_plain s b hb, readG_plain s d hd, getSlot]
  exact finishFp_plain s d _ _ hd

/-- `fmin` and `fmax` (R202). -/
theorem does_minMaxOp {wantMax : Bool} (hi : exec i s = minMaxOp wantMax g t b a d s)
    (hg : s.me.guardHolds g = true) (ha : s.me.plain a = true) (hb : s.me.plainOp b = true) (hd : s.me.plain d = true) :
    let r := fpMinMax wantMax (ftyFmt t) (ftzOf s.me.fmode) (fpBits t (s.me.g a)) (fpBits t (s.me.op b))
    Does i s (opLen g b) (fpEffect d (natW r.bits) r.flags false) := by
  refine does_of_body hi hg ?_ (fpEffect_frame _ _ _ _)
  simp only [bind, StateT.bind, Except.bind, readG_plain s a ha, readOpnd_plain s b hb, getSlot]
  exact finishFp_plain s d _ _ hd

/-- `fcmp` writes its predicate and its flag (R199). -/
theorem does_fcmp {c : Fcc} {p : PredIx} (hg : s.me.guardHolds g = true) (ha : s.me.plain a = true)
    (hb : s.me.plainOp b = true) :
    let rd (v : Word) : Fp := readFp (ftyFmt t) (ftzOf s.me.fmode) (fpBits t v)
    Does (.fcmp g c t b a p) s (opLen g b) fun sl =>
      let sl := sl.setP p (fccHolds c (rd (s.me.g a)) (rd (s.me.op b)))
      { sl with fmode := sl.fmode ||| natW (nvIf (fcmpNv c (rd (s.me.g a)) (rd (s.me.op b)))) } := by
  refine does_of_body (rfl : _ = execFcmp g c t b a p s) hg ?_ fun sl => by simp
  simp only [bind, StateT.bind, Except.bind, readG_plain s a ha, readOpnd_plain s b hb, getSlot, writeP, setFlags, modMe,
    State.modSlot_cur, State.modSlot_modSlot]
  rfl

end

theorem floatResults : Claim.FloatResults := by
  intro s g t b a d hg ha hb hd f rm ftz rd x y z
  refine ⟨?_, ?_, fun c p => does_fcmp hg ha hb⟩
  · simp only [List.forall_mem_cons, List.not_mem_nil, false_imp_iff, implies_true, and_true]
    exact ⟨does_fpBin (f := fpAdd) rfl hg ha hb hd,
      does_fpBin (f := fun f rm ftz x y => fpAdd f rm ftz x (negFp y)) rfl hg ha hb hd,
      does_fpBin (f := fpMul) rfl hg ha hb hd, does_fusedOp (negProd := false) (negAdd := false) rfl hg ha hb hd,
      does_fusedOp (negProd := false) (negAdd := true) rfl hg ha hb hd,
      does_fusedOp (negProd := true) (negAdd := false) rfl hg ha hb hd⟩
  · simp only [List.forall_mem_cons, List.not_mem_nil, false_imp_iff, implies_true, and_true]
    exact ⟨does_minMaxOp rfl hg ha hb hd, does_minMaxOp rfl hg ha hb hd⟩

/-! ### Results that an event writes (R203) -/

/-- No element of a stream is taken where the streams are what they were. -/
theorem Slot.unsettle_self (sl : Slot) (again : Bool) : sl.unsettle sl again = { sl with pops := [] } := by
  refine List.foldl_fixed' (fun i => ?_) _
  have none_taken : Stream.taken sl.streams[i] sl.streams[i] = 0 := by simp [Stream.taken]
  exact if_neg fun h => h.2.2 none_taken

/-- A slot that has left the rotation with a result to come, which takes no element of a stream. -/
def Slot.leftFor (sl : Slot) (len : Nat) (p : Pend) : Slot :=
  { sl with run := .wait wExec, pend := p, ilen := len, pops := [], latch := [], faultWait := none, walkPoison := none
            counted := false, issues := sl.count.issues }

/-- A form leaves the rotation for 39 cclk with its result to come (R203). -/
theorem fpDivide_leaves {i : Instr} {s : State} {g : Guard} {len : Nat} {body : Act Next} {d : Reg} {v : Word}
    {flags : Nat} {sub : Bool} (hi : exec i s = issue g len body s) (hg : s.me.guardHolds g = true)
    (hb : body s = .ok (.leave (.fwrite d v flags sub) wExec, s.after 39 .fpDivideComplete s.cur)) :
    ∃ u, exec i s = .next u ∧ u.mem = s.mem ∧ u.me = s.me.leftFor len (.fwrite d v flags sub) ∧
      (⟨s.cycle + 39, clsOwn, 0, 0, .step .fpDivideComplete s.cur⟩ : Flight) ∈ u.sched.flight := by
  refine ⟨_, hi.trans (issue_through g len body s _ _ hg hb (.inl rfl)), ?_, ?_, ?_⟩
  · exact State.retire_mem ..
  · rw [State.retire_me]
    have same : ((s.after 39 .fpDivideComplete s.cur).unsettle s (.leave (.fwrite d v flags sub) wExec)).me =
        { s.me with pops := [] } := 
      (State.slot_modSlot (s.after 39 .fpDivideComplete s.cur) s.cur fun sl => sl.unsettle s.me false).trans
        (Slot.unsettle_self s.me false)
    rw [same]
    rfl
  · rw [State.retire_rest]
    exact List.mem_append_right _ (List.mem_singleton.2 rfl)

/-- An instruction that had left the rotation goes on in sequence where its action does. -/
theorem State.complete_ok {s t : State} (p : Pend) {body : Act Unit} (hb : body s = .ok ((), t)) :
    s.complete s.cur p body =
      .next (t.modSlot s.cur fun sl => { sl.settle with pend := .none, faultWait := none }.goOn sl.ilen .seq) := by
  simp only [State.complete, hb]

/-- An effect of a result leaves the elements that are to be taken from streams. -/
theorem fpEffect_pops (d : Reg) (v : Word) (flags : Nat) (sub : Bool) (sl : Slot) :
    (fpEffect d v flags sub sl).pops = sl.pops := by
  simp only [fpEffect, Slot.setG]
  split <;> rfl

/-- A slot that has taken no element of a stream settles as it is. -/
theorem Slot.settle_of_pops {sl : Slot} (h : sl.pops = []) : sl.settle = sl := by
  simp only [Slot.settle, h, List.foldl_nil]
  rw [← h]

/-- The event of such a slot writes the result, the flags and the turns, and the slot goes on past its instruction. -/
theorem fpDivideComplete_writes {s u : State} {len : Nat} {d : Reg} {v : Word} {flags : Nat} {sub : Bool}
    (hd : s.me.plain d = true) (left : u.me = s.me.leftFor len (.fwrite d v flags sub)) :
    ∃ w, exec .fpDivideComplete u = .next w ∧ w.mem = u.mem ∧
      w.me = Slot.goOn { fpEffect d v flags sub u.me with pend := .none, faultWait := none } len .seq := by
  have pending : (u.slot u.cur).pend = .fwrite d v flags sub := congrArg Slot.pend left
  have ready : u.me.plain d = true := by rw [left]; exact hd
  have ran : exec .fpDivideComplete u = u.complete u.cur (.fwrite d v flags sub)
      (do writeG d v; setFlags flags; skipIf sub) := by
    show execFpDivideComplete u = _
    simp only [execFpDivideComplete, pending]
  have settled : (fpEffect d v flags sub u.me).settle = fpEffect d v flags sub u.me :=
    Slot.settle_of_pops (by rw [fpEffect_pops, left]; rfl)
  have length : (fpEffect d v flags sub u.me).ilen = len := by simp [fpEffect, left, Slot.leftFor]
  rw [ran, State.complete_ok _ (writeG_setFlags_skipIf u d v flags sub ready), State.modSlot_modSlot]
  refine ⟨_, rfl, rfl, ?_⟩
  refine (State.slot_modSlot ..).trans ?_
  show Slot.goOn { (fpEffect d v flags sub u.me).settle with pend := .none, faultWait := none } _ _ = _
  rw [settled, length]

/-- The two steps of such a form. -/
theorem fpDivide_steps {i : Instr} {s : State} {g : Guard} {len : Nat} {body : Act Next} {d : Reg} {v : Word}
    {flags : Nat} {sub : Bool} (hi : exec i s = issue g len body s) (hg : s.me.guardHolds g = true)
    (hd : s.me.plain d = true)
    (hb : body s = .ok (.leave (.fwrite d v flags sub) wExec, s.after 39 .fpDivideComplete s.cur)) :
    ∃ u w, exec i s = .next u ∧ u.me.run = .wait wExec ∧ u.me.regs = s.me.regs ∧ u.me.fmode = s.me.fmode ∧
      (⟨s.cycle + 39, clsOwn, 0, 0, .step .fpDivideComplete s.cur⟩ : Flight) ∈ u.sched.flight ∧
      exec .fpDivideComplete u = .next w ∧ w.me.run = .run ∧ w.me.regs = (s.me.setG d v).regs ∧
      w.me.fmode = s.me.fmode ||| natW flags ∧ w.mem = s.mem ∧ w.me.skip = (if sub then 4 else s.me.skip) ∧
      PassedBy s w len := by
  obtain ⟨u, ran, umem, left, flies⟩ := fpDivide_leaves hi hg hb
  obtain ⟨w, wrote, wmem, after⟩ := fpDivideComplete_writes hd left
  have regs : (fpEffect d v flags sub u.me).regs = (s.me.setG d v).regs := by
    simp only [fpEffect, Slot.setG, left]
    split <;> rfl
  refine ⟨u, w, ran, by rw [left]; rfl, by rw [left]; rfl, by rw [left]; rfl, flies, wrote, ?_, ?_, ?_, wmem.trans umem, ?_, ?_⟩
  · rw [after]; rfl
  · rw [after, ← regs]; simp [Slot.goOn]
  · rw [after]; simp [Slot.goOn, fpEffect, left, Slot.leftFor]
  · rw [after]; simp [Slot.goOn, fpEffect, left, Slot.leftFor]
  · rw [PassedBy, after, Slot.goOn_seq_loops]
    simp [Slot.afterLoops, Slot.movesOn, fpEffect, left, Slot.leftFor]

/-- Where the destination may be written, the form leaves the rotation for 39 cclk. -/
theorem leaveFp_plain (s : State) (d : Reg) (r : FRes) (sub : Bool) (hd : s.me.plain d = true) :
    leaveFp d r sub s = .ok (.leave (.fwrite d (natW r.bits) r.flags sub) wExec, s.after 39 .fpDivideComplete s.cur) := by
  have ready : destReady d s = .ok ((), s) := by simp only [destReady, writeG_plain s d 0 hd]
  rw [leaveFp, Act.bind_ok ready]
  rfl

theorem floatDivideResults : Claim.FloatDivideResults := by
  intro s g t b a d hg ha hb hd f rm ftz rd x y
  simp only [List.forall_mem_cons, List.not_mem_nil, false_imp_iff, implies_true, and_true]
  refine ⟨fpDivide_steps rfl hg hd ?_, fpDivide_steps rfl hg hd ?_⟩
  · rw [Act.bind_ok (readG_plain s a ha), Act.bind_ok (readOpnd_plain s b hb)]
    exact leaveFp_plain s d _ _ hd
  · rw [Act.bind_ok (readG_plain s a ha)]
    exact leaveFp_plain s d _ _ hd

/-- Settles O7: forms that write at once are one change of the slot (`does_fpBin`, `does_fusedOp`, `does_minMaxOp`,
`does_fcmp`); those that leave the rotation hold their result in the slot, and their event makes the same change
(`fpDivide_steps`). -/
theorem floatArithmetic : Obligations.FloatArithmetic := ⟨floatResults, floatDivideResults⟩

end Sys2Proof.Machine

/-! PROOFS. The magnitudes of a format in order, and rounding between two neighbours of them (R47, R53). -/

namespace Sys2Proof.Machine

/-! ### The grid of a format -/

/-- Within an octave, and in the subnormal one below it, the magnitudes are multiples of one unit; an octave ends where the
next begins. -/
theorem grid_octave (f : FpFmt) {k q : Nat} (hq : q ≤ 2 * 2 ^ (f.p - 1)) (hk : k = 0 ∨ 2 ^ (f.p - 1) ≤ q) :
    (grid f (k * 2 ^ (f.p - 1) + q) : ℝ) = q * (2 : ℝ) ^ ((k : ℤ) - 126 - (f.p - 1 : Nat)) := by
  simp only [grid]
  generalize f.p - 1 = t at *
  have pos : 0 < 2 ^ t := by positivity
  generalize hh : 2 ^ t = h at *
  rcases Nat.lt_or_ge q h with small | large
  · obtain rfl : k = 0 := hk.resolve_right (by omega)
    simp [small]
  rw [if_neg (by nlinarith)]
  rcases Nat.lt_or_ge q (2 * h) with below | above
  · have quot : (k * h + q) / h = k + 1 := by
      rw [show k * h + q = (k + 1) * h + (q - h) by rw [Nat.add_mul]; omega]
      rw [Nat.add_comm, Nat.add_mul_div_right _ _ pos, Nat.div_eq_of_lt (by omega), Nat.zero_add]
    have rest : (k * h + q) % h = q - h := by
      rw [show k * h + q = (q - h) + (k + 1) * h by rw [Nat.add_mul]; omega]
      rw [Nat.add_mul_mod_self_right, Nat.mod_eq_of_lt (by omega)]
    rw [quot, rest, Nat.add_sub_cancel' large]
    push_cast
    congr 2
    ring
  · obtain rfl : q = 2 * h := by omega
    have quot : (k * h + 2 * h) / h = k + 2 := by rw [← Nat.add_mul, Nat.mul_div_cancel _ pos]
    have rest : (k * h + 2 * h) % h = 0 := by rw [← Nat.add_mul, Nat.mul_mod_left]
    rw [quot, rest, show ((k + 2 : ℕ) : ℤ) - 127 - t = ((k : ℤ) - 126 - t) + 1 by push_cast; ring]
    push_cast
    rw [zpow_add₀ two_ne_zero]
    ring

/-- Every index stands in an octave. -/
theorem octave_of_index (f : FpFmt) (i : Nat) :
    ∃ k q, i = k * 2 ^ (f.p - 1) + q ∧ q < 2 * 2 ^ (f.p - 1) ∧ (k = 0 ∨ 2 ^ (f.p - 1) ≤ q) := by
  have pos : 0 < 2 ^ (f.p - 1) := by positivity
  generalize 2 ^ (f.p - 1) = h at *
  rcases Nat.lt_or_ge i h with small | large
  · exact ⟨0, i, by omega, by omega, .inl rfl⟩
  · have split := Nat.div_add_mod' i h
    have below := Nat.mod_lt i pos
    have whole : 1 ≤ i / h := (Nat.one_le_div_iff pos).2 large
    refine ⟨i / h - 1, i % h + h, ?_, by omega, .inr (by omega)⟩
    obtain ⟨j, hj⟩ := Nat.exists_eq_add_of_le' whole
    rw [hj] at split ⊢
    rw [Nat.add_sub_cancel]
    linarith [split, Nat.add_mul j 1 h]

/-- The magnitudes rise. -/
theorem grid_strictMono (f : FpFmt) : StrictMono fun i => (grid f i : ℝ) := by
  refine strictMono_nat_of_lt_succ fun i => ?_
  obtain ⟨k, q, rfl, hq, hk⟩ := octave_of_index f i
  show (grid f (k * 2 ^ (f.p - 1) + q) : ℝ) < grid f (k * 2 ^ (f.p - 1) + (q + 1))
  rw [grid_octave f hq.le hk, grid_octave f hq (hk.imp_right (·.trans (Nat.le_succ q)))]
  have unit : (0 : ℝ) < 2 ^ ((k : ℤ) - 126 - (f.p - 1 : Nat)) := by positivity
  push_cast
  linarith

theorem grid_zero (f : FpFmt) : (grid f 0 : ℝ) = 0 := by
  simpa using grid_octave f (k := 0) (q := 0) (Nat.zero_le _) (.inl rfl)

/-! ### Rounding between two neighbours -/

/-- Of points of which none stands between two neighbours, the nearer of these two is nearest; no other is as near, but for
a magnitude in the middle. -/
theorem nearest_of_neighbours {lo hi v p : ℝ} (low : lo ≤ v) (high : v < hi) (outside : p ≤ lo ∨ hi ≤ p) :
    (v ≤ (lo + hi) / 2 → |v - lo| ≤ |v - p| ∧ (|v - lo| = |v - p| → p = lo ∨ v = (lo + hi) / 2)) ∧
      ((lo + hi) / 2 ≤ v → |v - hi| ≤ |v - p| ∧ (|v - hi| = |v - p| → p = hi ∨ v = (lo + hi) / 2)) := by
  rw [abs_of_nonneg (sub_nonneg.2 low), abs_of_neg (sub_neg.2 high)]
  rcases outside with h | h
  · rw [abs_of_nonneg (by linarith : 0 ≤ v - p)]
    exact ⟨fun _ => ⟨by linarith, fun e => .inl (by linarith)⟩, fun _ => ⟨by linarith, fun e => .inr (by linarith)⟩⟩
  · rw [abs_of_neg (by linarith : v - p < 0)]
    exact ⟨fun _ => ⟨by linarith, fun e => .inr (by linarith)⟩, fun _ => ⟨by linarith, fun e => .inl (by linarith)⟩⟩

section
variable {f : FpFmt} {i : Nat} {v : ℝ}

/-- The magnitude below is chosen by truncation. -/
theorem below_of_between (low : (grid f i : ℝ) ≤ v) (high : v < grid f (i + 1)) :
    (grid f i : ℝ) ≤ v ∧ ∀ j, (grid f j : ℝ) ≤ v → j ≤ i :=
  ⟨low, fun _ hj => Nat.lt_succ_iff.1 ((grid_strictMono f).lt_iff_lt.1 (hj.trans_lt high))⟩

/-- The magnitude above is the one below where that is exact, and else the next. -/
theorem above_of_between (low : (grid f i : ℝ) ≤ v) (high : v < grid f (i + 1)) (up : Bool)
    (inexact : up = true ↔ (grid f i : ℝ) < v) :
    let c := if up then i + 1 else i
    v ≤ grid f c ∧ ∀ j, v ≤ (grid f j : ℝ) → c ≤ j := by
  cases up
  · obtain exact_ : v = grid f i := le_antisymm (not_lt.1 fun h => by simpa using inexact.2 h) low
    exact ⟨exact_.le, fun j hj => (grid_strictMono f).le_iff_le.1 (exact_ ▸ hj)⟩
  · exact ⟨high.le, fun j hj => Nat.succ_le_of_lt ((grid_strictMono f).lt_iff_lt.1 ((inexact.1 rfl).trans_le hj))⟩

/-- The nearest magnitude is one of the two, by the middle between them; the even one in the middle. -/
theorem nearest_of_between (low : (grid f i : ℝ) ≤ v) (high : v < grid f (i + 1)) (up : Bool)
    (goesUp : up = true ↔ (grid f i + grid f (i + 1) : ℝ) / 2 < v ∨ v = (grid f i + grid f (i + 1) : ℝ) / 2 ∧ i % 2 = 1) (j : Nat) :
    let c := if up then i + 1 else i
    |v - grid f c| ≤ |v - grid f j| ∧ (j ≠ c → |v - grid f c| = |v - grid f j| → c % 2 = 0) := by
  have outside : (grid f j : ℝ) ≤ grid f i ∨ (grid f (i + 1) : ℝ) ≤ grid f j :=
    (Nat.lt_or_ge i j).symm.imp (fun h => (grid_strictMono f).monotone h) fun h => (grid_strictMono f).monotone h
  have other {c : Nat} (h : j ≠ c) : (grid f j : ℝ) ≠ grid f c := (grid_strictMono f).injective.ne h
  obtain ⟨stays, goes⟩ := nearest_of_neighbours low high outside
  cases up
  · obtain ⟨short, odd⟩ := not_or.1 (mt goesUp.2 Bool.false_ne_true)
    obtain ⟨least, tie⟩ := stays (not_lt.1 short)
    refine ⟨least, fun ne eq => ?_⟩
    have even := mt (And.intro ((tie eq).resolve_left (other ne))) odd
    show i % 2 = 0
    omega
  · have far := goesUp.1 rfl
    obtain ⟨least, tie⟩ := goes (far.elim le_of_lt fun h => h.1.ge)
    refine ⟨least, fun ne eq => ?_⟩
    have odd := (far.resolve_left ((tie eq).resolve_left (other ne)).le.not_gt).2
    show (i + 1) % 2 = 0
    omega

/-- The choice of the model, which compares the part above the lower neighbour with half of what lies between the two. -/
theorem roundsTo_of_between (low : (grid f i : ℝ) ≤ v) (high : v < grid f (i + 1)) (rm : Nat) (neg : Bool) {rem den : Nat}
    (some_ : 0 < rem ↔ (grid f i : ℝ) < v) (most : den < 2 * rem ↔ (grid f i + grid f (i + 1) : ℝ) / 2 < v)
    (half : 2 * rem = den ↔ v = (grid f i + grid f (i + 1) : ℝ) / 2) :
    RoundsTo f rm neg v (if roundsUp rm neg (i % 2 == 1) rem den then i + 1 else i) := by
  have up := above_of_between low high (decide (0 < rem)) (by simp [some_])
  have down := below_of_between low high
  match rm with
  | 0 => exact nearest_of_between low high _ (by simp [roundsUp, most, half])
  | 1 => exact down
  | 2 => cases neg with
    | false => simpa [RoundsTo, roundsUp] using up
    | true => simpa [RoundsTo, roundsUp] using down
  | n + 3 => cases neg with
    | false => simpa [RoundsTo, roundsUp] using down
    | true => simpa [RoundsTo, roundsUp] using up

/-- A magnitude of the format is rounded to itself. -/
theorem roundsTo_grid {rm j : Nat} {neg : Bool} (h : RoundsTo f rm neg (grid f i) j) : j = i := by
  have order (a b : Nat) : (grid f a : ℝ) ≤ grid f b ↔ a ≤ b := (grid_strictMono f).le_iff_le
  have below (h : (grid f j : ℝ) ≤ grid f i ∧ ∀ k, (grid f k : ℝ) ≤ grid f i → k ≤ j) : j = i :=
    le_antisymm ((order j i).1 h.1) (h.2 i le_rfl)
  have above (h : (grid f i : ℝ) ≤ grid f j ∧ ∀ k, (grid f i : ℝ) ≤ grid f k → j ≤ k) : j = i :=
    le_antisymm (h.2 i le_rfl) ((order i j).1 h.1)
  match rm, h with
  | 0, h =>
    have near := (h i).1
    rw [sub_self, abs_zero, abs_nonpos_iff, sub_eq_zero] at near
    exact ((grid_strictMono f).injective near).symm
  | 1, h => exact below h
  | 2, h => cases neg with
    | false => exact above h
    | true => exact below h
  | _ + 3, h => cases neg with
    | false => exact below h
    | true => exact above h

end

end Sys2Proof.Machine

/-! PROOFS. The rounding of the model gives the magnitude that R53 chooses, its flags and its pattern (R52 to R54). -/

namespace Sys2Proof.Machine

/-! ### The model's rounding (R52 to R54) -/

/-- A power of two with an exponent that is no less than 0. -/
theorem two_pow_toNat {e : ℤ} (h : 0 ≤ e) : ((2 ^ e.toNat : Nat) : ℝ) = (2 : ℝ) ^ e := by
  rw [Nat.cast_pow, ← zpow_natCast, Int.toNat_of_nonneg h, Nat.cast_ofNat]

/-- A fraction n / d in units of 2^u. -/
def scaled (u : ℤ) (n d : Nat) : Nat × Nat := if 0 ≤ u then (n, d * 2 ^ u.toNat) else (n * 2 ^ (-u).toNat, d)

theorem scaled_pos (u : ℤ) (n : Nat) {d : Nat} (hd : 0 < d) : 0 < (scaled u n d).2 := by
  unfold scaled
  split
  · positivity
  · exact hd

theorem scaled_value (u : ℤ) (n d : Nat) : ((scaled u n d).1 : ℝ) / (scaled u n d).2 = n / d / 2 ^ u := by
  unfold scaled
  split
  · next h => rw [Nat.cast_mul, two_pow_toNat h, div_div]
  · next h => rw [Nat.cast_mul, two_pow_toNat (by omega), zpow_neg]; ring

/-- `floorLog` is the exponent of n / d. -/
theorem floorLog_spec {n d : Nat} (hn : 0 < n) (hd : 0 < d) :
    (2 : ℝ) ^ floorLog n d ≤ n / d ∧ (n / d : ℝ) < 2 ^ (floorLog n d + 1) := by
  have dpos : (0 : ℝ) < d := by exact_mod_cast hd
  have lowN : (2 : ℝ) ^ (n.log2 : ℤ) ≤ n := by exact_mod_cast Nat.log2_self_le hn.ne'
  have highN : (n : ℝ) < 2 ^ ((n.log2 : ℤ) + 1) := by exact_mod_cast Nat.lt_log2_self (n := n)
  have lowD : (2 : ℝ) ^ (d.log2 : ℤ) ≤ d := by exact_mod_cast Nat.log2_self_le hd.ne'
  have highD : (d : ℝ) < 2 ^ ((d.log2 : ℤ) + 1) := by exact_mod_cast Nat.lt_log2_self (n := d)
  have step (x y : ℤ) : (2 : ℝ) ^ (x + y) = 2 ^ x * 2 ^ y := zpow_add₀ two_ne_zero x y
  generalize hk : (n.log2 : ℤ) - d.log2 = k
  have logs : (n.log2 : ℤ) = k + d.log2 := by omega
  rw [logs] at lowN highN
  have powD : (0 : ℝ) < 2 ^ (d.log2 : ℤ) := by positivity
  have powK : (0 : ℝ) < 2 ^ k := by positivity
  have upper : (n / d : ℝ) < 2 ^ (k + 1) := by
    rw [div_lt_iff₀ dpos]
    calc (n : ℝ) < 2 ^ (k + 1) * 2 ^ (d.log2 : ℤ) := by rw [← step]; convert highN using 2; ring
      _ ≤ 2 ^ (k + 1) * d := by gcongr
  have lower : (2 : ℝ) ^ (k - 1) ≤ n / d := by
    rw [le_div_iff₀ dpos]
    calc (2 : ℝ) ^ (k - 1) * d ≤ 2 ^ (k - 1) * 2 ^ ((d.log2 : ℤ) + 1) := by gcongr
      _ = 2 ^ (k + d.log2) := by rw [← step]; congr 1; ring
      _ ≤ n := lowN
  have decided : (if 0 ≤ k then decide (d * 2 ^ k.toNat ≤ n) else decide (d ≤ n * 2 ^ (-k).toNat)) = true ↔
      (2 : ℝ) ^ k ≤ n / d := by
    rw [le_div_iff₀ dpos]
    split
    · next h => rw [decide_eq_true_iff, ← Nat.cast_le (α := ℝ), Nat.cast_mul, two_pow_toNat h, mul_comm]
    · next h =>
      rw [decide_eq_true_iff, ← Nat.cast_le (α := ℝ), Nat.cast_mul, two_pow_toNat (by omega), zpow_neg,
        ← div_eq_mul_inv, le_div_iff₀ powK, mul_comm]
  simp only [floorLog, hk]
  generalize (if 0 ≤ k then decide (d * 2 ^ k.toNat ≤ n) else decide (d ≤ n * 2 ^ (-k).toNat)) = big at decided ⊢
  cases big
  · rw [if_neg Bool.false_ne_true, sub_add_cancel]
    exact ⟨lower, not_le.1 (mt decided.2 Bool.false_ne_true)⟩
  · exact ⟨decided.1 rfl, upper⟩

/-- The unit in which `roundMag` counts a magnitude n / d is 2 to this exponent. -/
def roundUnit (f : FpFmt) (n d : Nat) : ℤ := max (floorLog n d) (-126) - (f.p - 1 : Nat)

/-- The octave of that unit. -/
def roundOctave (n d : Nat) : Nat := (max (floorLog n d) (-126) + 126).toNat

/-- The whole units of the magnitude stand in its octave. -/
theorem units_in_octave (f : FpFmt) {n d : Nat} (hn : 0 < n) (hd : 0 < d) :
    let c := scaled (roundUnit f n d) n d
    c.1 / c.2 < 2 * 2 ^ (f.p - 1) ∧ (roundOctave n d = 0 ∨ 2 ^ (f.p - 1) ≤ c.1 / c.2) := by
  intro c
  have cpos : 0 < c.2 := scaled_pos _ _ hd
  have cpos' : (0 : ℝ) < c.2 := by exact_mod_cast cpos
  have value : (c.1 : ℝ) / c.2 = n / d / 2 ^ roundUnit f n d := scaled_value ..
  obtain ⟨low, high⟩ := floorLog_spec hn hd
  have unit : (0 : ℝ) < 2 ^ roundUnit f n d := by positivity
  have step (x y : ℤ) : (2 : ℝ) ^ (x + y) = 2 ^ x * 2 ^ y := zpow_add₀ two_ne_zero x y
  constructor
  · rw [Nat.div_lt_iff_lt_mul cpos, ← Nat.cast_lt (α := ℝ), Nat.cast_mul, ← div_lt_iff₀ cpos', value, div_lt_iff₀ unit]
    calc (n / d : ℝ) < 2 ^ (floorLog n d + 1) := high
      _ ≤ 2 ^ (1 + ((f.p - 1 : Nat) : ℤ) + roundUnit f n d) := by
        refine zpow_le_zpow_right₀ one_le_two ?_
        simp only [roundUnit]
        omega
      _ = _ := by rw [step, step, zpow_natCast]; push_cast; ring
  · rcases lt_or_ge (floorLog n d) (-126) with small | normal
    · exact .inl (by simp only [roundOctave]; omega)
    · refine .inr ?_
      rw [Nat.le_div_iff_mul_le cpos, ← Nat.cast_le (α := ℝ), Nat.cast_mul, ← le_div_iff₀ cpos', value, le_div_iff₀ unit]
      calc _ = (2 : ℝ) ^ (((f.p - 1 : Nat) : ℤ) + roundUnit f n d) := by rw [step, zpow_natCast]; push_cast; ring
        _ = 2 ^ floorLog n d := by simp only [roundUnit]; congr 1; omega
        _ ≤ n / d := low

/-- The result of a chosen magnitude (R52, R54). -/
def resultOf (f : FpFmt) (rm : Nat) (ftz neg : Bool) (i : Nat) (inexact : Bool) : FRes :=
  if 255 * 2 ^ (f.p - 1) ≤ i then
    ⟨if rm == 0 || (rm == 2 && !neg) || (rm == 3 && neg) then infPat f neg else maxPat f neg, fOF + fNX, false⟩
  else if i < 2 ^ (f.p - 1) ∧ ftz ∧ i ≠ 0 then ⟨signBit f neg, fUF + fNX, false⟩
  else ⟨signBit f neg + i, (if inexact then fNX else 0) + (if decide (i < 2 ^ (f.p - 1)) && inexact then fUF else 0),
    decide (i < 2 ^ (f.p - 1)) && i != 0⟩

/-- It is the result that R52 to R54 ask for. -/
theorem resultOf_delivers {f : FpFmt} {rm i : Nat} {ftz neg inexact : Bool} {v : ℝ} (hrm : rm < 4)
    (chosen : RoundsTo f rm neg v i) (exact_ : inexact = false ↔ (grid f i : ℝ) = v) :
    Delivers f rm ftz neg v (resultOf f rm ftz neg i inexact) := by
  have least_top : 2 ^ (f.p - 1) ≤ 255 * 2 ^ (f.p - 1) := Nat.le_mul_of_pos_left _ (by norm_num)
  refine ⟨i, chosen, fun passes => ?_, fun flush pos small => ?_, fun fits keeps => ?_⟩
  · rw [resultOf, if_pos passes]
    have mode : (rm == 0 || (rm == 2 && !neg) || (rm == 3 && neg)) = decide (rm = 0 ∨ rm = if neg then 3 else 2) := by
      cases neg <;> interval_cases rm <;> rfl
    simp only [mode, decide_eq_true_eq, infPat, maxPat, signBit]
    rw [Nat.add_sub_assoc (Nat.one_le_iff_ne_zero.2 (by positivity : 255 * 2 ^ (f.p - 1) ≠ 0))]
    by_cases up : rm = 0 ∨ rm = if neg then 3 else 2
    · rw [if_pos up, if_pos up]
    · rw [if_neg up, if_neg up]
  · rw [resultOf, if_neg (by omega), if_pos ⟨small, flush, pos.ne'⟩]
    rfl
  · rw [resultOf, if_neg (by omega), if_neg (by rintro ⟨small, flush, nonzero⟩; simp_all; omega)]
    refine ⟨rfl, ?_, fun h => ?_, fun h => ?_⟩
    · rw [Bool.eq_iff_iff]
      simp [Nat.pos_iff_ne_zero, and_comm]
    · simp [exact_.2 h]
    · have inexact_ : inexact = true := by simpa using mt exact_.1 h
      subst inexact_
      by_cases small : i < 2 ^ (f.p - 1) <;> simp [small, fNX, fUF]

/-- The choice of `roundMag`. -/
theorem roundMag_eq (f : FpFmt) (rm : Nat) (ftz neg : Bool) {n d : Nat} (hn : 0 < n) (hd : 0 < d) :
    let c := scaled (roundUnit f n d) n d
    let i := roundOctave n d * 2 ^ (f.p - 1) + c.1 / c.2
    roundMag f rm ftz neg n d =
      resultOf f rm ftz neg (if roundsUp rm neg (c.1 / c.2 % 2 == 1) (c.1 % c.2) c.2 then i + 1 else i) (c.1 % c.2 != 0) := by
  intro c i
  have octave : roundOctave n d = 0 ∨ 2 ^ (f.p - 1) ≤ c.1 / c.2 := (units_in_octave f hn hd).2
  have cs : (if 0 ≤ roundUnit f n d then (n, d * 2 ^ (roundUnit f n d).toNat)
      else (n * 2 ^ (-roundUnit f n d).toNat, d)) = c := rfl
  simp only [roundMag]
  rw [show max (floorLog n d) (-126) - ((f.p - 1 : Nat) : ℤ) = roundUnit f n d from rfl, cs]
  generalize hm : (if roundsUp rm neg (c.1 / c.2 % 2 == 1) (c.1 % c.2) c.2 = true then c.1 / c.2 + 1 else c.1 / c.2) = m
  have least : c.1 / c.2 ≤ m := by rw [← hm]; split <;> omega
  have index : (if roundsUp rm neg (c.1 / c.2 % 2 == 1) (c.1 % c.2) c.2 = true then i + 1 else i) =
      roundOctave n d * 2 ^ (f.p - 1) + m := by rw [← hm]; split <;> rfl
  have unit : roundUnit f n d + (f.p - 1 : Nat) + 126 = roundOctave n d := by
    simp only [roundUnit, roundOctave]
    omega
  rw [index, unit]
  rcases Nat.lt_or_ge m (2 ^ (f.p - 1)) with small | large
  · have low : roundOctave n d = 0 := octave.resolve_right fun h => by omega
    simp only [if_pos small, low, Nat.zero_mul, Nat.zero_add, resultOf, Int.toNat_natCast, ge_iff_le]
    norm_cast
  · have large' : ¬roundOctave n d * 2 ^ (f.p - 1) + m < 2 ^ (f.p - 1) := by omega
    simp only [resultOf, large', large.not_gt, false_and, if_false, decide_false, Bool.false_and]
    norm_cast

/-- Two magnitudes that stand alike to every multiple of 2^e. -/
def Alike (e : ℤ) (v w : ℝ) : Prop := ∀ z : ℤ, (z * (2 : ℝ) ^ e < v ↔ z * (2 : ℝ) ^ e < w) ∧ (v < z * 2 ^ e ↔ w < z * 2 ^ e)

/-- The comparisons of `roundsUp` on q units and a rest are those of every magnitude that stands to half units alike. -/
theorem choices_of_alike {e : ℤ} {q rem den : Nat} {v w : ℝ} (hrem : rem < den)
    (whole : w = (q + rem / den) * 2 ^ e) (alike : Alike (e - 1) v w) :
    let mid : ℝ := (q * 2 ^ e + (q + 1 : ℕ) * 2 ^ e) / 2
    (q : ℝ) * 2 ^ e ≤ v ∧ v < (q + 1 : ℕ) * (2 : ℝ) ^ e ∧ (0 < rem ↔ (q : ℝ) * 2 ^ e < v) ∧ (den < 2 * rem ↔ mid < v) ∧
      (2 * rem = den ↔ v = mid) := by
  have dpos : (0 : ℝ) < den := by exact_mod_cast (Nat.zero_le rem).trans_lt hrem
  have unit : (0 : ℝ) < 2 ^ e := by positivity
  have halves (z : ℤ) : (z : ℝ) * 2 ^ (e - 1) = z / 2 * 2 ^ e := by rw [zpow_sub_one₀ two_ne_zero]; ring
  have cmp (r : ℝ) : (r * 2 ^ e < w ↔ r < q + rem / den) ∧ (w < r * 2 ^ e ↔ q + rem / den < r) := by
    simp only [whole, mul_lt_mul_iff_left₀ unit, and_self]
  obtain ⟨low, low'⟩ := alike (2 * q)
  obtain ⟨half, half'⟩ := alike (2 * q + 1)
  obtain ⟨-, high'⟩ := alike (2 * q + 2)
  simp only [halves, cmp] at low low' half half' high'
  push_cast at low low' half half' high' ⊢
  have part : (0 : ℝ) ≤ rem / den ∧ (rem / den : ℝ) < 1 :=
    ⟨by positivity, by rw [div_lt_one dpos]; exact_mod_cast hrem⟩
  have rest : (0 < rem ↔ (0 : ℝ) < rem / den) ∧ (den < 2 * rem ↔ (1 / 2 : ℝ) < rem / den) ∧
      (2 * rem < den ↔ (rem / den : ℝ) < 1 / 2) := by
    refine ⟨?_, ?_, ?_⟩
    · rw [lt_div_iff₀ dpos, zero_mul, Nat.cast_pos]
    · rw [lt_div_iff₀ dpos, ← Nat.cast_lt (α := ℝ)]; push_cast; constructor <;> intro h <;> linarith
    · rw [div_lt_iff₀ dpos, ← Nat.cast_lt (α := ℝ)]; push_cast; constructor <;> intro h <;> linarith
  rw [show (2 * (q : ℝ)) / 2 = q by ring] at low low'
  rw [show (2 * (q : ℝ) + 2) / 2 = q + 1 by ring] at high'
  rw [show (2 * (q : ℝ) + 1) / 2 = q + 1 / 2 by ring] at half half'
  rw [show ((q : ℝ) * 2 ^ e + (q + 1) * 2 ^ e) / 2 = (q + 1 / 2) * 2 ^ e by ring]
  have above : den < 2 * rem ↔ ((q : ℝ) + 1 / 2) * 2 ^ e < v := by rw [half, rest.2.1, add_lt_add_iff_left]
  have under : 2 * rem < den ↔ v < ((q : ℝ) + 1 / 2) * 2 ^ e := by rw [half', rest.2.2, add_lt_add_iff_left]
  refine ⟨not_lt.1 (mt low'.1 (by linarith)), high'.2 (by linarith), ?_, above, ?_⟩
  · rw [low, rest.1, lt_add_iff_pos_right]
  · constructor
    · exact fun h => le_antisymm (not_lt.1 (mt above.2 (by omega))) (not_lt.1 (mt under.2 (by omega)))
    · rintro rfl
      have neither := And.intro (mt above.1 (lt_irrefl _)) (mt under.1 (lt_irrefl _))
      omega

/-- What has no rest stays. -/
theorem roundsUp_zero (rm : Nat) (neg odd : Bool) {den : Nat} (h : 0 < den) : roundsUp rm neg odd 0 den = false := by
  unfold roundsUp
  split <;> simp [h.ne]

/-- What `roundMag` makes of n / d is what R52 to R54 make of every magnitude that stands to the half units of its rounding as n / d
does: of n / d itself, and of a root that n / d stands for. -/
theorem roundMag_delivers {f : FpFmt} (hp : 2 ≤ f.p) {rm n d : Nat} {ftz neg : Bool} (hrm : rm < 4) (hn : 0 < n) (hd : 0 < d)
    {v : ℝ} (alike : Alike (roundUnit f n d - 1) v (n / d)) : Delivers f rm ftz neg v (roundMag f rm ftz neg n d) := by
  obtain ⟨below, octave⟩ := units_in_octave f hn hd
  rw [roundMag_eq f rm ftz neg hn hd]
  have cpos := scaled_pos (roundUnit f n d) n hd
  have value := scaled_value (roundUnit f n d) n d
  generalize scaled (roundUnit f n d) n d = c at *
  have whole : (n / d : ℝ) = ((c.1 / c.2 : ℕ) + (c.1 % c.2 : ℕ) / c.2) * 2 ^ roundUnit f n d := by
    have cpos' : (c.2 : ℝ) ≠ 0 := by exact_mod_cast cpos.ne'
    have split : (c.1 : ℝ) = c.2 * (c.1 / c.2 : ℕ) + (c.1 % c.2 : ℕ) := by exact_mod_cast (Nat.div_add_mod c.1 c.2).symm
    rw [eq_div_iff (by positivity)] at value
    rw [← value, split]
    field_simp
  have unit : (2 : ℝ) ^ ((roundOctave n d : ℤ) - 126 - (f.p - 1 : Nat)) = 2 ^ roundUnit f n d := by
    simp only [roundUnit, roundOctave]
    congr 1
    omega
  have here := grid_octave f below.le octave
  have next := grid_octave f (q := c.1 / c.2 + 1) below (octave.imp_right fun h => by omega)
  rw [unit] at here next
  rw [← Nat.add_assoc] at next
  have parity : c.1 / c.2 % 2 = (roundOctave n d * 2 ^ (f.p - 1) + c.1 / c.2) % 2 := by
    have even : 2 ∣ 2 ^ (f.p - 1) := dvd_pow_self 2 (by omega)
    have even' := even.mul_left (roundOctave n d)
    omega
  rw [parity]
  generalize roundOctave n d * 2 ^ (f.p - 1) + c.1 / c.2 = i at *
  have choices := choices_of_alike (Nat.mod_lt c.1 cpos) whole alike
  rw [← here, ← next] at choices
  obtain ⟨low, high, some_, most, half⟩ := choices
  refine resultOf_delivers hrm (roundsTo_of_between low high rm neg some_ most half) ?_
  rcases Nat.eq_zero_or_pos (c.1 % c.2) with none_ | some'
  · have is_v : (grid f i : ℝ) = v := le_antisymm low (not_lt.1 (mt some_.2 none_.not_gt))
    rw [none_, roundsUp_zero _ _ _ cpos, if_neg Bool.false_ne_true]
    exact iff_of_true rfl is_v
  · have strict := some_.1 some'
    simp only [bne_eq_false_iff_eq, some'.ne', false_iff]
    split
    · exact high.ne'
    · exact strict.ne

end Sys2Proof.Machine

/-! PROOFS. Sums, products, fused forms and quotients of finite data are the exact results rounded once (R52, R53). -/

namespace Sys2Proof.Machine

/-! ### Exact dyadics -/

/-- Value of an exact dyadic. -/
noncomputable def Dy.val (a : Dy) : ℝ := a.n * (2 : ℝ) ^ a.e

theorem Dy.val_eq_zero {a : Dy} : a.val = 0 ↔ a.n = 0 := by
  simp [Dy.val, zpow_ne_zero]

theorem Dy.val_neg_iff {a : Dy} : a.val < 0 ↔ a.n < 0 := by
  have unit : (0 : ℝ) < 2 ^ a.e := by positivity
  rw [Dy.val, mul_neg_iff]
  simp [unit, unit.not_gt]

theorem Dy.val_add (a b : Dy) : (a.add b).val = a.val + b.val := by
  have shift (x y : ℤ) (h : x ≤ y) (n : ℤ) : ((n * 2 ^ (y - x).toNat : ℤ) : ℝ) * 2 ^ x = n * 2 ^ y := by
    have power : ((2 ^ (y - x).toNat : ℤ) : ℝ) = 2 ^ (y - x) := by
      rw [← two_pow_toNat (sub_nonneg.2 h)]
      push_cast
      rfl
    rw [Int.cast_mul, power, mul_assoc, ← zpow_add₀ two_ne_zero, sub_add_cancel]
  unfold Dy.add
  split
  · next h => simp only [Dy.val, Int.cast_add, add_mul, shift _ _ h]
  · next h => simp only [Dy.val, Int.cast_add, add_mul, shift _ _ (le_of_not_ge h)]

/-- Numerator and denominator of the magnitude. -/
theorem Dy.frac_val (a : Dy) : (a.frac.1 : ℝ) / a.frac.2 = |a.val| := by
  have size : |a.val| = a.n.natAbs * 2 ^ a.e := by
    rw [Dy.val, abs_mul, Nat.cast_natAbs, Int.cast_abs, abs_of_pos (by positivity : (0 : ℝ) < 2 ^ a.e)]
  rw [size, Dy.frac]
  split
  · next h => rw [Nat.cast_mul, two_pow_toNat h, Nat.cast_one, div_one]
  · next h => rw [two_pow_toNat (by omega), zpow_neg, div_inv_eq_mul]

theorem Dy.frac_den_pos (a : Dy) : 0 < a.frac.2 := by
  unfold Dy.frac
  split
  · exact one_pos
  · positivity

theorem Dy.frac_num_pos {a : Dy} (h : a.n ≠ 0) : 0 < a.frac.1 := by
  have size : 0 < a.n.natAbs := Int.natAbs_pos.2 h
  unfold Dy.frac
  split
  · positivity
  · exact size

theorem finDy_val (neg : Bool) (m : Nat) (e : Int) : (finDy neg m e).val = signed neg ((m : ℝ) * 2 ^ e) := by
  cases neg <;> simp [finDy, Dy.val, signed]

theorem signed_eq_zero {neg : Bool} {u : ℝ} : signed neg u = 0 ↔ u = 0 := by
  cases neg <;> simp [signed]

/-- The sign of a datum that is not 0 is its value's. -/
theorem signed_neg_iff {neg : Bool} {m : Nat} {e : Int} (h : (m : ℝ) * 2 ^ e ≠ 0) :
    neg = true ↔ signed neg ((m : ℝ) * 2 ^ e) < 0 := by
  have pos : (0 : ℝ) < m * 2 ^ e := lt_of_le_of_ne (by positivity) h.symm
  cases neg <;> simp [signed, pos, pos.le]

theorem abs_signed (neg : Bool) (m : Nat) (e : Int) : |signed neg ((m : ℝ) * 2 ^ e)| = (m : ℝ) * 2 ^ e := by
  have pos : (0 : ℝ) ≤ m * 2 ^ e := by positivity
  cases neg <;> simp [signed, abs_of_nonneg pos]

/-! ### Results rounded once (R53) -/

/-- The result of an exact value: rounded once, or the zero of a sign. -/
def Gives (f : FpFmt) (rm : Nat) (ftz : Bool) (v : ℝ) (zero : Bool) (r : FRes) : Prop :=
  (v ≠ 0 → ∀ neg, (neg = true ↔ v < 0) → Delivers f rm ftz neg |v| r) ∧
    (v = 0 → r = ⟨if zero then 2 ^ (f.p + 7) else 0, 0, false⟩)

section
variable {f : FpFmt} {rm : Nat} {ftz : Bool} (hp : 2 ≤ f.p) (hrm : rm < 4)
include hp hrm

theorem roundMag_gives {n d : Nat} {neg : Bool} (hn : 0 < n) (hd : 0 < d) :
    Delivers f rm ftz neg (n / d) (roundMag f rm ftz neg n d) :=
  roundMag_delivers hp hrm hn hd fun _ => ⟨Iff.rfl, Iff.rfl⟩

/-- An exact dyadic is rounded once. -/
theorem roundDy_gives (zero : Bool) (a : Dy) : Gives f rm ftz a.val zero (roundDy f rm ftz zero a) := by
  refine ⟨fun nonzero neg sign => ?_, fun h => ?_⟩
  · have hn := mt Dy.val_eq_zero.2 nonzero
    have same : decide (a.n < 0) = neg := by
      rw [Bool.eq_iff_iff, decide_eq_true_iff, sign, Dy.val_neg_iff]
    rw [roundDy, if_neg hn, ← Dy.frac_val, ← same]
    exact roundMag_gives hp hrm (Dy.frac_num_pos hn) a.frac_den_pos
  · rw [roundDy, if_pos (Dy.val_eq_zero.1 h)]
    rfl

end

/-! ### Sums, products and fused forms -/

theorem fin_eq_zero {m : Nat} {e : Int} : (m : ℝ) * 2 ^ e = 0 ↔ m = 0 := by
  simp [zpow_ne_zero]

theorem signed_mul (a b : Bool) (u v : ℝ) : signed (a != b) (u * v) = signed a u * signed b v := by
  cases a <;> cases b <;> simp [signed]

theorem signed_div (a b : Bool) (u v : ℝ) : signed (a != b) (u / v) = signed a u / signed b v := by
  cases a <;> cases b <;> simp [signed, neg_div, div_neg]

theorem Fp.Is.negFp {x : Fp} {a : Bool} {u : ℝ} (hx : x.Is a u) : (negFp x).Is (!a) u := by
  obtain ⟨m, e, rfl, rfl⟩ := hx
  exact ⟨m, e, rfl, rfl⟩

/-- The product of finite data is their exact product (R52). -/
theorem Fp.Is.fpProd {x y : Fp} {a b : Bool} {u v : ℝ} (hx : x.Is a u) (hy : y.Is b v) :
    ∃ m e, fpProd x y = (.fin (a != b) m e, false) ∧ u * v = m * (2 : ℝ) ^ e := by
  obtain ⟨m, d, rfl, rfl⟩ := hx
  obtain ⟨n, e, rfl, rfl⟩ := hy
  refine ⟨m * n, d + e, rfl, ?_⟩
  rw [zpow_add₀ two_ne_zero, Nat.cast_mul]
  ring

section
variable {f : FpFmt} {rm : Nat} {ftz a b c : Bool} {x y z : Fp} {u v w : ℝ} (hp : 2 ≤ f.p) (hrm : rm < 4)
include hp hrm

theorem fpAdd_gives (hx : x.Is a u) (hy : y.Is b v) {neg : Bool} (same : (u = 0 ∧ v = 0) → a = b → neg = a)
    (other : ¬((u = 0 ∧ v = 0) ∧ a = b) → neg = decide (rm = 3)) :
    Gives f rm ftz (signed a u + signed b v) neg (fpAdd f rm ftz x y) := by
  obtain ⟨m, d, rfl, rfl⟩ := hx
  obtain ⟨n, e, rfl, rfl⟩ := hy
  simp only [fin_eq_zero] at same other
  have zero : (if m = 0 ∧ n = 0 ∧ a = b then a else rm == 3) = neg := by
    split
    · next h => exact (same ⟨h.1, h.2.1⟩ h.2.2).symm
    · next h => exact (other fun k => h ⟨k.1.1, k.1.2, k.2⟩).symm
  rw [← finDy_val, ← finDy_val, ← Dy.val_add, ← zero]
  exact roundDy_gives hp hrm _ _

/-- A finite datum is rounded once. -/
theorem fpToFp_gives (hx : x.Is a u) : Gives f rm ftz (signed a u) a (fpToFp f rm ftz x) := by
  obtain ⟨m, d, rfl, rfl⟩ := hx
  rw [← finDy_val]
  exact roundDy_gives hp hrm _ _

theorem fpMul_gives (hx : x.Is a u) (hy : y.Is b v) :
    Gives f rm ftz (signed a u * signed b v) (a != b) (fpMul f rm ftz x y) := by
  obtain ⟨m, e, product, value⟩ := hx.fpProd hy
  rw [fpMul, product, ← signed_mul, value, ← finDy_val]
  exact roundDy_gives hp hrm _ _

theorem fpFma_gives (hx : x.Is a u) (hy : y.Is b v) (hz : z.Is c w) {neg : Bool}
    (same : (u * v = 0 ∧ w = 0) → (a != b) = c → neg = (a != b))
    (other : ¬((u * v = 0 ∧ w = 0) ∧ (a != b) = c) → neg = decide (rm = 3)) :
    Gives f rm ftz (signed a u * signed b v + signed c w) neg (fpFma f rm ftz x y z) := by
  obtain ⟨m, e, product, value⟩ := hx.fpProd hy
  have adds : fpFma f rm ftz x y z = fpAdd f rm ftz (.fin (a != b) m e) z := by rw [fpFma, product]; rfl
  rw [adds, ← signed_mul]
  exact fpAdd_gives hp hrm ⟨m, e, rfl, value⟩ hz same other

/-! ### Quotients -/

theorem fpDiv_gives (hx : x.Is a u) (hy : y.Is b v) (hv : v ≠ 0) :
    Gives f rm ftz (signed a u / signed b v) (a != b) (fpDiv f rm ftz x y) := by
  obtain ⟨m, d, rfl, rfl⟩ := hx
  obtain ⟨n, e, rfl, rfl⟩ := hy
  have hn : n ≠ 0 := mt fin_eq_zero.2 hv
  rw [← signed_div]
  have quot : (m : ℝ) * 2 ^ d / (n * 2 ^ e) = m / n * 2 ^ (d - e) := by rw [zpow_sub₀ two_ne_zero]; field_simp
  refine ⟨fun nonzero neg sign => ?_, fun h => ?_⟩
  · have hm : m ≠ 0 := fun h => nonzero (signed_eq_zero.2 (by simp [h]))
    have pos : (0 : ℝ) < m / n * 2 ^ (d - e) := by positivity
    rw [quot] at sign ⊢
    obtain rfl : neg = (a != b) := by
      rw [Bool.eq_iff_iff, sign]
      generalize (a != b) = g
      cases g <;> simp [signed, pos, pos.le]
    rw [show |signed (a != b) (m / n * 2 ^ (d - e) : ℝ)| = m / n * 2 ^ (d - e) by
      cases a != b <;> simp [signed, abs_of_pos pos]]
    simp only [fpDiv, if_neg hn, if_neg hm]
    split
    · next h =>
      convert roundMag_gives hp hrm (n := m * 2 ^ (d - e).toNat) (d := n) (by positivity) (Nat.pos_of_ne_zero hn) using 1
      rw [Nat.cast_mul, two_pow_toNat h]
      ring
    · next h =>
      convert roundMag_gives hp hrm (n := m) (d := n * 2 ^ (-(d - e)).toNat) (Nat.pos_of_ne_zero hm) (by positivity) using 1
      rw [Nat.cast_mul, two_pow_toNat (by omega), zpow_neg]
      field_simp
  · have hm : m = 0 := by
      rw [signed_eq_zero, div_eq_zero_iff] at h
      exact fin_eq_zero.1 (h.resolve_right hv)
    simp only [fpDiv, if_neg hn, if_pos hm]
    rfl

end

end Sys2Proof.Machine

/-! PROOFS. The square root is the exact one rounded once (R52, R53, R203). -/

namespace Sys2Proof.Machine

/-! ### Square roots -/

/-- The bits found so far are those of the root. -/
theorem isqrtFrom_spec (n : Nat) : ∀ i r : Nat, r * r ≤ n → n < (r + 2 ^ (i + 1)) * (r + 2 ^ (i + 1)) →
    isqrtFrom n i r * isqrtFrom n i r ≤ n ∧ n < (isqrtFrom n i r + 1) * (isqrtFrom n i r + 1)
  | 0, r, low, high => by
    unfold isqrtFrom
    split
    · next h => exact ⟨h, high⟩
    · next h => exact ⟨low, not_le.1 h⟩
  | i + 1, r, low, high => by
    have double : 2 ^ (i + 1 + 1) = 2 ^ (i + 1) + 2 ^ (i + 1) := by rw [pow_succ, mul_two]
    unfold isqrtFrom
    refine isqrtFrom_spec n i _ ?_ ?_
    · split
      · next h => exact h
      · exact low
    · split
      · rwa [add_assoc, ← double]
      · next h => exact not_le.1 h

/-- The search from half the binary logarithm finds the integer root. -/
theorem isqrtFrom_eq_sqrt (n : Nat) : isqrtFrom n (n.log2 / 2) 0 = n.sqrt := by
  have high : n < (0 + 2 ^ (n.log2 / 2 + 1)) * (0 + 2 ^ (n.log2 / 2 + 1)) := by
    rw [zero_add, ← pow_add]
    exact Nat.lt_log2_self.trans_le (Nat.pow_le_pow_right two_pos (by omega))
  exact Nat.eq_sqrt.2 (isqrtFrom_spec n _ 0 (Nat.zero_le _) high)

/-- Two magnitudes between neighbouring multiples of 2^k stand alike to all multiples of a larger power. -/
theorem alike_of_between {k e r : ℤ} {v w : ℝ} (hke : k ≤ e) (hv : r * (2 : ℝ) ^ k < v ∧ v < (r + 1) * 2 ^ k)
    (hw : r * (2 : ℝ) ^ k < w ∧ w < (r + 1) * 2 ^ k) : Alike e v w := by
  have unit : (0 : ℝ) < 2 ^ k := by positivity
  intro z
  obtain ⟨t, rfl⟩ : ∃ t : ℕ, e = k + t := ⟨(e - k).toNat, by omega⟩
  have multiple : (z : ℝ) * 2 ^ (k + t : ℤ) = (z * 2 ^ t : ℤ) * 2 ^ k := by
    rw [zpow_add₀ two_ne_zero, zpow_natCast]
    push_cast
    ring
  rw [multiple]
  generalize z * 2 ^ t = y
  have side {x : ℝ} (hx : r * (2 : ℝ) ^ k < x ∧ x < (r + 1) * 2 ^ k) : ((y : ℝ) * 2 ^ k < x ↔ y ≤ r) ∧ (x < y * 2 ^ k ↔ r < y) := by
    rcases le_or_gt y r with h | h
    · have below : (y : ℝ) * 2 ^ k ≤ r * 2 ^ k := by gcongr
      exact ⟨iff_of_true (below.trans_lt hx.1) h, iff_of_false (by linarith) h.not_gt⟩
    · have above : ((r : ℝ) + 1) * 2 ^ k ≤ y * 2 ^ k := by gcongr; exact_mod_cast h
      exact ⟨iff_of_false (by linarith) h.not_ge, iff_of_true (by linarith) h⟩
  exact ⟨(side hv).1.trans (side hw).1.symm, (side hv).2.trans (side hw).2.symm⟩

/-- The scaled integer root, with half a unit for an inexact rest. -/
def stickyRoot (n : Nat) : Nat := if n.sqrt * n.sqrt = n then 2 * n.sqrt else 2 * n.sqrt + 1

/-- Such a root of over 32 bits stands to the half units of its rounding as the exact root does. -/
theorem stickyRoot_alike {f : FpFmt} (hp : f.p ≤ 24) {n a d : Nat} {k : ℤ} (hn : 2 ^ 64 ≤ n) (ha : 0 < a) (hd : 0 < d)
    (value : (a / d : ℝ) = stickyRoot n * 2 ^ (k - 1)) :
    Alike (roundUnit f a d - 1) (Real.sqrt n * 2 ^ k) (a / d) := by
  have root_low : ((n.sqrt : ℕ) : ℝ) ≤ Real.sqrt n := Real.nat_sqrt_le_real_sqrt
  have root_high : Real.sqrt n < n.sqrt + 1 := Real.real_sqrt_lt_nat_sqrt_succ
  have unit : (0 : ℝ) < 2 ^ k := by positivity
  have half : (2 : ℝ) ^ (k - 1) = 2 ^ k / 2 := zpow_sub_one₀ two_ne_zero k
  rw [value, half]
  by_cases square : n.sqrt * n.sqrt = n
  · have root : Real.sqrt n = n.sqrt := by
      rw [Real.sqrt_eq_iff_mul_self_eq (by positivity) (by positivity)]
      exact_mod_cast square.symm
    rw [root, stickyRoot, if_pos square]
    intro z
    rw [show ((2 * n.sqrt : ℕ) : ℝ) * (2 ^ k / 2) = n.sqrt * 2 ^ k by push_cast; ring]
    exact ⟨Iff.rfl, Iff.rfl⟩
  · have strict : (n.sqrt : ℝ) < Real.sqrt n := lt_of_le_of_ne root_low fun h => square <| by
      have := Real.mul_self_sqrt (Nat.cast_nonneg (α := ℝ) n)
      rw [← h] at this
      exact_mod_cast this
    have large : 2 ^ 32 ≤ n.sqrt := Nat.le_sqrt.2 (le_trans (by norm_num) hn)
    have fine : k ≤ roundUnit f a d - 1 := by
      have high := (floorLog_spec ha hd).2
      rw [value, stickyRoot, if_neg square, half] at high
      have big : (2 : ℝ) ^ (32 + k) < 2 ^ (floorLog a d + 1) := by
        refine lt_of_le_of_lt ?_ high
        have large' : (2 : ℝ) ^ 32 ≤ n.sqrt := by exact_mod_cast large
        rw [zpow_add₀ two_ne_zero, zpow_ofNat]
        push_cast
        nlinarith
      have exponents := (zpow_lt_zpow_iff_right₀ one_lt_two).1 big
      simp only [roundUnit]
      omega
    rw [stickyRoot, if_neg square]
    refine alike_of_between (r := n.sqrt) fine ⟨?_, ?_⟩ ⟨?_, ?_⟩
    · rw [Int.cast_natCast]; gcongr
    · rw [Int.cast_natCast]; gcongr
    · push_cast; nlinarith
    · push_cast; nlinarith

theorem fpSqrt_gives {f : FpFmt} {rm : Nat} {ftz a : Bool} {x : Fp} {u : ℝ} (hp : 2 ≤ f.p ∧ f.p ≤ 24) (hrm : rm < 4)
    (hx : x.Is a u) (ha : a = false ∨ u = 0) : Gives f rm ftz (Real.sqrt u) a (fpSqrt f rm ftz x) := by
  obtain ⟨m, e, rfl, rfl⟩ := hx
  rw [fin_eq_zero] at ha
  by_cases hm : m = 0
  · subst hm
    simp [Gives, fpSqrt, FRes.exact, signBit]
  obtain rfl : a = false := ha.resolve_right hm
  have mpos : (0 : ℝ) < m := by exact_mod_cast Nat.pos_of_ne_zero hm
  have root_pos : 0 < Real.sqrt (m * 2 ^ e) := Real.sqrt_pos.2 (by positivity)
  refine ⟨fun _ neg sign => ?_, fun h => absurd h root_pos.ne'⟩
  obtain rfl : neg = false := Bool.eq_false_iff.2 fun h => (sign.1 h).not_gt root_pos
  have odd : 0 ≤ e % 2 := Int.emod_nonneg e two_ne_zero
  generalize hn : m * 2 ^ (64 + (e % 2).toNat) = n
  generalize hk : (e - (e % 2).toNat : ℤ) / 2 - 32 = k
  have large : 2 ^ 64 ≤ n := by
    rw [← hn, pow_add]
    nlinarith [Nat.pos_of_ne_zero hm, Nat.one_le_two_pow (n := (e % 2).toNat)]
  have root : Real.sqrt (m * 2 ^ e) = Real.sqrt n * 2 ^ k := by
    have square : (m * 2 ^ e : ℝ) = n * (2 ^ k) ^ 2 := by
      rw [← hn, Nat.cast_mul, Nat.cast_pow, Nat.cast_ofNat, mul_assoc, ← zpow_natCast, ← zpow_natCast, ← zpow_mul,
        ← zpow_add₀ two_ne_zero]
      congr 2
      push_cast
      omega
    rw [square, Real.sqrt_mul (Nat.cast_nonneg n), Real.sqrt_sq (by positivity)]
  have rounds : fpSqrt f rm ftz (.fin false m e) = roundDy f rm ftz false ⟨stickyRoot n, k - 1⟩ := by
    simp only [fpSqrt, if_neg hm, Bool.false_eq_true, if_false, hn, hk, isqrtFrom_eq_sqrt]
    rfl
  have nonzero : ((stickyRoot n : ℕ) : ℤ) ≠ 0 := by
    have pos : 0 < n.sqrt := Nat.sqrt_pos.2 (by omega)
    unfold stickyRoot
    split <;> omega
  generalize hy : (⟨stickyRoot n, k - 1⟩ : Dy) = y at rounds
  have value : (y.frac.1 : ℝ) / y.frac.2 = stickyRoot n * 2 ^ (k - 1) := by
    rw [Dy.frac_val, ← hy, Dy.val, Int.cast_natCast, abs_of_nonneg (by positivity)]
  have hy_n : y.n = stickyRoot n := by rw [← hy]
  rw [abs_of_pos root_pos, root, rounds, roundDy, if_neg (by rwa [hy_n]), decide_eq_false (by omega)]
  have num := Dy.frac_num_pos (a := y) (by rwa [hy_n])
  exact roundMag_delivers hp.1 hrm num y.frac_den_pos (stickyRoot_alike hp.2 large num y.frac_den_pos value)

end Sys2Proof.Machine

/-! PROOFS. Rounding to an integer, and the conversion of a finite datum to one (R53, R56). -/

namespace Sys2Proof.Machine

/-! ### Rounding to an integer (R53, R56) -/

section
variable {q : ℤ} {w : ℝ}

/-- The nearest integer is one of the two beside a magnitude; the even one in the middle. -/
theorem nearestInt_of_between (low : (q : ℝ) ≤ w) (high : w < q + 1) (up : Bool)
    (goesUp : up = true ↔ (q + (q + 1) : ℝ) / 2 < w ∨ w = (q + (q + 1) : ℝ) / 2 ∧ q % 2 = 1) (k : ℤ) :
    let c := if up then q + 1 else q
    |w - c| ≤ |w - k| ∧ (k ≠ c → |w - c| = |w - k| → c % 2 = 0) := by
  have outside : (k : ℝ) ≤ q ∨ (q + 1 : ℝ) ≤ k := by
    rcases lt_or_ge q k with h | h
    · exact .inr (by exact_mod_cast h)
    · exact .inl (by exact_mod_cast h)
  obtain ⟨stays, goes⟩ := nearest_of_neighbours low high outside
  cases up
  · obtain ⟨short, odd⟩ := not_or.1 (mt goesUp.2 Bool.false_ne_true)
    obtain ⟨least, tie⟩ := stays (not_lt.1 short)
    refine ⟨least, fun ne eq => ?_⟩
    have even := mt (And.intro ((tie eq).resolve_left (by exact_mod_cast ne))) odd
    show q % 2 = 0
    omega
  · have far := goesUp.1 rfl
    obtain ⟨least, tie⟩ := goes (far.elim le_of_lt fun h => h.1.ge)
    refine ⟨by push_cast; exact least, fun ne eq => ?_⟩
    have odd := (far.resolve_left ((tie (by push_cast at eq; exact eq)).resolve_left (by exact_mod_cast ne)).le.not_gt).2
    show (q + 1) % 2 = 0
    omega

theorem signed_cast (neg : Bool) (z : ℤ) : ((signed neg z : ℤ) : ℝ) = signed neg (z : ℝ) := by
  cases neg <;> simp [signed]

theorem signed_inj {neg : Bool} {u v : ℝ} : signed neg u = signed neg v ↔ u = v := by
  cases neg <;> simp [signed]

/-- The choice of `roundInt` between the integers beside a magnitude, for a value of either sign. -/
theorem roundsToInt_of_between (low : (q : ℝ) ≤ w) (high : w < q + 1) (pos : 0 ≤ w) (rm : Nat) (neg : Bool) {rem den : Nat}
    (signedZero : neg = true → 0 < w) (some_ : 0 < rem ↔ (q : ℝ) < w) (most : den < 2 * rem ↔ (q + (q + 1) : ℝ) / 2 < w)
    (half : 2 * rem = den ↔ w = (q + (q + 1) : ℝ) / 2) :
    RoundsToInt rm (signed neg w) (signed neg (if roundsUp rm neg (q % 2 == 1) rem den then q + 1 else q)) := by
  have floor : ⌊w⌋ = q := Int.floor_eq_iff.2 ⟨low, high⟩
  have ceil : ⌈w⌉ = if 0 < rem then q + 1 else q := by
    split
    · next h => exact Int.ceil_eq_iff.2 ⟨by simpa using some_.1 h, by simpa using high.le⟩
    · next h => 
      obtain rfl : w = q := le_antisymm (not_lt.1 (mt some_.2 h)) low
      exact Int.ceil_intCast q
  match rm with
  | 0 =>
    intro k
    have near := nearestInt_of_between low high (roundsUp 0 neg (q % 2 == 1) rem den) (by simp [roundsUp, most, half]) (signed neg k)
    generalize (if roundsUp 0 neg (q % 2 == 1) rem den then q + 1 else q) = c at near ⊢
    have dist (a : ℤ) : |signed neg w - (a : ℝ)| = |w - (signed neg a : ℤ)| := by
      cases neg
      · rfl
      · rw [signed_cast, ← abs_neg]; simp [signed]; ring_nf
    have back (a : ℤ) : signed neg (signed neg a) = a := by cases neg <;> simp [signed]
    rw [dist, dist, back]
    refine ⟨near.1, fun ne eq => ?_⟩
    have even := near.2 (fun h => ne (by rw [← h, back])) eq
    cases neg
    · exact even
    · show -c % 2 = 0
      omega
  | 1 =>
    show signed neg q = _
    cases neg
    · simp [signed, pos, floor]
    · simp [signed, signedZero rfl, floor, Int.ceil_neg]
  | 2 =>
    show _ = ⌈signed neg w⌉
    cases neg
    · simp [signed, roundsUp, ceil]
    · simp [signed, roundsUp, Int.ceil_neg, floor]
  | n + 3 =>
    show _ = ⌊signed neg w⌋
    cases neg
    · simp [signed, roundsUp, floor]
    · simp [signed, roundsUp, Int.floor_neg, ceil]

end

/-- `roundInt` rounds its dyadic, and says whether that changed it. -/
theorem roundInt_spec (rm : Nat) (a : Dy) :
    RoundsToInt rm a.val (roundInt rm a).1 ∧ ((roundInt rm a).2 = false ↔ ((roundInt rm a).1 : ℝ) = a.val) := by
  have den := a.frac_den_pos
  have size := a.frac_val
  have sign : a.val = signed (decide (a.n < 0)) |a.val| := by
    by_cases h : a.n < 0
    · simp [h, signed, abs_of_neg (Dy.val_neg_iff.2 h)]
    · simp [h, signed, abs_of_nonneg (not_lt.1 (mt Dy.val_neg_iff.1 h))]
  generalize hneg : decide (a.n < 0) = neg at sign
  have signedZero : neg = true → 0 < |a.val| := by
    rintro rfl
    exact abs_pos.2 (Dy.val_neg_iff.2 (of_decide_eq_true hneg)).ne
  simp only [roundInt, hneg]
  generalize a.frac.1 = n, a.frac.2 = d at *
  have whole : (n / d : ℝ) = ((n / d : ℕ) + (n % d : ℕ) / d) * 2 ^ (0 : ℤ) := by
    have split : (n : ℝ) = d * (n / d : ℕ) + (n % d : ℕ) := by exact_mod_cast (Nat.div_add_mod n d).symm
    have dpos : (d : ℝ) ≠ 0 := by exact_mod_cast den.ne'
    rw [zpow_zero, mul_one, eq_comm, eq_div_iff dpos, split]
    field_simp
  have choices := choices_of_alike (Nat.mod_lt n den) whole (v := |a.val|) fun _ => by rw [size]; exact ⟨Iff.rfl, Iff.rfl⟩
  generalize |a.val| = w at *
  simp only [zpow_zero, mul_one] at choices
  push_cast at choices
  obtain ⟨low, high, some_, most, half⟩ := choices
  have chosen := roundsToInt_of_between (q := (n / d : ℕ)) low high (le_trans (Nat.cast_nonneg _) low) rm neg signedZero
    some_ most half
  have parity : (((n / d : ℕ) : ℤ) % 2 == 1) = (n / d % 2 == 1) := by
    rw [Bool.eq_iff_iff, beq_iff_eq, beq_iff_eq]
    omega
  rw [parity] at chosen
  rw [sign]
  have same (b : Bool) : (if neg then -(((if b then n / d + 1 else n / d : ℕ)) : ℤ) else (if b then n / d + 1 else n / d : ℕ)) =
      signed neg (if b then ((n / d : ℕ) : ℤ) + 1 else (n / d : ℕ)) := by
    cases b <;> rfl
  rw [same]
  refine ⟨chosen, ?_⟩
  rw [signed_cast, signed_inj]
  rcases Nat.eq_zero_or_pos (n % d) with none_ | some'
  · have is_w := le_antisymm low (not_lt.1 (mt some_.2 none_.not_gt))
    rw [none_, roundsUp_zero _ _ _ den, if_neg Bool.false_ne_true]
    exact iff_of_true rfl (by exact_mod_cast is_w)
  · have strict := some_.1 some'
    simp only [bne_eq_false_iff_eq, some'.ne', false_iff]
    split
    · push_cast
      exact high.ne'
    · push_cast
      exact strict.ne

/-- A datum becomes the integer that the mode says, or the bound that it passes, with NV (R56). -/
theorem fpToInt_fin {n rm : Nat} {x : Fp} {a : Bool} {u : ℝ} (hx : x.Is a u) :
    ∃ z, RoundsToInt rm (signed a u) z ∧
      (z < -2 ^ (n - 1) → fpToInt n rm x = (-2 ^ (n - 1), 512)) ∧ (2 ^ (n - 1) - 1 < z → fpToInt n rm x = (2 ^ (n - 1) - 1, 512)) ∧
      (-2 ^ (n - 1) ≤ z → z ≤ 2 ^ (n - 1) - 1 → (fpToInt n rm x).1 = z ∧ ((z : ℝ) = signed a u → (fpToInt n rm x).2 = 0) ∧
        ((z : ℝ) ≠ signed a u → (fpToInt n rm x).2 = 32)) := by
  obtain ⟨m, e, rfl, rfl⟩ := hx
  obtain ⟨rounded, exact_⟩ := roundInt_spec rm (finDy a m e)
  rw [finDy_val] at rounded exact_
  have bound : (1 : ℤ) ≤ 2 ^ (n - 1) := one_le_pow₀ (by norm_num)
  refine ⟨_, rounded, fun low => ?_, fun high => ?_, fun low high => ?_⟩
  · simp [fpToInt, low]
  · simp only [fpToInt]
    push_cast
    rw [if_neg (by omega), if_pos high]
  · simp only [fpToInt]
    push_cast
    rw [if_neg (by omega), if_neg (by omega)]
    refine ⟨rfl, fun h => ?_, fun h => ?_⟩
    · simp [exact_.2 h]
    · simp [Bool.eq_true_of_not_eq_false (mt exact_.1 h)]

end Sys2Proof.Machine

/-! PROOFS. The datum that a pattern stands for, by its sign and its magnitude (R47, R54, R204). -/

namespace Sys2Proof.Machine

/-! ### Patterns and their data (R47, R54, R204) -/

theorem precision_bounds {f : FpFmt} (h : f = fp32 ∨ f = bf16) : 2 ≤ f.p ∧ f.p ≤ 24 := by
  rcases h with rfl | rfl <;> decide

/-- The highest bit of a number says whether it reaches that bit's weight. -/
theorem testBit_highest {x n : Nat} (hx : x < 2 ^ (n + 1)) : x.testBit n = decide (2 ^ n ≤ x) := by
  have half : x / 2 ^ n < 2 := Nat.div_lt_of_lt_mul (by rwa [← pow_succ])
  have one := Nat.div_pos_iff (a := x) (b := 2 ^ n)
  have pos : 0 < 2 ^ n := by positivity
  rw [Nat.testBit_eq_decide_div_mod_eq, Nat.mod_eq_of_lt half, decide_eq_decide]
  omega

section
variable {f : FpFmt} {x : Nat} (hp : 2 ≤ f.p)
include hp

/-- A pattern without its sign is its exponent field and its fraction. -/
theorem magnitude_split (x : Nat) :
    x % 2 ^ (f.p + 7) = x / 2 ^ (f.p - 1) % 256 * 2 ^ (f.p - 1) + x % 2 ^ (f.p - 1) := by
  rw [show f.p + 7 = (f.p - 1) + 8 by omega, pow_add, Nat.mod_mul, Nat.add_comm, Nat.mul_comm]
  rfl

/-- The datum of a pattern is finite, infinite or a NaN, by its magnitude. -/
theorem unpack_cases (hx : x < 2 ^ (f.p + 8)) :
    let m := x % 2 ^ (f.p + 7)
    let top := 255 * 2 ^ (f.p - 1)
    let neg := decide (2 ^ (f.p + 7) ≤ x)
    (m < top → (unpack f x).Is neg (grid f m)) ∧ (m = top → unpack f x = .inf neg) ∧
      (top < m → unpack f x = .nan (decide (m < top + 2 ^ (f.p - 2)))) := by
  intro m top neg
  have split : m = x / 2 ^ (f.p - 1) % 256 * 2 ^ (f.p - 1) + x % 2 ^ (f.p - 1) := magnitude_split hp x
  have frac := Nat.mod_lt x (by positivity : 2 ^ (f.p - 1) > 0)
  have ex : x / 2 ^ (f.p - 1) % 256 < 256 := Nat.mod_lt _ (by norm_num)
  have quiet : (x % 2 ^ (f.p - 1)).testBit (f.p - 2) = decide (2 ^ (f.p - 2) ≤ x % 2 ^ (f.p - 1)) :=
    testBit_highest (by rwa [show f.p - 2 + 1 = f.p - 1 by omega])
  simp only [unpack, testBit_highest (n := f.p + 7) hx, quiet]
  change (m < top → Fp.Is (if _ then _ else _) neg _) ∧ _
  generalize x / 2 ^ (f.p - 1) % 256 = e at *
  generalize x % 2 ^ (f.p - 1) = r at *
  have last : e < 255 ↔ m < top := by
    constructor
    · intro h
      have := Nat.mul_le_mul_right (2 ^ (f.p - 1)) (Nat.succ_le_of_lt h)
      rw [Nat.succ_mul] at this
      omega
    · intro h
      by_contra
      obtain rfl : e = 255 := by omega
      omega
  refine ⟨fun h => ?_, fun h => ?_, fun h => ?_⟩
  · rw [if_neg (last.2 h).ne]
    split
    · next h0 =>
      subst h0
      refine ⟨r, _, rfl, ?_⟩
      have value := grid_octave f (k := 0) (q := r) (by omega) (.inl rfl)
      rw [split, value]
      simp
    · next h0 =>
      refine ⟨_, _, rfl, ?_⟩
      have value := grid_octave f (k := e - 1) (q := r + 2 ^ (f.p - 1)) (by omega) (.inr (by omega))
      obtain ⟨k, rfl⟩ := Nat.exists_eq_add_of_le' (Nat.pos_of_ne_zero h0)
      rw [split, show (k + 1) * 2 ^ (f.p - 1) + r = (k + 1 - 1) * 2 ^ (f.p - 1) + (r + 2 ^ (f.p - 1)) by
        rw [Nat.add_sub_cancel, Nat.succ_mul]; omega, value]
      congr 2
      push_cast [Nat.add_sub_cancel]
      ring
  · obtain rfl : e = 255 := by omega
    rw [if_pos rfl, if_pos (by omega)]
  · obtain rfl : e = 255 := by omega
    rw [if_pos rfl, if_neg (by omega)]
    congr 1
    rw [← decide_not, decide_eq_decide]
    omega

/-- A pattern is subnormal by its magnitude. -/
theorem isSub_eq (x : Nat) :
    isSub f x = decide (0 < x % 2 ^ (f.p + 7) ∧ x % 2 ^ (f.p + 7) < 2 ^ (f.p - 1)) := by
  have split := magnitude_split hp x
  have frac := Nat.mod_lt x (by positivity : 2 ^ (f.p - 1) > 0)
  rw [isSub, split]
  generalize x / 2 ^ (f.p - 1) % 256 = e at *
  generalize x % 2 ^ (f.p - 1) = r at *
  rcases Nat.eq_zero_or_pos e with rfl | pos
  · rw [Bool.eq_iff_iff]
    simp [frac, Nat.pos_iff_ne_zero]
  · have large := Nat.mul_le_mul_right (2 ^ (f.p - 1)) pos
    rw [decide_eq_false (by omega), beq_eq_false_iff_ne.2 pos.ne']
    rfl

theorem readFp_flush (hx : x < 2 ^ (f.p + 8)) :
    readFp f true x = (if 0 < x % 2 ^ (f.p + 7) ∧ x % 2 ^ (f.p + 7) < 2 ^ (f.p - 1) then
      .fin (decide (2 ^ (f.p + 7) ≤ x)) 0 0 else unpack f x) := by
  simp only [readFp, isSub_eq hp, testBit_highest (n := f.p + 7) hx, Bool.true_and, decide_eq_true_eq]

/-- The class of a pattern by its magnitude and its sign (R204). -/
theorem fclassOf_eq (hx : x < 2 ^ (f.p + 8)) :
    let m := x % 2 ^ (f.p + 7)
    let top := 255 * 2 ^ (f.p - 1)
    fclassOf f x =
      if top < m then (if m < top + 2 ^ (f.p - 2) then 8 else 9)
      else
        let class_ := if m = top then 7 else if 2 ^ (f.p - 1) ≤ m then 6 else if 0 < m then 5 else 4
        if decide (2 ^ (f.p + 7) ≤ x) then 7 - class_ else class_ := by
  intro m top
  obtain ⟨finite, infinite, nan⟩ := unpack_cases hp hx
  have least : 2 ^ (f.p - 1) ≤ top := Nat.le_mul_of_pos_left _ (by norm_num)
  generalize decide (2 ^ (f.p + 7) ≤ x) = neg at *
  rcases lt_trichotomy m top with h | h | h
  · obtain ⟨c, e, data, value⟩ := finite h
    have zero : c = 0 ↔ m = 0 := by
      rw [← fin_eq_zero (e := e), ← value, ← grid_zero f, ((grid_strictMono f).injective.eq_iff (a := m) (b := 0))]
    have sub : isSub f x = decide (0 < m ∧ m < 2 ^ (f.p - 1)) := isSub_eq hp x
    simp only [fclassOf, data, zero, sub, decide_eq_true_eq]
    rw [if_neg (by omega : ¬top < m), if_neg (by omega : ¬m = top)]
    rcases Nat.eq_zero_or_pos m with zero_ | pos
    · rw [if_pos zero_, if_neg (by omega : ¬2 ^ (f.p - 1) ≤ m), if_neg (by omega : ¬0 < m)]
    rw [if_neg pos.ne', if_pos pos]
    rcases Nat.lt_or_ge m (2 ^ (f.p - 1)) with small | normal
    · rw [if_pos ⟨pos, small⟩, if_neg small.not_ge]
    · rw [if_neg fun h => normal.not_gt h.2, if_pos normal]
  · rw [if_neg (by omega : ¬top < m), if_pos h, fclassOf, infinite h]
  · rw [if_pos h, fclassOf, nan h]
    simp only [decide_eq_true_eq]
    rfl

end

theorem patternValues : Claim.PatternValues := by
  intro f x hf hx m least top quiet neg
  obtain ⟨hp, -⟩ := precision_bounds hf
  obtain ⟨finite, infinite, nan⟩ := unpack_cases hp hx
  exact ⟨finite, infinite, nan, rfl, readFp_flush hp hx, fclassOf_eq hp hx⟩

end Sys2Proof.Machine

/-! PROOFS. BF16 widened to FP32 and narrowed again (R56, R205). -/

namespace Sys2Proof.Machine

/-! ### BF16 in FP32 (R56, R205) -/

/-- A magnitude of a format, below its infinity, is converted to itself without a flag. -/
theorem fpToFp_grid {f : FpFmt} {rm i : Nat} {x : Fp} {neg : Bool} (hp : 2 ≤ f.p) (hrm : rm < 4) (hx : x.Is neg (grid f i))
    (hi : i < 255 * 2 ^ (f.p - 1)) :
    (fpToFp f rm false x).bits = signBit f neg + i ∧ (fpToFp f rm false x).flags = 0 := by
  obtain ⟨rounds, zero⟩ := fpToFp_gives (ftz := false) hp hrm hx
  by_cases h : signed neg (grid f i : ℝ) = 0
  · have i0 : i = 0 := (grid_strictMono f).injective ((signed_eq_zero.1 h).trans (grid_zero f).symm)
    rw [zero h, i0]
    exact ⟨rfl, rfl⟩
  · have mag : |signed neg (grid f i : ℝ)| = grid f i ∧ (neg = true ↔ signed neg (grid f i : ℝ) < 0) := by
      obtain ⟨m, e, -, value⟩ := hx
      rw [value] at h ⊢
      exact ⟨abs_signed neg m e, signed_neg_iff (mt signed_eq_zero.2 h)⟩
    obtain ⟨j, chosen, -, -, result⟩ := rounds h neg mag.2
    rw [mag.1] at chosen result
    obtain rfl := roundsTo_grid chosen
    obtain ⟨bits, -, flags, -⟩ := result hi (.inl rfl)
    exact ⟨bits, flags rfl⟩

/-- A magnitude of BF16 is the one of FP32 whose pattern has 16 zero bits behind it. -/
theorem grid_widened (m : Nat) : grid bf16 m = grid fp32 (m * 2 ^ 16) := by
  obtain ⟨k, q, rfl, hq, hk⟩ := octave_of_index bf16 m
  have wide : (k * 2 ^ (bf16.p - 1) + q) * 2 ^ 16 = k * 2 ^ (fp32.p - 1) + q * 2 ^ 16 := by
    simp only [bf16, fp32]
    ring
  have here := grid_octave bf16 hq.le hk
  have there := grid_octave fp32 (k := k) (q := q * 2 ^ 16) (by simp [bf16, fp32] at hq ⊢; omega)
    (hk.imp_right fun h => by simp [bf16, fp32] at h ⊢; omega)
  rw [wide, ← Rat.cast_inj (α := ℝ), here, there]
  rw [Nat.cast_mul, Nat.cast_pow, Nat.cast_ofNat, ← zpow_natCast (2 : ℝ) 16, mul_assoc, ← zpow_add₀ two_ne_zero]
  congr 2
  simp only [bf16, fp32]
  omega

/-- A pattern is its sign and its magnitude. -/
theorem pattern_eq {f : FpFmt} {x : Nat} (hx : x < 2 ^ (f.p + 8)) :
    x = signBit f (decide (2 ^ (f.p + 7) ≤ x)) + x % 2 ^ (f.p + 7) := by
  have double : 2 ^ (f.p + 8) = 2 ^ (f.p + 7) + 2 ^ (f.p + 7) := by rw [pow_succ, mul_two]
  by_cases h : 2 ^ (f.p + 7) ≤ x
  · rw [decide_eq_true h, Nat.mod_eq_sub_mod h, Nat.mod_eq_of_lt (by omega)]
    simp only [signBit, if_true]
    omega
  · rw [decide_eq_false h, Nat.mod_eq_of_lt (not_le.1 h)]
    simp [signBit]

theorem top_widened : 255 * 2 ^ (fp32.p - 1) = 255 * 2 ^ 7 * 2 ^ 16 := rfl

/-- The datum of a BF16 pattern and that of the pattern with 16 zero bits behind it. -/
theorem unpack_widened {n : Nat} (hn : n < 2 ^ 16) :
    let m := n % 2 ^ 15
    let neg := decide (2 ^ 15 ≤ n)
    (m < 255 * 2 ^ 7 → (unpack fp32 (n * 2 ^ 16)).Is neg (grid fp32 (m * 2 ^ 16))) ∧
      (m = 255 * 2 ^ 7 → unpack fp32 (n * 2 ^ 16) = .inf neg) ∧ n * 2 ^ 16 = signBit fp32 neg + m * 2 ^ 16 := by
  intro m neg
  have wide : n * 2 ^ 16 < 2 ^ (fp32.p + 8) := by simp only [fp32]; omega
  have mag : n * 2 ^ 16 % 2 ^ (fp32.p + 7) = m * 2 ^ 16 := by simp only [fp32]; omega
  have sign : decide (2 ^ (fp32.p + 7) ≤ n * 2 ^ 16) = neg := by
    rw [decide_eq_decide]
    simp only [fp32]
    omega
  have whole := pattern_eq wide
  obtain ⟨finite, infinite, -⟩ := unpack_cases (f := fp32) (by decide) wide
  rw [mag, sign] at finite infinite whole
  exact ⟨fun h => finite (by rw [top_widened]; exact Nat.mul_lt_mul_of_pos_right h (by decide)), fun h => infinite (by rw [top_widened, h]), whole⟩

theorem bf16Widened : Claim.Bf16RoundTrip := by
  intro x rm hrm wide back
  have hx : x.toNat < 2 ^ (bf16.p + 8) := x.isLt
  obtain ⟨finite, infinite, nan⟩ := unpack_cases (f := bf16) (by decide) hx
  obtain ⟨finite', infinite', pattern'⟩ := unpack_widened x.isLt
  have pattern : x.toNat = signBit bf16 (decide (2 ^ 15 ≤ x.toNat)) + x.toNat % 2 ^ 15 := pattern_eq hx
  change x.toNat % 2 ^ 15 < 255 * 2 ^ 7 → Fp.Is _ (decide (2 ^ 15 ≤ x.toNat)) (grid bf16 (x.toNat % 2 ^ 15)) at finite
  change x.toNat % 2 ^ 15 = 255 * 2 ^ 7 → unpack bf16 x.toNat = .inf (decide (2 ^ 15 ≤ x.toNat)) at infinite
  change if isNan (unpack bf16 x.toNat) then (fpToFp fp32 rm false (unpack bf16 x.toNat)).bits = _ ∧ back.bits = _ else _
  generalize decide (2 ^ 15 ≤ x.toNat) = neg at *
  rcases lt_trichotomy (x.toNat % 2 ^ 15) (255 * 2 ^ 7) with h | h | h
  · have data := finite h
    obtain ⟨m, e, shape, -⟩ := id data
    rw [if_neg (by rw [shape]; exact Bool.false_ne_true)]
    rw [grid_widened] at data
    have widened : wide = x.toNat * 2 ^ 16 := by
      rw [pattern']
      exact (fpToFp_grid (by decide) hrm data (by rw [top_widened]; omega)).1
    have data' := finite' h
    rw [← grid_widened, ← widened] at data'
    have narrowed := fpToFp_grid (f := bf16) (by decide) hrm data' h
    exact ⟨widened, narrowed.1.trans pattern.symm, narrowed.2⟩
  · have data := infinite h
    rw [if_neg (by rw [data]; exact Bool.false_ne_true)]
    have widened : wide = x.toNat * 2 ^ 16 := by
      rw [pattern', h]
      exact congrArg (fun z => (fpToFp fp32 rm false z).bits) data
    have narrowed : back = .exact (infPat bf16 neg) := by
      have data' := infinite' h
      rw [← widened] at data'
      exact congrArg (fpToFp bf16 rm false) data'
    rw [h] at pattern
    refine ⟨widened, ?_, ?_⟩
    · rw [narrowed, pattern]
      rfl
    · rw [narrowed]
      rfl
  · have data := nan h
    rw [if_pos (by rw [data]; rfl), data]
    refine ⟨rfl, ?_⟩
    have widened : wide = canonNan fp32 := congrArg (fun z => (fpToFp fp32 rm false z).bits) data
    have data' : unpack fp32 wide = .nan false := by rw [widened]; decide
    exact congrArg (fun z => (fpToFp bf16 rm false z).bits) data'

end Sys2Proof.Machine

/-! PROOFS. The results of finite data, of NaNs and of infinities, and the conversions (R48, R52 to R56, R201 to R205). -/

namespace Sys2Proof.Machine

/-! ### Results rounded once (R52 to R55, R201 to R203) -/

/-- A finite datum divided by a zero (R52). -/
theorem fpDiv_zero {f : FpFmt} {rm : Nat} {ftz a b : Bool} {x y : Fp} {u : ℝ} (hx : x.Is a u) (hy : y.Is b 0) :
    (u ≠ 0 → fpDiv f rm ftz x y = ⟨infPat f (a != b), 256, false⟩) ∧
      (u = 0 → fpDiv f rm ftz x y = ⟨canonNan f, 512, false⟩) := by
  obtain ⟨m, d, rfl, rfl⟩ := hx
  obtain ⟨n, e, rfl, zero⟩ := hy
  obtain rfl := fin_eq_zero.1 zero.symm
  refine ⟨fun h => ?_, fun h => ?_⟩
  · simp only [fpDiv, if_true, if_neg (mt fin_eq_zero.2 h), fDZ]
  · simp only [fpDiv, if_true, if_pos (fin_eq_zero.1 h), fNV]

/-- The square root of a negative datum (R52). -/
theorem fpSqrt_negative {f : FpFmt} {rm : Nat} {ftz : Bool} {x : Fp} {u : ℝ} (hx : x.Is true u) (hu : u ≠ 0) :
    fpSqrt f rm ftz x = ⟨canonNan f, 512, false⟩ := by
  obtain ⟨m, d, rfl, rfl⟩ := hx
  simp only [fpSqrt, if_neg (mt fin_eq_zero.2 hu), if_true, fNV]

theorem roundedResults : Claim.RoundedResults := by
  intro f rm ftz a b c x y z u v w hf hrm hx hy hz
  obtain ⟨hp, hp'⟩ := precision_bounds hf
  refine ⟨fun neg zero => fpAdd_gives hp hrm hx hy zero.1 zero.2, fpMul_gives hp hrm hx hy,
    fun neg zero => fpFma_gives hp hrm hx hy hz zero.1 zero.2, fpDiv_gives hp hrm hx hy, ?_, ?_,
    fpSqrt_gives ⟨hp, hp'⟩ hrm hx, ?_, hx.negFp, ?_⟩
  · rintro rfl
    exact (fpDiv_zero hx hy).1
  · rintro rfl
    exact (fpDiv_zero hx hy).2
  · rintro rfl
    exact fpSqrt_negative hx
  · obtain ⟨m, e, product, value⟩ := hx.fpProd hy
    exact ⟨m, e, congrArg Prod.fst product, value⟩

/-! ### NaNs and infinities (R48, R52) -/

section
variable {f : FpFmt} {rm : Nat} {ftz : Bool} {x y z : Fp}

theorem fpProd_nan (h : isNan x = true ∨ isNan y = true) : fpProd x y = (.nan (isSig x || isSig y), false) := by
  cases x <;> cases y <;> simp_all [isNan, isSig, fpProd]

theorem fpAdd_nan (h : isNan x = true ∨ isNan y = true) :
    fpAdd f rm ftz x y = ⟨canonNan f, if isSig x || isSig y then 512 else 0, false⟩ := by
  cases x <;> cases y <;> simp_all [isNan, isSig, fpAdd, nvIf, fNV]

theorem fpDiv_nan (h : isNan x = true ∨ isNan y = true) :
    fpDiv f rm ftz x y = ⟨canonNan f, if isSig x || isSig y then 512 else 0, false⟩ := by
  cases x <;> cases y <;> simp_all [isNan, isSig, fpDiv, nvIf, fNV]

theorem fpMul_nan (h : isNan x = true ∨ isNan y = true) :
    fpMul f rm ftz x y = ⟨canonNan f, if isSig x || isSig y then 512 else 0, false⟩ := by
  rw [fpMul, fpProd_nan h]
  simp [nvIf, fNV]

/-- A product that has a value or is infinite is added to the third operand. -/
theorem fpFma_of_product {p : Fp} (product : fpProd x y = (p, false)) (number : isNan p = false) :
    fpFma f rm ftz x y z = fpAdd f rm ftz p z := by
  rw [fpFma, product]
  cases p <;> simp_all [isNan]

/-- The fused form whose product is 0 times an infinity (R52). -/
theorem fpFma_invalid (product : fpProd x y = (.nan false, true)) : fpFma f rm ftz x y z = ⟨canonNan f, 512, false⟩ := by
  rw [fpFma, product]
  rfl

theorem fpFma_nan (h : isNan x = true ∨ isNan y = true) :
    fpFma f rm ftz x y z = ⟨canonNan f, if isSig x || isSig y || isSig z then 512 else 0, false⟩ := by
  rw [fpFma, fpProd_nan h]
  simp [nvIf, fNV]

end

section
variable {f : FpFmt} {rm : Nat} {ftz a b : Bool} {x y z : Fp} {v : ℝ}

/-- An infinity and a finite datum as operands (R52). -/
theorem inf_with_finite (hy : y.Is b v) :
    let nan : FRes := ⟨canonNan f, 512, false⟩
    let inf (neg : Bool) : FRes := ⟨infPat f neg, 0, false⟩
    fpAdd f rm ftz (.inf a) y = inf a ∧ fpAdd f rm ftz y (.inf a) = inf a ∧
      (v = 0 → fpMul f rm ftz (.inf a) y = nan ∧ fpMul f rm ftz y (.inf a) = nan) ∧
      (v ≠ 0 → fpMul f rm ftz (.inf a) y = inf (a != b) ∧ fpMul f rm ftz y (.inf a) = inf (b != a)) ∧
      fpDiv f rm ftz (.inf a) y = inf (a != b) ∧
      fpDiv f rm ftz y (.inf a) = ⟨if b != a then 2 ^ (f.p + 7) else 0, 0, false⟩ ∧
      (v ≠ 0 → fpFma f rm ftz (.inf a) y z = fpAdd f rm ftz (.inf (a != b)) z ∧
        fpFma f rm ftz y (.inf a) z = fpAdd f rm ftz (.inf (b != a)) z) := by
  intro nan inf
  obtain ⟨m, e, rfl, rfl⟩ := hy
  have zero (h : m = 0) : fpProd (.inf a) (.fin b m e) = (.nan false, true) ∧ fpProd (.fin b m e) (.inf a) = (.nan false, true) :=
    ⟨if_pos h, if_pos h⟩
  have some_ (h : m ≠ 0) : fpProd (.inf a) (.fin b m e) = (.inf (a != b), false) ∧
      fpProd (.fin b m e) (.inf a) = (.inf (b != a), false) := ⟨if_neg h, if_neg h⟩
  refine ⟨rfl, rfl, fun h => ?_, fun h => ?_, rfl, rfl, fun h => ?_⟩
  · obtain ⟨left, right⟩ := zero (fin_eq_zero.1 h)
    simp only [fpMul, left, right]
    exact ⟨rfl, rfl⟩
  · obtain ⟨left, right⟩ := some_ (mt fin_eq_zero.2 h)
    simp only [fpMul, left, right]
    exact ⟨rfl, rfl⟩
  · obtain ⟨left, right⟩ := some_ (mt fin_eq_zero.2 h)
    exact ⟨fpFma_of_product left rfl, fpFma_of_product right rfl⟩

/-- The fused form of finite factors and an infinite third operand. -/
theorem fpFma_inf {c : Bool} {w : ℝ} (hx : x.Is c w) (hy : y.Is b v) : fpFma f rm ftz x y (.inf a) = ⟨infPat f a, 0, false⟩ := by
  obtain ⟨m, e, product, -⟩ := hx.fpProd hy
  rw [fpFma_of_product product rfl]
  rfl

end

/-- Whether two factors are 0 and an infinity (R52). -/
def zeroTimesInf (x y : Fp) : Bool :=
  match x, y with
  | .inf _, .fin _ m _ => m == 0
  | .fin _ m _, .inf _ => m == 0
  | _, _ => false

/-- The product of two data that are no NaN. -/
theorem fpProd_number {x y : Fp} (hx : isNan x = false) (hy : isNan y = false) :
    (zeroTimesInf x y = true → fpProd x y = (.nan false, true)) ∧
      (zeroTimesInf x y = false → (fpProd x y).2 = false ∧ isNan (fpProd x y).1 = false) := by
  cases x <;> cases y <;> simp_all [isNan, zeroTimesInf, fpProd]

/-- The fused form of a NaN, or of 0 times an infinity. -/
theorem fpFma_special {f : FpFmt} {rm : Nat} {ftz : Bool} {x y z : Fp}
    (h : isNan x = true ∨ isNan y = true ∨ isNan z = true ∨ zeroTimesInf x y = true) :
    fpFma f rm ftz x y z =
      ⟨canonNan f, if isSig x || isSig y || isSig z || zeroTimesInf x y then 512 else 0, false⟩ := by
  have factor (w : Fp) (number : isNan w = false) : isSig w = false := by cases w <;> simp_all [isNan, isSig]
  have noInvalid (h : isNan x = true ∨ isNan y = true) : zeroTimesInf x y = false := by
    cases x <;> cases y <;> simp_all [isNan, zeroTimesInf]
  by_cases hxy : isNan x = true ∨ isNan y = true
  · rw [fpFma_nan hxy, noInvalid hxy, Bool.or_false]
  · simp only [not_or, Bool.not_eq_true] at hxy
    obtain ⟨hx, hy⟩ := hxy
    obtain ⟨invalid, number⟩ := fpProd_number hx hy
    by_cases hi : zeroTimesInf x y = true
    · rw [fpFma_invalid (invalid hi), hi, Bool.or_true]
      rfl
    · rw [Bool.not_eq_true] at hi
      have hz : isNan z = true := by simpa [hx, hy, hi] using h
      obtain ⟨quiet, datum⟩ := number hi
      rw [fpFma_of_product (Prod.ext rfl quiet) datum, fpAdd_nan (.inr hz), hi, factor _ hx, factor _ hy, factor _ datum]
      simp

theorem specialResults : Claim.SpecialResults := by
  refine ⟨rfl, rfl, by decide, ?_⟩
  intro f rm ftz a b x y z v hf nan inf
  have nan_or (nv : Bool) : nan nv = ⟨canonNan f, if nv then 512 else 0, false⟩ := rfl
  refine ⟨fun h op hop => ?_, fun h => ?_, ?_, rfl, rfl, ?_, inf_with_finite, fpFma_of_product rfl rfl,
    fun c w => fpFma_inf, fpFma_special⟩
  · simp only [List.mem_cons, List.not_mem_nil, or_false] at hop
    rcases hop with rfl | rfl | rfl
    exacts [fpAdd_nan h, fpMul_nan h, fpDiv_nan h]
  · cases x with
    | nan s => rfl
    | inf => cases h
    | fin => cases h
  · cases a <;> cases b <;> rfl
  · cases a <;> rfl

/-! ### Conversions (R53, R54, R56, R205) -/

/-- The result of an exact integer. -/
theorem intToFp_gives {f : FpFmt} {rm : Nat} {ftz : Bool} (hp : 2 ≤ f.p) (hrm : rm < 4) (i : Int) :
    Gives f rm ftz (i : ℝ) false (intToFp f rm ftz i) := by
  have value : Dy.val ⟨i, 0⟩ = (i : ℝ) := by simp [Dy.val]
  rw [← value]
  exact roundDy_gives hp hrm _ _

theorem convertedResults : Claim.ConvertedResults := by
  intro f rm ftz a x u n i hf hrm hn lo hi
  obtain ⟨hp, -⟩ := precision_bounds hf
  have bounds : -((2 ^ (n - 1) : Nat) : Int) = lo ∧ ((2 ^ (n - 1) : Nat) : Int) - 1 = hi := by simp [lo, hi]
  obtain ⟨rounds, zero⟩ := intToFp_gives (ftz := ftz) hp hrm i
  refine ⟨fun hx hu => ?_, fun hx => (fpToFp_gives hp hrm hx).2 (signed_eq_zero.2 rfl), rfl, rfl, fun h => ?_, rfl, fpToInt_fin,
    ?_, rfl⟩
  · obtain ⟨m, e, shape, rfl⟩ := id hx
    have result := (fpToFp_gives (ftz := ftz) hp hrm hx).1 (mt signed_eq_zero.1 hu) a (signed_neg_iff hu)
    rwa [abs_signed] at result
  · exact rounds (Int.cast_ne_zero.2 h) _ (by simp)
  · simp only [fpToInt, bounds]

end Sys2Proof.Machine

/-! PROOFS. Compares, and the order of `fmin` and `fmax` (R199, R202); with it the obligation on FP32 and BF16 data. -/

namespace Sys2Proof.Machine

/-! ### Compares (R199) -/

theorem Dy.lt_iff (a b : Dy) : a.lt b = true ↔ a.val < b.val := by
  have neg : b.neg.val = -b.val := by simp [Dy.val, Dy.neg]
  rw [Dy.lt, decide_eq_true_iff, ← Dy.val_neg_iff, Dy.sub, Dy.val_add, neg, ← sub_eq_add_neg, sub_neg]

/-- The order of two values as -1, 0 or 1. -/
noncomputable def orderOf (p q : ℝ) : Int := if p < q then -1 else if q < p then 1 else 0

theorem orderOf_cases (p q : ℝ) :
    (p < q ∧ orderOf p q = -1) ∨ (p = q ∧ orderOf p q = 0) ∨ (q < p ∧ orderOf p q = 1) := by
  rcases lt_trichotomy p q with h | h | h
  · exact .inl ⟨h, if_pos h⟩
  · exact .inr (.inl ⟨h, by simp [orderOf, h]⟩)
  · exact .inr (.inr ⟨h, by rw [orderOf, if_neg h.not_gt, if_pos h]⟩)

theorem orderOf_lt {p q : ℝ} (h : p < q) : orderOf p q = -1 := if_pos h

theorem orderOf_gt {p q : ℝ} (h : q < p) : orderOf p q = 1 := by rw [orderOf, if_neg h.not_gt, if_pos h]

/-- Finite data compare as their values. -/
theorem fpCmp_fin {a b : Bool} {x y : Fp} {u v : ℝ} (hx : x.Is a u) (hy : y.Is b v) :
    fpCmp x y = orderOf (signed a u) (signed b v) := by
  obtain ⟨m, d, rfl, rfl⟩ := hx
  obtain ⟨n, e, rfl, rfl⟩ := hy
  simp only [fpCmp, orderOf, ne_eq, not_true_eq_false, if_false, Dy.lt_iff, finDy_val]

theorem Fp.Is.isNan {x : Fp} {a : Bool} {u : ℝ} (hx : x.Is a u) : Machine.isNan x = false := by
  obtain ⟨m, e, rfl, -⟩ := hx
  rfl

theorem Fp.Is.isSig {x : Fp} {a : Bool} {u : ℝ} (hx : x.Is a u) : Machine.isSig x = false := by
  obtain ⟨m, e, rfl, -⟩ := hx
  rfl

/-- The conditions of a compare of finite data. -/
theorem fccHolds_fin {a b : Bool} {x y : Fp} {u v : ℝ} (hx : x.Is a u) (hy : y.Is b v) :
    let p := signed a u
    let q := signed b v
    (fccHolds .eq x y = true ↔ p = q) ∧ (fccHolds .ne x y = true ↔ p ≠ q) ∧ (fccHolds .lt x y = true ↔ p < q) ∧
      (fccHolds .le x y = true ↔ p ≤ q) ∧ (fccHolds .gt x y = true ↔ q < p) ∧ (fccHolds .ge x y = true ↔ q ≤ p) ∧
      fccHolds .un x y = false ∧ fccHolds .ord x y = true := by
  intro p q
  have order : fpCmp x y = orderOf p q := fpCmp_fin hx hy
  simp only [fccHolds, hx.isNan, hy.isNan, order]
  clear_value p q
  rcases orderOf_cases p q with ⟨h, o⟩ | ⟨h, o⟩ | ⟨h, o⟩
  · simp [o, h, h.ne, h.le, h.not_gt, h.not_ge]
  · subst h
    simp [o]
  · simp [o, h, h.ne', h.le, h.not_gt, h.not_ge]

/-- An infinity is beyond every finite datum. -/
theorem fpCmp_inf {a b : Bool} {x : Fp} {u : ℝ} (hx : x.Is a u) :
    fpCmp (.inf b) x = (if b then -1 else 1) ∧ fpCmp x (.inf b) = if b then 1 else -1 := by
  obtain ⟨m, e, rfl, -⟩ := hx
  cases b <;> exact ⟨rfl, rfl⟩

theorem fccHolds_nan {c : Fcc} {x y : Fp} (h : isNan x = true ∨ isNan y = true) :
    fccHolds c x y = decide (c = .ne ∨ c = .un) := by
  have nan : (isNan x || isNan y) = true := by simpa using h
  cases c <;> simp [fccHolds, nan]

theorem fcmpNv_nan {c : Fcc} {x y : Fp} (h : isNan x = true ∨ isNan y = true) :
    fcmpNv c x y = if c = .lt ∨ c = .le ∨ c = .gt ∨ c = .ge then true else isSig x || isSig y := by
  have nan : (isNan x || isNan y) = true := by simpa using h
  cases c <;> simp [fcmpNv, nan]

/-! ### Minimum and maximum (R202) -/

/-- A pattern that is no NaN is finite or infinite, by its magnitude. -/
theorem unpack_number {f : FpFmt} {x : Nat} (hp : 2 ≤ f.p) (hx : x < 2 ^ (f.p + 8)) (number : isNan (unpack f x) = false) :
    let m := x % 2 ^ (f.p + 7)
    let neg := decide (2 ^ (f.p + 7) ≤ x)
    (m < 255 * 2 ^ (f.p - 1) ∧ (unpack f x).Is neg (grid f m)) ∨ (m = 255 * 2 ^ (f.p - 1) ∧ unpack f x = .inf neg) := by
  intro m neg
  obtain ⟨finite, infinite, nan⟩ := unpack_cases hp hx
  rcases lt_trichotomy m (255 * 2 ^ (f.p - 1)) with h | h | h
  · exact .inl ⟨h, finite h⟩
  · exact .inr ⟨h, infinite h⟩
  · rw [nan h] at number
    cases number

/-- A value beyond another one's magnitude, on the side of its sign. -/
theorem orderOf_beyond {a b : Bool} {u v : ℝ} (hu : 0 ≤ u) (h : u < v) :
    orderOf (signed b v) (signed a u) = (if b then -1 else 1) ∧ orderOf (signed a u) (signed b v) = if b then 1 else -1 := by
  have low : -v < signed a u := by cases a <;> simp [signed] <;> linarith
  have high : signed a u < v := by cases a <;> simp [signed] <;> linarith
  cases b
  · exact ⟨orderOf_gt high, orderOf_lt high⟩
  · exact ⟨orderOf_lt low, orderOf_gt low⟩

/-- Data that are no NaN compare as the values that their magnitudes number, with infinity for the next one. -/
theorem fpCmp_unpack {f : FpFmt} {x y : Nat} (hp : 2 ≤ f.p) (hx : x < 2 ^ (f.p + 8)) (hy : y < 2 ^ (f.p + 8))
    (nx : isNan (unpack f x) = false) (ny : isNan (unpack f y) = false) :
    fpCmp (unpack f x) (unpack f y) =
      orderOf (signed (decide (2 ^ (f.p + 7) ≤ x)) (grid f (x % 2 ^ (f.p + 7)) : ℝ))
        (signed (decide (2 ^ (f.p + 7) ≤ y)) (grid f (y % 2 ^ (f.p + 7)) : ℝ)) := by
  have pos (i : Nat) : (0 : ℝ) ≤ grid f i := by
    rw [← grid_zero f]
    exact (grid_strictMono f).monotone (Nat.zero_le i)
  rcases unpack_number hp hx nx with ⟨mx, dx⟩ | ⟨mx, dx⟩ <;> rcases unpack_number hp hy ny with ⟨my, dy⟩ | ⟨my, dy⟩
  · exact fpCmp_fin dx dy
  · have beyond := grid_strictMono f (mx.trans_eq my.symm)
    rw [dy, (fpCmp_inf dx).2, (orderOf_beyond (pos _) beyond).2]
  · have beyond := grid_strictMono f (my.trans_eq mx.symm)
    rw [dx, (fpCmp_inf dy).1, (orderOf_beyond (pos _) beyond).1]
  · have top : (0 : ℝ) < grid f (255 * 2 ^ (f.p - 1)) := by
      rw [← grid_zero f]
      exact grid_strictMono f (by positivity)
    have across := (neg_lt_zero.2 top).trans top
    rw [dx, dy, mx, my]
    generalize decide (2 ^ (f.p + 7) ≤ x) = a
    generalize decide (2 ^ (f.p + 7) ≤ y) = b
    cases a <;> cases b <;> simp [fpCmp, orderOf, signed, across, across.not_gt]

/-- The place of a pattern in the order of `fmin` and `fmax`. -/
def orderKey (f : FpFmt) (z : Nat) : Int := if 2 ^ (f.p + 7) ≤ z then 2 ^ (f.p + 7) - 1 - (z : Int) else z

theorem orderKey_eq {f : FpFmt} {z : Nat} (hz : z < 2 ^ (f.p + 8)) :
    orderKey f z = if decide (2 ^ (f.p + 7) ≤ z) then -1 - ((z % 2 ^ (f.p + 7) : Nat) : Int) else (z % 2 ^ (f.p + 7) : Nat) := by
  have double : 2 ^ (f.p + 8) = 2 ^ (f.p + 7) + 2 ^ (f.p + 7) := by rw [pow_succ, mul_two]
  have cast : ((2 : Int) ^ (f.p + 7)) = ((2 ^ (f.p + 7) : Nat) : Int) := by push_cast; rfl
  rw [orderKey, cast]
  generalize 2 ^ (f.p + 7) = t at *
  by_cases h : t ≤ z
  · rw [if_pos h, decide_eq_true h, if_pos rfl, Nat.mod_eq_sub_mod h, Nat.mod_eq_of_lt (by omega)]
    omega
  · rw [if_neg h, decide_eq_false h, if_neg Bool.false_ne_true, Nat.mod_eq_of_lt (not_le.1 h)]

theorem orderKey_injective (f : FpFmt) : Function.Injective (orderKey f) := by
  intro x y h
  have cast : ((2 : Int) ^ (f.p + 7)) = ((2 ^ (f.p + 7) : Nat) : Int) := by push_cast; rfl
  simp only [orderKey, cast] at h
  generalize 2 ^ (f.p + 7) = t at *
  split at h <;> split at h <;> omega

/-- `fpBelow` is the order of the keys. -/
theorem fpBelow_iff {f : FpFmt} {x y : Nat} (hp : 2 ≤ f.p) (hx : x < 2 ^ (f.p + 8)) (hy : y < 2 ^ (f.p + 8))
    (nx : isNan (unpack f x) = false) (ny : isNan (unpack f y) = false) :
    fpBelow f x y = true ↔ orderKey f x < orderKey f y := by
  have mono {i j : Nat} : (grid f i : ℝ) < grid f j ↔ i < j := (grid_strictMono f).lt_iff_lt
  have pos (i : Nat) : (0 : ℝ) ≤ grid f i := by
    rw [← grid_zero f]
    exact (grid_strictMono f).monotone (Nat.zero_le i)
  have below (p q : ℝ) (a b : Bool) : (decide (orderOf p q < 0) || (orderOf p q == 0 && a && !b)) = true ↔
      p < q ∨ p = q ∧ a = true ∧ b = false := by
    rcases orderOf_cases p q with ⟨h, o⟩ | ⟨h, o⟩ | ⟨h, o⟩
    · simp [o, h]
    · subst h
      simp [o]
    · simp [o, h.not_gt, h.ne']
  rw [orderKey_eq hx, orderKey_eq hy, fpBelow, fpCmp_unpack hp hx hy nx ny, testBit_highest hx, testBit_highest hy, below]
  generalize x % 2 ^ (f.p + 7) = i
  generalize y % 2 ^ (f.p + 7) = j
  have hi := pos i
  have hj := pos j
  generalize decide (2 ^ (f.p + 7) ≤ x) = a
  generalize decide (2 ^ (f.p + 7) ≤ y) = b
  cases a <;> cases b
  · simp [signed, mono]
  · have right : ¬((grid f i : ℝ) < -grid f j) := by linarith
    simp [signed, right]
    omega
  · have left : -(grid f i : ℝ) < grid f j ∨ -(grid f i : ℝ) = grid f j := lt_or_eq_of_le (by linarith)
    simp [signed, left]
    omega
  · simp [signed, mono]

/-- The pattern that an operand of `fmin` or `fmax` was read as. -/
def readPattern (f : FpFmt) (ftz : Bool) (z : Nat) : Nat :=
  if ftz && isSub f z then z / 2 ^ (f.p + 7) * 2 ^ (f.p + 7) else z

theorem signBit_highest {f : FpFmt} {x : Nat} (hx : x < 2 ^ (f.p + 8)) :
    signBit f (decide (2 ^ (f.p + 7) ≤ x)) = x / 2 ^ (f.p + 7) * 2 ^ (f.p + 7) := by
  have whole := Nat.div_add_mod x (2 ^ (f.p + 7))
  have pattern := pattern_eq hx
  rw [Nat.mul_comm] at whole
  omega

theorem patOf_eq {f : FpFmt} {x : Nat} (hx : x < 2 ^ (f.p + 8)) (ftz : Bool) : patOf f ftz x = readPattern f ftz x := by
  rw [patOf, readPattern, testBit_highest (n := f.p + 7) hx, signBit_highest hx]

/-- A flushed pattern stands for a zero, and a subnormal one for a finite datum: neither is a NaN. -/
theorem readPattern_number {f : FpFmt} {x : Nat} (hp : 2 ≤ f.p) (hx : x < 2 ^ (f.p + 8)) (ftz : Bool) :
    readPattern f ftz x < 2 ^ (f.p + 8) ∧ isNan (unpack f (readPattern f ftz x)) = isNan (unpack f x) ∧
      isSig (unpack f (readPattern f ftz x)) = isSig (unpack f x) := by
  unfold readPattern
  split
  · next h =>
    have sub := (Bool.and_eq_true_iff.1 h).2
    rw [isSub_eq hp, decide_eq_true_iff] at sub
    have bound : x / 2 ^ (f.p + 7) * 2 ^ (f.p + 7) < 2 ^ (f.p + 8) := (Nat.div_mul_le_self _ _).trans_lt hx
    have top : 2 ^ (f.p - 1) ≤ 255 * 2 ^ (f.p - 1) := Nat.le_mul_of_pos_left _ (by decide)
    have here := (unpack_cases hp hx).1 (sub.2.trans_le top)
    have flushed := (unpack_cases hp bound).1 (by rw [Nat.mul_mod_left]; positivity)
    exact ⟨bound, flushed.isNan.trans here.isNan.symm, flushed.isSig.trans here.isSig.symm⟩
  · exact ⟨hx, rfl, rfl⟩

/-- The pattern that is kept: of equal keys, the patterns are equal. -/
theorem pick_eq {f : FpFmt} {u v : Nat} (top : Bool) {below : Bool} (order : below = true ↔ orderKey f u < orderKey f v) :
    (if below then (if top then v else u) else (if top then u else v)) =
      if if top then orderKey f v < orderKey f u else orderKey f u < orderKey f v then u else v := by
  cases top
  · simp [order]
  · rcases lt_trichotomy (orderKey f u) (orderKey f v) with h | h | h
    · simp [order, h, h.not_gt]
    · rw [orderKey_injective f h]
      simp
    · simp [order, h, h.not_gt]

/-- `fmin` and `fmax` by the keys of the patterns as read. -/
theorem fpMinMax_eq {f : FpFmt} (ftz top : Bool) {x y : Nat} (hp : 2 ≤ f.p) (hx : x < 2 ^ (f.p + 8)) (hy : y < 2 ^ (f.p + 8)) :
    let u := readPattern f ftz x
    let v := readPattern f ftz y
    fpMinMax top f ftz x y =
      ⟨if isNan (unpack f x) && isNan (unpack f y) then canonNan f
        else if isNan (unpack f x) then v
        else if isNan (unpack f y) then u
        else if if top then orderKey f v < orderKey f u else orderKey f u < orderKey f v then u else v,
        if isSig (unpack f x) || isSig (unpack f y) then 512 else 0, false⟩ := by
  intro u v
  obtain ⟨bu, nanU, sigU⟩ := readPattern_number hp hx ftz
  obtain ⟨bv, nanV, sigV⟩ := readPattern_number hp hy ftz
  have below := fpBelow_iff hp bu bv
  rw [nanU, nanV] at below
  simp only [fpMinMax, patOf_eq hx, patOf_eq hy, nanU, nanV, sigU, sigV, nvIf, fNV]
  generalize (if isSig (unpack f x) || isSig (unpack f y) then 512 else 0) = nv
  cases hnx : isNan (unpack f x) <;> cases hny : isNan (unpack f y)
  · have picked := pick_eq top (below hnx hny)
    simpa only [Bool.false_eq_true, if_false, Bool.false_and, apply_ite (FRes.mk · nv false)] using
      congrArg (FRes.mk · nv false) picked
  · rfl
  · rfl
  · rfl

theorem comparedResults : Claim.ComparedResults := by
  refine ⟨fun a b x y u v hx hy => ?_, fun c x y h => ⟨fccHolds_nan h, fcmpNv_nan h⟩, ?_⟩
  · obtain ⟨eq, ne, lt, le, gt, ge, un, ord⟩ := fccHolds_fin hx hy
    have number (neg : Bool) : isNan (.inf neg) = false := rfl
    refine ⟨eq, ne, lt, le, gt, ge, un, ord, ?_, ?_⟩
    · simp [fccHolds, hx.isNan, number, (fpCmp_inf hx).1]
    · simp [fccHolds, hx.isNan, number, (fpCmp_inf hx).2]
  · intro f ftz top x y hf hx hy
    exact fpMinMax_eq ftz top (precision_bounds hf).1 hx hy

/-- Settles O9: the exact results rounded once, the special cases, conversions, compares and the BF16 round trip. -/
theorem bf16RoundTrip : Obligations.Bf16RoundTrip :=
  ⟨bf16Widened, patternValues, roundedResults, specialResults, convertedResults, comparedResults⟩

end Sys2Proof.Machine

/-! PROOFS. The element values of the vector forms: integers, exact and then saturated or wrapped (R263, R265, R266), and the
floating-point forms, `vclamp` and the conversions (R202, R268). -/

namespace Sys2Proof.Machine

/-! ### Patterns and integers -/

theorem ityBits_bounds (t : Ity) : 0 < ityBits t ∧ ityBits t ≤ 32 := by
  cases t <;> decide

/-- The value of a pattern's low bits is that of the word of this width. -/
theorem signedOf_eq {n : Nat} (hn : 0 < n) (x : Nat) : signedOf x n = (BitVec.ofNat n x).toInt := by
  have double : 2 ^ n = 2 * 2 ^ (n - 1) := by rw [← pow_succ', Nat.sub_add_cancel hn]
  rw [signedOf, BitVec.toInt_eq_toNat_cond, BitVec.toNat_ofNat]
  generalize x % 2 ^ n = y
  by_cases h : y < 2 ^ (n - 1)
  · rw [if_pos h, if_pos (by omega)]
  · rw [if_neg h, if_neg (by omega)]

theorem signedOf_toNat {n : Nat} (hn : 0 < n) (a : BitVec n) : signedOf a.toNat n = a.toInt := by
  rw [signedOf_eq hn, BitVec.ofNat_toNat, BitVec.setWidth_eq]

theorem sextN_eq {n : Nat} (hn : 0 < n) (s : Word) : sextN s n = (s.truncate n : BitVec n).toInt := by
  rw [sextN, signedOf_eq hn, BitVec.ofNat_toNat]

theorem intPat_eq (n : Nat) (v : Int) : intPat n v = (BitVec.ofInt n v).toNat := by
  rw [intPat, BitVec.toNat_ofInt]

theorem intPat_toInt {n : Nat} (a : BitVec n) : intPat n a.toInt = a.toNat := by
  rw [intPat_eq, BitVec.ofInt_toInt]

/-- Saturation to n signed bits, by the bounds. -/
theorem satInt_eq (n : Nat) (v : Int) :
    satInt n v = if v < -2 ^ (n - 1) then -2 ^ (n - 1) else if 2 ^ (n - 1) ≤ v then 2 ^ (n - 1) - 1 else v := by
  have pos : (0 : Int) < 2 ^ (n - 1) := by positivity
  rw [satInt]
  push_cast
  generalize (2 : Int) ^ (n - 1) = t at *
  split
  · omega
  · split <;> omega

theorem satInt_clip (n : Nat) (v : Int) : satInt n v = max (-2 ^ (n - 1)) (min (2 ^ (n - 1) - 1) v) := by
  rw [satInt]
  push_cast
  rfl

theorem fixInt_eq (n : Nat) (sat : Bool) (v : Int) :
    fixInt n sat v = (BitVec.ofInt n (if sat then (if v < -2 ^ (n - 1) then -2 ^ (n - 1)
      else if 2 ^ (n - 1) ≤ v then 2 ^ (n - 1) - 1 else v) else v)).toNat := by
  rw [fixInt, intPat_eq, satInt_eq]

theorem fdiv_two_pow (v : Int) (k : Nat) : v.fdiv (2 ^ k) = v >>> k := by
  rw [Int.fdiv_eq_ediv_of_nonneg _ (by positivity), Int.shiftRight_eq_div_pow]
  push_cast
  rfl

/-- The arithmetic shift of a pattern. -/
theorem intPat_shift {n : Nat} (a : BitVec n) (k : Nat) : intPat n (a.toInt.fdiv (2 ^ k)) = (a.sshiftRight k).toNat := by
  rw [fdiv_two_pow, ← BitVec.toInt_sshiftRight, intPat_toInt]

/-- The smaller or the larger of two patterns by their values. -/
theorem intPat_pickInt {n : Nat} (top : Bool) (a b : BitVec n) :
    intPat n (pickInt top a.toInt b.toInt) = (pick (if top then b.sle a else a.sle b) a b).toNat := by
  cases top
  · simp only [pickInt, pick, Bool.false_eq_true, if_false, BitVec.sle, decide_eq_true_eq, min_def]
    split <;> exact intPat_toInt _
  · simp only [pickInt, pick, if_true, BitVec.sle, decide_eq_true_eq]
    rw [max_comm, max_def]
    split <;> exact intPat_toInt _

/-- A condition code on the patterns of two words of at most 64 bits. -/
theorem ccHolds_eq {n : Nat} (hn : 0 < n) (hn' : n ≤ 64) (c : Cc) (a b : BitVec n) :
    ccHolds c n (natW a.toNat) (natW b.toNat) = ccSpec c n a b := by
  have whole (x : BitVec n) : (natW x.toNat).toNat = x.toNat := by
    rw [natW, BitVec.toNat_ofNat, Nat.mod_eq_of_lt (x.isLt.trans_le (Nat.pow_le_pow_right (by decide) hn'))]
  have low (x : BitVec n) : x.toNat % 2 ^ n = x.toNat := Nat.mod_eq_of_lt x.isLt
  simp only [ccHolds, ccSpec, whole, low, signedOf_toNat hn]
  cases c with
  | eq => simp [BitVec.toNat_inj, Bool.beq_eq_decide_eq]
  | ne => simp [BitVec.toNat_inj, bne, Bool.beq_eq_decide_eq]
  | _ => rfl

theorem integerElementValues : Claim.IntegerElements := by
  intro m t sat a b s sh c n ty top fit k p
  obtain ⟨hn, hn'⟩ := ityBits_bounds t
  have value (z : BitVec n) : signedOf z.toNat n = z.toInt := signedOf_toNat hn z
  have fits (v : Int) : fixInt n sat v = fit v := fixInt_eq n sat v
  have scalar : sextN s 32 = (s.truncate 32 : W32).toInt := sextN_eq (by decide) s
  have least (top : Bool) : vminElem top m ty a.toNat b.toNat = intPat n (pickInt top a.toInt b.toInt) := by
    rw [← value a, ← value b]
    cases t <;> rfl
  simp only [vaddElem, vsubElem, vmulElem, vabsElem, vnegElem, vscaleElem, vaddscElem, vshlElem, vshrElem, vmuliElem, vint]
  refine ⟨?_, ?_, ?_, ?_, ?_, ?_, ?_, ?_, ?_, ?_, ?_, ?_, ?_, ?_⟩
  · exact (fits _).trans (by rw [value, value])
  · exact (fits _).trans (by rw [value, value])
  · exact (fits _).trans (by rw [value, value])
  · exact (fits _).trans (by rw [value])
  · exact (fits _).trans (by rw [value])
  · exact (fits _).trans (by rw [value, scalar])
  · exact (fits _).trans (by rw [value, sextN_eq hn])
  · exact (fits _).trans (by rw [value])
  · rw [if_pos trivial, value]
    exact intPat_shift a k
  · rw [if_neg Bool.false_ne_true, BitVec.toNat_ushiftRight, Nat.shiftRight_eq_div_pow]
  · rw [fits, value, scalar, fdiv_two_pow]
    congr 1
    simp only [← BitVec.toNat_inj]
    rfl
  · rw [least, intPat_pickInt]
    rfl
  · rw [least, intPat_pickInt]
    rfl
  · rw [← ccHolds_eq hn (hn'.trans (by decide))]
    rfl

/-! ### Floating-point elements and conversions -/

theorem satInt_of_narrower {n k : Nat} (h : 0 < n) (hk : n ≤ k) (a : BitVec n) : satInt k a.toInt = a.toInt := by
  have low := BitVec.le_toInt a
  have high := BitVec.toInt_lt (x := a)
  have wider : (2 : Int) ^ (n - 1) ≤ 2 ^ (k - 1) := pow_le_pow_right₀ (by decide) (by omega)
  rw [satInt_clip]
  omega

/-- The pattern of a conversion from an integer to a type of floating point, and back. -/
theorem convTo_int (t : Ity) (y : Fty) (rm : Nat) (ftz : Bool) (a : Nat) :
    let real : Nat := match y with | .f32 => 3 | .bf16 => 2
    convTo real rm ftz (elemVal (ityFmt t) ftz a) =
        (intToFp (ftyFmt y) rm ftz (BitVec.ofNat (ityBits t) a).toInt).bits ∧
      convTo (ityFmt t) rm ftz (elemVal real ftz a) =
        (BitVec.ofInt (ityBits t) (fpToInt (ityBits t) rm (readFp (ftyFmt y) ftz a)).1).toNat := by
  rw [← signedOf_eq (ityBits_bounds t).1, ← intPat_eq]
  cases t <;> cases y <;> exact ⟨rfl, rfl⟩

theorem floatElementValues : Claim.FloatElements := by
  intro m y a b d s lo hi c t v sat p rd w int sum32
  have wide (x : Nat) : signedOf x 32 = (BitVec.ofNat 32 x).toInt := signedOf_eq (by decide) x
  have fused : vfmaElem m (.i32 sat) a b d =
      (BitVec.ofInt 32 (if sat then max (-2 ^ 31) (min (2 ^ 31 - 1) sum32) else sum32)).toNat := by
    rw [vfmaElem, fixInt, intPat_eq, satInt_clip, wide, wide, wide]
  have narrow : convTo 1 m.rm m.ftz (elemVal 4 m.ftz a) =
      (BitVec.ofInt 8 (max (-128) (min 127 (BitVec.ofNat 32 a).toInt))).toNat := by
    rw [← wide, ← intPat_eq]
    exact congrArg (intPat 8) (satInt_clip 8 _)
  have widen : convTo 4 m.rm m.ftz (elemVal 1 m.ftz a) = (BitVec.ofInt 32 (BitVec.ofNat 8 a).toInt).toNat := by
    have kept : satInt 32 (signedOf a 8) = (BitVec.ofNat 8 a).toInt := by
      rw [signedOf_eq (by decide), satInt_of_narrower (by decide) (by decide)]
    rw [← intPat_eq, ← kept]
    rfl
  obtain ⟨toFloat, toInt⟩ := convTo_int t y m.rm m.ftz a
  cases y
  · exact ⟨rfl, rfl, rfl, rfl, fused, rfl, rfl, rfl, rfl, rfl, rfl, rfl, rfl, toFloat, toInt, rfl, rfl, narrow, widen⟩
  · exact ⟨rfl, rfl, rfl, rfl, fused, rfl, rfl, rfl, rfl, rfl, rfl, rfl, rfl, toFloat, toInt, rfl, rfl, narrow, widen⟩

end Sys2Proof.Machine

/-! PROOFS. Reductions: the model's lanes and its tree are those of R267, and a tree of exact integer sums is the sum of all
elements. -/

namespace Sys2Proof.Machine

/-! ### Lanes and levels -/

section
variable {α : Type} (f : α → α → α)

/-- The elements of a lane, by their indices. -/
theorem lane_elements (xs : List α) (p : Nat → Bool) :
    ((xs.zipIdx.filter fun e => p e.2).map fun e => e.1) = ((List.range xs.length).filter p).filterMap fun q => xs[q]? := by
  induction xs using List.reverseRecOn with
  | nil => rfl
  | append_singleton xs x ih =>
    have before : (((List.range xs.length).filter p).filterMap fun q => (xs ++ [x])[q]?) =
        ((List.range xs.length).filter p).filterMap fun q => xs[q]? := by
      refine List.filterMap_congr fun q hq => ?_
      rw [List.getElem?_append_left (List.mem_range.1 (List.mem_filter.1 hq).1)]
    rw [List.zipIdx_append, List.filter_append, List.map_append, ih, List.length_append, List.length_singleton,
      List.range_succ, List.filter_append, List.filterMap_append, before]
    congr 1
    by_cases h : p xs.length = true <;> simp [h]

/-- Elements combined in order, from the first of them on. -/
theorem foldl_joinOpt (xs : List α) :
    (xs.foldl (fun (o : Option α) x => joinOpt f o (some x)) none) =
      match xs with
      | [] => none
      | y :: ys => some (ys.foldl f y) := by
  have after (ys : List α) : ∀ y : α, (ys.foldl (fun (o : Option α) x => joinOpt f o (some x)) (some y)) = some (ys.foldl f y) := by
    induction ys with
    | nil => exact fun _ => rfl
    | cons z ys ih => exact fun y => ih (f y z)
  cases xs with
  | nil => rfl
  | cons y ys => exact after ys y

/-- A level joins the neighbours of the level below it. -/
theorem pairUp_range (m : Nat) : ∀ g : Nat → Option α,
    pairUp f ((List.range (2 * m)).map g) = (List.range m).map fun i => joinOpt f (g (2 * i)) (g (2 * i + 1)) := by
  induction m with
  | zero => exact fun _ => rfl
  | succ m ih =>
    intro g
    have twice : List.range (2 * (m + 1)) = 0 :: 1 :: (List.range (2 * m)).map (· + 2) := by
      rw [Nat.mul_succ, List.range_succ_eq_map, List.range_succ_eq_map]
      simp
    rw [twice, List.range_succ_eq_map]
    simp only [List.map_cons, List.map_map, pairUp]
    rw [ih]
    rfl

theorem treeOf_succ (xs : List α) (n t : Nat) :
    treeOf f xs (n + 1) t = joinOpt f (treeOf f xs n (2 * t)) (treeOf f xs n (2 * t + 1)) := by
  rw [treeOf]
  cases treeOf f xs n (2 * t) <;> cases treeOf f xs n (2 * t + 1) <;> rfl

theorem pairUp_level (xs : List α) (n m : Nat) :
    pairUp f ((List.range (2 * m)).map (treeOf f xs n)) = (List.range m).map (treeOf f xs (n + 1)) := by
  rw [pairUp_range]
  exact List.map_congr_left fun i _ => (treeOf_succ f xs n i).symm

/-- The model's lanes and levels are those of R267. -/
theorem laneTree_eq (xs : List α) : laneTree f xs = treeOf f xs 6 0 := by
  have lanes (l : Nat) : ((xs.zipIdx.filter fun e => e.2 % 64 = l).map fun e => e.1).foldl
      (fun (o : Option α) x => joinOpt f o (some x)) none = treeOf f xs 0 l := by
    rw [lane_elements xs fun q => q % 64 = l, foldl_joinOpt]
    rfl
  simp only [laneTree, lanes]
  rw [pairUp_level f xs 0 32, pairUp_level f xs 1 16, pairUp_level f xs 2 8, pairUp_level f xs 3 4, pairUp_level f xs 4 2,
    pairUp_level f xs 5 1]
  rfl

end

/-! ### Exact sums -/

theorem laneOf_sum (xs : List Int) (l : Nat) :
    (laneOf (fun x y => x + y) xs l).getD 0 = ((xs.zipIdx.filter fun e => e.2 % 64 = l).map fun e => e.1).sum := by
  have whole (ys : List Int) : ∀ y : Int, ys.foldl (fun x y => x + y) y = y + ys.sum := by
    induction ys with
    | nil => simp
    | cons z ys ih => intro y; rw [List.foldl_cons, ih, List.sum_cons, add_assoc]
  rw [lane_elements xs fun q => q % 64 = l, laneOf]
  cases ((List.range xs.length).filter fun q => q % 64 = l).filterMap fun q => xs[q]? with
  | nil => rfl
  | cons y ys => exact whole ys y

/-- A node of the tree is the sum of the lanes below it. -/
theorem treeOf_sum (xs : List Int) (n : Nat) : ∀ t, (treeOf (fun x y => x + y) xs n t).getD 0 =
    ∑ i ∈ Finset.range (2 ^ n), (laneOf (fun x y => x + y) xs (t * 2 ^ n + i)).getD 0 := by
  induction n with
  | zero => intro t; simp [treeOf]
  | succ n ih =>
    intro t
    have joined (a b : Option Int) : (joinOpt (fun x y => x + y) a b).getD 0 = a.getD 0 + b.getD 0 := by
      cases a <;> cases b <;> simp [joinOpt]
    rw [treeOf_succ, joined, ih, ih, pow_succ, mul_two, Finset.sum_range_add]
    congr 1
    · refine Finset.sum_congr rfl fun i _ => ?_
      rw [show 2 * t * 2 ^ n + i = t * (2 ^ n + 2 ^ n) + i by ring]
    · refine Finset.sum_congr rfl fun i _ => ?_
      rw [show (2 * t + 1) * 2 ^ n + i = t * (2 ^ n + 2 ^ n) + (2 ^ n + i) by ring]

/-- The lanes share out the elements. -/
theorem lanes_sum (zs : List (Int × Nat)) :
    ∑ l ∈ Finset.range 64, ((zs.filter fun e => e.2 % 64 = l).map fun e => e.1).sum = (zs.map fun e => e.1).sum := by
  induction zs with
  | nil => simp
  | cons z zs ih =>
    have head (l : Nat) : (((z :: zs).filter fun e => e.2 % 64 = l).map fun e => e.1).sum =
        (if z.2 % 64 = l then z.1 else 0) + ((zs.filter fun e => e.2 % 64 = l).map fun e => e.1).sum := by
      by_cases h : z.2 % 64 = l <;> simp [h]
    rw [Finset.sum_congr rfl fun l _ => head l, Finset.sum_add_distrib, ih, Finset.sum_ite_eq,
      if_pos (Finset.mem_range.2 (Nat.mod_lt _ (by decide))), List.map_cons, List.sum_cons]

theorem laneTree_sum (xs : List Int) : (laneTree (fun x y => x + y) xs).getD 0 = xs.sum := by
  have elements : (xs.zipIdx.map fun e => e.1) = xs := List.zipIdx_map_fst 0 xs
  rw [laneTree_eq, treeOf_sum]
  conv_rhs => rw [← elements, ← lanes_sum]
  refine Finset.sum_congr rfl fun l _ => ?_
  rw [laneOf_sum, Nat.zero_mul, Nat.zero_add]

/-! ### The value of a reduction -/

/-- The smaller or larger of two integer patterns. -/
theorem vint_pickInt (top : Bool) (t : Ity) : vint t false (pickInt top) = fun a b =>
    if (if top then (BitVec.ofNat (ityBits t) b).toInt ≤ (BitVec.ofNat (ityBits t) a).toInt
      else (BitVec.ofNat (ityBits t) a).toInt ≤ (BitVec.ofNat (ityBits t) b).toInt)
    then a % 2 ^ ityBits t else b % 2 ^ ityBits t := by
  funext a b
  have value (x : Nat) : signedOf x (ityBits t) = (BitVec.ofNat (ityBits t) x).toInt := signedOf_eq (ityBits_bounds t).1 x
  have picked : vint t false (pickInt top) a b = _ :=
    (congrArg (intPat _) (by rw [value, value]; rfl)).trans (intPat_pickInt top (BitVec.ofNat _ a) (BitVec.ofNat _ b))
  rw [picked, pick, apply_ite BitVec.toNat, BitVec.toNat_ofNat, BitVec.toNat_ofNat]
  cases top <;> simp only [BitVec.sle, decide_eq_true_eq, if_true, Bool.false_eq_true, if_false]

theorem reductions : Claim.Reductions := by
  intro m y t sat top xs hxs w total clip wide same plus ty ity sum
  have value (x : Nat) : signedOf x w = (BitVec.ofNat w x).toInt := signedOf_eq (ityBits_bounds t).1 x
  refine ⟨?_, ?_, ?_, ?_⟩
  · have exact_ : (laneTree (fun x y => x + y) (xs.map fun v => signedOf v w)).getD 0 = total := by
      rw [laneTree_sum]
      simp only [value, total]
    change fixInt w sat _ = _
    rw [exact_, fixInt, intPat_eq, satInt_clip]
  · have tree : (laneTree (vfp m .f32 fpAdd) (xs.map (canonPat (ftyFmt y) fp32 m.ftz))).getD 0 = sum := by
      rw [laneTree_eq]
      rfl
    cases y
    · exact tree
    · exact congrArg (fun r => (fpToFp bf16 m.rm m.ftz (readFp fp32 m.ftz r)).bits) tree
  · cases top <;> cases y <;> exact congrArg (Option.getD · 0) (laneTree_eq _ _)
  · rw [← vint_pickInt top t, ← laneTree_eq]
    cases top <;> cases t <;> rfl

end Sys2Proof.Machine

/-! PROOFS. Elements of tiles in a state without errors, copies or secure cells: an element is read as its bytes stand, a written
one changes its own bytes only, and a unit of a vector command is one such read and write (R125, R133, R264). -/

namespace Sys2Proof.Machine

/-! ### Bytes of storage -/

theorem addrsFrom_succ (a n : Nat) : addrsFrom a (n + 1) = a :: addrsFrom (a + 1) n := by
  simp only [addrsFrom, List.range_succ_eq_map, List.map_cons, List.map_map, Nat.add_zero, List.cons.injEq, true_and]
  refine List.map_congr_left fun i _ => ?_
  simp only [Function.comp_apply]
  omega

theorem length_leBytes (n : Nat) : ∀ v, (leBytes n v).length = n := by
  induction n with
  | zero => exact fun _ => rfl
  | succ n ih => exact fun v => congrArg (· + 1) (ih _)

theorem mem_zip_addrsFrom {bs : List Byte} {a : Nat} {e : Nat × Byte} (h : e ∈ (addrsFrom a bs.length).zip bs) :
    a ≤ e.1 ∧ e.1 < a + bs.length := by
  obtain ⟨i, hi, place⟩ := List.mem_map.1 (List.of_mem_zip h).1
  have bound := List.mem_range.1 hi
  omega

/-- Bytes written from an address on read as they were written. -/
theorem Memory.read_writes_at : ∀ (bs : List Byte) {m : List Host.Cell} {a i : Nat}, Memory.wf m = true → i < bs.length →
    Memory.read (((addrsFrom a bs.length).zip bs).foldl (fun m e => Memory.write m e.1 e.2) m) (a + i) = bs.getD i 0
  | b :: bs, m, a, i, h, hi => by
    rw [List.length_cons, addrsFrom_succ, List.zip_cons_cons, List.foldl_cons]
    have kept := Memory.wf_write a b h
    cases i with
    | zero =>
      rw [Memory.read_writes_ne _ kept fun e he => by have := mem_zip_addrsFrom he; omega, Memory.read_write _ _ _ h]
      exact if_pos rfl
    | succ i =>
      rw [show a + (i + 1) = a + 1 + i by omega, Memory.read_writes_at bs kept (by simpa using hi)]
      rfl

/-- The local address of an element. -/
theorem elemOff_addr (x : Job) (t : Tile) (i j : Nat) : x.at_ t (elemOff t i j) = elemAddr x.cell t i j := by
  simp only [Job.at_, elemOff, elemAddr, tileAddr]
  omega

/-- An action that reads a value and changes nothing. -/
def Act.reads {α : Type} (a : Act α) (s : State) (v : α) : Prop := a s = .ok (v, s)

theorem Act.reads.bind {α β : Type} {s : State} {a : Act α} {f : α → Act β} {v : α} {w : β} (h : a.reads s v)
    (k : (f v).reads s w) : (a >>= f).reads s w := (Act.bind_ok h).trans k

theorem Act.reads_mapM {α β : Type} {s : State} {f : α → Act β} {g : α → β} (h : ∀ y, (f y).reads s (g y)) (ys : List α) :
    (ys.mapM f).reads s (ys.map g) := by
  induction ys with
  | nil => rfl
  | cons y ys ih =>
    rw [List.mapM_cons]
    exact (h y).bind (ih.bind rfl)

/-! ### A quiet state -/

section
variable {s : State} (quiet : s.quiet)
include quiet

theorem State.quiet.copiesPast (count u : Nat) : s.copiesPast count u = [] := by
  obtain ⟨-, -, -, copies, -, -⟩ := quiet
  simp [State.copiesPast, copies]

theorem State.quiet.redirect (count a : Nat) : s.redirect count a = a := by
  rw [State.redirect, quiet.copiesPast]

theorem State.quiet.mirror (count : Nat) (bs : List (Nat × Byte)) : s.mirror count bs = [] := by
  simp [State.mirror, quiet.copiesPast]

theorem State.quiet.needsCopy (count u : Nat) : s.needsCopy count u = false := by
  obtain ⟨-, -, -, -, want, -⟩ := quiet
  simp [State.needsCopy, State.cutOf, want]

theorem State.quiet.cow (count : Nat) (as : List Nat) : s.cow count as = s := by
  induction as with
  | nil => rfl
  | cons a as ih => simpa [State.cow, quiet.needsCopy] using ih

theorem State.quiet.nearWrite (count : Nat) (bs : List (Nat × Byte)) : s.nearWrite count bs = s.nearPut bs := by
  rw [State.nearWrite, quiet.cow, quiet.mirror, List.append_nil]

/-- A read of the tile store gives the bytes as they stand, and changes nothing. -/
theorem storeRead_quiet (a n : Nat) : storeRead a n s = .ok ((addrsFrom a n).map s.byte, s) := by
  obtain ⟨-, soft, poison, -, -, -⟩ := id quiet
  have clean (count : Nat) (as : List Nat) : s.poisonAt count as = none := by simp [State.poisonAt, poison]
  have noted (as : List Nat) : s.noteSoft as = s := by simp [State.noteSoft, soft]
  rw [storeRead, Act.bind_ok (t := s) (a := s) rfl, clean, Act.bind_ok (t := s) (a := ()) rfl,
    Act.bind_ok (t := s) (a := ()) (congrArg (fun t => Except.ok ((), t)) (noted _))]
  simp only [quiet.redirect]
  rfl

/-- A write of the tile store changes its own bytes only. -/
theorem storeWrite_quiet (x : Job) (a : Nat) (bs : List Byte) : ∃ t, x.storeWrite a bs s = .ok ((), t) ∧ Stores s t a bs := by
  obtain ⟨sound, -, -, -, -, -⟩ := id quiet
  have pool (count : Nat) (as : List Nat) : s.poolStops count as = false := by simp [State.poolStops, quiet.needsCopy]
  have free (va : Nat) (part : Nat) (as : List Nat) : x.poolRule va part as s = .ok ((), s) := by
    rw [Job.poolRule, Act.bind_ok (t := s) (a := s) rfl, if_neg (by simp [pool])]
    rfl
  refine ⟨(s.nearPut ((addrsFrom a bs.length).zip bs)).sink x.cell, ?_, ?_, ?_, rfl⟩
  · rw [Job.storeWrite, Act.bind_ok (t := s) (a := s) rfl, Act.bind_ok (free _ _ _), ← quiet.nearWrite]
    rfl
  · exact fun i hi => Memory.read_writes_at bs sound hi
  · refine fun q hq => State.putBytes_byte_ne s _ q sound fun e he => ?_
    have place := mem_zip_addrsFrom he
    omega

theorem Job.elem_reads (x : Job) (t : Tile) (i j : Nat) : (x.elem t i j).reads s (s.elemAt x.cell t i j) := by
  rw [Act.reads, Job.elem, Act.bind_ok (storeRead_quiet quiet _ _), elemOff_addr]
  rfl

theorem Job.putElem_quiet (x : Job) (t : Tile) (i j v : Nat) : ∃ u, x.putElem t i j v s = .ok ((), u) ∧
    Stores s u (elemAddr x.cell t i j) (leBytes (elemBytes t.fmt) v) := by
  rw [← elemOff_addr]
  exact storeWrite_quiet quiet x _ _

end

end Sys2Proof.Machine

/-! PROOFS. The unit of a vector command's work that belongs to an element of its destination, form by form (R264 to R268), and
with it the obligation on element results. -/

namespace Sys2Proof.Machine

/-! ### Units under the mask (R264) -/

/-- What `Job.givesUnder` says, of a plan. -/
def Plan.gives (p : Plan) (x : Job) (s : State) (mk : Option TileIx) (i j v : Nat) : Prop :=
  let d := x.tile 0
  let u := i * d.cols + j
  let does (effect : State → Prop) : Prop := u < p.units ∧ ∃ t, p.run u s = .ok ((), t) ∧ effect t
  if mk.isSome ∧ s.elemAt x.cell (x.tile (x.r.cmd.tiles.length - 1)) i j = 0 then
    does fun t => (∀ q, t.byte q = s.byte q) ∧ t.slots = s.slots
  else does fun t => Stores s t (elemAddr x.cell d i j) (leBytes (elemBytes d.fmt) v)

/-- What the plan of a command gives, its work gives. -/
theorem Job.givesUnder_of_plan {x : Job} {s : State} {p : Plan} {mk : Option TileIx} {i j v : Nat} (plan : x.plan s = p)
    (h : p.gives x s mk i j v) : x.givesUnder s mk i j v := by
  subst plan
  exact h

/-- The rate of a plan changes none of its units. -/
theorem Plan.gives.paced {x : Job} {s : State} {p : Plan} {mk : Option TileIx} {i j v : Nat} (h : p.gives x s mk i j v)
    (rate : Nat) : (p.paced rate).gives x s mk i j v := by
  have unit {u : Nat} {effect : State → Prop} (h : u < p.units ∧ ∃ t, p.run u s = .ok ((), t) ∧ effect t) :
      u < (p.paced rate).units ∧ ∃ t, (p.paced rate).run u s = .ok ((), t) ∧ effect t := by
    refine ⟨Nat.lt_succ_of_lt h.1, ?_⟩
    rw [show (p.paced rate).run u = p.run u from if_pos h.1]
    exact h.2
  unfold Plan.gives at h ⊢
  split at h
  · next masked => exact (if_pos masked).symm ▸ unit h
  · next open_ => exact (if_neg open_).symm ▸ unit h

section
variable {x : Job} {s : State} {i j : Nat}

/-- What a unit does at element (i, j): it reads the mask's element, and unless that is 0 writes the value. -/
def Job.maskedElem (x : Job) (masked : Bool) (value : Act Nat) (i j : Nat) : Act Unit := do
  let on ← (if masked then x.elem (x.tile (x.r.cmd.tiles.length - 1)) i j else pure 1 : Act Nat)
  if on = 0 then pure ()
  else do
    let v ← value
    x.putElem (x.tile 0) i j v

/-- The unit of element (i, j). -/
theorem vecUnits_unit (hi : i < (x.tile 0).rows) (hj : j < (x.tile 0).cols) (masked : Bool) (value : Nat → Nat → Act Nat) :
    i * (x.tile 0).cols + j < (x.vecUnits masked value).units ∧
      (x.vecUnits masked value).run (i * (x.tile 0).cols + j) = x.maskedElem masked (value i j) i j := by
  have row : (i * (x.tile 0).cols + j) / (x.tile 0).cols = i := by
    rw [Nat.mul_comm, Nat.mul_add_div (by omega), Nat.div_eq_of_lt hj, Nat.add_zero]
  have col : (i * (x.tile 0).cols + j) % (x.tile 0).cols = j := by
    rw [Nat.mul_comm, Nat.mul_add_mod, Nat.mod_eq_of_lt hj]
  have inside : i * (x.tile 0).cols + j < (x.tile 0).rows * (x.tile 0).cols := by
    calc i * (x.tile 0).cols + j < (i + 1) * (x.tile 0).cols := by rw [Nat.succ_mul]; omega
      _ ≤ _ := Nat.mul_le_mul_right _ hi
  have run : (x.vecUnits masked value).run (i * (x.tile 0).cols + j) =
      x.maskedElem masked (value ((i * (x.tile 0).cols + j) / (x.tile 0).cols) ((i * (x.tile 0).cols + j) % (x.tile 0).cols))
        ((i * (x.tile 0).cols + j) / (x.tile 0).cols) ((i * (x.tile 0).cols + j) % (x.tile 0).cols) := by
    cases masked <;> rfl
  rw [row, col] at run
  cases masked <;> exact ⟨inside, run⟩

theorem maskedElem_off (quiet : s.quiet) (value : Act Nat)
    (off : s.elemAt x.cell (x.tile (x.r.cmd.tiles.length - 1)) i j = 0) : (x.maskedElem true value i j).reads s () := by
  refine (Job.elem_reads quiet ..).bind ?_
  rw [if_pos off]
  rfl

theorem maskedElem_on (quiet : s.quiet) {masked : Bool} {value : Act Nat} {v : Nat} (hv : value.reads s v)
    (on : masked = true → s.elemAt x.cell (x.tile (x.r.cmd.tiles.length - 1)) i j ≠ 0) :
    x.maskedElem masked value i j s = x.putElem (x.tile 0) i j v s := by
  have mask : (if masked then x.elem (x.tile (x.r.cmd.tiles.length - 1)) i j else pure 1 : Act Nat).reads s
      (if masked then s.elemAt x.cell (x.tile (x.r.cmd.tiles.length - 1)) i j else 1) := by
    cases masked
    · rfl
    · exact Job.elem_reads quiet ..
  refine (Act.bind_ok mask).trans ?_
  rw [if_neg (by cases masked; exacts [one_ne_zero, on rfl])]
  exact Act.bind_ok hv

/-- A unit whose value is read gives it. -/
theorem vecUnits_gives (quiet : s.quiet) (hi : i < (x.tile 0).rows) (hj : j < (x.tile 0).cols) (mk : Option TileIx)
    {value : Nat → Nat → Act Nat} {v : Nat} (hv : (value i j).reads s v) :
    (x.vecUnits mk.isSome value).gives x s mk i j v := by
  obtain ⟨inside, run⟩ := vecUnits_unit hi hj mk.isSome value
  unfold Plan.gives
  split
  · next off =>
    refine ⟨inside, s, ?_, fun _ => rfl, rfl⟩
    rw [run, off.1]
    exact maskedElem_off quiet _ off.2
  · next on =>
    obtain ⟨t, put, stores⟩ := Job.putElem_quiet quiet x (x.tile 0) i j v
    refine ⟨inside, t, ?_, stores⟩
    rw [run, maskedElem_on quiet hv fun m z => on ⟨m, z⟩, put]

theorem vecPlan_gives (quiet : s.quiet) (hi : i < (x.tile 0).rows) (hj : j < (x.tile 0).cols) (mk : Option TileIx) (fmt : Nat)
    {value : Nat → Nat → Act Nat} {v : Nat} (hv : (value i j).reads s v) :
    (x.vecPlan mk.isSome fmt value).gives x s mk i j v :=
  (vecUnits_gives quiet hi hj mk hv).paced _

/-! ### The forms -/

section
variable (quiet : s.quiet) (hi : i < (x.tile 0).rows) (hj : j < (x.tile 0).cols) (mk : Option TileIx) (fmt : Nat)
include quiet hi hj

theorem vec1Plan_gives (f : Nat → Nat) : (x.vec1Plan mk fmt f).gives x s mk i j (f (s.elemAt x.cell (x.tile 1) i j)) :=
  vecPlan_gives quiet hi hj mk fmt ((Job.elem_reads quiet ..).bind rfl)

theorem vec2Plan_gives (br : Br) (f : Nat → Nat → Nat) : (x.vec2Plan mk br fmt f).gives x s mk i j
    (f (s.elemAt x.cell (x.tile 1) i j) (s.elemAt x.cell (x.tile 2) (brAt br i j).1 (brAt br i j).2)) :=
  vecPlan_gives quiet hi hj mk fmt ((Job.elem_reads quiet ..).bind ((Job.elem_reads quiet ..).bind rfl))

theorem vfmaPlan_gives (t : VFmaTy) (br : Br) : (x.vfmaPlan t mk br).gives x s mk i j
    (vfmaElem x.vmode t (s.elemAt x.cell (x.tile 1) i j) (s.elemAt x.cell (x.tile 2) (brAt br i j).1 (brAt br i j).2)
      (s.elemAt x.cell (x.tile 0) i j)) :=
  vecPlan_gives quiet hi hj mk _
    ((Job.elem_reads quiet ..).bind ((Job.elem_reads quiet ..).bind ((Job.elem_reads quiet ..).bind rfl)))

theorem vselPlan_gives (t : Vty) (br : Br) : (x.vselPlan t br).gives x s none i j
    (if s.elemAt x.cell (x.tile 3) i j = 0 then s.elemAt x.cell (x.tile 2) (brAt br i j).1 (brAt br i j).2
      else s.elemAt x.cell (x.tile 1) i j) :=
  vecPlan_gives quiet hi hj none _
    ((Job.elem_reads quiet ..).bind ((Job.elem_reads quiet ..).bind ((Job.elem_reads quiet ..).bind rfl)))

theorem vbcastPlan_gives (t : Vty) (bb : BcastBr) : (x.vbcastPlan t bb mk).gives x s mk i j
    (s.elemAt x.cell (x.tile 1) (brAt (bcastBr bb) i j).1 (brAt (bcastBr bb) i j).2) :=
  vecPlan_gives quiet hi hj mk _ (Job.elem_reads quiet ..)

theorem vcvtPlan_gives (u t : Vty) (sel : RndSel) : (x.vcvtPlan u t sel mk).gives x s mk i j
    (convTo (vtyFmt u) (rndMode x.rm sel) x.ftz (elemVal (vtyFmt t) x.ftz (s.elemAt x.cell (x.tile 1) i j))) := by
  refine Plan.gives.paced (vecUnits_gives quiet hi hj mk ?_) _
  exact (Job.elem_reads quiet ..).bind rfl

/-- The elements that a reduction reads. -/
def State.reduced (s : State) (x : Job) (cols : Bool) (i j : Nat) : List Nat :=
  if cols then (List.range (x.tile 1).rows).map fun q => s.elemAt x.cell (x.tile 1) q j
  else (List.range (x.tile 1).cols).map fun q => s.elemAt x.cell (x.tile 1) i q

theorem vredPlan_gives (o : VRedOp) (cols : Bool) : (x.vredPlan o cols mk).gives x s mk i j
    (reduceElem x.vmode o (s.reduced x cols i j)) := by
  refine vecUnits_gives quiet hi hj mk ?_
  cases cols
  · exact (Act.reads_mapM (fun q => Job.elem_reads quiet x _ i q) _).bind rfl
  · exact (Act.reads_mapM (fun q => Job.elem_reads quiet x _ q j) _).bind rfl

end

/-- A part without secure cells bars no command from its tiles. -/
theorem tilesBarred_quiet (quiet : s.quiet) (x : Job) : s.tilesBarred x = false := by
  obtain ⟨-, -, -, -, -, secure⟩ := quiet
  have place : placeOf (tileAddr x.cell 0) ≠ .hbm := by
    unfold placeOf
    rw [if_neg (by simp only [tileAddr, tileBase]; omega)]
    split_ifs <;> exact fun h => nomatch h
  have open_ : s.worldFails x.r.cmd.secure none [tileAddr x.cell 0] = false := by
    simp only [State.worldFails, List.any_cons, List.any_nil, Bool.or_false, Bool.false_or, secure]
    cases h : placeOf (tileAddr x.cell 0)
    case hbm => exact absurd h place
    all_goals simp
  rw [State.tilesBarred, open_, Bool.and_false]

end

theorem vectorElements : Claim.VectorElements := by
  intro s x i j e br bb mk a b td ta tb tm t y u f c n o sel fl sh quiet hi hj m el at_ A B v mode src
  have place : at_ = brAt br i j := by cases br <;> rfl
  have rounding : mode = rndMode x.rm sel := by cases sel <;> rfl
  have second : B = s.elemAt x.cell (x.tile 2) (brAt br i j).1 (brAt br i j).2 := by simp only [B, el, place]
  have one (fmt : Nat) (g : Nat → Nat) : (x.vec1Plan mk fmt g).gives x s mk i j (g A) := vec1Plan_gives quiet hi hj mk fmt g
  have two (fmt : Nat) (g : Nat → Nat → Nat) : (x.vec2Plan mk br fmt g).gives x s mk i j (g A B) := by
    rw [second]
    exact vec2Plan_gives quiet hi hj mk fmt br g
  have fused : (x.vfmaPlan f mk br).gives x s mk i j (vfmaElem m f A B (el 0 i j)) := by
    rw [second]
    exact vfmaPlan_gives quiet hi hj mk f br
  have chosen : (x.vselPlan y br).gives x s none i j (if el 3 i j = 0 then B else A) := by
    rw [second]
    exact vselPlan_gives quiet hi hj y br
  have converted : (x.vcvtPlan u y sel mk).gives x s mk i j (convTo (vtyFmt u) mode m.ftz (elemVal (vtyFmt y) m.ftz A)) := by
    rw [rounding]
    exact vcvtPlan_gives quiet hi hj mk u y sel
  have spread : (x.vbcastPlan y bb mk).gives x s mk i j
      (match bb with | .row => el 1 0 j | .col => el 1 i 0 | .sc => el 1 0 0) := by
    have given := vbcastPlan_gives quiet hi hj mk y bb
    cases bb <;> exact given
  have form {p : Plan} {k : Option TileIx} {w : Nat} (h : p.gives x s k i j w)
      (plan : x.plan s = if s.tilesBarred x then x.barredPlan else p) : x.givesUnder s k i j w := by
    rw [tilesBarred_quiet quiet x] at plan
    exact Job.givesUnder_of_plan plan h
  simp only [List.forall_mem_cons, List.not_mem_nil, false_imp_iff, implies_true, and_true]
  refine ⟨⟨fun h => form (two (vsatFmt t) (vaddElem m t)) ?_,
    fun h => form (two (vsatFmt t) (vsubElem m t)) ?_,
    fun h => form (two (vsatFmt t) (vmulElem m t)) ?_,
    fun h => form fused ?_,
    fun h => form (two (vtyFmt y) (vminElem false m y)) ?_,
    fun h => form (two (vtyFmt y) (vminElem true m y)) ?_,
    fun h => form (one (vsatFmt t) (vabsElem t)) ?_,
    fun h => form (one (vsatFmt t) (vnegElem t)) ?_,
    fun h => form (two (vcmpFmt c) (vcmpElem m c)) ?_,
    fun h => form (one (vsatFmt t) (vscaleElem m t (v 0))) ?_,
    fun h => form (one (vsatFmt t) (vaddscElem m t (v 0))) ?_,
    fun h => form (one (vtyFmt y) id) ?_,
    fun h => form (two (vtyFmt y) Nat.land) ?_,
    fun h => form (two (vtyFmt y) Nat.lor) ?_,
    fun h => form (two (vtyFmt y) Nat.xor) ?_,
    fun h => form (one (ityFmt n) (vshlElem n fl (v 0))) ?_,
    fun h => form (one (ityFmt n) (vshrElem n fl (v 0))) ?_,
    fun h => form (one (ityFmt n) (vmuliElem n fl sh.toNat (v 0))) ?_,
    fun h => form (one (vtyFmt y) (vclampElem m y (v 0) (v 1))) ?_,
    fun h => form converted ?_,
    fun h => form spread ?_,
    fun h => form (vredPlan_gives quiet hi hj mk o fl) ?_⟩,
    fun h => form (k := none) chosen ?_⟩
  all_goals
    rewrite [Job.plan, h]
    rfl

/-- Settles O40: element values by the exact integers and the operations of R52 to R56, reductions by their tree, and a unit of a
form by its reads and its one write. -/
theorem integerElements : Obligations.IntegerElements :=
  ⟨integerElementValues, floatElementValues, reductions, vectorElements⟩

end Sys2Proof.Machine

/-! PROOFS. The links of the pod (R85, R360 to R362): which flits are taken, the probes of cells and of links, and what a death
notice leaves of owner tags, of the fix in progress and of the link. -/

namespace Sys2Proof.Machine

/-! ### Tables whose values a function changes -/

theorem Tab.find_map {α : Type} (f : α → α) (t : Tab α) (n : Nat) :
    Tab.find (t.map fun e => (e.1, f e.2)) n = (t.find n).map f := by
  induction t with
  | nil => rfl
  | cons e t ih =>
    simp only [List.map_cons, Tab.find, ih]
    split <;> rfl

/-- A part of the values that the function leaves reads as before. -/
theorem Tab.view_get_map {α β : Type} (view : α → β) {f : α → α} (h : ∀ v, view (f v) = view v) (d : α) (t : Tab α) (n : Nat) :
    view (Tab.get d (t.map fun e => (e.1, f e.2)) n) = view (t.get d n) := by
  induction t with
  | nil => rfl
  | cons e t ih =>
    simp only [List.map_cons, Tab.get]
    split
    · exact h e.2
    · exact ih

/-! ### Steps later in the cclk, and the fix that is abandoned -/

theorem State.mem_thenDo_now (s : State) (i : Instr) (u : Nat) : (i, u) ∈ (s.thenDo i u).sched.now :=
  List.mem_append_right _ (List.mem_singleton_self _)

theorem State.mem_now_thenDo {s : State} {e : Instr × Nat} (h : e ∈ s.sched.now) (i : Instr) (u : Nat) :
    e ∈ (s.thenDo i u).sched.now := List.mem_append_left _ h

/-- Steps put off to later in the cclk touch nothing but the list of them. -/
theorem State.thenDos_rest {α : Type} (f : α → Instr × Nat) (es : List α) (s : State) :
    es.foldl (fun s e => s.thenDo (f e).1 (f e).2) s = { s with sched := { s.sched with now := s.sched.now ++ es.map f } } := by
  induction es generalizing s with
  | nil => simp
  | cons e es ih =>
    rw [List.foldl_cons, ih]
    simp [State.thenDo, State.modSched]

/-- Abandoning a fix touches the order of steps, the cells' cuts and the fix unit (R358). -/
theorem State.abandonFix_rest (s : State) : s.abandonFix =
    { s with sched := s.abandonFix.sched, cells := s.abandonFix.cells, fix := s.abandonFix.fix } := by
  simp only [State.abandonFix]
  split
  · rw [State.thenDos_rest fun e : Nat × Word => (.memoryReplyArrival e.1 (.value e.2), 0)]
    rfl
  · rfl

@[simp] theorem State.abandonFix_cur (s : State) : s.abandonFix.cur = s.cur := by rw [State.abandonFix_rest]
@[simp] theorem State.abandonFix_mem (s : State) : s.abandonFix.mem = s.mem := by rw [State.abandonFix_rest]
@[simp] theorem State.abandonFix_slots (s : State) : s.abandonFix.slots = s.slots := by rw [State.abandonFix_rest]
@[simp] theorem State.abandonFix_owners (s : State) : s.abandonFix.owners = s.owners := by rw [State.abandonFix_rest]
@[simp] theorem State.abandonFix_link (s : State) : s.abandonFix.link = s.link := by rw [State.abandonFix_rest]

@[simp] theorem State.abandonFix_active (s : State) : s.abandonFix.fix.active = false := by
  simp only [State.abandonFix]
  split
  · rfl
  · next idle => simpa using idle

theorem State.mem_now_abandonFix {s : State} {e : Instr × Nat} (h : e ∈ s.sched.now) : e ∈ s.abandonFix.sched.now := by
  simp only [State.abandonFix]
  split
  · rw [State.thenDos_rest fun e : Nat × Word => (.memoryReplyArrival e.1 (.value e.2), 0)]
    exact List.mem_append_left _ h
  · exact h

/-! ### Flits (R361, R362) -/

section
variable (s : State) (port n src incarn : Nat) (m : AzMsg)

/-- A flit has come on a port: its link is not silent. -/
def State.flitCame : State := s.modLink fun x => { x with azLast := x.azLast.set port s.cycle }

/-- Flit n of a port has been taken: the next one is expected, and none is asked for again. -/
def State.flitTaken : State :=
  (s.flitCame port).modLink fun x => { x with azNext := x.azNext.set port (n + 1), azRetry := x.azRetry.set port false }

variable {n} (order : n = s.link.azNext.get 0 port)

theorem azimuthFlitReceive_other {n : Nat} (ok : Bool) (other : n ≠ s.link.azNext.get 0 port) :
    exec (.azimuthFlitReceive port n ok src incarn m) s = .next (s.flitCame port) := if_pos other

include order

theorem azimuthFlitReceive_damaged : exec (.azimuthFlitReceive port n false src incarn m) s =
    .next ((s.flitCame port).modLink fun x => { x with azRetry := x.azRetry.set port true }) :=
  if_neg (not_not_intro order)

/-- A good flit in order is taken; what it carries is, where it comes under the incarnations that the pod's configuration gives
its part and its cell. -/
theorem azimuthFlitReceive_good : exec (.azimuthFlitReceive port n true src incarn m) s =
    if incarn % 2 ^ 16 ≠ podIncarn s.link.pod src ∨
        ((azCell m).map fun c => podCellIncarn s.link.pod src c).any (· ≠ incarn / 2 ^ 16) then
      .next (s.flitTaken port n)
    else (s.flitTaken port n).azTake src m := if_neg (not_not_intro order)

theorem azimuthFlitReceive_stale (stale : incarn % 2 ^ 16 ≠ podIncarn s.link.pod src ∨
      ∃ c, azCell m = some c ∧ incarn / 2 ^ 16 ≠ podCellIncarn s.link.pod src c) :
    exec (.azimuthFlitReceive port n true src incarn m) s = .next (s.flitTaken port n) := by
  rw [azimuthFlitReceive_good s port src incarn m order, if_pos]
  refine stale.imp_right ?_
  rintro ⟨c, cell, other⟩
  simpa [cell] using other.symm

theorem azimuthFlitReceive_taken (part : incarn % 2 ^ 16 = podIncarn s.link.pod src)
    (cell : ∀ c, azCell m = some c → incarn / 2 ^ 16 = podCellIncarn s.link.pod src c) :
    exec (.azimuthFlitReceive port n true src incarn m) s = (s.flitTaken port n).azTake src m := by
  rw [azimuthFlitReceive_good s port src incarn m order, if_neg]
  rintro (other | other)
  · exact other part
  · cases h : azCell m <;> simp [h] at other
    exact other (cell _ h).symm

end

/-! ### Replies that another part sends (R298, R352) -/

/-- What retires at a sink leaves the cell's place among the fixes. -/
@[simp] theorem State.sink_fixNo (s : State) (c j : Nat) : ((s.sink c).cell j).fixNo = (s.cell j).fixNo := by
  by_cases h : j = c
  · subst h; simp [State.sink]
  · simp [State.sink, State.cell_modCell_ne _ _ h]

theorem State.farSink_eq (s : State) (a : Nat) (r : Reply) : s.farSink a r = s ∨ s.farSink a r = s.sink (replyCell a) := by
  unfold State.farSink State.sinkFor
  dsimp only
  split_ifs
  · exact .inl rfl
  · exact .inr rfl
  · exact .inl rfl

@[simp] theorem State.farSink_mem (s : State) (a : Nat) (r : Reply) : (s.farSink a r).mem = s.mem := by
  rcases s.farSink_eq a r with h | h <;> rw [h]
  rfl

@[simp] theorem State.farSink_cutFirst (s : State) (a : Nat) (r : Reply) (c n : Nat) :
    (s.farSink a r).cutFirst c n = s.cutFirst c n := by
  rcases s.farSink_eq a r with h | h <;> simp [h, State.cutFirst]

@[simp] theorem State.farSink_replyHeld (s : State) (a : Nat) (r : Reply) : (s.farSink a r).replyHeld a = s.replyHeld a := by
  rcases s.farSink_eq a r with h | h <;> rw [h]
  rfl

/-- A reply that no cut holds arrives in the cclk in which it lands. -/
theorem State.landReply_now {s : State} {a n : Nat} (r : Reply)
    (free : s.cutFirst (replyCell a) n = false ∨ s.replyHeld a = false) :
    (.memoryReplyArrival a r, 0) ∈ (s.landReply a r n).sched.now ∧ (s.landReply a r n).mem = s.mem := by
  have lands : (s.cutFirst (replyCell a) n && s.replyHeld a) = false := by
    rcases free with h | h <;> simp [h]
  simp only [State.landReply, lands, Bool.false_eq_true, if_false]
  refine ⟨State.mem_thenDo_now .., ?_⟩
  split <;> rfl

/-! ### Heartbeats and probes (R360) -/

/-- What the probes of a cell go by. -/
def Cell.health (c : Cell) : Bool × Nat × Bool := (c.silent, c.misses, c.dead)

@[simp] theorem State.abandonFix_health (s : State) (j : Nat) : (s.abandonFix.cell j).health = (s.cell j).health := by
  simp only [State.abandonFix]
  split
  · rw [State.thenDos_rest fun e : Nat × Word => (.memoryReplyArrival e.1 (.value e.2), 0)]
    exact Tab.view_get_map Cell.health (f := fun c => { c with cutBegun := false, logging := false, log := [] })
      (fun _ => rfl) ..
  · rfl

theorem State.broadcast_rest (s : State) (m : AzMsg) : s.broadcast m = { s with link := (s.broadcast m).link } := by
  have others : ({ s.broadcast m with link := s.link } : State) = s :=
    State.foldl_keeps (fun u => ({ u with link := s.link } : State)) (f := fun u p => u.toPart p m) (fun _ _ => rfl) _ s
  exact congrArg (fun u : State => { u with link := (s.broadcast m).link }) others

/-- A death that is declared touches what abandoning a fix does, the messages to other parts, and the steps of the cclk. -/
theorem State.declareDead_eq (s : State) (part : Nat) (cell : Option Nat) : s.declareDead part cell =
    ({ s.abandonFix with link := (s.abandonFix.broadcast (.death part cell)).link } : State).thenDo (.deathNotice part cell) 0 := by
  rw [State.declareDead, State.broadcast_rest]

@[simp] theorem State.declareDead_mem (s : State) (part : Nat) (cell : Option Nat) : (s.declareDead part cell).mem = s.mem := by
  simp [State.declareDead_eq]
@[simp] theorem State.declareDead_health (s : State) (part : Nat) (cell : Option Nat) (j : Nat) :
    ((s.declareDead part cell).cell j).health = (s.cell j).health := by
  rw [State.declareDead_eq]
  exact s.abandonFix_health j
theorem State.declareDead_now (s : State) (part : Nat) (cell : Option Nat) :
    (.deathNotice part cell, 0) ∈ (s.declareDead part cell).sched.now := State.mem_thenDo_now ..
theorem State.mem_now_declareDead {s : State} {e : Instr × Nat} (h : e ∈ s.sched.now) (part : Nat) (cell : Option Nat) :
    e ∈ (s.declareDead part cell).sched.now := by
  rw [State.declareDead_eq]
  exact State.mem_now_thenDo (State.mem_now_abandonFix h) ..

/-- The probe of one cell: a miss is counted or forgotten, and the fourth in a row declares it dead. -/
def State.probeCell (s : State) (cell : Nat) : State :=
  let c := s.cell cell
  if !c.silent then (if c.misses = 0 then s else s.modCell cell fun c => { c with misses := 0 })
  else
    let s := s.modCell cell fun c => { c with misses := c.misses + 1 }
    if c.misses + 1 = 4 ∧ !c.dead then s.declareDead s.link.pod.k (some cell) else s

/-- What no probe changes. -/
def State.unprobed (s : State) : Nat × List Host.Cell × Tab Slot × PodRec := (s.cur, s.mem, s.slots, s.link.pod)

@[simp] theorem State.declareDead_unprobed (s : State) (part : Nat) (cell : Option Nat) :
    (s.declareDead part cell).unprobed = s.unprobed := by
  have pod : (s.abandonFix.broadcast (.death part cell)).link.pod = s.abandonFix.link.pod :=
    State.foldl_keeps (fun u => u.link.pod) (f := fun u p => u.toPart p (.death part cell)) (fun _ _ => rfl) _ _
  simp [State.unprobed, State.declareDead_eq, pod]

@[simp] theorem State.probeCell_unprobed (s : State) (cell : Nat) : (s.probeCell cell).unprobed = s.unprobed := by
  simp only [State.probeCell]
  split
  · split <;> rfl
  · split
    · exact State.declareDead_unprobed ..
    · rfl

theorem State.modCell_health (s : State) (c : Nat) (f : Cell → Cell) (j : Nat) :
    ((s.modCell c f).cell j).health = if j = c then (f (s.cell c)).health else (s.cell j).health := by
  split
  · next h => rw [h, State.cell_modCell]
  · next h => rw [State.cell_modCell_ne _ _ h]

/-- A probe counts a miss of a silent cell, and forgets those of one that answers; no other cell's count changes. -/
theorem State.probeCell_health (s : State) (c j : Nat) : ((s.probeCell c).cell j).health =
    if j = c then ((s.cell c).silent, if (s.cell c).silent then (s.cell c).misses + 1 else 0, (s.cell c).dead)
    else (s.cell j).health := by
  simp only [State.probeCell]
  cases silent : (s.cell c).silent
  · simp only [Bool.not_false, if_true, Bool.false_eq_true, if_false]
    split
    · next none =>
      split
      · next h => simp [h, Cell.health, silent, none]
      · rfl
    · rw [State.modCell_health]
      simp only [Cell.health, silent]
  · simp only [Bool.not_true, Bool.false_eq_true, if_false, if_true]
    rw [apply_ite (fun u : State => (u.cell j).health), State.declareDead_health, ite_self, State.modCell_health]
    simp only [Cell.health, silent]

theorem State.mem_now_probeCell {s : State} {e : Instr × Nat} (h : e ∈ s.sched.now) (c : Nat) :
    e ∈ (s.probeCell c).sched.now := by
  simp only [State.probeCell]
  split
  · split <;> exact h
  · split
    · refine State.mem_now_declareDead ?_ ..
      exact h
    · exact h

theorem State.probeCell_fourth {s : State} {c : Nat} (h : (s.cell c).health = (true, 3, false)) :
    (.deathNotice s.link.pod.k (some c), 0) ∈ (s.probeCell c).sched.now := by
  simp only [Cell.health, Prod.mk.injEq] at h
  obtain ⟨silent, misses, alive⟩ := h
  simp only [State.probeCell, silent, misses, alive]
  exact State.declareDead_now ..

/-- The probes of a list of cells of the die. -/
def State.probeCells (s : State) (is : List Nat) : State := is.foldl (fun u i => u.probeCell (u.cur * 256 + i)) s

theorem heartbeatProbe_eq (s : State) : exec .heartbeatProbe s = .next (s.probeCells (List.range 256)) := rfl

theorem State.probeCells_unprobed (s : State) (is : List Nat) : (s.probeCells is).unprobed = s.unprobed :=
  State.foldl_keeps State.unprobed (fun _ _ => State.probeCell_unprobed ..) is s

theorem State.probeCells_cur (s : State) (is : List Nat) : (s.probeCells is).cur = s.cur :=
  congrArg Prod.fst (s.probeCells_unprobed is)

theorem State.mem_now_probeCells {s : State} {e : Instr × Nat} (h : e ∈ s.sched.now) (is : List Nat) :
    e ∈ (s.probeCells is).sched.now := by
  induction is generalizing s with
  | nil => exact h
  | cons i is ih => exact ih (State.mem_now_probeCell h _)

/-- Probes of other cells of the die leave a cell's count. -/
theorem State.probeCells_health_other (s : State) {is : List Nat} {i : Nat} (h : i ∉ is) :
    ((s.probeCells is).cell (s.cur * 256 + i)).health = (s.cell (s.cur * 256 + i)).health := by
  induction is generalizing s with
  | nil => rfl
  | cons j is ih =>
    obtain ⟨other, rest⟩ := not_or.1 (mt List.mem_cons.2 h)
    have cur : (s.probeCell (s.cur * 256 + j)).cur = s.cur := congrArg Prod.fst (s.probeCell_unprobed _)
    have step := ih (s.probeCell (s.cur * 256 + j)) rest
    rw [cur, State.probeCell_health, if_neg (by omega)] at step
    exact step

/-- Every cell of the die is probed once: before and after its turn only other cells are. -/
theorem State.probeCells_split (s : State) {i : Nat} (h : i < 256) : ∃ before after, i ∉ before ∧ i ∉ after ∧
    s.probeCells (List.range 256) = ((s.probeCells before).probeCell (s.cur * 256 + i)).probeCells after := by
  obtain ⟨before, after, parts⟩ := List.append_of_mem (List.mem_range.2 h)
  have once : i ∉ before ++ after := (List.nodup_middle.1 (parts ▸ List.nodup_range)).notMem
  obtain ⟨hb, ha⟩ := not_or.1 (mt List.mem_append.2 once)
  refine ⟨before, after, hb, ha, ?_⟩
  rw [parts]
  simp only [State.probeCells, List.foldl_append, List.foldl_cons]
  rw [show (before.foldl (fun u i => u.probeCell (u.cur * 256 + i)) s).cur = s.cur from s.probeCells_cur before]

theorem heartbeatProbe_counts (s : State) {i : Nat} (h : i < 256) :
    let c := s.cur * 256 + i
    ∃ t, exec .heartbeatProbe s = .next t ∧ t.mem = s.mem ∧ t.slots = s.slots ∧
      (t.cell c).misses = (if (s.cell c).silent then (s.cell c).misses + 1 else 0) ∧
      ((s.cell c).silent = true → (s.cell c).misses = 3 → (s.cell c).dead = false →
        (.deathNotice s.link.pod.k (some c), 0) ∈ t.sched.now) := by
  intro c
  have kept := s.probeCells_unprobed (List.range 256)
  simp only [State.unprobed, Prod.mk.injEq] at kept
  obtain ⟨-, mem, slots, -⟩ := kept
  obtain ⟨before, after, notBefore, notAfter, parts⟩ := s.probeCells_split h
  have reached : ((s.probeCells before).cell c).health = (s.cell c).health := s.probeCells_health_other notBefore
  refine ⟨_, heartbeatProbe_eq s, mem, slots, ?_, fun silent misses alive => ?_⟩
  · have cur : ((s.probeCells before).probeCell c).cur = s.cur :=
      (congrArg Prod.fst (State.probeCell_unprobed ..)).trans (s.probeCells_cur before)
    have left := State.probeCells_health_other ((s.probeCells before).probeCell c) notAfter
    rw [cur, State.probeCell_health, if_pos rfl] at left
    simp only [Cell.health, Prod.mk.injEq] at left reached
    obtain ⟨silent, misses, -⟩ := reached
    rw [parts, left.2.1, silent, misses]
  · have pod : (s.probeCells before).link.pod = s.link.pod := congrArg (fun x => x.2.2.2) (s.probeCells_unprobed before)
    rw [parts, ← pod]
    exact State.mem_now_probeCells (State.probeCell_fourth (by rw [reached, Cell.health, silent, misses, alive])) after

theorem heartbeatLimitExpire_quiet {s : State} (h : s.link.dead.contains s.cur = true ∨ s.cycle < s.silentAt s.cur) :
    exec .heartbeatLimitExpire s = .next s := if_pos h

section
variable {s : State} (alive : s.link.dead.contains s.cur = false) (silent : s.silentAt s.cur ≤ s.cycle)
include alive silent

theorem heartbeatLimitExpire_silent : exec .heartbeatLimitExpire s =
    if s.silentAt s.cur + s.link.pod.heartbeat ≤ s.cycle ∧ s.link.heard.get 0 s.cur < s.silentAt s.cur then
      .next (s.declareDead s.cur none)
    else .next (s.sendOut s.cur (s.otherPort s.cur) (.probe s.link.pod.k)) := by
  refine if_neg ?_
  rintro (dead | early)
  · exact Bool.false_ne_true (alive.symm.trans dead)
  · omega

/-- A link that has been silent for the limit has a probe sent by another route. -/
theorem heartbeatLimitExpire_probes (soon : s.cycle < s.silentAt s.cur + s.link.pod.heartbeat) :
    exec .heartbeatLimitExpire s = .next (s.sendOut s.cur (s.otherPort s.cur) (.probe s.link.pod.k)) := by
  rw [heartbeatLimitExpire_silent alive silent, if_neg fun late => by omega]

end

theorem heartbeatLimitExpire_declares {s : State} (alive : s.link.dead.contains s.cur = false)
    (late : s.silentAt s.cur + s.link.pod.heartbeat ≤ s.cycle) (unheard : s.link.heard.get 0 s.cur < s.silentAt s.cur) :
    exec .heartbeatLimitExpire s = .next (s.declareDead s.cur none) := by
  rw [heartbeatLimitExpire_silent alive (by omega), if_pos ⟨late, unheard⟩]

/-! ### Death notices (R85, R361) -/

theorem State.tag_of_owners {s t : State} (h : t.owners = s.owners) (l i : Nat) : t.tag l i = s.tag l i := by
  simp only [State.tag, h]

/-- The words of a dead agent are lost, and no other tag changes (R85). -/
theorem State.loseOwner_tag (s : State) (part : Nat) (cell : Option Nat) (l i : Nat) :
    (s.loseOwner part cell).tag l i = if (s.tag l i).named part cell then .lost else s.tag l i := by
  simp only [State.tag, State.loseOwner]
  rw [Tab.find_map fun r : OwnerRec => { r with tags := r.tags.map fun t => if t.named part cell then .lost else t }]
  obtain h | ⟨r, h⟩ := Option.eq_none_or_eq_some (s.owners.find l)
  · simp [h, OwnerTag.named]
  · simp [h]

theorem OwnerTag.named_cell_iff (t : OwnerTag) (part c : Nat) : t.named part (some c) = true ↔ t = .cell part c := by
  cases t <;> simp [OwnerTag.named]

/-- The record of a death: of a cell of this part in its cell, of a part in the link (R361). -/
def State.noteDead (s : State) (part : Nat) : Option Nat → State
  | some c => if part = s.link.pod.k then s.modCell c fun x => { x with dead := true } else s
  | none => s.modLink fun x => { x with dead := if x.dead.contains part then x.dead else x.dead ++ [part] }

/-- A death notice abandons the fix in progress, loses the agent's words, notes its death, and asks that all work be held. -/
theorem deathNotice_eq (s : State) (part : Nat) (cell : Option Nat) : ∃ arg payload, exec (.deathNotice part cell) s =
    .next ((((s.abandonFix.loseOwner part cell).noteDead part cell).modLink fun x => { x with holdAsked := !x.held }).toHost
      opEvent arg payload) := by
  cases cell <;> exact ⟨_, _, rfl⟩

theorem State.noteDead_rest (s : State) (part : Nat) (cell : Option Nat) :
    s.noteDead part cell = { s with cells := (s.noteDead part cell).cells, link := (s.noteDead part cell).link } := by
  cases cell
  · rfl
  · simp only [State.noteDead]
    split <;> rfl

theorem State.noteDead_held (s : State) (part : Nat) (cell : Option Nat) : (s.noteDead part cell).link.held = s.link.held := by
  cases cell
  · rfl
  · simp only [State.noteDead]
    split <;> rfl

/-- What a death notice leaves, with what it leaves of the record of the agent itself. -/
theorem deathNotice_leaves (s : State) (part : Nat) (cell : Option Nat) : ∃ t, exec (.deathNotice part cell) s = .next t ∧
    t.fix.active = false ∧ t.mem = s.mem ∧ t.link.holdAsked = !s.link.held ∧
    t.link.dead = ((s.abandonFix.loseOwner part cell).noteDead part cell).link.dead ∧
    t.cells = ((s.abandonFix.loseOwner part cell).noteDead part cell).cells ∧
    ∀ l i, t.tag l i = if (s.tag l i).named part cell then .lost else s.tag l i := by
  obtain ⟨arg, payload, ran⟩ := deathNotice_eq s part cell
  have rest := (s.abandonFix.loseOwner part cell).noteDead_rest part cell
  refine ⟨_, ran, ?_, ?_, ?_, rfl, rfl, fun l i => ?_⟩
  · show ((s.abandonFix.loseOwner part cell).noteDead part cell).fix.active = false
    rw [rest]
    exact s.abandonFix_active
  · show ((s.abandonFix.loseOwner part cell).noteDead part cell).mem = s.mem
    rw [rest]
    exact s.abandonFix_mem
  · show (!((s.abandonFix.loseOwner part cell).noteDead part cell).link.held) = _
    rw [State.noteDead_held]
    exact congrArg (fun x : Link => !x.held) s.abandonFix_link
  · rw [← State.tag_of_owners (State.abandonFix_owners s), ← State.loseOwner_tag]
    refine State.tag_of_owners ?_ l i
    show ((s.abandonFix.loseOwner part cell).noteDead part cell).owners = _
    rw [rest]

theorem deathNotice_ofCell (s : State) (part c : Nat) : ∃ t, exec (.deathNotice part (some c)) s = .next t ∧
    t.fix.active = false ∧ t.mem = s.mem ∧ t.link.holdAsked = !s.link.held ∧ (part = s.link.pod.k → (t.cell c).dead = true) ∧
    ∀ l i, t.tag l i = if s.tag l i = .cell part c then .lost else s.tag l i := by
  obtain ⟨t, ran, fix, mem, hold, -, cells, tags⟩ := deathNotice_leaves s part (some c)
  refine ⟨t, ran, fix, mem, hold, fun here => ?_, fun l i => ?_⟩
  · have mine : part = (s.abandonFix.loseOwner part (some c)).link.pod.k :=
      here.trans (congrArg (fun x : Link => x.pod.k) s.abandonFix_link.symm)
    rw [State.cell, cells, State.noteDead, if_pos mine]
    simp
  · rw [tags]
    exact if_congr (OwnerTag.named_cell_iff ..) rfl rfl

theorem deathNotice_ofPart (s : State) (part : Nat) : ∃ t, exec (.deathNotice part none) s = .next t ∧
    t.fix.active = false ∧ t.mem = s.mem ∧ part ∈ t.link.dead ∧ ∀ l i, t.tag l i = match s.tag l i with
      | .cell q x => if q = part then .lost else .cell q x
      | y => y := by
  obtain ⟨t, ran, fix, mem, -, dead, -, tags⟩ := deathNotice_leaves s part none
  refine ⟨t, ran, fix, mem, ?_, fun l i => ?_⟩
  · rw [dead]
    show part ∈ if _ then _ else _
    split
    · next h => simpa using h
    · simp
  · rw [tags]
    cases s.tag l i <;> simp [OwnerTag.named]

/-! ### The obligation -/

/-- Settles O51: the four ways of a flit (`azimuthFlitReceive_other` to `azimuthFlitReceive_taken`), each cell of a die probed once
(`heartbeatProbe_counts`), the silence of a link (`heartbeatLimitExpire_silent`), and what a death notice leaves
(`deathNotice_leaves`). -/
theorem linksAndDeaths : Obligations.LinksAndDeaths := by
  refine ⟨?flits, fun s port => ⟨_, rfl, rfl, rfl, Tab.get_set_self ..⟩, fun s i h => heartbeatProbe_counts s h, fun s => ?links,
    fun s part c => ⟨deathNotice_ofCell s part c, deathNotice_ofPart s part⟩⟩
  case flits =>
    intro s port n src incarn k mbox ctx place fc v r m a flit next
    refine ⟨fun other => ⟨_, azimuthFlitReceive_other s port src incarn m true other, rfl, rfl⟩,
      fun order => ⟨_, azimuthFlitReceive_damaged s port src incarn m order, rfl, rfl, Tab.get_set_self ..⟩,
      fun order stale => ⟨_, azimuthFlitReceive_stale s port src incarn m order stale, rfl, Tab.get_set_self ..⟩,
      fun order part cell => ?_⟩
    have taken : flit = (s.flitTaken port n).azTake src m := azimuthFlitReceive_taken s port src incarn m order part cell
    rw [taken]
    refine ⟨?_, ?_, ?_, ?_⟩
    · rintro rfl
      exact ⟨_, rfl, rfl, Tab.get_set_self .., Tab.get_set_self ..⟩
    · rintro c rfl free
      have lands : ((s.flitTaken port n).farSink k r).cutFirst (replyCell k) fc = false ∨
          ((s.flitTaken port n).farSink k r).replyHeld k = false := by
        rw [State.farSink_cutFirst, State.farSink_replyHeld]
        exact free
      obtain ⟨now, mem⟩ := State.landReply_now r lands
      exact ⟨_, rfl, now, mem.trans (State.farSink_mem ..)⟩
    · rintro rfl
      obtain ⟨f, sent, -, parcel⟩ := State.send_flies (s.flitTaken port n) clsTask (0x7000 + src) (coreOf k)
        (.core (coreOf k) ⟨fc, .mail k mbox v ctx place⟩)
      exact ⟨_, rfl, rfl, f, sent, parcel⟩
    · rintro rfl
      obtain ⟨f, sent, -, parcel⟩ := State.send_flies (s.flitTaken port n) clsAm (0x7000 + src) k (.am k a)
      exact ⟨_, rfl, rfl, f, sent, parcel⟩
  case links =>
    exact ⟨heartbeatLimitExpire_quiet, fun alive silent soon => ⟨_, heartbeatLimitExpire_probes alive silent soon, rfl, rfl⟩,
      fun alive late unheard => ⟨_, heartbeatLimitExpire_declares alive late unheard, State.declareDead_now ..,
        State.declareDead_mem ..⟩⟩

end Sys2Proof.Machine

/-! PROOFS. The cache protocol (R77, R80 to R82, R86): lines of L1 and of L2 after the operations on them, owner tags, and with
them fills, registrations and copy-backs. -/

namespace Sys2Proof.Machine

/-! ### Messages -/

theorem State.flies_send (s : State) (cls src dst : Nat) (i : Instr) : (s.send cls src dst (msg i)).flies i 0 := by
  obtain ⟨f, sent, -, parcel⟩ := s.send_flies cls src dst (msg i)
  exact ⟨f, sent, parcel⟩

/-! ### Lines of L1 -/

@[simp] theorem State.l1_setL1 (s : State) (c l : Nat) (x : L1Line) : (s.setL1 c l x).l1 c l = some x := by
  simp [State.l1, State.setL1]

theorem State.l1_setL1_ne (s : State) (c : Nat) {j l : Nat} (x : L1Line) (h : j ≠ l) : (s.setL1 c l x).l1 c j = s.l1 c j := by
  simp [State.l1, State.setL1, Tab.find_set, h.symm]

/-- A change of a cell that leaves its L1 leaves every line. -/
theorem State.l1_modCell (s : State) (c : Nat) (f : Cell → Cell) (h : (f (s.cell c)).l1 = (s.cell c).l1) (l : Nat) :
    (s.modCell c f).l1 c l = s.l1 c l := by
  simp [State.l1, h]

@[simp] theorem State.unqueue_l1 (s : State) (c l : Nat) (m : BitVec 16) (j : Nat) : (s.unqueue c l m).l1 c j = s.l1 c j :=
  s.l1_modCell c _ rfl j

section
variable {s : State} {c l : Nat} {x : L1Line} (here : s.l1 c l = some x) (m nodata : BitVec 16)

@[simp] theorem State.copyBackOf_mem : (s.copyBackOf c l m nodata).mem = s.mem := by
  simp only [State.copyBackOf]
  split <;> rfl

include here

/-- The words of a copy-back are clean, and count as sent until its acknowledgement (R80, R81). -/
theorem State.copyBackOf_l1 :
    (s.copyBackOf c l m nodata).l1 c l = some { x with d := x.d &&& ~~~m, copying := x.copying ||| m } := by
  simp only [State.copyBackOf, here]
  refine Eq.trans ?_ (s.l1_setL1 c l _)
  exact State.l1_modCell _ c (fun cl => { cl with fills := cl.fills.map (FillReq.without l m) }) rfl l

theorem State.copyBackOf_flies : (s.copyBackOf c l m nodata).flies
    (.copyBack c l m nodata x.data (x.poison &&& m) x.key (s.cell c).fixNo) 0 := by
  simp only [State.copyBackOf, here]
  exact State.flies_send ..

end

/-! ### Fills (R77) -/

theorem withMemory_eq {as : List Nat} (h : ∀ a ∈ as, placeOf a ≠ .hole) (k : Event) (s : State) : withMemory as k s = k s := by
  have none_ : as.find? (fun a => placeOf a == .hole) = none := List.find?_eq_none.2 fun a ha => by simpa using h a ha
  simp only [withMemory, none_]

/-- A line of HBM is memory. -/
theorem withMemory_hbm {l : Nat} (h : placeOf (64 * l) = .hbm) (k : Event) (s : State) : withMemory [64 * l] k s = k s :=
  withMemory_eq (by simp [h]) k s

theorem State.copiesPast_nil {s : State} (h : s.fix.copies = []) (count u : Nat) : s.copiesPast count u = [] := by
  simp [State.copiesPast, h]

theorem State.redirect_self {s : State} (h : s.fix.copies = []) (count a : Nat) : s.redirect count a = a := by
  rw [State.redirect, State.copiesPast_nil h]

theorem State.mirror_nil {s : State} (h : s.fix.copies = []) (count : Nat) (bs : List (Nat × Byte)) :
    s.mirror count bs = [] := by
  simp [State.mirror, State.copiesPast_nil h]

/-- The bits of a mask that gathers the indices that pass a test. -/
theorem getLsbD_gathered (p : Nat → Prop) [DecidablePred p] (is : List Nat) (x : BitVec 16) (j : Nat) (hj : j < 16) :
    (is.foldl (fun x i => if p i then x ||| BitVec.ofNat 16 (2 ^ i) else x) x).getLsbD j =
      (x.getLsbD j || decide (j ∈ is ∧ p j)) := by
  induction is generalizing x with
  | nil => simp
  | cons i is ih =>
    have bit : (BitVec.ofNat 16 (2 ^ i)).getLsbD j = decide (i = j) := by
      rw [BitVec.getLsbD_ofNat, Nat.testBit_two_pow]
      simp [hj]
    have step : (if p i then x ||| BitVec.ofNat 16 (2 ^ i) else x).getLsbD j = (x.getLsbD j || decide (j = i ∧ p j)) := by
      split
      · rw [BitVec.getLsbD_or, bit]
        by_cases hi : i = j
        · subst hi; simp [*]
        · simp [hi, Ne.symm hi]
      · next off =>
        have away : ¬(j = i ∧ p j) := fun h => off (h.1 ▸ h.2)
        simp [away]
    rw [List.foldl_cons, ih, step, Bool.or_assoc, ← Bool.decide_or]
    simp only [List.mem_cons, or_and_right]

theorem State.tagMask_getLsbD (s : State) (l : Nat) (m : BitVec 16) (f : OwnerTag → Bool) (i : Fin 16) :
    (s.tagMask l m f).getLsbD i = (m.getLsbD i && f (s.tag l i)) := by
  rw [State.tagMask, getLsbD_gathered (fun i => m.getLsbD i ∧ f (s.tag l i)) _ _ _ i.isLt]
  simp [i.isLt]

/-- A line without a record has no lost word. -/
theorem State.lostMask_none {s : State} {l : Nat} (h : s.owners.find l = none) : s.lostMask l = 0 := by
  refine BitVec.eq_of_getLsbD_eq fun i hi => ?_
  rw [State.lostMask, s.tagMask_getLsbD l _ _ ⟨i, hi⟩]
  simp [State.tag, h]

theorem State.l2Fetch_present {s : State} {l : Nat} {y : L2Line} (h : s.l2.find l = some y) (key : Nat) : s.l2Fetch key l = s := by
  simp only [State.l2Fetch, h]

theorem State.homeLine_present {s : State} {l : Nat} {y : L2Line} (h : s.l2.find l = some y) (key : Nat) :
    s.homeLine key l = (y.data, y.poison, s) := by
  simp only [State.homeLine, h]

theorem fillRequest_answers {s : State} {cell line key n : Nat} {y : L2Line} (hbm : placeOf (64 * line) = .hbm)
    (copies : s.fix.copies = []) (free : s.owners.find line = none) (cached : s.l2.find line = some y) :
    exec (.fillRequest cell line key n) s = .next (s.send clsMemReply (homeSlice (64 * line)) cell
      (msg (.fillDataArrival cell line y.data y.poison 0))) := by
  show execFillRequest cell line key n s = _
  rw [execFillRequest, withMemory_hbm hbm]
  simp only [State.redirect_self copies, Nat.mul_div_cancel_left line (show 0 < 64 by decide), State.l2Fetch_present cached,
    State.homeLine_present cached, State.lostMask_none free]

theorem State.l1Room_present {s : State} {c l : Nat} {x : L1Line} (h : s.l1 c l = some x) : s.l1Room c l = (true, s) := by
  simp only [State.l1Room]
  exact if_pos (.inl (by rw [h]; rfl))

theorem State.wakeFill_rest (s : State) (cell line : Nat) (lost : BitVec 16) :
    (s.wakeFill cell line lost).cells = s.cells ∧ (s.wakeFill cell line lost).mem = s.mem := by
  refine ⟨State.foldl_keeps State.cells (fun u e => ?_) s.slots s, State.foldl_keeps State.mem (fun u e => ?_) s.slots s⟩ <;>
  · repeat' split
    all_goals rfl

/-- The state after the data of a fill has gone into a line that L1 holds. -/
def State.fillLanded (s : State) (cell line : Nat) (f : FillReq) (x : L1Line) (data : LineData) (poison : BitVec 16) : State :=
  (s.modCell cell fun c => { c with fills := c.fills.filter fun f => f.line ≠ line }).setL1 cell line
    (x.filled f data poison 0 s.cycle)

theorem fillDataArrival_lands {s : State} {cell line : Nat} {f : FillReq} {x : L1Line} (data : LineData) (poison : BitVec 16)
    (asked : (s.cell cell).fills.find? (fun q => q.line = line) = some f) (held : s.l1 cell line = some x) :
    exec (.fillDataArrival cell line data poison 0) s =
      .next ((s.fillLanded cell line f x data poison).wakeFill cell line 0) := by
  have kept := s.l1_modCell cell (fun c => { c with fills := c.fills.filter fun f => f.line ≠ line }) rfl line
  show execFillDataArrival cell line data poison 0 s = _
  simp only [execFillDataArrival, asked, State.l1Room_present held, kept, held]
  rfl

/-- A fill that loses no word writes those that are neither dirty nor stale. -/
theorem L1Line.filled_words (x : L1Line) (f : FillReq) (data : LineData) (poison : BitVec 16) (t : Nat) :
    let m := ~~~x.d &&& ~~~f.stale
    (x.filled f data poison 0 t).v = x.v ||| m ∧
      ∀ i : Fin 16, (x.filled f data poison 0 t).data[i] = if m.getLsbD i then data[i] else x.data[i] := by
  have whole (y : BitVec 16) : y &&& ~~~0 = y := BitVec.and_allOnes
  have present : ~~~x.d &&& (0 : BitVec 16) = 0 := BitVec.and_zero
  simp only [L1Line.filled, present, whole]
  exact ⟨trivial, fun i => by simp⟩

theorem fills : Claim.Fills := by
  intro s cell line key n y data poison f x
  refine ⟨fun hbm soft copies free cached => ?_, fun asked held => ?_⟩
  · exact ⟨_, fillRequest_answers hbm copies free cached, rfl, rfl, State.flies_send ..⟩
  · obtain ⟨cells, mem⟩ := (s.fillLanded cell line f x data poison).wakeFill_rest cell line 0
    obtain ⟨valid, words⟩ := x.filled_words f data poison s.cycle
    refine ⟨_, x.filled f data poison 0 s.cycle, fillDataArrival_lands data poison asked held, ?_, valid, rfl, rfl, words, ?_, mem⟩
    · rw [State.l1, State.cell, cells]
      exact State.l1_setL1 ..
    · rw [State.cell, cells]
      show ((State.fillLanded ..).cell cell).fills.any _ = false
      simp [State.fillLanded, State.setL1]

/-! ### Owner tags (R79, R80) -/

/-- Tags of the words of a mask are set, and no others; a record whose tags are all empty reads the same once it is dropped. -/
theorem State.setTags_tag (s : State) (l : Nat) (m : BitVec 16) (t : OwnerTag) (i : Fin 16) :
    (s.setTags l m t).tag l i = if m.getLsbD i then t else s.tag l i := by
  have old : s.tag l i = ((s.owners.find l).getD (OwnerRec.empty s.cycle)).tags[i] := by
    obtain h | ⟨r, h⟩ := Option.eq_none_or_eq_some (s.owners.find l) <;>
      simp [State.tag, h, OwnerRec.empty, Nat.mod_eq_of_lt i.isLt]
  rw [old]
  simp only [State.setTags]
  split
  · next bare =>
    have word := List.all_eq_true.1 bare _ (Vector.mem_toList_iff.2 (Vector.getElem_mem i.isLt))
    simp only [Vector.getElem_ofFn, beq_iff_eq] at word
    simp [State.tag, Tab.find_del]
    exact word.symm
  · simp [State.tag, Nat.mod_eq_of_lt i.isLt]

/-- No other cell is told where a line has no record. -/
theorem State.endOthers_none {s : State} {l : Nat} (h : s.owners.find l = none) (m : BitVec 16) (keep : Option Nat) :
    s.endOthers l m keep = s := by
  simp [State.endOthers, State.tag, h]

/-- A record that has come anew is not on recall (R86). -/
def State.unrecall (s : State) (l : Nat) : State :=
  { s with owners := match s.owners.find l with
    | some r => s.owners.set l { r with recalled := false }
    | none => s.owners }

@[simp] theorem State.unrecall_mem (s : State) (l : Nat) : (s.unrecall l).mem = s.mem := rfl

theorem State.unrecall_tag (s : State) (l i : Nat) : (s.unrecall l).tag l i = s.tag l i := by
  obtain h | ⟨r, h⟩ := Option.eq_none_or_eq_some (s.owners.find l) <;> simp [State.tag, State.unrecall, h]

theorem Tab.length_filter_set {α : Type} (p : Nat × α → Bool) (t : Tab α) (n : Nat) (v : α) :
    ((t.set n v).filter p).length ≤ (t.filter p).length + 1 := by
  induction t with
  | nil => exact List.length_filter_le _ _
  | cons e t ih =>
    obtain ⟨k, w⟩ := e
    simp only [Tab.set]
    split
    · simp only [List.filter_cons]
      split <;> simp
    · split
      · simp only [List.filter_cons]
        split <;> split <;> simp; omega
      · simp only [List.filter_cons]
        split
        · simpa using ih
        · exact ih

/-- Tags that are set leave no record of their line, or a new one. -/
theorem State.setTags_owners (s : State) (l : Nat) (m : BitVec 16) (t : OwnerTag) :
    (s.setTags l m t).owners = s.owners.del l ∨ ∃ r, (s.setTags l m t).owners = s.owners.set l r := by
  simp only [State.setTags]
  split
  · exact .inl rfl
  · exact .inr ⟨_, rfl⟩

/-- A registration adds one record at most to its slice. -/
theorem State.registered_records (s : State) (l : Nat) (m : BitVec 16) (t : OwnerTag) (slice : Nat) :
    (((s.setTags l m t).unrecall l).recordsOf slice).length ≤ (s.recordsOf slice).length + 1 := by
  simp only [State.recordsOf, State.unrecall]
  obtain h | ⟨r, h⟩ := s.setTags_owners l m t
  · simp only [h, Tab.find_del, if_true]
    exact Nat.le_succ_of_le (List.Sublist.length_le (List.filter_sublist.filter _))
  · simp only [h, Tab.find_set_self, Tab.set_set]
    exact Tab.length_filter_set ..

/-- A slice that is not over its records recalls none (R86). -/
theorem State.recallOver_room {s : State} {slice : Nat} (room : (s.recordsOf slice).length ≤ 1792) : s.recallOver slice = s := by
  have none_ : (s.recordsOf slice).length - ((s.recordsOf slice).filter fun e => e.2.recalled).length - 1792 = 0 := by omega
  simp only [State.recallOver, none_]
  rfl

/-- Registration of words that nobody holds: their tags name the cell, and it is told. -/
theorem registration_free {s : State} {line : Nat} (cell : Nat) (mask : BitVec 16) (free : s.owners.find line = none)
    (room : (s.recordsOf (homeSlice (64 * line))).length < 1700) :
    exec (.registration cell line mask) s = .next (((s.setTags line mask (s.myTag cell)).unrecall line).send clsMemReply
      (homeSlice (64 * line)) cell (msg (.registrationAck cell line mask))) := by
  have lost : s.lostMask line &&& mask = 0 := by rw [State.lostMask_none free]; exact BitVec.zero_and
  have all : mask &&& ~~~0 = mask := BitVec.and_allOnes
  have few := s.registered_records line mask (s.myTag cell) (homeSlice (64 * line))
  show execRegistration cell line mask s = _
  simp only [execRegistration, lost, all, State.endOthers_none free, if_true]
  rw [if_neg fun full => by omega]
  generalize s.setTags line mask (s.myTag cell) = u at few ⊢
  have slice := ((u.unrecall line).send clsMemReply (homeSlice (64 * line)) cell
    (msg (.registrationAck cell line mask))).recallOver_room (slice := homeSlice (64 * line)) (by
      simp only [State.recordsOf, State.send_owners] at few room ⊢
      omega)
  exact congrArg Host.Outcome.next slice

/-- The acknowledgement of words that are all dirty. -/
theorem registrationAck_dirty {s : State} {cell line : Nat} {mask : BitVec 16} {x : L1Line} (held : s.l1 cell line = some x)
    (dirty : mask &&& ~~~x.d = 0) : exec (.registrationAck cell line mask) s =
      .next ((s.unqueue cell line mask).setL1 cell line { x with o := x.o ||| (mask &&& x.d) }) := by
  show execRegistrationAck cell line mask s = _
  simp only [execRegistrationAck, State.unqueue_l1, held, dirty, if_true]

theorem registrationResend_sends {s : State} {cell line : Nat} {mask : BitVec 16}
    (some_ : mask &&& (s.cell cell).regMask line ≠ 0) : exec (.registrationResend cell line mask) s =
      .next ((s.modCell cell (Cell.markSent line (mask &&& (s.cell cell).regMask line) true)).send clsMemReq cell
        (homeSlice (64 * line)) (msg (.registration cell line (mask &&& (s.cell cell).regMask line)))) := if_neg some_

theorem State.l1Forget_l1 {s : State} {c l : Nat} {x : L1Line} (held : s.l1 c l = some x) (m : BitVec 16) :
    (s.l1Forget c l m).l1 c l = some { x with v := x.v &&& ~~~m, d := x.d &&& ~~~m, o := x.o &&& ~~~m } ∧
      (s.l1Forget c l m).mem = s.mem := by
  simp only [State.l1Forget, State.unqueue_l1, held]
  exact ⟨State.l1_setL1 .., rfl⟩

/-- A recall copies back the words that are dirty and owned. -/
theorem recall_copiesBack {s : State} {cell line : Nat} {x : L1Line} (held : s.l1 cell line = some x) (mask : BitVec 16) :
    exec (.recall cell line mask) s =
      .next (s.copyBackOf cell line (mask &&& x.d &&& x.o) (mask &&& ~~~(mask &&& x.d &&& x.o))) := by
  show execRecall cell line mask s = _
  simp only [execRecall, held]

theorem and_eq_left_of_and_not {m d : BitVec 16} (h : m &&& ~~~d = 0) : m &&& d = m := by
  refine BitVec.eq_of_getLsbD_eq fun i hi => ?_
  have bit : (m.getLsbD i && !d.getLsbD i) = false := by
    rw [← Bool.true_and (!d.getLsbD i), ← decide_eq_true hi, ← BitVec.getLsbD_not, ← BitVec.getLsbD_and, h]
    exact BitVec.getLsbD_zero
  rw [BitVec.getLsbD_and]
  cases hm : m.getLsbD i
  · rfl
  · simpa [hm] using bit

theorem registrations : Claim.Registrations := by
  intro s cell line mask x
  refine ⟨fun free room => ?_, fun held dirty => ?_, ⟨_, rfl, rfl, ?_⟩, ?resend, fun held => ?_, fun held => ?_⟩
  · refine ⟨_, registration_free cell mask free room, by simp, State.flies_send .., fun i => ?_⟩
    · have empty : s.tag line i = .empty := by simp [State.tag, free]
      rw [State.tag_of_owners (State.send_owners ..), State.unrecall_tag, State.setTags_tag, empty]
      rfl
  · refine ⟨_, _, registrationAck_dirty held dirty, rfl, State.l1_setL1 .., ?_, rfl, rfl, ?_⟩
    · rw [and_eq_left_of_and_not dirty]
    · simp only [State.setL1, State.unqueue, State.cell_modCell]
      rfl
  · exact List.mem_append_right _ (List.mem_singleton.2 rfl)
  case resend =>
    intro m some_
    exact ⟨_, registrationResend_sends some_, rfl, State.flies_send ..⟩
  · obtain ⟨left, mem⟩ := State.l1Forget_l1 held mask
    exact ⟨_, _, rfl, mem, left, rfl, rfl, rfl, rfl⟩
  · exact ⟨_, _, recall_copiesBack held mask, State.copyBackOf_mem .., State.copyBackOf_l1 held .., rfl,
      State.copyBackOf_flies held ..⟩

/-! ### The bytes of a line -/

/-- Of the four bytes of a word one is replaced. -/
theorem byte_replaced {w b k j : Nat} (hw : w < 2 ^ 32) (hb : b < 256) (hk : k < 4) (hj : j < 4) :
    (w - w / 2 ^ (k * 8) % 256 * 2 ^ (k * 8) + b * 2 ^ (k * 8)) % 2 ^ 32 / 2 ^ (j * 8) % 256 =
      if j = k then b else w / 2 ^ (j * 8) % 256 := by
  interval_cases k <;> interval_cases j <;> simp <;> omega

theorem lineByte_setLineByte (d : LineData) (a c : Nat) (b : Byte) :
    lineByte (setLineByte d a b) c = if c % 64 = a % 64 then b else lineByte d c := by
  by_cases word : a / 4 % 16 = c / 4 % 16
  · have here : lineWord (setLineByte d a b) (c / 4) = BitVec.ofNat 32 ((lineWord d (a / 4)).toNat -
        (lineWord d (a / 4)).toNat / 2 ^ (a % 4 * 8) % 256 * 2 ^ (a % 4 * 8) + b.toNat * 2 ^ (a % 4 * 8)) := by
      simp [lineWord, setLineByte, word]
    have same : lineWord d (c / 4) = lineWord d (a / 4) := by simp [lineWord, word]
    have byte := byte_replaced (lineWord d (a / 4)).isLt b.isLt (Nat.mod_lt a (by decide)) (Nat.mod_lt c (show 4 > 0 by decide))
    have place : c % 64 = a % 64 ↔ c % 4 = a % 4 := by omega
    apply BitVec.eq_of_toNat_eq
    simp only [lineByte, here, same, BitVec.toNat_ofNat, place]
    rw [byte]
    split <;> simp
  · have other : lineWord (setLineByte d a b) (c / 4) = lineWord d (c / 4) := by
      simp [lineWord, setLineByte, Vector.getElem_set_ne _ _ word]
    rw [if_neg (by omega), lineByte, other, lineByte]

/-- Of an address only its place in the line counts. -/
theorem lineByte_congr (d : LineData) {a c : Nat} (h : a % 64 = c % 64) : lineByte d a = lineByte d c := by
  have word : a / 4 % 16 = c / 4 % 16 := by omega
  have byte : a % 4 = c % 4 := by omega
  simp only [lineByte, lineWord, word, byte]

/-- Bytes of one line that are put into another. -/
theorem lineByte_putBytes (data : LineData) (as : List Nat) (d : LineData) (c : Nat) :
    lineByte (as.foldl (fun d a => setLineByte d a (lineByte data a)) d) c =
      if ∃ a ∈ as, c % 64 = a % 64 then lineByte data c else lineByte d c := by
  induction as generalizing d with
  | nil => simp
  | cons a as ih =>
    rw [List.foldl_cons, ih, lineByte_setLineByte]
    by_cases here : c % 64 = a % 64
    · simp [here, lineByte_congr data here]
    · simp [here]

/-- A word is its four bytes. -/
theorem word_of_bytes {d d' : LineData} (i : Fin 16) (h : ∀ k < 4, lineByte d (4 * i + k) = lineByte d' (4 * i + k)) :
    d[i] = d'[i] := by
  have byte (k : Nat) (hk : k < 4) : d[i].toNat / 2 ^ (k * 8) % 256 = d'[i].toNat / 2 ^ (k * 8) % 256 := by
    have word : (4 * i.val + k) / 4 % 16 = i.val := by omega
    have place : (4 * i.val + k) % 4 = k := by omega
    simpa [lineByte, lineWord, word, place] using congrArg BitVec.toNat (h k hk)
  have b0 := byte 0 (by decide)
  have b1 := byte 1 (by decide)
  have b2 := byte 2 (by decide)
  have b3 := byte 3 (by decide)
  apply BitVec.eq_of_toNat_eq
  omega

/-- The addresses of the words of a mask, in a line. -/
def maskAddrs (l : Nat) (m : BitVec 16) : List Nat := (addrsFrom (64 * l) 64).filter fun a => m.getLsbD (wordIx a)

theorem mem_maskAddrs {l : Nat} {m : BitVec 16} {a : Nat} :
    a ∈ maskAddrs l m ↔ a / 64 = l ∧ m.getLsbD (wordIx a) = true := by
  simp only [maskAddrs, addrsFrom, List.mem_filter, List.mem_map, List.mem_range]
  refine and_congr_left fun _ => ⟨?_, fun h => ⟨a % 64, by omega, by omega⟩⟩
  rintro ⟨o, bound, rfl⟩
  omega

/-- The words of a mask are taken from another line, and no others. -/
theorem putWords_word (data d : LineData) (l : Nat) (m : BitVec 16) (i : Fin 16) :
    ((maskAddrs l m).foldl (fun d a => setLineByte d a (lineByte data a)) d)[i] = if m.getLsbD i then data[i] else d[i] := by
  have inMask (k : Nat) (hk : k < 4) :
      (∃ a ∈ maskAddrs l m, (4 * i.val + k) % 64 = a % 64) ↔ m.getLsbD i = true := by
    constructor
    · rintro ⟨a, mem, place⟩
      rw [← (mem_maskAddrs.1 mem).2, wordIx]
      congr 1
      omega
    · refine fun bit => ⟨64 * l + 4 * i + k, mem_maskAddrs.2 ⟨by omega, ?_⟩, by omega⟩
      rw [← bit, wordIx]
      congr 1
      omega
  rw [word_of_bytes (d' := if m.getLsbD i then data else d) i fun k hk => ?_]
  · split <;> rfl
  · rw [lineByte_putBytes, if_congr (inMask k hk) rfl rfl]
    split <;> rfl

/-! ### Writes at home (R81) -/

/-- A write of HBM touches storage, its marks and keys, and the order of steps, which counts the free numbers. -/
theorem State.hbmWrite_rest (s : State) (key : Nat) (bs : List (Nat × Byte)) : s.hbmWrite key bs = { s with
    sched := (s.hbmWrite key bs).sched, mem := (s.hbmWrite key bs).mem, poison := (s.hbmWrite key bs).poison
    soft := (s.hbmWrite key bs).soft, unitKey := (s.hbmWrite key bs).unitKey } := by
  have rekeyed : ({ bs.foldl (fun s e => s.rekey key e.1) s with sched := s.sched, mem := s.mem, unitKey := s.unitKey } : State) = s := by
    refine State.foldl_keeps (fun u => ({ u with sched := s.sched, mem := s.mem, unitKey := s.unitKey } : State)) (fun u e => ?_) bs s
    simp only [State.rekey]
    split <;> rfl
  exact congrArg (fun u : State => { u with
    sched := (s.hbmWrite key bs).sched, mem := (s.hbmWrite key bs).mem, poison := (s.hbmWrite key bs).poison
    soft := (s.hbmWrite key bs).soft, unitKey := (s.hbmWrite key bs).unitKey }) rekeyed

@[simp] theorem State.hbmWrite_l2 (s : State) (key : Nat) (bs : List (Nat × Byte)) : (s.hbmWrite key bs).l2 = s.l2 := by
  rw [State.hbmWrite_rest]
@[simp] theorem State.hbmWrite_owners (s : State) (key : Nat) (bs : List (Nat × Byte)) :
    (s.hbmWrite key bs).owners = s.owners := by
  rw [State.hbmWrite_rest]
@[simp] theorem State.hbmWrite_fix (s : State) (key : Nat) (bs : List (Nat × Byte)) : (s.hbmWrite key bs).fix = s.fix := by
  rw [State.hbmWrite_rest]

/-- L2 after one byte of a write at home, of which `as` are all the addresses. -/
def l2Put (thru : Bool) (as : List Nat) (t : Tab L2Line) (e : Nat × Byte) : Tab L2Line :=
  match t.find (e.1 / 64) with
  | none => t
  | some x =>
    t.set (e.1 / 64) { x with data := setLineByte x.data e.1 e.2
                              dirty := if thru then x.dirty else x.dirty ||| BitVec.ofNat 16 (2 ^ wordIx e.1)
                              poison := x.poison &&& ~~~(wholeMask (e.1 / 64) as) }

theorem State.homePut_l2 (s : State) (thru : Bool) (key : Nat) (bs : List (Nat × Byte)) :
    (s.homePut thru key bs).l2 = bs.foldl (l2Put thru (bs.map (·.1))) s.l2 := State.hbmWrite_l2 ..
@[simp] theorem State.homePut_owners (s : State) (thru : Bool) (key : Nat) (bs : List (Nat × Byte)) :
    (s.homePut thru key bs).owners = s.owners := State.hbmWrite_owners ..
@[simp] theorem State.homePut_fix (s : State) (thru : Bool) (key : Nat) (bs : List (Nat × Byte)) :
    (s.homePut thru key bs).fix = s.fix := State.hbmWrite_fix ..

/-- Bytes of one line go into its entry in L2. -/
theorem l2Puts_find (thru : Bool) (as : List Nat) (l : Nat) (data : LineData) (bs : List Nat) {t : Tab L2Line} {y : L2Line}
    (here : t.find l = some y) (inLine : ∀ a ∈ bs, a / 64 = l) :
    ∃ z, ((bs.map fun a => (a, lineByte data a)).foldl (l2Put thru as) t).find l = some z ∧
      z.data = bs.foldl (fun d a => setLineByte d a (lineByte data a)) y.data := by
  induction bs generalizing t y with
  | nil => exact ⟨y, here, rfl⟩
  | cons a bs ih =>
    obtain ⟨first, rest⟩ := List.forall_mem_cons.1 inLine
    simp only [List.map_cons, List.foldl_cons, l2Put, first, here]
    exact ih (Tab.find_set_self ..) rest

theorem State.cow_none {s : State} (h : s.fix.want = 0) (count : Nat) (as : List Nat) : s.cow count as = s := by
  induction as with
  | nil => rfl
  | cons a as ih => simpa [State.cow, State.needsCopy, State.cutOf, h] using ih

/-- Outside a fix a write at home goes to its line alone. -/
theorem State.homeWrite_plain {s : State} (want : s.fix.want = 0) (copies : s.fix.copies = []) (count : Nat) (thru : Bool)
    (key : Nat) (bs : List (Nat × Byte)) : s.homeWrite count thru key bs = s.homePut thru key bs := by
  rw [State.homeWrite, State.cow_none want, State.mirror_nil copies, List.append_nil]

/-- Poison comes to a line that L2 holds. -/
theorem State.poisonHome_cached {s : State} {l : Nat} {y : L2Line} (copies : s.fix.copies = []) (here : s.l2.find l = some y)
    (count : Nat) (m : BitVec 16) :
    s.poisonHome count l m = { s with l2 := s.l2.set l { y with poison := y.poison ||| m } } := by
  simp only [State.poisonHome, State.mirrorMarks, State.mirror_nil copies, List.map_nil, List.append_nil, List.foldl_cons,
    List.foldl_nil, Nat.mul_div_cancel_left l (show 0 < 8 by decide), here]

/-- Words of a mask whose tag names a cell. -/
def State.ownWords (s : State) (cell line : Nat) (mask : BitVec 16) : BitVec 16 := s.tagMask line mask (· == s.myTag cell)

theorem State.ownWords_bit (s : State) (cell line : Nat) (mask : BitVec 16) (i : Fin 16) :
    (s.ownWords cell line mask).getLsbD i = (mask.getLsbD i && s.tag line i == s.myTag cell) := s.tagMask_getLsbD ..

theorem State.ownWords_zero (s : State) (cell line : Nat) : s.ownWords cell line 0 = 0 := by
  refine BitVec.eq_of_getLsbD_eq fun i hi => ?_
  rw [s.ownWords_bit cell line 0 ⟨i, hi⟩]
  simp

/-- The state after the words of a copy-back that are still the sender's have reached L2, and before their tags go. -/
def State.copiedBack (s : State) (cell line : Nat) (mask : BitVec 16) (data : LineData) (poison : BitVec 16) (key n : Nat) : State :=
  (s.homeWrite n false key ((maskAddrs line (s.ownWords cell line mask)).map fun a => (a, lineByte data a))).poisonHome n line
    (poison &&& s.ownWords cell line mask)

/-- A copy-back with data: L2 takes the words, their tags go, and the sender is told which were dropped. -/
theorem copyBack_eq {cell line : Nat} (hbm : placeOf (64 * line) = .hbm) (s : State) (mask : BitVec 16) (data : LineData)
    (poison : BitVec 16) (key n : Nat) :
    exec (.copyBack cell line mask 0 data poison key n) s =
      .next (((s.copiedBack cell line mask data poison key n).setTags line (s.ownWords cell line mask) .empty).send clsMemReply
        (homeSlice (64 * line)) cell (msg (.copyBackAck cell line mask (mask &&& ~~~(s.ownWords cell line mask))))) := by
  have bare : s.tagMask line 0 (· == s.myTag cell) = 0 := s.ownWords_zero cell line
  have whole : s.tagMask line mask (· == s.myTag cell) ||| 0 = s.ownWords cell line mask := BitVec.or_zero
  show execCopyBack cell line mask 0 data poison key n s = _
  rw [execCopyBack, withMemory_hbm hbm]
  simp only [bare, whole]
  rfl

theorem State.copiedBack_spec {s : State} {line : Nat} {y : L2Line} (cached : s.l2.find line = some y) (want : s.fix.want = 0)
    (copies : s.fix.copies = []) (cell : Nat) (mask : BitVec 16) (data : LineData) (poison : BitVec 16) (key n : Nat) :
    (s.copiedBack cell line mask data poison key n).owners = s.owners ∧
      ∃ z, (s.copiedBack cell line mask data poison key n).l2.find line = some z ∧
        ∀ i : Fin 16, z.data[i] = if (s.ownWords cell line mask).getLsbD i then data[i] else y.data[i] := by
  obtain ⟨z, stored, words⟩ := l2Puts_find false ((maskAddrs line (s.ownWords cell line mask)).map (fun a => (a, lineByte data a)) |>.map (·.1))
    line data (maskAddrs line (s.ownWords cell line mask)) cached fun a h => (mem_maskAddrs.1 h).1
  rw [State.copiedBack, State.homeWrite_plain want copies]
  rw [← State.homePut_l2 s false key] at stored
  rw [State.poisonHome_cached ((State.homePut_fix ..).symm ▸ copies) stored]
  refine ⟨State.homePut_owners .., _, Tab.find_set_self .., fun i => ?_⟩
  rw [← putWords_word data y.data line, ← words]

@[simp] theorem State.setTags_l2 (s : State) (l : Nat) (m : BitVec 16) (t : OwnerTag) : (s.setTags l m t).l2 = s.l2 := by
  simp only [State.setTags]

/-- An acknowledged copy-back clears O of its words (R81). -/
theorem copyBackAck_eq {s : State} {cell line : Nat} {x : L1Line} (here : s.l1 cell line = some x) (stays : x.evicting = false)
    (mask gone : BitVec 16) : ∃ u : State, u.mem = s.mem ∧ exec (.copyBackAck cell line mask gone) s =
      .next (u.setL1 cell line { x with o := x.o &&& ~~~mask, copying := x.copying &&& ~~~mask }) := by
  have after {u : State} (same : u.l1 cell line = some x) (mem : u.mem = s.mem)
      (start : (if (s.cell cell).cutLines.contains line then
        s.modCell cell fun c => { c with cutLines := c.cutLines.filter (· ≠ line) } else s) = u) :
      ∃ u : State, u.mem = s.mem ∧ execCopyBackAck cell line mask gone s =
        .next (u.setL1 cell line { x with o := x.o &&& ~~~mask, copying := x.copying &&& ~~~mask }) :=
    ⟨u, mem, by simp only [execCopyBackAck, start, same, stays, Bool.false_eq_true, false_and, if_false]⟩
  by_cases cut : (s.cell cell).cutLines.contains line = true
  · exact after ((State.l1_modCell _ _ _ rfl _).trans here) rfl (if_pos cut)
  · exact after here rfl (if_neg cut)

theorem copyBacks : Claim.CopyBacks := by
  intro s cell line key n mask poison gone data y x
  refine ⟨fun hbm cached want copies => ?_, fun here stays => ?_⟩
  · intro mine
    obtain ⟨owners, z, stored, words⟩ := State.copiedBack_spec cached want copies cell mask data poison key n
    have bit (i : Fin 16) : (s.ownWords cell line mask).getLsbD i = mine i.val := s.ownWords_bit cell line mask i
    generalize moved : s.copiedBack cell line mask data poison key n = u at *
    refine ⟨_, z, copyBack_eq hbm s mask data poison key n, ?_, fun i => ?_, fun i => ?_, _, State.flies_send .., fun i => ?_⟩
    · rw [moved, ← stored, ← u.setTags_l2 line (s.ownWords cell line mask) .empty]
      rfl
    · rw [words, bit]
    · rw [moved, State.tag_of_owners (State.send_owners ..), State.setTags_tag, bit, State.tag_of_owners owners]
    · rw [BitVec.getLsbD_and, BitVec.getLsbD_not, bit]
      simp
  · obtain ⟨u, mem, run⟩ := copyBackAck_eq here stays mask gone
    exact ⟨_, _, run, State.l1_setL1 .., rfl, rfl, rfl, rfl, mem⟩

/-- Settles O34: a fill takes clean words only, a registration is set, refused or lost by its home's answer, and a copy-back
moves the words whose tag still names its sender. -/
theorem cacheProtocol : Obligations.CacheProtocol := ⟨fills, registrations, copyBacks⟩

end Sys2Proof.Machine

/-! PROOFS. Ordering forms and views (R87 to R89, R226 to R228): what a slot keeps while it waits and completes, the region of two
registers, the forms that leave the rotation, and what L1 does for them. -/

namespace Sys2Proof.Machine

/-! ### What a slot reads of its streams (R142) -/

/-- The slot with the streams of another, and what that is to take of them. -/
def Slot.withStreams (sl old : Slot) : Slot := { sl with streams := old.streams, pops := old.pops }

/-- Elements that are taken from streams change nothing else of the slot. -/
theorem Slot.settle_rest (sl : Slot) : sl.settle.withStreams sl = sl :=
  List.foldlRecOn (motive := fun x : Slot => x.withStreams sl = sl) sl.pops _ rfl fun _ h _ _ => h

/-- Elements that are put back change nothing else of the slot. -/
theorem Slot.unsettle_rest (sl old : Slot) (again : Bool) : (sl.unsettle old again).withStreams sl = sl := by
  refine List.foldlRecOn (motive := fun x : Slot => x.withStreams sl = sl) (List.finRange 8) _ rfl fun x h i _ => ?_
  dsimp only
  split
  · split <;> exact h
  · exact h

theorem Slot.goOn_seq_regs (sl : Slot) (len : Nat) : (sl.goOn len .seq).regs = sl.regs := by
  have same := congrArg Slot.regs (sl.goOn_seq_bare len)
  exact same

/-- The slot after the reply that its instruction waited for. -/
def Slot.completed (sl : Slot) : Slot := ({ sl.settle with pend := .none, faultWait := none } : Slot).goOn sl.ilen .seq

theorem Slot.completed_regs (sl : Slot) : sl.completed.regs = sl.regs := by
  have same := congrArg Slot.regs sl.settle_rest
  exact (Slot.goOn_seq_regs ..).trans same

theorem Slot.completed_loops (sl : Slot) :
    (sl.completed.pc, sl.completed.lc0, sl.completed.lc1) = sl.movesOn sl.ilen none id := by
  have same := congrArg (fun x : Slot => x.afterLoops (x.pc + natW sl.ilen)) sl.settle_rest
  exact (Slot.goOn_seq_loops ..).trans same

/-! ### The region of two registers (R226) -/

/-- Two registers name all memory or the range between their value and their sum. -/
theorem regionOf_plain {s : State} {a b : Reg} (ha : s.me.plain a = true) (hb : s.me.plain b = true)
    (canon : canonical (s.me.g a).toNat = true) (bound : (s.me.g a).toNat + (s.me.g b).toNat ≤ 2 ^ 64) :
    ∃ lo hi, regionOf a b s = .ok ((decide (a = 0 ∧ b = 0), lo, hi), s) ∧
      (decide (a = 0 ∧ b = 0) = false → lo = (s.me.g a).toNat ∧ hi = (s.me.g a).toNat + (s.me.g b).toNat) := by
  rw [regionOf, Act.bind_ok (readG_plain s a ha), Act.bind_ok (readG_plain s b hb)]
  by_cases every : a = 0 ∧ b = 0
  · exact ⟨0, 0, by simp only [every, and_self, if_true, decide_true]; rfl, by simp [every]⟩
  · have inside : (decide (2 ^ 64 < (s.me.g a).toNat + (s.me.g b).toNat) || !canonical (s.me.g a).toNat) = false := by
      simp [canon]; omega
    exact ⟨_, _, by simp only [if_neg every, inside, decide_eq_false every]; rfl, fun _ => ⟨rfl, rfl⟩⟩

/-! ### What retiring leaves -/

theorem State.retire_l1 (s : State) (len : Nat) (n : Next) (c : Nat) : ((s.retire len n).cell c).l1 = (s.cell c).l1 := by
  have same := congrArg Cell.l1 (s.retire_cell len n c)
  exact same

theorem State.retire_logging (s : State) (len : Nat) (n : Next) (c : Nat) :
    ((s.retire len n).cell c).logging = (s.cell c).logging := by
  have same := congrArg Cell.logging (s.retire_cell len n c)
  exact same

theorem State.retire_clusters (s : State) (len : Nat) (n : Next) : (s.retire len n).clusters = s.clusters := by
  rw [State.retire_rest]

theorem State.retire_sched (s : State) (len : Nat) (n : Next) : (s.retire len n).sched = s.sched := by
  rw [State.retire_rest]

theorem State.retire_regions (s : State) (len : Nat) (n : Next) : (s.retire len n).regions = s.regions := by
  rw [State.retire_rest]

/-! ### Ordering forms (R226, R227) -/

/-- What an ordering form waits for. -/
def State.orderOp (s : State) (acq rel wide all : Bool) (lo hi : Nat) : OrderOp where
  acq := acq && wide
  rel := rel && wide
  all := all
  lo := lo
  hi := hi
  ctx := s.me.ctx
  due := s.cycle + (if wide then 64 else 0)
  relSent := false
  todo := []
  wait := []

theorem Cell.acquire_l1 {c d : Cell} (same : c.l1 = d.l1) (all : Bool) (lo hi ctx : Nat) (keep : Bool) :
    (c.acquire all lo hi ctx keep).l1 = (d.acquire all lo hi ctx keep).l1 := by
  simp only [Cell.acquire, same]

/-- What an ordering form leaves is L1 after its acquire, and nothing else that its slot sees. -/
theorem State.orderDone_keeps (s : State) (k : Nat) (o : OrderOp) :
    (s.orderDone k o).slot = s.slot ∧ (s.orderDone k o).mem = s.mem ∧ (s.orderDone k o).cur = s.cur := by
  simp only [State.orderDone]
  split <;> exact ⟨rfl, rfl, rfl⟩

theorem State.orderDone_l1 (s : State) (k : Nat) (o : OrderOp) :
    ((s.orderDone k o).cell (cellOf k)).l1 = if o.acq then ((s.cell (cellOf k)).acquire o.all o.lo o.hi o.ctx false).l1
      else (s.cell (cellOf k)).l1 := by
  simp only [State.orderDone]
  split <;> simp

/-- A slot that has left for an ordering form goes on at its reply. -/
theorem order_completes {t : State} {o : OrderOp} (left : t.me.pend = .order o) (slot : slotOk t.cur = true)
    (idle : (t.cell (cellOf t.cur)).logging = false) :
    ∃ u, exec (.memoryReplyArrival t.cur .done) t = .next u ∧ u.me.run = .run ∧ u.me.regs = t.me.regs ∧ u.mem = t.mem ∧
      PassedBy t u t.me.ilen ∧
      (u.cell (cellOf t.cur)).l1 = if o.acq then ((t.cell (cellOf t.cur)).acquire o.all o.lo o.hi o.ctx false).l1
        else (t.cell (cellOf t.cur)).l1 := by
  have low : t.cur < 49216 := of_decide_eq_true slot
  have unlogged : t.logReply t.cur .done = t := by simp [State.logReply, State.replyOwed, idle]
  obtain ⟨slots, mem, cur⟩ := t.orderDone_keeps t.cur o
  have l1 := t.orderDone_l1 t.cur o
  have ran : exec (.memoryReplyArrival t.cur .done) t = (t.orderDone t.cur o).complete t.cur .plain (pure ()) := by
    have pending : (t.slot t.cur).pend = .order o := left
    show execMemoryReplyArrival t.cur .done t = _
    have slot (n : Nat) (h : 49216 ≤ n) : ¬n ≤ t.cur := by omega
    unfold execMemoryReplyArrival
    rw [if_neg (slot _ (by decide)), if_neg (slot _ (by decide)), if_neg (slot _ (by decide)), if_neg (slot _ (by decide)),
      if_neg (slot _ (by decide))]
    dsimp only
    rw [pending, unlogged]
    rfl
  generalize t.orderDone t.cur o = d at *
  have after := State.complete_ok (s := d) (t := d) .plain (body := pure ()) rfl
  rw [cur] at after
  have here : (d.modSlot t.cur Slot.completed).me = t.me.completed := by
    rw [State.me, State.modSlot_cur, cur, State.slot_modSlot, slots]
  refine ⟨d.modSlot t.cur Slot.completed, ran.trans after, ?_, ?_, mem, ?_, l1⟩
  · rw [here]; rfl
  · rw [here, Slot.completed_regs]
  · rw [PassedBy, here]
    exact t.me.completed_loops

/-- The two steps of an ordering form: it leaves, and goes on at its reply. -/
theorem order_steps {i : Instr} {s : State} {g : Guard} {body : Act Next} {acq rel wide all : Bool} {lo hi x n : Nat}
    (runs : exec i s = issue g (formLen g) body s) (acts : body s = orderLeave acq rel wide all lo hi s)
    (range : all = false → lo = x ∧ hi = x + n) (holds : s.me.guardHolds g = true) (slot : slotOk s.cur = true)
    (uncut : (s.cell (cellOf s.cur)).cutBegun = false) (idle : (s.cell (cellOf s.cur)).logging = false) :
    ∃ t o u, exec i s = .next t ∧ t.me.run = .wait wMem ∧ t.me.pend = .order o ∧ t.me.regs = s.me.regs ∧ t.mem = s.mem ∧
      o.acq = (acq && wide) ∧ o.rel = (rel && wide) ∧ o.all = all ∧ (all = false → o.lo = x ∧ o.hi = x + n) ∧
      o.due = s.cycle + (if wide then 64 else 0) ∧ exec (.memoryReplyArrival s.cur .done) t = .next u ∧ u.me.run = .run ∧
      u.me.regs = s.me.regs ∧ u.mem = s.mem ∧ PassedBy s u (formLen g) ∧ (u.cell (cellOf s.cur)).l1 = if acq && wide
        then ((s.cell (cellOf s.cur)).acquire o.all o.lo o.hi s.me.ctx false).l1 else (s.cell (cellOf s.cur)).l1 := by
  have left : exec i s = .next (s.retire (formLen g) (.leave (.order (s.orderOp acq rel wide all lo hi)) wMem)) :=
    runs.trans (issue_ok g (formLen g) body s s _ holds acts (.inr uncut) rfl)
  generalize after : s.retire (formLen g) (.leave (.order (s.orderOp acq rel wide all lo hi)) wMem) = t at left
  have me : t.me = _ := after ▸ s.retire_me ..
  have cur : t.cur = s.cur := after ▸ s.retire_cur ..
  have mem : t.mem = s.mem := after ▸ s.retire_mem ..
  have l1 : (t.cell (cellOf s.cur)).l1 = (s.cell (cellOf s.cur)).l1 := after ▸ s.retire_l1 ..
  have unlogged : (t.cell (cellOf s.cur)).logging = false := (after ▸ s.retire_logging ..).trans idle
  obtain ⟨u, ran, run, regs, umem, past, ul1⟩ :=
    order_completes (t := t) (by rw [me]; rfl) (cur ▸ slot) (cur.symm ▸ unlogged)
  rw [cur] at ran ul1
  refine ⟨t, s.orderOp acq rel wide all lo hi, u, left, ?_, ?_, ?_, mem, rfl, rfl, rfl, range, rfl, ran, run, ?_,
    umem.trans mem, ?_, ?_⟩
  · rw [me]; rfl
  · rw [me]; rfl
  · rw [me]; rfl
  · rw [regs, me]; rfl
  · rw [PassedBy] at past
    rw [PassedBy, past, me]
    rfl
  · rw [ul1, Cell.acquire_l1 l1, l1]
    rfl

theorem wideScope_eq (sc : Scope) : wideScope sc = decide (sc ≠ .slot ∧ sc ≠ .core ∧ sc ≠ .cell) := by
  cases sc <;> rfl

theorem orderingForms : Claim.OrderingForms := by
  intro s g sc a b holds ha hb slot uncut idle x n canon bound every wide e he
  have scope : wideScope sc = wide := wideScope_eq sc
  obtain ⟨lo, hi, region, range⟩ := regionOf_plain ha hb canon bound
  simp only [List.mem_cons, List.not_mem_nil, or_false] at he
  rcases he with rfl | rfl | rfl
  · refine order_steps (lo := 0) (hi := 0) (show _ = execFence g sc s from rfl) ?_ nofun holds slot uncut idle
    rw [scope]
  · refine order_steps (show _ = execAcq g sc b a s from rfl) ?_ range holds slot uncut idle
    rw [Act.bind_ok region, scope]
  · refine order_steps (show _ = execRel g sc b a s from rfl) ?_ range holds slot uncut idle
    rw [Act.bind_ok region, scope]

/-! ### Views (R89, R228) -/

/-- `invr` on the state: clean words of its region in L1, and lines of the instruction cache. -/
def State.invr (s : State) (lo hi : Nat) : State :=
  (s.modCell (cellOf s.cur) fun c => c.invr false lo hi s.me.ctx).modCluster (clusterOf (cellOf s.cur)) fun c =>
    { c with icache := c.icache.filter fun x => !x.inRegion false lo hi s.me.ctx }

theorem State.invr_l1 (s : State) (lo hi : Nat) :
    ((s.invr lo hi).cell (cellOf s.cur)).l1 = ((s.cell (cellOf s.cur)).invr false lo hi s.me.ctx).l1 := by
  have same := congrArg Cell.l1 (s.cell_modCell (cellOf s.cur) fun c => c.invr false lo hi s.me.ctx)
  exact same

theorem State.invr_icache (s : State) (lo hi : Nat) : ((s.invr lo hi).cluster (clusterOf (cellOf s.cur))).icache =
    (s.cluster (clusterOf (cellOf s.cur))).icache.filter fun y => !y.inRegion false lo hi s.me.ctx := by
  rw [State.invr, State.cluster_modCluster]
  rfl

theorem execInvr_eq {s : State} {g : Guard} {a b : Reg} (holds : s.me.guardHolds g = true) (ha : s.me.plain a = true)
    (hb : s.me.plain b = true) (canon : canonical (s.me.g a).toNat = true)
    (bound : (s.me.g a).toNat + (s.me.g b).toNat ≤ 2 ^ 64) (named : a ≠ 0) : exec (.invr g b a) s =
      .next ((s.invr (s.me.g a).toNat ((s.me.g a).toNat + (s.me.g b).toNat)).retire (formLen g) .seq) := by
  obtain ⟨lo, hi, region, range⟩ := regionOf_plain ha hb canon bound
  have part : decide (a = 0 ∧ b = 0) = false := decide_eq_false fun h => named h.1
  obtain ⟨rfl, rfl⟩ := range part
  rw [part] at region
  refine issue_ok g (formLen g) _ s _ .seq holds ?_ (.inl rfl) rfl
  rw [Act.bind_ok region]
  rfl

/-- What follows in sequence after a form that leaves its slot alone. -/
theorem PassedBy.retire {s t : State} (same : t.me = s.me) (len : Nat) : PassedBy s (t.retire len .seq) len := by
  rw [PassedBy, State.retire_me, same]
  exact Slot.goOn_seq_loops ..

theorem invr_invalidates {s : State} {g : Guard} {a b : Reg} (holds : s.me.guardHolds g = true) (ha : s.me.plain a = true)
    (hb : s.me.plain b = true) (canon : canonical (s.me.g a).toNat = true)
    (bound : (s.me.g a).toNat + (s.me.g b).toNat ≤ 2 ^ 64) (named : a ≠ 0) :
    ∃ t, exec (.invr g b a) s = .next t ∧ t.mem = s.mem ∧ t.me.regs = s.me.regs ∧ PassedBy s t (formLen g) ∧
      (t.cell (cellOf s.cur)).l1 =
        ((s.cell (cellOf s.cur)).invr false (s.me.g a).toNat ((s.me.g a).toNat + (s.me.g b).toNat) s.me.ctx).l1 ∧
      (t.cluster (clusterOf (cellOf s.cur))).icache = (s.cluster (clusterOf (cellOf s.cur))).icache.filter fun y =>
        !y.inRegion false (s.me.g a).toNat ((s.me.g a).toNat + (s.me.g b).toNat) s.me.ctx := by
  refine ⟨_, execInvr_eq holds ha hb canon bound named, State.retire_mem .., ?_, PassedBy.retire rfl _, ?_, ?_⟩
  · rw [State.retire_me]
    exact Slot.goOn_seq_regs ..
  · rw [State.retire_l1, State.invr_l1]
  · rw [State.cluster, State.retire_clusters]
    exact State.invr_icache ..

/-- A line that leaves L2 is written to HBM: slots and regions stay. -/
theorem State.l2Evict_keeps (s : State) (l : Nat) :
    (s.l2Evict l).slots = s.slots ∧ (s.l2Evict l).cur = s.cur ∧ (s.l2Evict l).regions = s.regions := by
  simp only [State.l2Evict]
  split
  · exact ⟨rfl, rfl, rfl⟩
  · simp only [State.l2Spill, State.markPoison]
    rw [State.hbmWrite_rest]
    exact ⟨rfl, rfl, rfl⟩

/-- A synchronised region has no cached entry. -/
theorem State.vsyncRegion_keeps (s : State) (ix : Nat) : (s.vsyncRegion ix).slots = s.slots ∧ (s.vsyncRegion ix).cur = s.cur ∧
    (s.vsyncRegion ix).regions = s.regions.del ix := by
  simp only [State.vsyncRegion]
  split
  · exact ⟨rfl, rfl, rfl⟩
  · exact ⟨State.foldl_keeps State.slots (fun u l => (u.l2Evict_keeps l).1) _ _,
      State.foldl_keeps State.cur (fun u l => (u.l2Evict_keeps l).2.1) _ _,
      State.foldl_keeps State.regions (fun u l => (u.l2Evict_keeps l).2.2) _ _⟩

theorem State.answer_answers (s : State) (src a : Nat) (r : Reply) (taken : a ≠ noSlot) : (s.answer src a r).answers a r 0 := by
  simp only [State.answer, State.answerAt, if_neg taken]
  obtain ⟨f, sent, -, parcel⟩ := s.send_flies clsMemReply src (replyCell a) (.reply a r 0)
  exact ⟨f, sent, parcel⟩

@[simp] theorem State.answer_slots (s : State) (src a : Nat) (r : Reply) : (s.answer src a r).slots = s.slots := by
  simp only [State.answer, State.answerAt]
  split <;> rfl
@[simp] theorem State.answer_cur (s : State) (src a : Nat) (r : Reply) : (s.answer src a r).cur = s.cur := by
  simp only [State.answer, State.answerAt]
  split <;> rfl
@[simp] theorem State.answer_regions (s : State) (src a : Nat) (r : Reply) : (s.answer src a r).regions = s.regions := by
  simp only [State.answer, State.answerAt]
  split <;> rfl

/-- A number that names a region is synchronised, and the device answers. -/
theorem execVsync_eq {s : State} {g : Guard} {a : Reg} (holds : s.me.guardHolds g = true) (ha : s.me.plain a = true)
    (some_ : s.me.g a ≠ 0) (bound : (s.me.g a).toNat < 4096) (uncut : (s.cell (cellOf s.cur)).cutBegun = false) :
    exec (.vsync g a) s = .next (((((s.vsyncRegion (s.me.g a).toNat).answer deviceChan s.cur .done).modSlot s.cur fun sl =>
      sl.unsettle s.me false)).retire (formLen g) (.leave .plain wMem)) := by
  have good : (s.me.g a == 0 || decide (4096 ≤ (s.me.g a).toNat)) = false :=
    Bool.or_eq_false_iff.2 ⟨beq_false_of_ne some_, decide_eq_false (by omega)⟩
  refine issue_through g (formLen g) _ s _ (.leave .plain wMem) holds ?_ (.inr uncut)
  rw [Act.bind_ok (readG_plain s a ha)]
  simp only [good]
  rfl

theorem vsync_synchronises {s : State} {g : Guard} {a : Reg} (holds : s.me.guardHolds g = true) (ha : s.me.plain a = true)
    (some_ : s.me.g a ≠ 0) (bound : (s.me.g a).toNat < 4096) (uncut : (s.cell (cellOf s.cur)).cutBegun = false)
    (taken : s.cur ≠ noSlot) : ∃ t, exec (.vsync g a) s = .next t ∧ t.me.run = .wait wMem ∧ t.me.pend = .plain ∧
      t.me.regs = s.me.regs ∧ t.regions.find (s.me.g a).toNat = none ∧ t.answers s.cur .done 0 := by
  have ran := execVsync_eq holds ha some_ bound uncut
  obtain ⟨slots, cur, regions⟩ := s.vsyncRegion_keeps (s.me.g a).toNat
  have answered := (s.vsyncRegion (s.me.g a).toNat).answer_answers deviceChan s.cur .done taken
  have slots := (State.answer_slots _ deviceChan s.cur .done).trans slots
  have cur := (State.answer_cur _ deviceChan s.cur .done).trans cur
  have regions := (State.answer_regions _ deviceChan s.cur .done).trans regions
  generalize (s.vsyncRegion (s.me.g a).toNat).answer deviceChan s.cur .done = u at *
  have me : (u.modSlot s.cur fun sl => sl.unsettle s.me false).me = s.me.unsettle s.me false := by
    rw [State.me, State.modSlot_cur, cur, State.slot_modSlot, State.slot, slots]
    rfl
  refine ⟨_, ran, ?_, ?_, ?_, ?_, ?_⟩
  · rw [State.retire_me]; rfl
  · rw [State.retire_me]; rfl
  · rw [State.retire_me, me]
    have same := congrArg Slot.regs (s.me.unsettle_rest s.me false)
    exact same
  · rw [State.retire_regions, State.modSlot_regions, regions, Tab.find_del, if_pos rfl]
  · rw [State.answers, State.retire_sched]
    exact answered

/-- A number that names no region is a bad region. -/
theorem vsync_traps {s : State} {g : Guard} {a : Reg} (holds : s.me.guardHolds g = true) (ha : s.me.plain a = true)
    (bad : s.me.g a = 0 ∨ 4096 ≤ (s.me.g a).toNat) (vectored : s.vectored = true) :
    Traps (.vsync g a) s cBadRegion (s.me.g a) := by
  have found : (s.me.g a == 0 || decide (4096 ≤ (s.me.g a).toNat)) = true := by simpa using bad
  refine traps_of vectored (issue_stop g (formLen g) _ s (.trap cBadRegion (s.me.g a)) holds ?_)
  rw [Act.bind_ok (readG_plain s a ha)]
  simp only [found]
  rfl

theorem viewForms : Claim.ViewForms := by
  intro s g a b holds ha hb x n cell
  exact ⟨invr_invalidates holds ha hb, vsync_synchronises holds ha, vsync_traps holds ha⟩

/-! ### Masks of lines -/

theorem Tab.mem_of_find {α : Type} {t : Tab α} {n : Nat} {v : α} (h : t.find n = some v) : (n, v) ∈ t := by
  induction t with
  | nil => simp [Tab.find] at h
  | cons e t ih =>
    obtain ⟨k, w⟩ := e
    simp only [Tab.find] at h
    split at h
    · next same => simp_all
    · exact List.mem_cons_of_mem _ (ih h)

/-- An entry that is changed with its number known. -/
theorem Tab.find_mapKeyed {α β : Type} (f : Nat → α → β) (t : Tab α) (n : Nat) :
    Tab.find (t.map fun e => (e.1, f e.1 e.2)) n = (t.find n).map (f n) := by
  induction t with
  | nil => rfl
  | cons e t ih =>
    simp only [List.map_cons, Tab.find, ih]
    split
    · next same => simp [same]
    · rfl

theorem someWords_find {ms : List (Nat × BitVec 16)} {l : Nat} {m : BitVec 16} (h : Tab.find ms l = some m) (some_ : m ≠ 0) :
    Tab.find (someWords ms) l = some m := by
  induction ms with
  | nil => simp [Tab.find] at h
  | cons e ms ih =>
    obtain ⟨k, w⟩ := e
    simp only [Tab.find] at h
    simp only [someWords, List.filter_cons]
    split at h
    · next same =>
      obtain rfl : w = m := Option.some.inj h
      rw [if_pos (bne_iff_ne.2 some_), Tab.find, if_pos same]
    · next other =>
      split
      · rw [Tab.find, if_neg other]
        exact ih h
      · exact ih h

theorem someWords_eq_nil {ms : List (Nat × BitVec 16)} : someWords ms = [] ↔ ∀ e ∈ ms, e.2 = 0 := by
  simp [someWords, List.filter_eq_nil_iff]

/-! ### Copy-backs of a release (R80, R88) -/

section
variable (s : State) (c j : Nat) (m nodata : BitVec 16)

theorem State.copyBackOf_regq : ((s.copyBackOf c j m nodata).cell c).regq = (s.cell c).regq := by
  simp only [State.copyBackOf]
  split
  · rfl
  · simp [State.setL1, State.cell]

theorem State.copyBackOf_fixNo : ((s.copyBackOf c j m nodata).cell c).fixNo = (s.cell c).fixNo := by
  simp only [State.copyBackOf]
  split
  · rfl
  · simp [State.setL1, State.cell]

theorem State.copyBackOf_now : (s.copyBackOf c j m nodata).sched.now = s.sched.now := by
  simp only [State.copyBackOf]
  split <;> rfl

theorem State.copyBackOf_flight {f : Flight} (h : f ∈ s.sched.flight) : f ∈ (s.copyBackOf c j m nodata).sched.flight := by
  simp only [State.copyBackOf]
  split <;> exact List.mem_append_left _ h

theorem State.copyBackOf_l1_ne {l : Nat} (h : l ≠ j) : (s.copyBackOf c j m nodata).l1 c l = s.l1 c l := by
  simp only [State.copyBackOf]
  split
  · rfl
  · next x _ =>
    refine Eq.trans ?_ (s.l1_setL1_ne c { x with d := x.d &&& ~~~m, copying := x.copying ||| m } h)
    exact State.l1_modCell _ c (fun cl => { cl with fills := cl.fills.map (FillReq.without j m) }) rfl l

end

/-- Words of lines that are copied back one line after the other. -/
def State.copyBacksOf (s : State) (c : Nat) (ms : List (Nat × BitVec 16)) : State :=
  ms.foldl (fun s e => s.copyBackOf c e.1 e.2 0) s

theorem State.copyBacksOf_regq (s : State) (c : Nat) (ms : List (Nat × BitVec 16)) :
    ((s.copyBacksOf c ms).cell c).regq = (s.cell c).regq :=
  State.foldl_keeps (fun u => (u.cell c).regq) (fun u (e : Nat × BitVec 16) => u.copyBackOf_regq c e.1 e.2 0) ms s

theorem State.copyBacksOf_now (s : State) (c : Nat) (ms : List (Nat × BitVec 16)) :
    (s.copyBacksOf c ms).sched.now = s.sched.now :=
  State.foldl_keeps (fun u => u.sched.now) (fun u (e : Nat × BitVec 16) => u.copyBackOf_now c e.1 e.2 0) ms s

theorem State.copyBacksOf_flight {s : State} (c : Nat) (ms : List (Nat × BitVec 16)) {f : Flight} (h : f ∈ s.sched.flight) :
    f ∈ (s.copyBacksOf c ms).sched.flight :=
  List.foldlRecOn (motive := fun u : State => f ∈ u.sched.flight) ms _ h fun u h e _ => u.copyBackOf_flight c e.1 e.2 0 h

/-- Words of a line count as sent: they are clean, and their copy-back is on its way. -/
structure L1Line.Sent (x y : L1Line) (m : BitVec 16) : Prop where
  clean : y.d &&& m = 0
  copying : y.copying &&& m = m
  data : y.data = x.data
  valid : y.v = x.v

theorem L1Line.Sent.again {x y : L1Line} {m : BitVec 16} (h : x.Sent y m) (n : BitVec 16) :
    x.Sent { y with d := y.d &&& ~~~n, copying := y.copying ||| n } m where
  clean := by
    have clean := h.clean
    calc y.d &&& ~~~n &&& m = y.d &&& m &&& ~~~n := by ac_rfl
      _ = 0 := by rw [clean]; exact BitVec.zero_and
  copying := by
    have copying := h.copying
    rw [← copying]
    ext i
    simp +contextual
  data := h.data
  valid := h.valid

/-- What has been sent once counts as sent while more is. -/
theorem State.copyBacksOf_sent {s : State} {c l : Nat} {x y : L1Line} {m : BitVec 16} (here : s.l1 c l = some y) (sent : x.Sent y m)
    (ms : List (Nat × BitVec 16)) : ∃ z, (s.copyBacksOf c ms).l1 c l = some z ∧ x.Sent z m := by
  refine List.foldlRecOn (motive := fun u : State => ∃ z, u.l1 c l = some z ∧ x.Sent z m) ms _ ⟨y, here, sent⟩ ?_
  rintro u ⟨z, here, sent⟩ e -
  by_cases same : l = e.1
  · subst same
    exact ⟨_, State.copyBackOf_l1 here .., sent.again e.2⟩
  · exact ⟨z, (u.copyBackOf_l1_ne c e.1 e.2 0 same).trans here, sent⟩

/-- The words that a list names first for a line are copied back. -/
theorem State.copyBacksOf_sends {c l : Nat} {x : L1Line} {m : BitVec 16} {ms : List (Nat × BitVec 16)} {s : State}
    (named : Tab.find ms l = some m) (here : s.l1 c l = some x) :
    (s.copyBacksOf c ms).flies (.copyBack c l m 0 x.data (x.poison &&& m) x.key (s.cell c).fixNo) 0 ∧
      ∃ y, (s.copyBacksOf c ms).l1 c l = some y ∧ x.Sent y m := by
  induction ms generalizing s with
  | nil => simp [Tab.find] at named
  | cons e ms ih =>
    obtain ⟨j, w⟩ := e
    simp only [Tab.find] at named
    show ((s.copyBackOf c j w 0).copyBacksOf c ms).flies _ _ ∧
      ∃ y, ((s.copyBackOf c j w 0).copyBacksOf c ms).l1 c l = some y ∧ _
    split at named
    · next same =>
      obtain rfl : w = m := Option.some.inj named
      subst same
      obtain ⟨f, flies, parcel⟩ := State.copyBackOf_flies here w 0
      refine ⟨⟨f, State.copyBacksOf_flight c ms flies, parcel⟩, State.copyBacksOf_sent (State.copyBackOf_l1 here w 0) ?_ ms⟩
      exact { clean := by ext i; simp, copying := by ext i; simp +contextual, data := rfl, valid := rfl }
    · next other =>
      rw [← s.copyBackOf_fixNo c j w 0]
      exact ih named ((s.copyBackOf_l1_ne c j w 0 (Ne.symm other)).trans here)

/-! ### What a release sends and waits for (R88) -/

/-- Words of a release that go now. -/
def State.relNow (s : State) (c : Nat) (o : OrderOp) : List (Nat × BitVec 16) :=
  someWords (o.todo.map fun e => (e.1, e.2 &&& s.copyable c e.1))

/-- Dirty words of a line; of one that L1 does not hold, none. -/
def State.dirtyOf (s : State) (c l : Nat) : BitVec 16 := match s.l1 c l with | some x => x.d | none => 0

/-- Words of a line whose copy-back is on its way. -/
def State.copyingOf (s : State) (c l : Nat) : BitVec 16 := match s.l1 c l with | some x => x.copying | none => 0

theorem State.relSend_eq (s : State) (c : Nat) (o : OrderOp) : s.relSend c o =
    (s.copyBacksOf c (s.relNow c o),
      { o with
        todo := someWords (o.todo.map fun e => (e.1, e.2 &&& s.dirtyOf c e.1 &&& ~~~(s.copyable c e.1)))
        wait := (someWords ((o.wait ++ o.todo).map fun e =>
          (e.1, e.2 &&& (s.copyBacksOf c (s.relNow c o)).copyingOf c e.1))).dedup }) := rfl

theorem State.copyingOf_iff (s : State) (c l : Nat) (m : BitVec 16) :
    m &&& s.copyingOf c l = 0 ↔ ∀ x, s.l1 c l = some x → m &&& x.copying = 0 := by
  rw [State.copyingOf]
  cases s.l1 c l <;> simp

/-- A release is complete once all that it sent or waits for is acknowledged. -/
theorem State.relReady_iff (s : State) (c : Nat) (o : OrderOp) (sent : o.relSent = true) :
    ((s.relSend c o).1.cell c).relReady (s.relSend c o).2 = true ↔ (s.cell c).regq = [] ∧
      (∀ e ∈ o.todo, e.2 &&& s.dirtyOf c e.1 &&& ~~~(s.copyable c e.1) = 0) ∧
      ∀ e ∈ o.wait ++ o.todo, e.2 &&& (s.relSend c o).1.copyingOf c e.1 = 0 := by
  rw [State.relSend_eq, Cell.relReady, State.copyBacksOf_regq]
  simp only [sent, Bool.and_true, Bool.and_eq_true, List.isEmpty_iff, List.dedup_eq_nil, someWords_eq_nil, List.forall_mem_map,
    and_assoc]

/-! ### The turn of an ordering form -/

/-- What an ordering form does in a cclk: its look at the cache, and where that is enough its reply. -/
def State.orderTurn (s : State) (k : Nat) (o : OrderOp) : State :=
  if (s.orderTick k o).2 then (s.orderTick k o).1.thenDo (.memoryReplyArrival k .done) 0 else (s.orderTick k o).1

theorem State.tickSlot_order {s : State} {k : Nat} {o : OrderOp}
    (pend : (s.slot k).pend = .order o ∨ (s.slot k).pend = .leaving o) :
    s.tickSlot k = s.orderTurn k o := by
  rcases pend with pend | pend <;> simp only [State.tickSlot, pend] <;> rfl

/-- A turn leaves flights and cells as the look does, and answers where that is enough. -/
theorem State.orderTurn_spec {s u : State} {k : Nat} {o : OrderOp} {ok : Bool} (look : s.orderTick k o = (u, ok)) :
    (s.orderTurn k o).sched.flight = u.sched.flight ∧ (s.orderTurn k o).cells = u.cells ∧
      (ok = true → (s.orderTurn k o).sched.now = u.sched.now ++ [(.memoryReplyArrival k .done, 0)]) ∧
      (ok = false → (s.orderTurn k o).sched.now = u.sched.now) := by
  rw [State.orderTurn, look]
  cases ok
  · exact ⟨rfl, rfl, nofun, fun _ => rfl⟩
  · exact ⟨rfl, rfl, fun _ => rfl, nofun⟩

section
variable {s : State} {k : Nat} {o : OrderOp} (drained : (s.slot k).drained = true) (due : o.due ≤ s.cycle)
include drained due

/-- An acquire looks and changes nothing. -/
theorem State.orderTick_acq (rel : o.rel = false) (acq : o.acq = true) :
    s.orderTick k o = (s, (s.cell (cellOf k)).acqReady o) := by
  have on : ¬((!(s.slot k).drained) = true ∨ s.cycle < o.due) := by simp [drained, due]
  simp only [State.orderTick, if_neg on]
  cases ready : (s.cell (cellOf k)).acqReady o <;> simp [rel, acq, ready]

/-- A release sends what may go; its slot keeps what is left. -/
theorem State.orderTick_rel {p : OrderOp} (rel : p.rel = true) (acq : p.acq = false)
    (found : (if o.relSent then o else (s.cell (cellOf k)).relBegin o) = p) (same : o.rel = p.rel) : ∃ u : State,
      u.sched = (s.relSend (cellOf k) p).1.sched ∧ u.cells = (s.relSend (cellOf k) p).1.cells ∧
      s.orderTick k o = (u, ((s.relSend (cellOf k) p).1.cell (cellOf k)).relReady (s.relSend (cellOf k) p).2) := by
  have on : ¬((!(s.slot k).drained) = true ∨ s.cycle < o.due) := by simp [drained, due]
  refine ⟨(s.relSend (cellOf k) p).1.modSlot k fun sl => { sl with pend := withOrder (s.relSend (cellOf k) p).2 sl.pend },
    rfl, rfl, ?_⟩
  have sentRel : (s.relSend (cellOf k) p).2.rel = true := rel
  have sentAcq : (s.relSend (cellOf k) p).2.acq = false := acq
  have cell : ((s.relSend (cellOf k) p).1.modSlot k fun sl =>
      { sl with pend := withOrder (s.relSend (cellOf k) p).2 sl.pend }).cell (cellOf k) =
    (s.relSend (cellOf k) p).1.cell (cellOf k) := rfl
  simp only [State.orderTick, if_neg on, same, rel, if_true, found]
  generalize s.relSend (cellOf k) p = r at *
  simp only [sentRel, sentAcq, cell]
  cases (r.1.cell (cellOf k)).relReady r.2 <;> simp

end

theorem State.cell_of_cells {s t : State} (h : t.cells = s.cells) (c : Nat) : t.cell c = s.cell c := by
  simp only [State.cell, h]

theorem State.l1_of_cells {s t : State} (h : t.cells = s.cells) (c l : Nat) : t.l1 c l = s.l1 c l := by
  simp only [State.l1, State.cell, h]

/-- An acquire is done when no registration is unacknowledged and no word of its region stands at V 1, D 0, O 1 (R87). -/
theorem Cell.acqReady_iff (c : Cell) (o : OrderOp) : c.acqReady o = true ↔
    c.regq = [] ∧ ∀ e ∈ c.l1, e.2.v &&& ~~~e.2.d &&& e.2.o &&& regionMask o.all o.lo o.hi o.ctx e.2 = 0 := by
  simp [Cell.acqReady]

theorem acquire_waits {s : State} {k : Nat} {o : OrderOp} (drained : (s.slot k).drained = true) (due : o.due ≤ s.cycle)
    (rel : o.rel = false) (acq : o.acq = true) :
    let free : Prop := (s.cell (cellOf k)).regq = [] ∧ ∀ e ∈ (s.cell (cellOf k)).l1,
      e.2.v &&& ~~~e.2.d &&& e.2.o &&& regionMask o.all o.lo o.hi o.ctx e.2 = 0
    (s.orderTurn k o).sched.flight = s.sched.flight ∧ ((s.orderTurn k o).cell (cellOf k)).l1 = (s.cell (cellOf k)).l1 ∧
      (free → (s.orderTurn k o).sched.now = s.sched.now ++ [(.memoryReplyArrival k .done, 0)]) ∧
      (¬free → (s.orderTurn k o).sched.now = s.sched.now) := by
  intro free
  obtain ⟨flight, cells, done, waits⟩ := State.orderTurn_spec (State.orderTick_acq drained due rel acq)
  have ready : (s.cell (cellOf k)).acqReady o = true ↔ free := Cell.acqReady_iff ..
  refine ⟨flight, by rw [State.cell_of_cells cells], fun h => done (ready.2 h), fun h => waits ?_⟩
  exact Bool.eq_false_iff.2 (mt ready.1 h)

/-- A release that has looked already sends nothing where nothing is left, and waits for copy-backs on their way (R88). -/
theorem release_waits {s : State} {k : Nat} {o : OrderOp} (drained : (s.slot k).drained = true) (due : o.due ≤ s.cycle)
    (rel : o.rel = true) (acq : o.acq = false) (sent : o.relSent = true) (all_ : o.todo = []) :
    let free : Prop := (s.cell (cellOf k)).regq = [] ∧
      ∀ e ∈ o.wait, ∀ x, s.l1 (cellOf k) e.1 = some x → e.2 &&& x.copying = 0
    (s.orderTurn k o).sched.flight = s.sched.flight ∧ ((s.orderTurn k o).cell (cellOf k)).l1 = (s.cell (cellOf k)).l1 ∧
      (free → (s.orderTurn k o).sched.now = s.sched.now ++ [(.memoryReplyArrival k .done, 0)]) ∧
      (¬free → (s.orderTurn k o).sched.now = s.sched.now) := by
  intro free
  obtain ⟨u, sched, ucells, look⟩ := State.orderTick_rel (p := o) drained due rel acq (by rw [sent]; rfl) rfl
  obtain ⟨flight, cells, done, waits⟩ := State.orderTurn_spec look
  have still : (s.relSend (cellOf k) o).1 = s := by
    have nothing : s.relNow (cellOf k) o = [] := by rw [State.relNow, all_]; rfl
    rw [State.relSend_eq, nothing]
    rfl
  have open_ : ((s.relSend (cellOf k) o).1.cell (cellOf k)).relReady (s.relSend (cellOf k) o).2 = true ↔ free := by
    rw [State.relReady_iff s (cellOf k) o sent, all_, List.append_nil, still]
    simp only [State.copyingOf_iff, List.not_mem_nil, false_imp_iff, implies_true, true_and]
    rfl
  rw [still] at sched ucells
  refine ⟨flight.trans (by rw [sched]), by rw [State.cell_of_cells (cells.trans ucells)],
    fun h => (done (open_.2 h)).trans (by rw [sched]), fun h => (waits ?_).trans (by rw [sched])⟩
  exact Bool.eq_false_iff.2 (mt open_.1 h)

/-- What a release that looks for the first time finds of a line (R88). -/
theorem Cell.relBegin_find {c : Cell} {o : OrderOp} {l : Nat} {x : L1Line} (here : c.l1.find l = some x)
    (dirty : x.d &&& regionMask o.all o.lo o.hi o.ctx x ≠ 0) :
    Tab.find (c.relBegin o).todo l = some (x.d &&& regionMask o.all o.lo o.hi o.ctx x) := by
  refine someWords_find ?_ dirty
  rw [Tab.find_mapKeyed fun _ (x : L1Line) => x.d &&& regionMask o.all o.lo o.hi o.ctx x, here]
  rfl

/-- Of those words the ones that may go are copied back at once. -/
theorem State.relNow_find {s : State} {c l : Nat} {o : OrderOp} {w : BitVec 16} (found : Tab.find o.todo l = some w)
    (go : w &&& s.copyable c l ≠ 0) : Tab.find (s.relNow c o) l = some (w &&& s.copyable c l) := by
  refine someWords_find ?_ go
  rw [Tab.find_mapKeyed fun l w => w &&& s.copyable c l, found]
  rfl

/-- It finds nothing where no word of its region is dirty or on its way. -/
theorem Cell.relBegin_clean {c : Cell} {o : OrderOp}
    (clean : ∀ e ∈ c.l1, (e.2.d ||| e.2.copying) &&& regionMask o.all o.lo o.hi o.ctx e.2 = 0) :
    (c.relBegin o).todo = [] ∧ (c.relBegin o).wait = [] := by
  have parts (e) (mem : e ∈ c.l1) : e.2.d &&& regionMask o.all o.lo o.hi o.ctx e.2 = 0 ∧
      e.2.copying &&& regionMask o.all o.lo o.hi o.ctx e.2 = 0 :=
    BitVec.or_eq_zero_iff.1 (BitVec.and_or_distrib_right.symm.trans (clean e mem))
  simp only [Cell.relBegin, someWords_eq_nil, List.forall_mem_map]
  refine ⟨fun e mem => (parts e mem).1, fun e mem => ?_⟩
  obtain ⟨-, copying⟩ := parts e mem
  calc e.2.copying &&& ~~~e.2.d &&& regionMask o.all o.lo o.hi o.ctx e.2
      = e.2.copying &&& regionMask o.all o.lo o.hi o.ctx e.2 &&& ~~~e.2.d := by ac_rfl
    _ = 0 := by rw [copying]; exact BitVec.zero_and

section
variable {s : State} {k : Nat} {o : OrderOp} (drained : (s.slot k).drained = true) (due : o.due ≤ s.cycle)
  (rel : o.rel = true) (acq : o.acq = false) (unsent : o.relSent = false)
include drained due rel acq unsent

/-- The look of a release that has sent nothing yet. -/
theorem release_look :
    let p := (s.cell (cellOf k)).relBegin o
    let ready := ((s.relSend (cellOf k) p).1.cell (cellOf k)).relReady (s.relSend (cellOf k) p).2
    (s.orderTurn k o).sched.flight = (s.relSend (cellOf k) p).1.sched.flight ∧
      (s.orderTurn k o).cells = (s.relSend (cellOf k) p).1.cells ∧
      (ready = true → (s.orderTurn k o).sched.now = s.sched.now ++ [(.memoryReplyArrival k .done, 0)]) ∧
      (ready = false → (s.orderTurn k o).sched.now = s.sched.now) := by
  intro p ready
  obtain ⟨u, sched, ucells, look⟩ := State.orderTick_rel (p := p) drained due rel acq (by rw [unsent]; rfl) rfl
  obtain ⟨flight, cells, done, waits⟩ := State.orderTurn_spec look
  have now : u.sched.now = s.sched.now := by
    rw [sched, State.relSend_eq]
    exact State.copyBacksOf_now ..
  rw [now] at done waits
  exact ⟨flight.trans (by rw [sched]), cells.trans ucells, done, waits⟩

/-- A release copies back what it may of a line at once, and waits for the line's dirty words (R88). -/
theorem release_line {l : Nat} {x : L1Line} (here : s.l1 (cellOf k) l = some x) :
    let region := regionMask o.all o.lo o.hi o.ctx x
    let m := x.d &&& x.o &&& ~~~((s.cell (cellOf k)).regMask l) &&& region
    (m ≠ 0 → (∃ f ∈ (s.orderTurn k o).sched.flight,
        f.parcel = .step (.copyBack (cellOf k) l m 0 x.data (x.poison &&& m) x.key (s.cell (cellOf k)).fixNo) 0) ∧
      ∃ y, (s.orderTurn k o).l1 (cellOf k) l = some y ∧ y.d &&& m = 0 ∧ y.copying &&& m = m ∧ y.data = x.data ∧ y.v = x.v) ∧
    (x.d &&& region ≠ 0 → (s.orderTurn k o).sched.now = s.sched.now) := by
  intro region m
  obtain ⟨flight, cells, -, waits⟩ := release_look drained due rel acq unsent
  have may : s.copyable (cellOf k) l = x.d &&& x.o &&& ~~~((s.cell (cellOf k)).regMask l) := by
    simp only [State.copyable, here]
  have part : x.d &&& region &&& s.copyable (cellOf k) l = m := by
    rw [may]; grind
  have found := Cell.relBegin_find (o := o) here
  have dirty_of_some (some_ : m ≠ 0) : x.d &&& region ≠ 0 := fun none_ => some_ (by rw [← part, none_]; exact BitVec.zero_and)
  have sends (some_ : m ≠ 0) := State.copyBacksOf_sends
    (part ▸ State.relNow_find (found (dirty_of_some some_)) (part.symm ▸ some_)) here
  refine ⟨fun some_ => ?_, fun dirty => waits (Bool.eq_false_iff.2 fun ready => dirty ?_)⟩
  · obtain ⟨sent, y, at_, clean, copying, data, valid⟩ := sends some_
    refine ⟨?_, y, ?_, clean, copying, data, valid⟩
    · rw [flight]
      exact sent
    · rw [State.l1_of_cells cells]
      exact at_
  · rw [State.relReady_iff s (cellOf k) _ rfl] at ready
    obtain ⟨-, gone, acked⟩ := ready
    have named := Tab.mem_of_find (found dirty)
    have left := gone _ named
    have waited := (State.copyingOf_iff ..).1 (acked _ (List.mem_append_right _ named))
    have dirtyWords : s.dirtyOf (cellOf k) l = x.d := by simp only [State.dirtyOf, here]
    -- What may go has gone and waits for its acknowledgement; what may not is left.
    have none_ : m = 0 := by
      by_contra some_
      obtain ⟨-, y, at_, -, copying, -, -⟩ := sends some_
      have acked := waited y at_
      grind
    grind

theorem release_done (quiet : (s.cell (cellOf k)).regq = [])
    (clean : ∀ e ∈ (s.cell (cellOf k)).l1, (e.2.d ||| e.2.copying) &&& regionMask o.all o.lo o.hi o.ctx e.2 = 0) :
    (s.orderTurn k o).sched.now = s.sched.now ++ [(.memoryReplyArrival k .done, 0)] := by
  obtain ⟨-, -, done, -⟩ := release_look drained due rel acq unsent
  obtain ⟨todo, wait⟩ := Cell.relBegin_clean clean
  refine done ((State.relReady_iff s (cellOf k) _ rfl).2 ?_)
  rw [todo, wait]
  exact ⟨quiet, nofun, nofun⟩

end

theorem orderingWaits : Claim.OrderingWaits := by
  intro s k o pend drained due c cell t done waits region
  have turn : t = s.orderTurn k o := State.tickSlot_order pend
  simp only [done, waits, turn]
  exact ⟨fun rel acq unsent => ⟨fun l x => release_line drained due rel acq unsent, release_done drained due rel acq unsent⟩,
    release_waits drained due, acquire_waits drained due⟩

/-- Settles O32: an ordering form leaves and goes on at its reply (`order_steps`), a look at the cache sends and waits as R87 and R88
say (`release_line`, `release_waits`, `acquire_waits`), and `invr` and `vsync` change L1 and the cached regions at once. -/
theorem orderingAndViews : Obligations.OrderingAndViews := ⟨orderingForms, orderingWaits, viewForms⟩

end Sys2Proof.Machine

/-! PROOFS. The outcome of a withdrawn submission (R114, R120) holds doublewords with bytes 0. A memory in canonical form keeps
such a byte by listing nothing; in a memory whose addresses do not rise, the byte listed further on stands. -/

namespace Sys2Proof.Machine

/-- A record that wants its outcome at 0x40001000 and names no tile. -/
def outcomeRecord : TxRec :=
  { pcd := 4, pcc := 0, pca := 0, a0 := 0, a1 := 0, a2 := 0, a3 := 0, dw7 := 0, dw8 := 0, out := 0x40001000
    reads := [], writes := [] }

/-- Its submission, accepted into the open batch. -/
def outcomeTxn : Txn :=
  { sub := { record := outcomeRecord, reads := [], writes := [], slot := 0, ctx := 0, priv := false, secure := false
             parent := none, restart := false, fixCount := 0 }
    cell := 0, batch := 0, num := 0, stage := .accepted, verdict := none, wants := [], granted := [], pushes := []
    released := [], drains := [], lastGrant := 0, roles := [], queue := [], soundingDone := false, voidAt := 0 }

/-- Slot 0 has asked for the submission's withdrawal. The page table at 0 maps the 1 GiB page of its OUTADDR to address 0, and
memory lists address 0x2000 before 0x100A, which is byte 10 of where the outcome goes. -/
def unorderedMemory : State := { State.reset with
  slots := [(0, { Slot.reset with pend := .txwd 1 [] 0 })]
  mem := [(0, 0x01), (1, 0x03), (16, 0x0F), (17, 0x02), (0x2000, 1), (0x100A, 7)]
  seq := { Sequencer.reset with txns := [outcomeTxn] } }

/-- The leaf of that page. -/
def outcomeLeaf : Leaf := ⟨0, 2 ^ 30, 0x20F, 0, 16⟩

/-- The walk for OUTADDR, once the submission has left the open batch. -/
def outcomeWalk : Walked × State :=
  ({ unorderedMemory with seq := { unorderedMemory.seq with txns := [] } } : State).walk 0 (pageOf 0x40001000)

theorem outcomeWalk_leaf : outcomeWalk = (.leaf outcomeLeaf, outcomeWalk.2) ∧
    outcomeBar outcomeWalk.2 outcomeTxn.sub outcomeLeaf = none := by decide +kernel

/-- The write of the outcome's byte 10, which is 0, ends at 0x2000, and what 0x100A held stands. -/
theorem withdrawal_unorderedMemory :
    ∃ t, exec (.sequencerWithdrawal 0 0 0 0) unorderedMemory = .next t ∧ t.homeByte 0x100A = 7 :=
  ⟨_, rfl, by decide +kernel⟩

/-- Refutes O31: `WithdrawnOutcome` asks for no canonical form of memory, and the withdrawal of `outcomeTxn` meets all that it
asks for; but byte 10 of the outcome that it writes reads 7 and not 0. -/
theorem not_transactionEvents : ¬ Obligations.TransactionEvents := by
  rintro ⟨-, -, -, -, outcome, -⟩
  obtain ⟨walked, unbarred⟩ := outcomeWalk_leaf
  have inHbm : ∀ i < 16, placeOf (0x1000 + i) = .hbm := by decide
  obtain ⟨t, ran, -, bytes⟩ := outcome unorderedMemory outcomeWalk.2 0 0 0 1 outcomeTxn outcomeLeaf rfl (by decide) rfl rfl rfl rfl
    rfl rfl rfl (by decide) (by decide) rfl rfl walked unbarred rfl inHbm
  obtain ⟨u, ran', seven⟩ := withdrawal_unorderedMemory
  obtain rfl : u = t := Host.Outcome.next.inj (ran'.symm.trans ran)
  exact absurd (seven.symm.trans (bytes 10 (by decide))) (by decide)

end Sys2Proof.Machine

/-! PROOFS. Records and descriptors in own near memory (R73, R74, R97, R273): a slot reads their doublewords as they stand, and of
the state only what it keeps of them while it reads changes. -/

namespace Sys2Proof.Machine

/-! ### Addresses of the near window (R73, R74) -/

/-- A range that lies in a window lies with its parts in it, at addresses of the cell's own storage. -/
theorem nearLocal_part {cell a n p i m : Nat} (here : nearLocal cell a n = some p) (start : nearWindow ≤ a)
    (inside : i + m ≤ n) :
    nearLocal cell (a + i) m = some (p + i) := by
  obtain ⟨o, rfl⟩ := Nat.exists_eq_add_of_le start
  simp only [nearLocal, Nat.add_assoc, Nat.add_sub_cancel_left] at here ⊢
  split at here
  · rw [if_pos (by omega)]
    obtain rfl := Option.some.inj here
    exact congrArg some (by omega)
  · split at here
    · rw [if_neg (by omega), if_pos (by omega)]
      obtain rfl := Option.some.inj here
      exact congrArg some (by omega)
    · exact absurd here nofun

theorem nearLocal_bound {cell a n p : Nat} (here : nearLocal cell a n = some p) (start : nearWindow ≤ a) :
    a + n ≤ nearWindow + 0x1000000 := by
  simp only [nearLocal, nearWindow] at here start ⊢
  split at here
  · omega
  · split at here
    · omega
    · exact absurd here nofun

theorem nearLocal_lt {cell a n p : Nat} (here : nearLocal cell a n = some p) (start : nearWindow ≤ a) : a + n < 2 ^ 64 :=
  Nat.lt_of_le_of_lt (nearLocal_bound here start) (by decide)

/-- Addresses of the near window are canonical (R73, R214). -/
theorem canonical_near {a : Nat} (start : nearWindow ≤ a) (last : a < nearWindow + 0x1000000) : canonical a = true := by
  simp only [nearWindow] at start last
  simp only [canonical, Bool.or_eq_true, beq_iff_eq]
  omega

/-- What the near window names is the cell's tile store or its vault. -/
theorem placeOf_nearLocal {cell a n p : Nat} (here : nearLocal cell a n = some p) (some_ : 0 < n) (real : cell < 1024) :
    placeOf p = .tile cell ∨ placeOf p = .vault cell := by
  simp only [nearLocal, placeOf, nearWindow, tileBase, vaultBase] at here ⊢
  split at here
  · obtain rfl := Option.some.inj here
    left
    rw [if_neg (by omega), if_neg (by omega), if_pos (by omega)]
    exact congrArg Place.tile (by omega)
  · split at here
    · obtain rfl := Option.some.inj here
      right
      rw [if_neg (by omega), if_pos (by omega)]
      exact congrArg Place.vault (by omega)
    · exact absurd here nofun

theorem cellOf_lt {k : Nat} (h : slotOk k = true) : cellOf k < 1024 := by
  have low : k < 49216 := of_decide_eq_true h
  unfold cellOf cellOfCore coreOf
  split <;> omega

/-! ### One doubleword -/

/-- A state in which a read of own near memory meets no error, no copy of a fix and no secure cell. -/
structure State.NearCalm (s : State) : Prop where
  slot : slotOk s.cur = true
  soft : s.soft = []
  poison : s.poison = []
  copies : s.fix.copies = []
  secureCells : s.part.secureCells = []

theorem State.ownRecord.nearCalm {s : State} {va : Word} {n p : Nat} (h : s.ownRecord va n p) : s.NearCalm := by
  obtain ⟨slot, -, soft, poison, copies, secure, -, -⟩ := h
  exact ⟨slot, soft, poison, copies, secure⟩

section
variable {s : State} {a : Word} {p : Nat}

theorem State.NearCalm.placeOf (calm : s.NearCalm) (here : nearLocal (cellOf s.cur) a.toNat 8 = some p) :
    placeOf p = .tile (cellOf s.cur) ∨ placeOf p = .vault (cellOf s.cur) :=
  placeOf_nearLocal here (by decide) (cellOf_lt calm.slot)

/-- A read of own near memory passes the checks of R215. -/
theorem loadCheck_near (calm : s.NearCalm) (start : nearWindow ≤ a.toNat) (here : nearLocal (cellOf s.cur) a.toNat 8 = some p)
    (aligned : a.toNat % 8 = 0) :
    loadCheck true false a 8 true s = .ok ((⟨a, addrsFrom p 8, s.link.pod.k, none, 0⟩, .zext, []), s) := by
  have bound := nearLocal_bound here start
  have small := nearLocal_lt here start
  have last : (a + BitVec.ofNat 64 (8 - 1)).toNat = a.toNat + 7 := by
    rw [BitVec.toNat_add]
    simp only [BitVec.toNat_ofNat]
    omega
  have first : canonical a.toNat = true := canonical_near start (by omega)
  have final : canonical (a.toNat + 7) = true := canonical_near (by omega) (by omega)
  have near : isNear a.toNat = true := by simp only [isNear, Bool.and_eq_true, decide_eq_true_eq]; omega
  have open_ : s.worldFails (s.secureOf s.cur) none [p] = false := by
    rcases calm.placeOf here with place | place <;> simp [State.worldFails, place, calm.secureCells]
  have reached : accessTo a 8 0 none s = .ok (⟨a, addrsFrom p 8, s.link.pod.k, none, 0⟩, s) := by
    simp only [accessTo, last, first, final, near, here, open_]
    rfl
  have even : (a.toNat % 8 != 0) = false := by simp [aligned]
  refine (Act.bind_ok reached).trans ?_
  rw [Act.bind_ok (t := s) (a := s) rfl]
  simp only [even]
  rfl

theorem State.NearCalm.readNear (calm : s.NearCalm) (as : List Nat) : readNear as s = .ok (leNat (as.map s.byte), s) := by
  have clean (count : Nat) : s.poisonAt count as = none := by simp [State.poisonAt, calm.poison]
  have noted : s.noteSoft as = s := by simp [State.noteSoft, calm.soft]
  rw [Machine.readNear, Act.bind_ok (t := s) (a := s) rfl, clean, Act.bind_ok (t := s) (a := ()) rfl,
    Act.bind_ok (t := s) (a := ()) (congrArg (fun t => Except.ok ((), t)) noted)]
  simp only [State.redirect_self calm.copies]
  rfl

/-- The cell's own near port gives the doubleword at once (R74). -/
theorem loadFrom_near (calm : s.NearCalm) (here : nearLocal (cellOf s.cur) a.toNat 8 = some p) :
    loadFrom s.cur .none 0 ⟨a, addrsFrom p 8, s.link.pod.k, none, 0⟩ [] s =
      .ok (.now (leNat ((addrsFrom p 8).map s.byte)) 0, s) := by
  have server : serverOf s.link.pod.k (cellOf s.cur) ⟨a, addrsFrom p 8, s.link.pod.k, none, 0⟩ = .near := by
    rcases calm.placeOf here with place | place <;> simp [serverOf, addrsFrom_succ, place]
  have unscaled : s.scaleCell (cellOf s.cur) s.link.pod.k [] = none := by simp [State.scaleCell]
  rw [loadFrom, Act.bind_ok (t := s) (a := ()) rfl, Act.bind_ok (t := s) (a := s) rfl]
  simp only [server, unscaled]
  rw [Act.bind_ok (calm.readNear _)]
  rfl

end

/-! ### All doublewords of a record (log 8) -/

/-- The state whose issuing slot has read some doublewords more. -/
def State.latched (s : State) (ws : List Word) : State := s.modSlot s.cur fun sl => { sl with latch := sl.latch ++ ws }

theorem State.latched_latched (s : State) (us ws : List Word) : (s.latched us).latched ws = s.latched (us ++ ws) := by
  refine (s.modSlot_modSlot ..).trans (congrArg _ ?_)
  funext sl
  simp

theorem State.NearCalm.latched {s : State} (calm : s.NearCalm) (ws : List Word) : (s.latched ws).NearCalm :=
  ⟨calm.slot, calm.soft, calm.poison, calm.copies, calm.secureCells⟩

@[simp] theorem State.latched_me (s : State) (ws : List Word) : (s.latched ws).me = { s.me with latch := s.me.latch ++ ws } :=
  s.slot_modSlot ..

theorem State.nearWords_succ (s : State) (p n : Nat) :
    s.nearWords p (n + 1) = natW (leNat ((addrsFrom p 8).map s.byte)) :: s.nearWords (p + 8) n := by
  simp only [State.nearWords, List.range_succ_eq_map, List.map_cons, List.map_map, Nat.mul_zero, Nat.add_zero, List.cons.injEq,
    true_and]
  refine List.map_congr_left fun j _ => ?_
  simp only [Function.comp, Nat.succ_eq_add_one]
  rw [show p + 8 * (j + 1) = p + 8 + 8 * j by omega]

theorem toNat_add_eight {a : Word} (h : a.toNat + 8 < 2 ^ 64) : (a + 8).toNat = a.toNat + 8 := by
  rw [BitVec.toNat_add]
  exact Nat.mod_eq_of_lt h

/-- Doublewords of own near memory are read one after the other, each as it stands. -/
theorem readDwords_near (n : Nat) : ∀ {s : State} {a : Word} {p : Nat}, s.NearCalm → nearWindow ≤ a.toNat →
    nearLocal (cellOf s.cur) a.toNat (8 * (n + 1)) = some p → a.toNat % 8 = 0 →
    readDwords (n + 1) a [] s = .ok (.all (s.nearWords p (n + 1)), s.latched (s.nearWords p (n + 1))) := by
  induction n with
  | zero =>
    intro s a p calm start here aligned
    rw [readDwords, Act.bind_ok (loadCheck_near calm start here aligned)]
    dsimp only
    rw [Act.bind_ok (t := s) (a := s) rfl, Act.bind_ok (loadFrom_near calm here)]
    rfl
  | succ n ih =>
    intro s a p calm start here aligned
    have bound := nearLocal_lt here start
    have first : nearLocal (cellOf s.cur) a.toNat 8 = some p :=
      nearLocal_part (i := 0) here start (by omega)
    have next : (a + 8).toNat = a.toNat + 8 := toNat_add_eight (by omega)
    have rest : nearLocal (cellOf s.cur) (a + 8).toNat (8 * (n + 1)) = some (p + 8) :=
      next ▸ nearLocal_part here start (by omega)
    let w := natW (leNat ((addrsFrom p 8).map s.byte))
    have later := ih (calm.latched [w]) (by omega) rest (by omega)
    rw [readDwords, Act.bind_ok (loadCheck_near calm start first aligned)]
    dsimp only
    rw [Act.bind_ok (t := s) (a := s) rfl, Act.bind_ok (loadFrom_near calm first)]
    dsimp only
    rw [Act.bind_ok (t := s.latched [w]) (a := ()) rfl, Act.bind_ok later, State.latched_latched, s.nearWords_succ]
    rfl

/-- What has been read before is not read again. -/
theorem readDwords_latched (s : State) : ∀ (n : Nat) (a : Word) (ws : List Word), ws.length = n →
    readDwords n a ws s = .ok (.all ws, s)
  | 0, _, [], _ => rfl
  | n + 1, a, w :: ws, h => by
    rw [readDwords, Act.bind_ok (readDwords_latched s n (a + 8) ws (Nat.succ.inj h))]
    rfl

/-- A record in own near memory is read whole (R97, R273). -/
theorem readRecord_own {s : State} {va : Word} {n p : Nat} (own : s.ownRecord va (n + 1) p) (aligned : va.toNat % 8 = 0) :
    readRecord va (n + 1) s = .ok (.all (s.nearWords p (n + 1)), s.latched (s.nearWords p (n + 1))) := by
  obtain ⟨-, latch, -, -, -, -, near, here⟩ := id own
  have start : nearWindow ≤ va.toNat := by
    simp only [isNear, Bool.and_eq_true, decide_eq_true_eq] at near
    exact near.1
  rw [readRecord, Act.bind_ok (t := s) (a := s.me) rfl, show s.me.latch = [] from latch]
  exact readDwords_near n own.nearCalm start here aligned

end Sys2Proof.Machine

/-! PROOFS. Signals (R112, R229, R230, R272, R280 to R282, R286, R323): a form that sends a signal comes, after its operands, to
`signalOut`; what that does outside roles, in a role and with a full outbound queue is said once. -/

namespace Sys2Proof.Machine

/-- An action that stops ends what follows it. -/
theorem Act.bind_error {α β : Type} {x : Act α} {f : α → Act β} {s : State} {e : Stop} (h : x s = .error e) :
    (x >>= f) s = .error e := by
  simp only [bind, StateT.bind, Except.bind, h]

/-! ### What a slot is when it goes on -/

/-- A state that differs from another in what the issuing slot has read of a record. -/
structure State.SameButLatch (s u : State) : Prop where
  rest : u = { s with slots := u.slots }
  me : ∃ ws, u.me = { s.me with latch := ws }

theorem State.SameButLatch.refl (s : State) : s.SameButLatch s := ⟨rfl, s.me.latch, rfl⟩

theorem State.SameButLatch.latched (s : State) (ws : List Word) : s.SameButLatch (s.latched ws) :=
  ⟨rfl, s.me.latch ++ ws, s.latched_me ws⟩

/-- What follows in sequence after a form of whose slot nothing has changed but its signals and what it has read of a record. -/
theorem PassedBy.retire_of {s t : State} {n : BitVec 16} {ws : List Word} (same : t.me = { s.me with signals := n, latch := ws })
    (len : Nat) : PassedBy s (t.retire len .seq) len := by
  rw [PassedBy, State.retire_me, same]
  exact Slot.goOn_seq_loops ..

theorem Slot.goOn_seq_signals (sl : Slot) (len : Nat) : (sl.goOn len .seq).signals = sl.signals := by
  have same := congrArg Slot.signals (sl.goOn_seq_bare len)
  exact same

theorem Slot.goOn_seq_pw (sl : Slot) (len : Nat) : (sl.goOn len .seq).pw = sl.pw := by
  have same := congrArg Slot.pw (sl.goOn_seq_bare len)
  exact same

theorem State.retire_cores (s : State) (len : Nat) (n : Next) : (s.retire len n).cores = s.cores := by
  rw [State.retire_rest]

theorem State.retire_seq (s : State) (len : Nat) (n : Next) : (s.retire len n).seq = s.seq := by
  rw [State.retire_rest]

/-- What an issue in sequence leaves, where its action leaves the slot's registers and predicates. -/
theorem issue_seq {i : Instr} {s t : State} {g : Guard} {len : Nat} {body : Act Next} {n : BitVec 16} {ws : List Word}
    (runs : exec i s = issue g len body s) (holds : s.me.guardHolds g = true) (acts : body s = .ok (.seq, t))
    (same : t.me = { s.me with signals := n, latch := ws }) :
    exec i s = .next (t.retire len .seq) ∧ (t.retire len .seq).me.signals = n ∧ (t.retire len .seq).me.regs = s.me.regs ∧
      (t.retire len .seq).me.pw = s.me.pw ∧ (t.retire len .seq).me.run = .run ∧ PassedBy s (t.retire len .seq) len := by
  have left := t.retire_me len .seq
  rw [same] at left
  refine ⟨runs.trans (issue_ok g len body s t .seq holds acts (.inl rfl) rfl), ?_, ?_, ?_, ?_, PassedBy.retire_of same len⟩
  all_goals rw [left]
  · exact Slot.goOn_seq_signals ..
  · exact Slot.goOn_seq_regs ..
  · exact Slot.goOn_seq_pw ..
  · rfl

/-- A wait that is for no semaphore and no tile leaves the slot out of the rotation and counts its turn as idle. -/
theorem State.hold_alone (s : State) (cause : Nat) : s.hold cause [] =
    (s.modSlot s.cur fun sl => { sl with run := .wait cause }).modCore (coreOf s.cur) fun c =>
      if s.me.counted then c else c.stall cause := rfl

/-- A form that waits for an issue condition waits with nothing done (R146, R162). -/
theorem waits_of {i : Instr} {s : State} {g : Guard} {len : Nat} {body : Act Next} {cause : Nat}
    (runs : exec i s = issue g len body s) (holds : s.me.guardHolds g = true) (acts : body s = .error (.wait cause [])) :
    Waits i s cause := by
  refine ⟨s.hold cause [], runs.trans (issue_stop g len body s _ holds acts), ?_, rfl, ?_, fun k hk => ?_⟩
  · rw [State.hold_alone, State.me, State.modCore_cur, State.modSlot_cur, State.modCore_slot, State.slot_modSlot]
  · rw [State.hold_alone, State.core_modCore]
    rfl
  · rw [State.hold_alone, State.modCore_slot, s.slot_modSlot_ne _ hk]

/-! ### Where a form may run (R272) -/

theorem Slot.notRole_of_freelance {sl : Slot} (free : sl.freelance = true) (num r : Nat) : sl.work ≠ .role num r := by
  intro h
  simp [Slot.freelance, h] at free

theorem Slot.notHandler_of_freelance {sl : Slot} (free : sl.freelance = true) (n : Nat) : sl.work ≠ .handler n := by
  intro h
  simp [Slot.freelance, h] at free

/-- A form may run where its slot's work is none that it bars. -/
theorem allowedIn_ok {s : State} {te sm : Bool} (role : te = true → ∀ num r, s.me.work ≠ .role num r)
    (handler : sm = true → ∀ n, s.me.work ≠ .handler n) : allowedIn te sm s = .ok ((), s) := by
  rw [allowedIn, Act.bind_ok (t := s) (a := s.me) rfl]
  cases hw : s.me.work with
  | role num r =>
    cases te
    · rfl
    · exact absurd hw (role rfl num r)
  | handler n =>
    cases sm
    · rfl
    · exact absurd hw (handler rfl n)
  | _ => rfl

theorem myRole_role {s : State} {num r : Nat} (work : s.me.work = .role num r) : myRole s = .ok (some (num, r), s) := by
  rw [myRole, Act.bind_ok (t := s) (a := s.me) rfl, work]
  rfl

theorem myRole_none {s : State} (work : ∀ num r, s.me.work ≠ .role num r) : myRole s = .ok (none, s) := by
  rw [myRole, Act.bind_ok (t := s) (a := s.me) rfl]
  cases hw : s.me.work with
  | role num r => exact absurd hw (work num r)
  | _ => rfl

theorem checkPlace_ok {s : State} {toSlot : Bool} {a : Word} (good : badPlace s.link.pod.k s.link.pod.n toSlot a = false) :
    checkPlace toSlot a s = .ok ((), s) := by
  rw [checkPlace, Act.bind_ok (t := s) (a := s) rfl, good]
  rfl

theorem readRun_plain {s : State} (plain : ∀ r : Reg, s.me.plain r = true) : ∀ (n : Nat) (r : Reg),
    readRun r n s = .ok ((List.range n).map fun j => s.me.g (r + BitVec.ofNat 5 j), s)
  | 0, _ => rfl
  | n + 1, r => by
    rw [readRun, Act.bind_ok (readG_plain s r (plain r)), Act.bind_ok (readRun_plain plain n (r + 1)), List.range_succ_eq_map,
      List.map_cons, List.map_map]
    refine congrArg (fun ws => Except.ok (ws, s)) (congrArg₂ List.cons ?_ (List.map_congr_left fun j _ => ?_))
    · simp
    · congr 1
      simp only [Nat.succ_eq_add_one, BitVec.ofNat_add]
      ac_rfl

/-! ### A signal (R112, R280, R323) -/

/-- The message of a signal as its slot makes it. -/
def State.signalMsg (s : State) (part core : Nat) (releases : Bool) (m : CoreMsg) : OutMsg :=
  ⟨part, some core, s.cur, s.me.gen, if releases then s.me.pushed else [], ⟨(s.cell (cellOf s.cur)).fixNo, m⟩⟩

/-- What a slot has read of a record is nothing that a signal shows. -/
theorem State.SameButLatch.signalMsg {s u : State} (same : s.SameButLatch u) (part core : Nat) (releases : Bool) (m : CoreMsg) :
    u.signalMsg part core releases m = s.signalMsg part core releases m := by
  obtain ⟨rest, ws, me⟩ := same
  have cells : u.cells = s.cells := by rw [rest]
  have cur : u.cur = s.cur := by rw [rest]
  simp only [State.signalMsg, me, Slot.pushed, State.cell, cells, cur]

section
variable {s : State} {part core : Nat} {releases : Bool} {m : CoreMsg}

/-- Outside roles a signal is counted and enters the outbound task queue. -/
theorem signalOut_sends (free : s.me.freelance = true) (room : (s.core (coreOf s.cur)).outbox.length < 16) :
    signalOut part core releases m s =
      .ok ((), (s.modSlot s.cur Slot.signal).enqueue (s.signalMsg part core releases (withSignals s.me.oneMore.toNat m))) := by
  have ready : s.outboxRoom (coreOf s.cur) = true := decide_eq_true room
  rw [signalOut, Act.bind_ok (t := s) (a := s.signalMsg part core releases m) rfl,
    Act.bind_ok (myRole_none (Slot.notRole_of_freelance free))]
  dsimp only
  rw [Act.bind_ok (t := s) (a := s) rfl, ready]
  refine (Act.bind_ok (t := s.modSlot s.cur Slot.signal) (a := ()) rfl).trans ?_
  rw [Act.bind_ok (t := s.modSlot s.cur Slot.signal) (a := s.me.signal)
      (congrArg (fun sl => Except.ok (sl, s.modSlot s.cur Slot.signal)) (s.slot_modSlot s.cur Slot.signal))]
  rfl

/-- While the outbound task queue is full, it waits. -/
theorem signalOut_waits (free : s.me.freelance = true) (full : 16 ≤ (s.core (coreOf s.cur)).outbox.length) :
    signalOut part core releases m s = .error (.wait wMem []) := by
  have ready : s.outboxRoom (coreOf s.cur) = false := decide_eq_false (by omega)
  rw [signalOut, Act.bind_ok (t := s) (a := s.signalMsg part core releases m) rfl,
    Act.bind_ok (myRole_none (Slot.notRole_of_freelance free))]
  dsimp only
  rw [Act.bind_ok (t := s) (a := s) rfl, ready]
  rfl

/-- The deferred actions that the transactions of the issuing slot's cell hold. -/
def State.deferredHere (s : State) : Nat :=
  ((s.seq.txns.filter fun (y : Txn) => y.cell = cellOf s.cur).map fun (y : Txn) => y.queue.length).sum

/-- A deferred action more in a transaction's commit queue; a void has none (R112, R115). -/
def Txn.deferring (r : Nat) (d : Deferred) (y : Txn) : Txn :=
  if y.stage = .void then y else { y with queue := y.queue ++ [(r, d)] }

theorem defer_ok {num r : Nat} {d : Deferred} (room : s.deferredHere < 64) :
    defer num r d s = .ok ((), s.modTxn num (Txn.deferring r d)) := by
  have ready : decide (64 ≤ s.deferredHere) = false := decide_eq_false (by omega)
  rw [defer, Act.bind_ok (t := s) (a := s) rfl]
  have passes : trapIf (decide (64 ≤ s.deferredHere)) cTxnEffect 0 s = .ok ((), s) := by rw [ready]; rfl
  exact Act.bind_ok passes

/-- In a role a signal is deferred as it is. -/
theorem signalOut_defers {num r : Nat} (work : s.me.work = .role num r) (room : s.deferredHere < 64) :
    signalOut part core releases m s = .ok ((), s.modTxn num (Txn.deferring r (.post (s.signalMsg part core releases m)))) := by
  rw [signalOut, Act.bind_ok (t := s) (a := s.signalMsg part core releases m) rfl, Act.bind_ok (myRole_role work)]
  exact defer_ok room

end

/-! ### Transactions by number -/

/-- The transaction of a number has that number, and has been numbered. -/
theorem State.txn_some {s : State} {num : Nat} {y : Txn} (found : s.txn num = some y) : y.num = num ∧ y.stage ≠ .accepted := by
  simpa using List.find?_some found

/-- A change of the transactions of a number that leaves numbers and stages decided is seen at the one found first. -/
theorem State.txn_modTxn {s : State} {num : Nat} {f : Txn → Txn} {y : Txn} (found : s.txn num = some y)
    (number : ∀ z : Txn, (f z).num = z.num) (numbered : ∀ z : Txn, z.stage ≠ .accepted → (f z).stage ≠ .accepted) :
    (s.modTxn num f).txn num = some (f y) := by
  have keeps (z : Txn) : decide ((if z.num = num ∧ z.stage ≠ .accepted then f z else z).num = num ∧
      (if z.num = num ∧ z.stage ≠ .accepted then f z else z).stage ≠ .accepted) =
      decide (z.num = num ∧ z.stage ≠ .accepted) := by
    by_cases h : z.num = num ∧ z.stage ≠ .accepted
    · simp [number, h, numbered z h.2]
    · simp [if_neg h]
  have here := State.txn_some found
  simp only [State.txn, State.modTxn, State.modSeq, List.find?_map, Function.comp_def, keeps]
  rw [show s.seq.txns.find? (fun z => decide (z.num = num ∧ z.stage ≠ .accepted)) = some y from found,
    Option.map_some, if_pos here]

/-- A deferred action joins the queue of the transaction of its number. -/
theorem State.txn_deferring {s : State} {num r : Nat} {e : Deferred} {y : Txn} (found : s.txn num = some y) :
    (s.modTxn num (Txn.deferring r e)).txn num = some (y.deferring r e) := by
  refine State.txn_modTxn found (fun z => ?_) fun z => ?_
  · rw [Txn.deferring]; split <;> rfl
  · rw [Txn.deferring]; split <;> exact id

/-! ### Forms that come to a signal -/

section
variable {i : Instr} {s u : State} {g : Guard} {len : Nat} {body : Act Next} {part core : Nat} {releases : Bool} {m : CoreMsg}

/-- What a form leaves to do once its operands are read and checked: the signal, and on in sequence. -/
def signalThen (part core : Nat) (releases : Bool) (m : CoreMsg) : Act Next := do
  signalOut part core releases m
  pure .seq

theorem sends_signal (runs : exec i s = issue g len body s) (holds : s.me.guardHolds g = true)
    (acts : body s = signalThen part core releases m u) (same : s.SameButLatch u) (free : s.me.freelance = true)
    (room : (s.core (coreOf s.cur)).outbox.length < 16) :
    Sends i s len true (s.signalMsg part core releases (withSignals s.me.oneMore.toNat m)) := by
  obtain ⟨rest, ws, me⟩ := id same
  have cur : u.cur = s.cur := by rw [rest]
  have cores : u.cores = s.cores := by rw [rest]
  have more : u.me.oneMore = s.me.oneMore := by rw [me]; rfl
  have ran := Act.bind_ok (f := fun _ => (pure .seq : Act Next))
    (signalOut_sends (part := part) (core := core) (releases := releases) (m := m) (s := u) (by rw [me]; exact free)
      (by rw [cur, State.core, cores]; exact room))
  rw [same.signalMsg, more] at ran
  generalize sent : (u.modSlot u.cur Slot.signal).enqueue
    (s.signalMsg part core releases (withSignals s.me.oneMore.toNat m)) = t at ran
  have after : t.me = { s.me with signals := s.me.oneMore, latch := ws } := by
    rw [← sent]
    refine (u.slot_modSlot u.cur Slot.signal).trans ?_
    rw [show u.slot u.cur = u.me from rfl, me]
    rfl
  obtain ⟨next, signals, regs, pw, run, past⟩ := issue_seq runs holds (acts.trans ran) after
  refine ⟨_, next, ?_, signals, regs, pw, ?_, run, past⟩
  · rw [State.core, State.retire_cores, ← sent]
    refine (congrArg Core.outbox (State.core_modCore _ (coreOf s.cur) _)).trans ?_
    show (State.core u (coreOf s.cur)).outbox ++ _ = _
    rw [State.core, cores]
    rfl
  · rw [State.retire_mem, ← sent]
    show u.mem = s.mem
    rw [rest]

theorem defers_signal {num r : Nat} {y : Txn} (runs : exec i s = issue g len body s) (holds : s.me.guardHolds g = true)
    (acts : body s = signalThen part core releases m u) (same : s.SameButLatch u) (work : s.me.work = .role num r)
    (found : s.txn num = some y) (dispatched : y.stage = .dispatched) (room : s.deferredHere < 64) :
    Defers i s len num r y (s.signalMsg part core releases m) := by
  obtain ⟨rest, ws, me⟩ := id same
  have seq : u.seq = s.seq := by rw [rest]
  have ran := Act.bind_ok (f := fun _ => (pure .seq : Act Next))
    (signalOut_defers (part := part) (core := core) (releases := releases) (m := m) (s := u) (by rw [me]; exact work)
      (by rw [rest]; exact room))
  rw [same.signalMsg] at ran
  generalize sent : u.modTxn num (Txn.deferring r (.post (s.signalMsg part core releases m))) = t at ran
  have after : t.me = { s.me with signals := s.me.signals, latch := ws } := by
    rw [← sent]
    exact me
  have deferred : t.txn num = some { y with queue := y.queue ++ [(r, .post (s.signalMsg part core releases m))] } := by
    rw [← sent, State.txn_deferring (y := y) (by rw [State.txn, seq]; exact found), Txn.deferring, if_neg (by simp [dispatched])]
  obtain ⟨next, signals, regs, pw, run, past⟩ := issue_seq runs holds (acts.trans ran) after
  refine ⟨_, { y with queue := y.queue ++ [(r, .post (s.signalMsg part core releases m))] }, next, ?_, rfl, rfl, ?_, signals,
    regs, pw, ?_, run, past⟩
  · rw [State.txn, State.retire_seq]
    exact deferred
  · rw [State.retire_cores, ← sent]
    show u.cores = s.cores
    rw [rest]
  · rw [State.retire_mem, ← sent]
    show u.mem = s.mem
    rw [rest]

theorem waits_signal (runs : exec i s = issue g len body s) (holds : s.me.guardHolds g = true)
    (acts : body s = signalThen part core releases m s) (free : s.me.freelance = true)
    (full : 16 ≤ (s.core (coreOf s.cur)).outbox.length) : Waits i s wMem :=
  waits_of runs holds (acts.trans (Act.bind_error (signalOut_waits free full)))

end

/-! ### The forms, up to their signal (R280 to R282, R286) -/

section
variable {s : State} {g : Guard} {a d : Reg}

theorem launch_signals (plain : ∀ r : Reg, s.me.plain r = true) (open_ : ∀ n, s.me.work ≠ .handler n)
    (place : badPlace s.link.pod.k s.link.pod.n false (s.me.g a) = false) (entry : s.me.g d ≠ 0)
    (aligned : (s.me.g d).toNat % 4 = 0) : ∃ body, exec (.launch g a d) s = issue g (formLen g) body s ∧
      body s = signalThen (placePart (s.me.g a).toNat) (placeCore (s.me.g a).toNat) true
        (.launch ⟨s.me.g d, s.me.g (d + 1), 0, 0, 0, 0, 0, s.me.ctx, 0⟩) s := by
  refine ⟨_, show _ = execLaunch g a d s from rfl, ?_⟩
  have good : (s.me.g d == 0 || (s.me.g d).toNat % 4 != 0) = false := by
    rw [beq_false_of_ne entry, aligned]
    rfl
  have args : readRun d 2 s = .ok ([s.me.g d, s.me.g (d + 1)], s) := by
    simpa [List.range_succ] using readRun_plain plain 2 d
  rw [Act.bind_ok (readG_plain s a (plain a)), Act.bind_ok args, Act.bind_ok (allowedIn_ok (te := false) nofun fun _ => open_),
    Act.bind_ok (checkPlace_ok place)]
  simp only [List.getD_cons_zero, List.getD_cons_succ, good]
  rfl

theorem dcdec_signals {n : BitVec 8} (ha : s.me.plain a = true)
    (place : badPlace s.link.pod.k s.link.pod.n false (s.me.g a) = false) :
    ∃ body, exec (.dcdec g n a) s = issue g (formLen g) body s ∧
      body s = signalThen (placePart (s.me.g a).toNat) (placeCell (s.me.g a).toNat * 3) false
        (.decrement n.toNat s.me.ctx (s.place s.cur) 0) s := by
  refine ⟨_, show _ = execDcdec g n a s from rfl, ?_⟩
  rw [Act.bind_ok (readG_plain s a ha), Act.bind_ok (checkPlace_ok place)]
  rfl

theorem msend_signals {m : BitVec 2} (ha : s.me.plain a = true) (hd : s.me.plain d = true)
    (place : badPlace s.link.pod.k s.link.pod.n true (s.me.g a) = false) :
    ∃ body, exec (.msend g m a d) s = issue g (formLen g) body s ∧
      body s = signalThen (placePart (s.me.g a).toNat) (placeCore (s.me.g a).toNat) false
        (.mail (placeKey (s.me.g a).toNat) m.toNat (s.me.g d) s.me.ctx (s.place s.cur)) s := by
  refine ⟨_, show _ = execMsend g m a d s from rfl, ?_⟩
  rw [Act.bind_ok (readG_plain s a ha), Act.bind_ok (readG_plain s d hd), Act.bind_ok (checkPlace_ok place)]
  rfl

/-- A descriptor in own near memory is read whole, and passes the checks of R279. -/
theorem readDescriptor_own {va : Word} {p : Nat} (own : s.ownRecord va 8 p) (aligned : va.toNat % 64 = 0)
    (good : badDescriptor s.link.pod.k s.link.pod.n (s.nearWords p 8) = false) :
    readDescriptor va s = .ok (.all (s.nearWords p 8), s.latched (s.nearWords p 8)) := by
  have even : (va.toNat % 64 != 0) = false := by simp [aligned]
  have accepted : badDescriptor (s.latched (s.nearWords p 8)).link.pod.k (s.latched (s.nearWords p 8)).link.pod.n
    (s.nearWords p 8) = false := good
  rw [readDescriptor, even, Act.bind_ok (t := s) (a := ()) rfl, Act.bind_ok (readRecord_own own (by omega))]
  dsimp only
  rw [Act.bind_ok (t := s.latched (s.nearWords p 8)) (a := s.latched (s.nearWords p 8)) rfl, accepted]
  rfl

theorem postTask_signals {queue : List Word → Nat} {releases : Bool} {p : Nat} (ha : s.me.plain a = true)
    (hd : s.me.plain d = true) (place : badPlace s.link.pod.k s.link.pod.n false (s.me.g a) = false)
    (own : s.ownRecord (s.me.g d) 8 p) (aligned : (s.me.g d).toNat % 64 = 0)
    (good : badDescriptor s.link.pod.k s.link.pod.n (s.nearWords p 8) = false) :
    ∃ body, postTask releases queue g a d s = issue g (formLen g) body s ∧
      body s = signalThen (placePart (s.me.g a).toNat) (placeCore (s.me.g a).toNat) releases
        (.task (queue (s.nearWords p 8)) (descTask s.me.ctx (s.nearWords p 8))) (s.latched (s.nearWords p 8)) := by
  refine ⟨_, rfl, ?_⟩
  rw [Act.bind_ok (readG_plain s a ha), Act.bind_ok (readG_plain s d hd), Act.bind_ok (checkPlace_ok place),
    Act.bind_ok (readDescriptor_own own aligned good)]
  dsimp only
  rw [Act.bind_ok (t := s.latched (s.nearWords p 8)) (a := (s.latched (s.nearWords p 8)).me) rfl, State.latched_me]
  rfl

end

/-! ### `taskwd` and `amsend` (R229, R230, R281) -/

/-- `taskwd` puts one message for every core into the outbound task queue, and is no signal. -/
theorem taskwd_sends {s : State} {g : Guard} {a : Reg} (holds : s.me.guardHolds g = true) (ha : s.me.plain a = true)
    (free : s.me.freelance = true) (room : (s.core (coreOf s.cur)).outbox.length < 16) :
    Sends (.taskwd g a) s (formLen g) false ⟨s.link.pod.k, none, s.cur, s.me.gen, [], ⟨(s.cell (cellOf s.cur)).fixNo,
      .taskwd ((s.me.g a).truncate 32) ((s.me.g a >>> 32).truncate 32) s.me.ctx⟩⟩ := by
  have ready : s.outboxRoom (coreOf s.cur) = true := decide_eq_true room
  obtain ⟨next, signals, regs, pw, run, past⟩ := issue_seq (n := s.me.signals) (ws := s.me.latch)
    (t := s.enqueue ⟨s.link.pod.k, none, s.cur, s.me.gen, [], ⟨(s.cell (cellOf s.cur)).fixNo,
      .taskwd ((s.me.g a).truncate 32) ((s.me.g a >>> 32).truncate 32) s.me.ctx⟩⟩)
    (show exec (.taskwd g a) s = execTaskwd g a s from rfl) holds (by
      rw [Act.bind_ok (readG_plain s a ha),
        Act.bind_ok (allowedIn_ok (sm := false) (fun _ => Slot.notRole_of_freelance free) nofun),
        Act.bind_ok (t := s) (a := s) rfl, Act.bind_ok (t := s) (a := s.me) rfl]
      refine (Act.bind_ok (t := s) rfl).trans ?_
      rw [ready]
      rfl) rfl
  refine ⟨_, next, ?_, signals, regs, pw, State.retire_mem .., run, past⟩
  rw [State.core, State.retire_cores]
  exact congrArg Core.outbox (s.core_modCore (coreOf s.cur) _)

theorem taskwd_waits {s : State} {g : Guard} {a : Reg} (holds : s.me.guardHolds g = true) (ha : s.me.plain a = true)
    (free : s.me.freelance = true) (full : 16 ≤ (s.core (coreOf s.cur)).outbox.length) : Waits (.taskwd g a) s wMem := by
  have ready : s.outboxRoom (coreOf s.cur) = false := decide_eq_false (by omega)
  refine waits_of (show exec (.taskwd g a) s = execTaskwd g a s from rfl) holds ?_
  rw [Act.bind_ok (readG_plain s a ha), Act.bind_ok (allowedIn_ok (sm := false) (fun _ => Slot.notRole_of_freelance free) nofun),
    Act.bind_ok (t := s) (a := s) rfl, Act.bind_ok (t := s) (a := s.me) rfl]
  refine (Act.bind_ok (t := s) rfl).trans ?_
  rw [ready]
  rfl

section
variable {s : State} {g : Guard} {a b d : Reg}

/-- The message of an `amsend`. -/
def State.activeMsg (s : State) (b d : Reg) : AmMsg :=
  ⟨s.me.g b, s.me.g d, s.me.g (d + 1), s.me.g (d + 2), s.me.g (d + 3), s.me.ctx, s.place s.cur, (s.cell (cellOf s.cur)).fixNo⟩

/-- Outside roles `amsend` comes to the outbound queue for active messages. -/
theorem amsend_queue (plain : ∀ r : Reg, s.me.plain r = true) (outside : s.me.inRole = false)
    (place : badAmPlace s.link.pod.n (s.me.g a) = false) (aligned : (s.me.g b).toNat % 4 = 0) :
    ∃ body, exec (.amsend g b a d) s = issue g (formLen g) body s ∧
      body s = if 16 ≤ (s.core (coreOf s.cur)).amOut.length then .error (.wait wMem []) else
        .ok (.seq, s.modCore (coreOf s.cur) fun c =>
          { c with amOut := c.amOut ++ [(placePart (s.me.g a).toNat, placeCore (s.me.g a).toNat, s.activeMsg b d)] }) := by
  refine ⟨_, show _ = execAmsend g b a d s from rfl, ?_⟩
  have args : readRun d 4 s = .ok ([s.me.g d, s.me.g (d + 1), s.me.g (d + 2), s.me.g (d + 3)], s) := by
    simpa [List.range_succ] using readRun_plain plain 4 d
  have free : true = true → ∀ num r, s.me.work ≠ .role num r := fun _ num r work => by simp [Slot.inRole, work] at outside
  have even : ((s.me.g b).toNat % 4 != 0) = false := by simp [aligned]
  rw [Act.bind_ok (readG_plain s a (plain a)), Act.bind_ok (readG_plain s b (plain b)), Act.bind_ok args,
    Act.bind_ok (allowedIn_ok (sm := false) free nofun), Act.bind_ok (t := s) (a := s) rfl]
  simp only [place, even]
  split <;> rfl

theorem amsend_sends (holds : s.me.guardHolds g = true) (plain : ∀ r : Reg, s.me.plain r = true) (outside : s.me.inRole = false)
    (place : badAmPlace s.link.pod.n (s.me.g a) = false) (aligned : (s.me.g b).toNat % 4 = 0)
    (room : (s.core (coreOf s.cur)).amOut.length < 16) : ∃ t, exec (.amsend g b a d) s = .next t ∧
      t.core (coreOf s.cur) = { s.core (coreOf s.cur) with amOut := (s.core (coreOf s.cur)).amOut ++
        [(placePart (s.me.g a).toNat, placeCore (s.me.g a).toNat, s.activeMsg b d)] } ∧
      t.me.bare = s.me.bare ∧ t.me.run = .run ∧ t.mem = s.mem ∧ PassedBy s t (formLen g) := by
  obtain ⟨body, runs, acts⟩ := amsend_queue (g := g) (d := d) plain outside place aligned
  rw [if_neg (by omega)] at acts
  refine ⟨_, runs.trans (issue_ok g (formLen g) body s _ .seq holds acts (.inl rfl) rfl), ?_, ?_, ?_, State.retire_mem ..,
    PassedBy.retire rfl _⟩
  · rw [State.core, State.retire_cores]
    exact s.core_modCore ..
  · rw [State.retire_me, Slot.goOn_seq_bare]
    rfl
  · rw [State.retire_me]
    rfl

theorem amsend_waits (holds : s.me.guardHolds g = true) (plain : ∀ r : Reg, s.me.plain r = true) (outside : s.me.inRole = false)
    (place : badAmPlace s.link.pod.n (s.me.g a) = false) (aligned : (s.me.g b).toNat % 4 = 0)
    (full : 16 ≤ (s.core (coreOf s.cur)).amOut.length) : Waits (.amsend g b a d) s wMem := by
  obtain ⟨body, runs, acts⟩ := amsend_queue (g := g) (d := d) plain outside place aligned
  exact waits_of runs holds (acts.trans (if_pos full))

end

/-! ### The obligation -/

theorem signalsSent : Claim.SignalsSent := by
  intro s g q n m a d p holds plain free room dst pl no mine msg
  have work := Slot.notHandler_of_freelance free
  refine ⟨fun place => ⟨fun _ entry aligned => ?launch, ?dcdec, fun own aligned good => ⟨?callat, ?tpost⟩⟩, fun place => ?msend,
    taskwd_sends holds (plain a) free room⟩
  case launch =>
    obtain ⟨body, runs, acts⟩ := launch_signals (g := g) plain work place entry aligned
    exact sends_signal runs holds acts (.refl s) free room
  case dcdec =>
    obtain ⟨body, runs, acts⟩ := dcdec_signals (g := g) (n := n) (plain a) place
    exact sends_signal runs holds acts (.refl s) free room
  case callat =>
    obtain ⟨body, runs, acts⟩ := postTask_signals (queue := descQueue) (plain a) (plain d) place own aligned good
    exact sends_signal (i := .callat g a d) runs holds acts (.latched s _) free room
  case tpost =>
    obtain ⟨body, runs, acts⟩ := postTask_signals (queue := fun _ => q.toNat) (plain a) (plain d) place own aligned good
    exact sends_signal (i := .tpost g q a d) runs holds acts (.latched s _) free room
  case msend =>
    obtain ⟨body, runs, acts⟩ := msend_signals (g := g) (m := m) (plain a) (plain d) place
    exact sends_signal runs holds acts (.refl s) free room

theorem signalsDeferred : Claim.SignalsDeferred := by
  intro s g q n m a d p num r y holds plain work found dispatched room dst pl mine msg defers
  have notHandler (j : Nat) : s.me.work ≠ .handler j := by simp [work]
  refine ⟨fun place => ⟨fun _ entry aligned => ?launch, ?dcdec, fun own aligned good => ⟨?callat, ?tpost⟩⟩, fun place => ?msend⟩
  case launch =>
    obtain ⟨body, runs, acts⟩ := launch_signals (g := g) plain notHandler place entry aligned
    exact defers_signal runs holds acts (.refl s) work found dispatched room
  case dcdec =>
    obtain ⟨body, runs, acts⟩ := dcdec_signals (g := g) (n := n) (plain a) place
    exact defers_signal runs holds acts (.refl s) work found dispatched room
  case callat =>
    obtain ⟨body, runs, acts⟩ := postTask_signals (queue := descQueue) (plain a) (plain d) place own aligned good
    exact defers_signal (i := .callat g a d) runs holds acts (.latched s _) work found dispatched room
  case tpost =>
    obtain ⟨body, runs, acts⟩ := postTask_signals (queue := fun _ => q.toNat) (plain a) (plain d) place own aligned good
    exact defers_signal (i := .tpost g q a d) runs holds acts (.latched s _) work found dispatched room
  case msend =>
    obtain ⟨body, runs, acts⟩ := msend_signals (g := g) (m := m) (plain a) (plain d) place
    exact defers_signal runs holds acts (.refl s) work found dispatched room

theorem activeMessageSent : Claim.ActiveMessageSent := by
  intro s g a b d holds plain outside _ place aligned pl c
  exact ⟨amsend_sends holds plain outside place aligned, amsend_waits holds plain outside place aligned⟩

theorem signalsWaitForRoom : Claim.SignalsWaitForRoom := by
  intro s g n m a d holds ha hd free full
  refine ⟨fun place => ?_, fun place => ?_, taskwd_waits holds ha free full⟩
  · obtain ⟨body, runs, acts⟩ := dcdec_signals (g := g) (n := n) ha place
    exact waits_signal runs holds acts free full
  · obtain ⟨body, runs, acts⟩ := msend_signals (g := g) (m := m) ha hd place
    exact waits_signal runs holds acts free full

/-- Settles O23: each form comes, after its operands and checks, to `signalOut` (`launch_signals` and those beside it), which
outside roles counts and sends (`sends_signal`) or waits (`waits_signal`), and in a role defers (`defers_signal`). -/
theorem signals : Obligations.Signals := ⟨signalsSent, signalsDeferred, activeMessageSent, signalsWaitForRoom⟩

end Sys2Proof.Machine

/-! PROOFS. The order of a batch (R105, R119): the model's stable sort, and what it makes of the accepted entries. -/

namespace Sys2Proof.Machine

/-! ### The stable sort -/

section
variable {α : Type} {before : α → α → Bool} {key : α → Nat}

theorem insertBy_perm (x : α) : ∀ l, (insertBy before x l).Perm (x :: l)
  | [] => .refl _
  | y :: l => by
    rw [insertBy]
    split
    · exact .refl _
    · exact ((insertBy_perm x l).cons y).trans (.swap x y l)

theorem sortBy_concat (xs : List α) (x : α) : sortBy before (xs ++ [x]) = insertBy before x (sortBy before xs) :=
  List.foldl_concat ..

theorem sortBy_perm (xs : List α) : (sortBy before xs).Perm xs := by
  induction xs using List.reverseRecOn with
  | nil => exact .refl _
  | append_singleton xs x ih =>
    rw [sortBy_concat]
    exact ((insertBy_perm x _).trans (ih.cons x)).trans (List.perm_append_singleton x xs).symm

variable (keyed : ∀ x y, before x y = decide (key x < key y))
include keyed

theorem insertBy_sorted (x : α) {l : List α} (sorted : l.Pairwise fun a b => key a ≤ key b) :
    (insertBy before x l).Pairwise fun a b => key a ≤ key b := by
  induction l with
  | nil => exact List.pairwise_singleton ..
  | cons y l ih =>
    obtain ⟨above, sorted'⟩ := List.pairwise_cons.mp sorted
    rw [insertBy, keyed]
    split
    case isTrue less =>
      have less : key x < key y := of_decide_eq_true less
      exact List.pairwise_cons.mpr ⟨List.forall_mem_cons.mpr ⟨less.le, fun b mem => less.le.trans (above b mem)⟩, sorted⟩
    case isFalse more =>
      have more : key y ≤ key x := Nat.le_of_not_lt fun less => more (decide_eq_true less)
      refine List.pairwise_cons.mpr ⟨fun b mem => ?_, ih sorted'⟩
      rcases List.mem_cons.mp ((insertBy_perm x l).mem_iff.mp mem) with rfl | mem
      · exact more
      · exact above b mem

/-- An entry goes behind those that the key does not tell apart from it. -/
theorem insertBy_filter (x : α) {p : α → Bool} (alike : ∀ a b, p a = true → p b = true → key a = key b) {l : List α}
    (sorted : l.Pairwise fun a b => key a ≤ key b) : (insertBy before x l).filter p = l.filter p ++ [x].filter p := by
  induction l with
  | nil => rfl
  | cons y l ih =>
    obtain ⟨above, sorted'⟩ := List.pairwise_cons.mp sorted
    rw [insertBy, keyed]
    split
    case isTrue less =>
      have less : key x < key y := of_decide_eq_true less
      cases px : p x with
      | false => simp [px]
      | true =>
        have none : (y :: l).filter p = [] := List.filter_eq_nil_iff.mpr <| List.forall_mem_cons.mpr
          ⟨fun py => less.ne (alike x y px py), fun b mem pb => (less.trans_le (above b mem)).ne (alike x b px pb)⟩
        simp [px, none]
    case isFalse => rw [List.filter_cons, List.filter_cons, ih sorted']; split <;> rfl

theorem sortBy_sorted (xs : List α) : (sortBy before xs).Pairwise fun a b => key a ≤ key b := by
  induction xs using List.reverseRecOn with
  | nil => exact .nil
  | append_singleton xs x ih => rw [sortBy_concat]; exact insertBy_sorted keyed x ih

theorem sortBy_filter (xs : List α) {p : α → Bool} (alike : ∀ a b, p a = true → p b = true → key a = key b) :
    (sortBy before xs).filter p = xs.filter p := by
  induction xs using List.reverseRecOn with
  | nil => rfl
  | append_singleton xs x ih =>
    rw [sortBy_concat, insertBy_filter keyed x alike (sortBy_sorted keyed xs), ih, List.filter_append]
end

/-! ### The batch -/

/-- ORDKEY of an entry (R105). -/
def Txn.ordkey (y : Txn) : Nat := slice y.sub.record.dw7 63 32

/-- Place of the slot that submitted an entry (R105). -/
def Txn.place (y : Txn) : Nat := placeLow y.sub.slot

/-- What the deterministic order goes by: ORDKEY, then place. -/
def Txn.ordBy (y : Txn) : Nat := y.ordkey * 2 ^ 16 + y.place

theorem ordBefore_eq (x y : Txn) : ordBefore x y = decide (x.ordBy < y.ordBy) := rfl

/-- The follows and restarts of the open batch, in their order (R119). -/
def Sequencer.oldOrder (q : Sequencer) : List Txn :=
  sortBy (fun (x y : Txn) => decide (x.sub.parent.getD 0 < y.sub.parent.getD 0)) q.open_.1

/-- The submissions of the open batch, in their order (R105). -/
def Sequencer.newOrder (q : Sequencer) : List Txn := if sqDet q.sqctl then sortBy ordBefore q.open_.2 else q.open_.2

theorem Sequencer.batchOrder_eq (q : Sequencer) : q.batchOrder = q.oldOrder ++ q.newOrder := rfl

theorem Sequencer.newOrder_perm (q : Sequencer) : q.newOrder.Perm q.open_.2 := by
  rw [Sequencer.newOrder]
  split
  · exact sortBy_perm _
  · exact .refl _

theorem Sequencer.newOrder_det {q : Sequencer} (det : sqDet q.sqctl = true) : q.newOrder = sortBy ordBefore q.open_.2 := by
  rw [Sequencer.newOrder, if_pos det]

theorem Sequencer.newOrder_sorted {q : Sequencer} (det : sqDet q.sqctl = true) (placed : ∀ y ∈ q.open_.2, y.place < 2 ^ 16) :
    q.newOrder.Pairwise fun x y => x.ordkey < y.ordkey ∨ x.ordkey = y.ordkey ∧ x.place ≤ y.place := by
  have small {y} (mem : y ∈ q.newOrder) : y.place < 2 ^ 16 := placed y (q.newOrder_perm.mem_iff.mp mem)
  rw [newOrder_det det] at small ⊢
  refine (sortBy_sorted ordBefore_eq q.open_.2).imp_of_mem fun {x y} hx hy le => ?_
  have := small hx
  have := small hy
  rw [Txn.ordBy, Txn.ordBy] at le
  omega

/-- Two filters after one another, in either order, are one filter. -/
theorem filter_filter_comm {α : Type} (p q : α → Bool) (l : List α) :
    (l.filter q).filter p = l.filter fun a => q a && p a := by
  rw [List.filter_filter]
  exact congrArg (l.filter ·) (funext fun a => Bool.and_comm ..)

theorem batchOrder : Claim.BatchOrder := by
  intro q held parent ordkey place det placed
  refine ⟨q.oldOrder, q.newOrder, q.batchOrder_eq, sortBy_perm _, q.newOrder_perm, sortBy_sorted (fun _ _ => rfl) _,
    fun n => ?_, fun det => if_neg (Bool.eq_false_iff.mp det), fun det => ⟨?_, fun n p => ?_⟩⟩
  · refine (sortBy_filter (key := parent) (fun _ _ => rfl) _ fun a b ha hb => ?_).trans (filter_filter_comm ..)
    exact (of_decide_eq_true ha).trans (of_decide_eq_true hb).symm
  · exact Sequencer.newOrder_sorted det fun y mem => placed y (List.mem_of_mem_filter mem)
  · rw [Sequencer.newOrder_det det]
    refine (sortBy_filter ordBefore_eq _ fun a b ha hb => ?_).trans (filter_filter_comm ..)
    obtain ⟨ha, pa⟩ : a.ordkey = n ∧ a.place = p :=
      (Bool.and_eq_true_iff.mp ha).imp of_decide_eq_true of_decide_eq_true
    obtain ⟨hb, pb⟩ : b.ordkey = n ∧ b.place = p :=
      (Bool.and_eq_true_iff.mp hb).imp of_decide_eq_true of_decide_eq_true
    rw [Txn.ordBy, Txn.ordBy, ha, pa, hb, pb]

end Sys2Proof.Machine

/-! PROOFS. The open batch: what it accepts, how it closes, and what a close sends (R102 to R106, R119, R120, R351). -/

namespace Sys2Proof.Machine

/-! ### States that differ in what has been sent -/

/-- A state that another becomes by sending messages, and by what the part notes of its fix. -/
structure State.SentOn (s t : State) : Prop where
  seq : t.seq = s.seq
  mem : t.mem = s.mem
  pod : t.link.pod = s.link.pod
  flight : s.sched.flight ⊆ t.sched.flight

namespace State.SentOn

theorem refl (s : State) : s.SentOn s := ⟨rfl, rfl, rfl, List.Subset.refl _⟩

theorem trans {s t u : State} (h : s.SentOn t) (h' : t.SentOn u) : s.SentOn u :=
  ⟨h'.seq.trans h.seq, h'.mem.trans h.mem, h'.pod.trans h.pod, List.Subset.trans h.flight h'.flight⟩

theorem flies {s t : State} (h : s.SentOn t) {i : Instr} {unit : Nat} (sent : s.flies i unit) : t.flies i unit := by
  obtain ⟨f, mem, parcel⟩ := sent
  exact ⟨f, h.flight mem, parcel⟩

theorem send (s : State) (cls src dst : Nat) (p : Parcel) : s.SentOn (s.send cls src dst p) :=
  ⟨s.send_seq .., s.send_mem .., congrArg Link.pod (s.send_link ..), List.subset_append_left ..⟩

theorem toPart (s : State) (part : Nat) (m : AzMsg) : s.SentOn (s.toPart part m) :=
  ⟨rfl, rfl, rfl, List.Subset.refl _⟩

theorem modFix (s : State) (f : Fix → Fix) : s.SentOn (s.modFix f) :=
  ⟨rfl, rfl, rfl, List.Subset.refl _⟩

theorem foldl {α : Type} {f : State → α → State} (step : ∀ (s : State) x, s.SentOn (f s x)) :
    ∀ (l : List α) (s : State), s.SentOn (l.foldl f s)
  | [], s => refl s
  | x :: l, s => (step s x).trans (foldl step l (f s x))

/-- What one step of many sends is sent when all are done. -/
theorem foldl_flies {α : Type} {f : State → α → State} (step : ∀ (s : State) x, s.SentOn (f s x)) {l : List α} {x : α}
    (mem : x ∈ l) {i : Instr} {unit : Nat} {k : Nat} (sends : ∀ s : State, s.link.pod.k = k → (f s x).flies i unit)
    {s : State} (here : s.link.pod.k = k) : (l.foldl f s).flies i unit := by
  obtain ⟨before, after, rfl⟩ := List.append_of_mem mem
  rw [List.foldl_append, List.foldl_cons]
  have first := SentOn.foldl step before s
  exact (SentOn.foldl step after _).flies (sends _ ((congrArg PodRec.k first.pod).trans here))

theorem broadcast (s : State) (m : AzMsg) : s.SentOn (s.broadcast m) := foldl (fun s p => toPart s p m) _ s

theorem tellVoid (s : State) (y : Txn) : s.SentOn (s.tellVoid y) := foldl (fun s p => toPart s p _) _ s

theorem fixReport (s : State) : s.SentOn s.fixReport := by
  rw [State.fixReport]
  split
  · exact (modFix s _).trans (modFix ..)
  · exact (modFix s _).trans (toPart ..)

/-- One BLM's requests go to its merge gate, in this part or another. -/
theorem blmStep (k num cell : Nat) (ws : List (Nat × LockWant)) (s : State) (b : Nat) :
    s.SentOn (let m : LockMsg := .request num (k * 1024 + cell) (b % 4096) ((ws.filter fun w => w.1 = b).map (·.2))
      let die := dieOfBlm (b % 4096)
      if b / 4096 = k then s.send clsLock seqChan die (msg (.mergeGateReceive die k m))
      else s.toPart (b / 4096) (.lock die k m)) := by
  dsimp only
  split
  · exact send ..
  · exact toPart ..

theorem sendLocks (s : State) (num cell : Nat) (ws : List (Nat × LockWant)) : s.SentOn (s.sendLocks num cell ws) :=
  foldl (blmStep s.link.pod.k num cell ws) _ s

theorem closeStep (k g : Nat) (s : State) (d : Nat) :
    s.SentOn (s.send clsLock seqChan d (msg (.mergeGateReceive d k (.close g)))) := send ..

theorem sendClose (s : State) (g : Nat) : s.SentOn (s.sendClose g) :=
  (foldl (closeStep s.link.pod.k g) (List.range 4) s).trans (foldl (fun s _ => broadcast s _) ..)

end State.SentOn

/-- The locks that one BLM is asked for. -/
def locksAt (ws : List (Nat × LockWant)) (b : Nat) : List LockWant := (ws.filter fun w => w.1 = b).map (·.2)

theorem mem_locksAt {ws : List (Nat × LockWant)} {b : Nat} {w : LockWant} (wanted : (b, w) ∈ ws) : w ∈ locksAt ws b :=
  List.mem_map.mpr ⟨(b, w), List.mem_filter.mpr ⟨wanted, decide_eq_true rfl⟩, rfl⟩

theorem State.sendLocks_flies {s : State} {k : Nat} (here : s.link.pod.k = k) (num cell : Nat) {ws : List (Nat × LockWant)}
    {b : Nat} (wanted : b ∈ ws.map (·.1)) (own : b / 4096 = k) :
    (s.sendLocks num cell ws).flies (.mergeGateReceive (dieOfBlm (b % 4096)) k
      (.request num (k * 1024 + cell) (b % 4096) (locksAt ws b))) 0 := by
  subst here
  refine State.SentOn.foldl_flies (State.SentOn.blmStep s.link.pod.k num cell ws) (List.mem_dedup.mpr wanted)
    (fun u _ => ?_) rfl
  rw [if_pos own]
  exact State.flies_send ..

theorem State.sendClose_flies (s : State) (g : Nat) {d : Nat} (die : d < 4) :
    (s.sendClose g).flies (.mergeGateReceive d s.link.pod.k (.close g)) 0 :=
  (State.SentOn.foldl (fun s _ => State.SentOn.broadcast s _) _ _).flies <|
    State.SentOn.foldl_flies (State.SentOn.closeStep s.link.pod.k g) (List.mem_range.mpr die)
      (fun _ _ => State.flies_send ..) rfl

/-! ### The close -/

/-- The entries that a close takes (R103, R351). -/
def State.batchTaken (s : State) : List Txn :=
  if s.fixCloses && !s.seq.closeAsked then [] else s.seq.batchOrder.take 256

/-- Number of the global batch that closes next (R105). -/
def State.globalBatch (s : State) : Nat := s.seq.batch * s.link.pod.n + s.link.pod.k

/-- An entry with its place in the batch, numbered (R105). -/
def State.numberAt (s : State) (y : Txn) (i : Nat) : Txn :=
  y.number s.link.pod.k s.seq.batch (s.globalBatch * 256 + i)

/-- The entries that a close takes, numbered. -/
def State.batchDone (s : State) : List Txn := s.batchTaken.zipIdx.map fun e => s.numberAt e.1 e.2

/-- The sequencer after a close, before it sends. -/
def State.batchTurned (s : State) : State :=
  s.modSeq fun q =>
    { q with
      txns := (q.txns.filter fun y => y.stage ≠ .accepted) ++ s.batchDone ++ s.seq.batchOrder.drop s.batchTaken.length
      sizes := q.sizes.set q.batch s.batchDone.length
      batch := q.batch + 1
      opened := s.cycle
      sqctl := q.newCtl.getD q.sqctl
      newCtl := none
      closeAsked := false }

/-- Other parts learn which of the entries that a close takes are void (R120). -/
def State.batchTold (s : State) : State :=
  (s.batchDone.filter fun y => y.stage = .void).foldl State.tellVoid s.batchTurned

/-- The entries that a close takes ask for their locks (R106). -/
def State.batchAsked (s : State) : State := s.batchDone.foldl (fun u y => u.sendLocks y.num y.cell y.wants) s.batchTold

/-- A fix that waits for the close of a batch learns of it (R351). -/
def State.fixTold (s : State) : State := if s.fix.active ∧ s.fix.phase = 1 then s.fixReport else s

theorem batchClose_eq (s : State) : exec .batchClose s = .next (s.batchAsked.sendClose s.globalBatch).fixTold := by
  show execBatchClose s = _
  unfold execBatchClose State.fixTold State.batchAsked State.batchTold State.batchTurned State.batchDone State.numberAt
    State.batchTaken State.globalBatch
  dsimp only

namespace State.SentOn

theorem batchTold (s : State) : s.batchTurned.SentOn s.batchTold := foldl tellVoid ..

theorem lockStep (u : State) (y : Txn) : u.SentOn (u.sendLocks y.num y.cell y.wants) := sendLocks ..

theorem batchAsked (s : State) : s.batchTold.SentOn s.batchAsked := foldl lockStep ..

theorem fixTold (s : State) : s.SentOn s.fixTold := by
  rw [State.fixTold]
  split
  · exact fixReport s
  · exact refl s

theorem batchSent (s : State) : s.batchAsked.SentOn (s.batchAsked.sendClose s.globalBatch).fixTold :=
  (sendClose ..).trans (fixTold _)

theorem batchClose (s : State) : s.batchTurned.SentOn (s.batchAsked.sendClose s.globalBatch).fixTold :=
  ((batchTold s).trans (batchAsked s)).trans (batchSent s)

end State.SentOn

theorem State.batchTold_here (s : State) : s.batchTold.link.pod.k = s.link.pod.k :=
  congrArg PodRec.k (State.SentOn.batchTold s).pod

theorem State.batchAsked_here (s : State) : s.batchAsked.link.pod.k = s.link.pod.k :=
  (congrArg PodRec.k (State.SentOn.batchAsked s).pod).trans s.batchTold_here

/-- Every lock of an entry that a close takes is on its way to the merge gate of its BLM (R106). -/
theorem batchClose_asks (s : State) {z : Txn} (taken : z ∈ s.batchDone) {b : Nat} {w : LockWant} (wanted : (b, w) ∈ z.wants)
    (own : b / 4096 = s.link.pod.k) : ∃ l, w ∈ l ∧
    (s.batchAsked.sendClose s.globalBatch).fixTold.flies (.mergeGateReceive (dieOfBlm (b % 4096)) s.link.pod.k
      (.request z.num (s.link.pod.k * 1024 + z.cell) (b % 4096) l)) 0 :=
  ⟨_, mem_locksAt wanted, (State.SentOn.batchSent s).flies <|
    State.SentOn.foldl_flies State.SentOn.lockStep taken
      (fun _ here => State.sendLocks_flies here _ _ (List.mem_map_of_mem wanted) own) s.batchTold_here⟩

/-- A close marker is on its way to every merge gate (R106). -/
theorem batchClose_marks (s : State) {d : Nat} (die : d < 4) :
    (s.batchAsked.sendClose s.globalBatch).fixTold.flies (.mergeGateReceive d s.link.pod.k (.close s.globalBatch)) 0 :=
  (State.SentOn.fixTold _).flies (s.batchAsked_here ▸ s.batchAsked.sendClose_flies s.globalBatch die)

/-! ### The statements -/

theorem State.batchTaken_open {s : State} (opened : (s.fixCloses && !s.seq.closeAsked) = false) :
    s.batchTaken = s.seq.batchOrder.take 256 := if_neg (Bool.eq_false_iff.mp opened)

theorem State.batchDone_length (s : State) : s.batchDone.length = s.batchTaken.length := by
  rw [State.batchDone, List.length_map, List.length_zipIdx]

/-- Entry i of the batch that closes, numbered. -/
theorem State.batchDone_get {s : State} (opened : (s.fixCloses && !s.seq.closeAsked) = false) {i : Nat} {y : Txn}
    (below : i < 256) (stands : s.seq.batchOrder[i]? = some y) : s.batchDone[i]? = some (s.numberAt y i) := by
  rw [State.batchDone, State.batchTaken_open opened, List.getElem?_map, List.getElem?_zipIdx,
    List.getElem?_take_of_lt below, stands, Nat.zero_add]
  rfl

theorem drop_length_take {α : Type} (n : Nat) (l : List α) : l.drop (l.take n).length = l.drop n := by
  rcases Nat.le_total n l.length with enough | few
  · rw [List.length_take_of_le enough]
  · rw [List.take_of_length_le few, List.drop_length, List.drop_of_length_le few]

theorem batchNumbers : Claim.BatchNumbers := by
  intro s opened k g order
  have taken := State.batchTaken_open opened
  have size : s.batchDone.length = min 256 order.length := by rw [s.batchDone_length, taken, List.length_take]
  have sent := State.SentOn.batchClose s
  refine ⟨_, s.batchDone, batchClose_eq s, size, ?_, ?_, ?_, ?_, fun d die => batchClose_marks s die⟩
  · rw [sent.seq]
    show _ ++ _ ++ order.drop s.batchTaken.length = _
    rw [taken, drop_length_take]
  · rw [sent.seq]
    exact Tab.get_set_self ..
  · intro i y z stands isz
    have below : i < 256 := by
      have := (List.getElem?_eq_some_iff.mp isz).1
      omega
    obtain rfl : s.numberAt y i = z := Option.some.inj ((State.batchDone_get opened below stands).symm.trans isz)
    exact ⟨rfl, rfl, rfl, rfl, rfl, rfl, rfl⟩
  · intro i b y w below stands wanted own
    exact batchClose_asks s (z := s.numberAt y i) (List.mem_of_getElem? (State.batchDone_get opened below stands)) wanted own

theorem fixBatchEmpty : Claim.FixBatchEmpty := by
  intro s closes notAsked
  have taken : s.batchTaken = [] := if_pos (by rw [closes, notAsked]; rfl)
  have done : s.batchDone = [] := by rw [State.batchDone, taken]; rfl
  have sent := State.SentOn.batchClose s
  refine ⟨_, batchClose_eq s, ?_, ?_⟩ <;> rw [sent.seq]
  · show _ ++ s.batchDone ++ _ = _
    rw [done, taken, List.append_nil]
    rfl
  · exact (Tab.get_set_self ..).trans (congrArg List.length done)

theorem execSubmissionAccept_takes {s : State} {x : Submission} {rest : List Submission} (head : s.seq.waiting = x :: rest)
    (takes : s.takesSub = true) : exec .submissionAccept s =
      .next (((s.modSeq fun q => { q with waiting := rest }).acceptSub x).answer seqChan x.slot .done) := by
  show execSubmissionAccept s = _
  rw [execSubmissionAccept, head]
  exact if_pos takes

theorem State.SentOn.answer (s : State) (src a : Nat) (r : Reply) : s.SentOn (s.answer src a r) := by
  rw [State.answer, State.answerAt]
  split
  · exact refl s
  · exact send ..

/-- SQCTL keeps CLOSE, DCOUNT and DET of what is written, a DCOUNT above 256 as 256 (R104). -/
theorem maskSqctl_fields (v : Word) : slice (maskSqctl v) 47 32 = slice v 47 32 ∧
    slice (maskSqctl v) 16 8 = min (slice v 16 8) 256 ∧ slice (maskSqctl v) 0 0 = slice v 0 0 := by
  have close : slice v 47 32 < 2 ^ 16 := Nat.mod_lt _ (by decide)
  have det : slice v 0 0 < 2 := Nat.mod_lt _ (by decide)
  have whole : (maskSqctl v).toNat = slice v 47 32 * 2 ^ 32 + min (slice v 16 8) 256 * 2 ^ 8 + slice v 0 0 := by
    rw [maskSqctl, natW, BitVec.toNat_ofNat, Nat.mod_eq_of_lt]
    omega
  generalize slice v 47 32 = c at *
  generalize slice v 16 8 = n at *
  generalize slice v 0 0 = d at *
  simp only [slice, whole]
  omega

theorem batchesOpenAndClose : Claim.BatchesOpenAndClose := by
  intro s x rest v
  refine ⟨fun head takes taken => ?_, ?_, ?_⟩
  · have sent := State.SentOn.answer ((s.modSeq fun q => { q with waiting := rest }).acceptSub x) seqChan x.slot .done
    refine ⟨_, _, execSubmissionAccept_takes head takes, congrArg Sequencer.waiting sent.seq, congrArg Sequencer.txns sent.seq,
      rfl, rfl, sent.mem, State.answer_answers _ _ _ _ taken⟩
  · have sent := State.SentOn.batchClose s
    refine ⟨_, batchClose_eq s, ?_⟩
    rw [sent.seq, sent.mem]
    exact ⟨rfl, rfl, rfl, rfl, rfl, rfl⟩
  · exact ⟨_, rfl, rfl, rfl, rfl, _, rfl, maskSqctl_fields v⟩

/-- Settles O29: a close turns the batch and then only sends; the order is a stable sort by a key. -/
theorem sequencerSteps : Obligations.SequencerSteps :=
  ⟨batchesOpenAndClose, batchOrder, batchNumbers, fixBatchEmpty⟩

end Sys2Proof.Machine

/-! PROOFS. What the end of a transaction leaves: storage, walks, reports, drains and outcomes change no slot (R112 to R114). -/

namespace Sys2Proof.Machine

/-! ### Storage leaves the slots -/

/-- The slots, and which of them issues. -/
def State.seat (s : State) : Tab Slot × Nat := (s.slots, s.cur)

@[simp] theorem State.modCell_seat (s : State) (k : Nat) (f : Cell → Cell) : (s.modCell k f).seat = s.seat := rfl
@[simp] theorem State.modCore_seat (s : State) (k : Nat) (f : Core → Core) : (s.modCore k f).seat = s.seat := rfl
@[simp] theorem State.modDie_seat (s : State) (k : Nat) (f : Die → Die) : (s.modDie k f).seat = s.seat := rfl
@[simp] theorem State.modBlm_seat (s : State) (k : Nat) (f : Blm → Blm) : (s.modBlm k f).seat = s.seat := rfl
@[simp] theorem State.modCluster_seat (s : State) (k : Nat) (f : Cluster → Cluster) : (s.modCluster k f).seat = s.seat := rfl
@[simp] theorem State.modFix_seat (s : State) (f : Fix → Fix) : (s.modFix f).seat = s.seat := rfl
@[simp] theorem State.modPart_seat (s : State) (f : Part → Part) : (s.modPart f).seat = s.seat := rfl
@[simp] theorem State.modSeq_seat (s : State) (f : Sequencer → Sequencer) : (s.modSeq f).seat = s.seat := rfl
@[simp] theorem State.modTxn_seat (s : State) (num : Nat) (f : Txn → Txn) : (s.modTxn num f).seat = s.seat := rfl
@[simp] theorem State.send_seat (s : State) (cls src dst : Nat) (p : Parcel) : (s.send cls src dst p).seat = s.seat := rfl
@[simp] theorem State.toPart_seat (s : State) (p : Nat) (m : AzMsg) : (s.toPart p m).seat = s.seat := rfl
@[simp] theorem State.freeWord_seat (s : State) : s.freeWord.2.seat = s.seat := rfl
@[simp] theorem State.freeNat_seat (s : State) : s.freeNat.2.seat = s.seat := rfl
@[simp] theorem State.putBytes_seat (s : State) (bs : List (Nat × Byte)) : (s.putBytes bs).seat = s.seat := rfl
@[simp] theorem State.clearPoison_seat (s : State) (as : List Nat) : (s.clearPoison as).seat = s.seat := rfl
@[simp] theorem State.markPoison_seat (s : State) (l : Nat) (m : BitVec 16) : (s.markPoison l m).seat = s.seat := rfl
@[simp] theorem State.putHome_seat (s : State) (bs : List (Nat × Byte)) : (s.putHome bs).seat = s.seat := rfl
@[simp] theorem State.setTags_seat (s : State) (l : Nat) (m : BitVec 16) (t : OwnerTag) : (s.setTags l m t).seat = s.seat := by
  simp only [State.setTags, State.seat]
@[simp] theorem State.takeFrame_seat (s : State) (f u : Nat) : (s.takeFrame f u).2.seat = s.seat := by
  simp only [State.takeFrame, State.putFixDword, State.putHome_seat]
@[simp] theorem State.copyInto_seat (s : State) (u frame : Nat) : (s.copyInto u frame).seat = s.seat := by
  simp only [State.copyInto, State.putBytes_seat]
  rfl
@[simp] theorem State.copyUnit_seat (s : State) (f u : Nat) : (s.copyUnit f u).seat = s.seat := by
  simp only [State.copyUnit, State.modFix_seat, State.copyInto_seat, State.takeFrame_seat]
@[simp] theorem State.modLeaves_seat (s : State) (cl : Nat) (f : List Leaf → List Leaf) : (s.modLeaves cl f).seat = s.seat := rfl
@[simp] theorem State.enqueue_seat (s : State) (m : OutMsg) : (s.enqueue m).seat = s.seat := rfl
@[simp] theorem State.acceptSub_seat (s : State) (x : Submission) : (s.acceptSub x).seat = s.seat := rfl

@[simp] theorem State.hbmWrite_seat (s : State) (key : Nat) (bs : List (Nat × Byte)) : (s.hbmWrite key bs).seat = s.seat := by
  rw [State.hbmWrite_rest]
  rfl

@[simp] theorem State.hbmRead_seat (s : State) (key : Nat) (as : List Nat) : (s.hbmRead key as).2.seat = s.seat := by
  rw [State.hbmRead]
  split <;> rfl

@[simp] theorem State.homeLine_seat (s : State) (key l : Nat) : (s.homeLine key l).2.2.seat = s.seat := by
  rw [State.homeLine]
  split
  · rfl
  · exact State.hbmRead_seat ..

@[simp] theorem State.cow_seat (s : State) (count : Nat) (as : List Nat) : (s.cow count as).seat = s.seat :=
  State.foldl_keeps State.seat (fun s a => by split <;> simp only [State.copyUnit_seat]) as s

@[simp] theorem State.nearWrite_seat (s : State) (count : Nat) (bs : List (Nat × Byte)) :
    (s.nearWrite count bs).seat = s.seat := State.cow_seat ..

@[simp] theorem State.homeWrite_seat (s : State) (count : Nat) (thru : Bool) (key : Nat) (bs : List (Nat × Byte)) :
    (s.homeWrite count thru key bs).seat = s.seat := (State.hbmWrite_seat ..).trans (s.cow_seat count (bs.map (·.1)))

@[simp] theorem State.endOthers_seat (s : State) (l : Nat) (m : BitVec 16) (keep : Option Nat) :
    (s.endOthers l m keep).seat = s.seat := by
  rw [State.endOthers]
  exact State.foldl_keeps State.seat (fun u c => by rw [State.send_seat, State.setTags_seat]) _ s

@[simp] theorem State.endLines_seat (s : State) (keep : Option Nat) (as : List Nat) : (s.endLines keep as).seat = s.seat :=
  State.foldl_keeps State.seat (fun s l => s.endOthers_seat l _ keep) _ s

@[simp] theorem State.homeStore_seat (s : State) (count : Nat) (thru : Bool) (key : Nat) (keep : Option Nat)
    (bs : List (Nat × Byte)) : (s.homeStore count thru key keep bs).seat = s.seat := by
  rw [State.homeStore, State.homeWrite_seat, State.endLines_seat]

@[simp] theorem State.physWrite_seat (s : State) (count key : Nat) (bs : List (Nat × Byte)) :
    (s.physWrite count key bs).seat = s.seat := by
  simp only [State.physWrite]
  split <;> split <;> simp only [State.nearWrite_seat, State.homeStore_seat]

@[simp] theorem State.report_seat (s : State) (die type cause ctx place : Nat) (addr detail : Word) :
    (s.report die type cause ctx place addr detail).seat = s.seat := by
  rw [State.report]
  split
  · exact State.physWrite_seat ..
  · rfl

@[simp] theorem State.correct_seat (s : State) (w : Nat) : (s.correct w).seat = s.seat := by
  simp only [State.correct]
  split <;> simp only [State.report_seat, State.modPart_seat, State.modBlm_seat]

@[simp] theorem State.noteSoft_seat (s : State) (as : List Nat) : (s.noteSoft as).seat = s.seat :=
  State.foldl_keeps State.seat State.correct_seat _ s

@[simp] theorem State.l2Room_seat (s : State) (l : Nat) : (s.l2Room l).seat = s.seat := by
  simp only [State.l2Room]
  split
  · rfl
  split
  · obtain ⟨slots, cur, -⟩ := s.freeNat.2.l2Evict_keeps ‹_›
    exact congrArg₂ Prod.mk slots cur
  · rfl

@[simp] theorem State.l2Fetch_seat (s : State) (key l : Nat) : (s.l2Fetch key l).seat = s.seat := by
  rw [State.l2Fetch]
  split
  · rfl
  · exact (State.l2Room_seat ..).trans ((State.homeLine_seat ..).trans (State.noteSoft_seat ..))

/-! ### Translations leave the slots -/

theorem State.walkFrom_seat (ctx page : Nat) (secure : Bool) : ∀ (fuel level table : Nat) (s : State),
    (s.walkFrom ctx page secure fuel level table).2.seat = s.seat
  | 0, _, _, _ => rfl
  | fuel + 1, level, table, s => by
    have deeper := State.walkFrom_seat ctx page secure fuel (level + 1)
    simp only [State.walkFrom]
    repeat' split
    all_goals simp only [deeper, State.l2Fetch_seat]

@[simp] theorem State.walk_seat (s : State) (ctx page : Nat) : (s.walk ctx page).2.seat = s.seat := State.walkFrom_seat ..

@[simp] theorem State.manifestPut_seat (s : State) (l : Leaf) : (s.manifestPut l).seat = s.seat := by
  simp only [State.manifestPut]
  split <;> simp only [State.modFix_seat, State.putHome_seat]

@[simp] theorem State.fixEntry_seat (s : State) (cluster count : Nat) (l : Leaf) :
    (s.fixEntry cluster count l).2.seat = s.seat := by
  rw [State.fixEntry]
  dsimp only
  split
  · exact State.l2Fetch_seat ..
  · simp only [apply_ite Prod.snd, apply_ite State.seat, State.modLeaves_seat, State.manifestPut_seat, State.homeStore_seat,
      State.l2Fetch_seat, ite_self]

/-! ### The end of a transaction leaves the slots -/

@[simp] theorem State.releaseGran_seat (s : State) (num : Nat) (g : Gran) : (s.releaseGran num g).seat = s.seat := by
  rw [State.releaseGran]
  split <;> rfl

@[simp] theorem State.writeOutcome_seat (s : State) (x : Submission) (cell num : Nat) (n : Word) (v : Verdict) :
    (s.writeOutcome x cell num n v).seat = s.seat := by
  have walked := s.walk_seat x.ctx (pageOf x.record.out.toNat)
  unfold State.writeOutcome
  simp only
  repeat' split
  all_goals simp_all [State.walkSoft]

@[simp] theorem State.finishTxn_seat (s : State) (num : Nat) : (s.finishTxn num).seat = s.seat := by
  rw [State.finishTxn]
  repeat' split
  · rfl
  · rfl
  · exact State.writeOutcome_seat ..
  · rfl

@[simp] theorem State.drainCheck_seat (s : State) (num : Nat) : (s.drainCheck num).seat = s.seat := by
  have released (u : State) (gs : List Gran) : (gs.foldl (fun s g => State.releaseGran s num g) u).seat = u.seat :=
    State.foldl_keeps State.seat (fun u g => u.releaseGran_seat num g) gs u
  have emptied (u : State) (y : Txn) (open_ : List Gran) : (y.sub.writes.foldl (fun (s : State) (b : TileBind) =>
      if (byteGrans u.link.pod.k b).any open_.contains then s
      else s.modTile y.cell (TileDesc.handle b.desc) fun x =>
        if x.state = .draining then { x with state := .empty } else x) u).seat = u.seat :=
    State.foldl_keeps State.seat (fun u b => by split <;> rfl) _ u
  rw [State.drainCheck]
  split
  · rfl
  dsimp only
  split
  · rw [State.finishTxn_seat, released, State.modCell_seat, emptied]
  · exact emptied ..

@[simp] theorem State.drainGran_seat (s : State) (y : Txn) (w : LockWant) (all : List (Nat × Byte × Bool)) :
    (s.drainGran y w all).seat = s.seat := by
  rw [State.drainGran]
  split
  · dsimp only
    split
    · exact State.releaseGran_seat ..
    split
    · rfl
    · exact (State.foldl_keeps State.seat (fun u _ => u.send_seat ..) _ _).trans (s.modTxn_seat ..)
  · rfl

@[simp] theorem State.fixPages_seat (s : State) (y : Txn) : (s.fixPages y).seat = s.seat :=
  State.foldl_keeps State.seat (fun u l => u.fixEntry_seat _ _ l) _ s

@[simp] theorem State.clearTile_seat (s : State) (num cell t : Nat) : (s.clearTile num cell t).seat = s.seat :=
  State.nearWrite_seat ..

theorem State.drains_seat (y : Txn) (all : List (Nat × Byte × Bool)) (ws : List (Nat × LockWant)) (s : State) :
    (ws.foldl (fun s w => State.drainGran s y w.2 all) s).seat = s.seat :=
  State.foldl_keeps State.seat (fun u w => u.drainGran_seat y w.2 all) ws s

theorem State.clears_seat (num cell : Nat) (hs : List Nat) (s : State) :
    (hs.foldl (fun s h => State.clearTile s num cell h) s).seat = s.seat :=
  State.foldl_keeps State.seat (fun u h => u.clearTile_seat num cell h) hs s

theorem State.releases_seat (num : Nat) (ws : List (Nat × LockWant)) (s : State) :
    (ws.foldl (fun s w => State.releaseGran s num w.2.gran) s).seat = s.seat :=
  State.foldl_keeps State.seat (fun u w => u.releaseGran_seat num w.2.gran) ws s

@[simp] theorem State.commitDrain_seat (s : State) (num : Nat) : (s.commitDrain num).seat = s.seat := by
  rw [State.commitDrain]
  split
  · rfl
  · dsimp only
    rw [State.drainCheck_seat, State.drains_seat, State.fixPages_seat, State.noteSoft_seat, State.modCell_seat,
      State.clears_seat, State.releases_seat]

@[simp] theorem State.commitGo_seat (num : Nat) : ∀ (n : Nat) (s : State), (s.commitGo num n).seat = s.seat
  | 0, _ => rfl
  | n + 1, s => by
    rw [State.commitGo]
    split
    · rfl
    dsimp only
    split
    · exact State.commitDrain_seat ..
    · exact State.commitGo_seat num n _
    · split
      · exact State.commitGo_seat num n _
      · rfl

@[simp] theorem State.commit_seat (s : State) (num : Nat) : (s.commit num).seat = s.seat := by
  rw [State.commit]
  split
  · rfl
  · exact State.commitGo_seat ..

end Sys2Proof.Machine

/-! PROOFS. The transaction record in own near memory (R97, R100, R273): it is read whole, and its header decides. -/

namespace Sys2Proof.Machine

section
variable {s : State} {va : Word} {p : Nat}

theorem State.nearWords_length (s : State) (p n : Nat) : (s.nearWords p n).length = n := by
  rw [State.nearWords, List.length_map, List.length_range]

/-- A record of its header alone names no tile. -/
theorem makeRecord_header {ws : List Word} (header : ws.length = 16) :
    (makeRecord ws).reads = [] ∧ (makeRecord ws).writes = [] := by
  simp [makeRecord, List.drop_of_length_le header.le, descriptors]

/-- A record that has been read is not read again. -/
theorem readRecord_latched (fresh : s.me.latch = []) {n : Nat} {ws : List Word} (all : ws.length = n) :
    readRecord va n (s.latched ws) = .ok (.all ws, s.latched ws) := by
  have kept : (s.latched ws).me.latch = ws := by rw [State.latched_me, fresh]; rfl
  rw [readRecord, Act.bind_ok (t := s.latched ws) (a := (s.latched ws).me) rfl, kept]
  exact readDwords_latched _ n va ws all

/-- A record of its header alone that has no offence is a submission, with nothing done but the reading. -/
theorem readTransaction_accepts (own : s.ownRecord va 16 p) (aligned : va.toNat % 64 = 0)
    (good : headerOffence false (s.nearWords p 16) = none) (reads : nRead (s.nearWords p 16) = 0)
    (writes : nWrite (s.nearWords p 16) = 0) :
    readTransaction false va s = .ok (.sub
      { record := makeRecord (s.nearWords p 16)
        reads := []
        writes := []
        slot := s.cur
        ctx := (s.latched (s.nearWords p 16)).me.ctx
        priv := (s.latched (s.nearWords p 16)).privOf s.cur
        secure := (s.latched (s.nearWords p 16)).secureOf s.cur
        parent := none
        restart := false
        fixCount := (s.cell (cellOf s.cur)).fixNo }, s.latched (s.nearWords p 16)) := by
  have even : (va.toNat % 64 != 0) = false := by simp [aligned]
  have length := s.nearWords_length p 16
  have whole := readRecord_own own (by omega)
  have again := readRecord_latched (va := va) own.2.1 length
  have open_ : (s.latched (s.nearWords p 16)).part.secureCells = [] := own.nearCalm.secureCells
  generalize s.nearWords p 16 = ws at *
  obtain ⟨noReads, noWrites⟩ := makeRecord_header length
  rw [readTransaction, even, Act.bind_ok (t := s) (a := ()) rfl, Act.bind_ok whole]
  dsimp only
  rw [good]
  dsimp only
  rw [reads, writes, Act.bind_ok again]
  dsimp only
  rw [Act.bind_ok (t := s.latched ws) (a := s.latched ws) rfl, open_, noReads, noWrites]
  rw [List.contains_nil, Bool.and_false, Act.bind_ok (t := s.latched ws) (a := ()) rfl,
    Act.bind_ok (t := s.latched ws) (a := .ok [] ((s.latched ws).me.latch.drop 16)) rfl,
    Act.bind_ok (t := s.latched ws) (a := s.latched ws) rfl]
  rfl

/-- The first offence of a header traps. -/
theorem readTransaction_refuses (own : s.ownRecord va 16 p) (aligned : va.toNat % 64 = 0) {i : Nat}
    (bad : headerOffence false (s.nearWords p 16) = some i) :
    readTransaction false va s = .error (.trap cBadRecord (va + natW (8 * i))) := by
  have even : (va.toNat % 64 != 0) = false := by simp [aligned]
  rw [readTransaction, even, Act.bind_ok (t := s) (a := ()) rfl, Act.bind_ok (readRecord_own own (by omega))]
  dsimp only
  rw [bad]
  rfl

end

theorem recordRead : Claim.RecordRead := by
  intro s va p own aligned ws
  refine ⟨fun good reads writes => ⟨_, _, readTransaction_accepts own aligned good reads writes, rfl, rfl, rfl, rfl, ?_, rfl,
    rfl, rfl, ?_, rfl⟩, fun i bad => readTransaction_refuses own aligned bad⟩
  all_goals rw [State.latched_me]

end Sys2Proof.Machine

/-! PROOFS. The transaction forms (R272 to R277): those that leave the rotation for an answer, `txend` and `txnum`. -/

namespace Sys2Proof.Machine

/-! ### A form that leaves the rotation -/

theorem State.me_of_seat {s t : State} (same : t.seat = s.seat) : t.me = s.me := by
  obtain ⟨slots, cur⟩ := Prod.mk.inj same
  rw [State.me, State.me, State.slot, State.slot, slots, cur]

/-- What a form that leaves the rotation has done stands, but for what it took of streams. -/
theorem issue_leaves {i : Instr} {s t : State} {g : Guard} {len : Nat} {body : Act Next} {p : Pend} {cause : Nat}
    (runs : exec i s = issue g len body s) (holds : s.me.guardHolds g = true)
    (uncut : (s.cell (cellOf s.cur)).cutBegun = false) (acts : body s = .ok (.leave p cause, t)) (here : t.cur = s.cur) :
    ∃ u, exec i s = .next u ∧ u.me.run = .wait cause ∧ u.me.pend = p ∧ u.me.pc = t.me.pc ∧ u.me.regs = t.me.regs ∧
      u.mem = t.mem ∧ u.seq = t.seq ∧ u.sched = t.sched := by
  have kept : (t.unsettle s (.leave p cause)).me.withStreams t.me = t.me ∧ (t.unsettle s (.leave p cause)).mem = t.mem ∧
      (t.unsettle s (.leave p cause)).seq = t.seq ∧ (t.unsettle s (.leave p cause)).sched = t.sched := by
    rw [State.unsettle]
    split
    · have me := t.slot_modSlot t.cur fun sl => sl.unsettle (s.slot s.cur) (Next.leave p cause).again
      rw [here] at me
      have mine : t.me = t.slot s.cur := congrArg t.slot here
      refine ⟨?_, rfl, rfl, rfl⟩
      rw [mine, State.me, State.modSlot_cur, here, me]
      exact Slot.unsettle_rest ..
    · exact ⟨rfl, rfl, rfl, rfl⟩
  obtain ⟨me, mem, seq, sched⟩ := kept
  have ran := runs.trans (issue_through g len body s t (.leave p cause) holds acts (.inr uncut))
  generalize t.unsettle s (.leave p cause) = u at *
  have left := u.retire_me len (.leave p cause)
  have pc := congrArg Slot.pc me
  have regs := congrArg Slot.regs me
  refine ⟨_, ran, ?_, ?_, ?_, ?_, (u.retire_mem ..).trans mem, (u.retire_seq ..).trans seq, (u.retire_sched ..).trans sched⟩
  · rw [left]; rfl
  · rw [left]; rfl
  · rw [left]; exact pc
  · rw [left]; exact regs

/-! ### `txsub` and `txsubf` (R273, R274) -/

section
variable {s s1 : State} {g : Guard} {a b d : Reg} {x : Submission}

theorem txsub_waits (holds : s.me.guardHolds g = true) (ha : s.me.plain a = true)
    (uncut : (s.cell (cellOf s.cur)).cutBegun = false) (free : s.me.freelance = true)
    (read : readTransaction false (s.me.g a) s = .ok (.sub x, s1)) (here : s1.cur = s.cur)
    (room : s1.seq.waiting.length < 64) : ∃ t, exec (.txsub g a) s = .next t ∧ t.me.run = .wait wMem ∧ t.me.pend = .plain ∧
      t.me.pc = s1.me.pc ∧ t.seq.waiting = s1.seq.waiting ++ [x] ∧ t.me.regs = s1.me.regs ∧ t.mem = s1.mem := by
  obtain ⟨t, next, run, pend, pc, regs, mem, seq, -⟩ := issue_leaves
    (t := s1.modSeq fun q => { q with waiting := q.waiting ++ [x] })
    (show exec (.txsub g a) s = execTxsub g a s from rfl) holds uncut (by
      rw [Act.bind_ok (readG_plain s a ha),
        Act.bind_ok (allowedIn_ok (fun _ => Slot.notRole_of_freelance free) fun _ => Slot.notHandler_of_freelance free),
        Act.bind_ok read]
      dsimp only
      rw [Act.bind_ok (t := s1) (a := s1) rfl, if_neg (by omega)]
      rfl) here
  exact ⟨t, next, run, pend, pc, congrArg Sequencer.waiting seq, regs, mem⟩

theorem txsubf_waits {num r : Nat} {y : Txn} (holds : s.me.guardHolds g = true) (ha : s.me.plain a = true)
    (uncut : (s.cell (cellOf s.cur)).cutBegun = false) (work : s.me.work = .role num r) (may : s.mayFollow num = true)
    (here : s1.cur = s.cur) (read : readTransaction true (s.me.g a) s = .ok (.sub x, s1)) (found : s1.txn num = some y)
    (dispatched : y.stage = .dispatched) (room : s1.deferredHere < 64) :
    ∃ t, exec (.txsubf g a) s = .next t ∧ t.me.run = .wait wMem ∧ t.me.pend = .plain ∧ t.me.pc = s1.me.pc ∧
      t.txn num = some { y with queue := y.queue ++ [(r, .follow x)], soundingDone := true } := by
  let deferred := s1.modTxn num (Txn.deferring r (.follow x))
  let sounded := deferred.modTxn num fun y => { y with soundingDone := true }
  have first : deferred.txn num = some { y with queue := y.queue ++ [(r, .follow x)] } := by
    rw [State.txn_deferring found, Txn.deferring, if_neg (by simp [dispatched])]
  have second : sounded.txn num = some { y with queue := y.queue ++ [(r, .follow x)], soundingDone := true } :=
    State.txn_modTxn first (fun _ => rfl) fun _ => id
  obtain ⟨t, next, run, pend, pc, -, -, seq, -⟩ := issue_leaves (t := sounded.answer seqChan s1.cur .done)
    (show exec (.txsubf g a) s = execTxsubf g a s from rfl) holds uncut (by
      rw [Act.bind_ok (readG_plain s a ha),
        Act.bind_ok (allowedIn_ok (te := false) (sm := true) nofun fun _ n => by simp [work]),
        Act.bind_ok (t := s) (a := s) rfl, Act.bind_ok (myRole_role work)]
      dsimp only
      rw [may, Act.bind_ok (t := s) (a := ()) rfl, Act.bind_ok read]
      dsimp only
      rw [Act.bind_ok (defer_ok room)]
      rfl) ((State.answer_cur ..).trans here)
  have me : (sounded.answer seqChan s1.cur .done).me = s1.me := by
    rw [State.me, State.slot, State.answer_slots, State.answer_cur]
    rfl
  rw [me] at pc
  refine ⟨t, next, run, pend, pc, ?_⟩
  rw [State.txn, seq, (State.SentOn.answer ..).seq]
  exact second

/-! ### `txwd` and `txq` (R276, R277) -/

theorem destReady_plain (hd : s.me.plain d = true) : destReady d s = .ok ((), s) := by
  simp only [destReady, writeG_plain s d 0 hd]

theorem txwd_asks (holds : s.me.guardHolds g = true) (ha : s.me.plain a = true) (hb : s.me.plain b = true)
    (hd : s.me.plain d = true) (uncut : (s.cell (cellOf s.cur)).cutBegun = false) (free : s.me.freelance = true) :
    ∃ t, exec (.txwd g b a d) s = .next t ∧ t.me.run = .wait wMem ∧ t.me.pend = .txwd d [] 0 ∧ t.me.pc = s.me.pc ∧
      t.me.regs = s.me.regs ∧ t.mem = s.mem ∧ ∃ f ∈ t.sched.flight, f.cls = clsLock ∧ f.parcel =
        .step (.sequencerWithdrawal s.cur ((s.me.g a).truncate 32) ((s.me.g b).truncate 32) s.me.ctx)
          (s.cell (cellOf s.cur)).fixNo := by
  obtain ⟨t, next, run, pend, pc, regs, mem, -, sched⟩ := issue_leaves (t := s.send clsLock (slotChan s.cur) seqChan
      (.step (.sequencerWithdrawal s.cur ((s.me.g a).truncate 32) ((s.me.g b).truncate 32) s.me.ctx) (s.cell (cellOf s.cur)).fixNo))
    (show exec (.txwd g b a d) s = execTxwd g b a d s from rfl) holds uncut (by
      rw [Act.bind_ok (readG_plain s a ha), Act.bind_ok (readG_plain s b hb),
        Act.bind_ok (allowedIn_ok (sm := false) (fun _ => Slot.notRole_of_freelance free) nofun),
        Act.bind_ok (destReady_plain hd)]
      rfl) rfl
  refine ⟨t, next, run, pend, pc, regs, mem, ?_⟩
  rw [sched]
  exact State.send_flies ..

theorem txq_asks (holds : s.me.guardHolds g = true) (ha : s.me.plain a = true) (hd : s.me.plain d = true)
    (uncut : (s.cell (cellOf s.cur)).cutBegun = false) (taken : s.cur ≠ noSlot) :
    ∃ t, exec (.txq g a d) s = .next t ∧ t.me.run = .wait wMem ∧ t.me.pend = .word d ∧ t.me.pc = s.me.pc ∧
      t.me.regs = s.me.regs ∧ t.mem = s.mem ∧ t.answers s.cur (.value (s.txState (s.me.g a))) 0 := by
  obtain ⟨t, next, run, pend, pc, regs, mem, -, sched⟩ := issue_leaves
    (t := s.answer seqChan s.cur (.value (s.txState (s.me.g a))))
    (show exec (.txq g a d) s = execTxq g a d s from rfl) holds uncut (by
      rw [Act.bind_ok (readG_plain s a ha), Act.bind_ok (destReady_plain hd)]
      rfl) (State.answer_cur ..)
  have me : (s.answer seqChan s.cur (.value (s.txState (s.me.g a)))).me = s.me := by
    rw [State.me, State.slot, State.answer_slots, State.answer_cur]
    rfl
  rw [me] at pc regs
  refine ⟨t, next, run, pend, pc, regs, mem.trans (State.SentOn.answer ..).mem, ?_⟩
  rw [State.answers, sched]
  exact State.answer_answers _ _ _ _ taken

/-! ### `txend` and `txnum` (R275) -/

/-- The end of a role ends its slot's work and changes no other slot (R113). -/
theorem State.endRole_seat {num r : Nat} (work : s.me.work = .role num r) :
    (State.endRole s.cur s).seat = (s.modSlot s.cur fun sl => { sl with ending := true }).seat := by
  have left : (s.exitSlot s.cur).seat = (s.modSlot s.cur fun sl => { sl with ending := true }).seat := by
    rw [State.exitSlot, State.sinkBy]
    split <;> rfl
  have role : (s.slot s.cur).work = .role num r := work
  rw [State.endRole, role]
  dsimp only
  split
  · split
    · exact (State.commit_seat ..).trans left
    · exact left
  · exact left

theorem txend_ends {num r : Nat} (holds : s.me.guardHolds g = true) (work : s.me.work = .role num r) :
    ∃ t, exec (.txend g) s = .next t ∧ t.me.ending = true ∧ t.me.regs = s.me.regs := by
  have me : (State.endRole s.cur s).me = { s.me with ending := true } :=
    (State.me_of_seat (State.endRole_seat work)).trans (s.slot_modSlot ..)
  refine ⟨_, issue_ok g (formLen g) _ s (State.endRole s.cur s) .stay holds ?_ (.inl rfl) rfl, ?_, ?_⟩
  · rw [Act.bind_ok (myRole_role work)]
    rfl
  all_goals rw [State.retire_me, me]
  · rfl
  · rfl

theorem txnum_gives (holds : s.me.guardHolds g = true) (hd : s.me.plain d = true) :
    Does (.txnum g d) s (formLen g) fun sl => sl.setG d (match s.me.work with | .role n _ => natW n | _ => BitVec.allOnes 64) := by
  refine does_of_body (show exec (.txnum g d) s = execTxnum g d s from rfl) holds ?_ fun sl => by simp
  cases work : s.me.work with
  | role num r =>
    rw [Act.bind_ok (myRole_role work)]
    exact Act.bind_ok (writeG_plain s d _ hd)
  | _ =>
    rw [Act.bind_ok (myRole_none (by simp [work]))]
    exact Act.bind_ok (writeG_plain s d _ hd)

end

theorem transactionFormsDo : Claim.TransactionForms := by
  intro s s1 g a b d x num r holds ha hb hd uncut _ waits
  refine ⟨?txsub, ?txsubf, txend_ends holds, txnum_gives holds hd, ?txwd, ?txq⟩
  case txsub => exact fun free read here room => txsub_waits holds ha uncut free read here room
  case txsubf =>
    intro work _ may here read y found ⟨dispatched, room⟩
    obtain ⟨t, next, run, pend, pc, queued⟩ := txsubf_waits holds ha uncut work may here read found dispatched room
    exact ⟨t, next, run, pend, pc, _, queued, rfl, rfl⟩
  case txwd =>
    rintro free rfl
    exact txwd_asks holds ha hb hd uncut free
  case txq =>
    rintro rfl taken
    exact txq_asks holds ha hd uncut taken

end Sys2Proof.Machine

/-! PROOFS. A form in the wrong place (R112, R272): it traps with *transaction effect*, which voids a role's transaction. -/

namespace Sys2Proof.Machine

/-! ### The void of a transaction (R115) -/

/-- The sequencer and the bytes of memory. -/
def State.books (s : State) : Sequencer × List Host.Cell := (s.seq, s.mem)

theorem State.SentOn.books {s t : State} (h : s.SentOn t) : t.books = s.books := congrArg₂ Prod.mk h.seq h.mem

theorem State.releaseGran_books (s : State) (num : Nat) (x : Gran) : (s.releaseGran num x).books = s.books := by
  rw [State.releaseGran]
  split <;> rfl

/-- The transaction that a role's trap has voided. -/
def Txn.voided (v : Verdict) (at_ : Nat) (y : Txn) : Txn :=
  { y with stage := .void, verdict := some v, queue := [], pushes := [], voidAt := at_ }

/-- A transaction that becomes a void, but not for a set miss, changes of the sequencer only its own entry. -/
theorem State.voidTxn_books {s : State} {num : Nat} {v : Verdict} {y : Txn} (found : s.txn num = some y)
    (running : y.stage = .numbered ∨ y.stage = .dispatched) (noMiss : v.status ≠ 3) :
    (s.voidTxn num v).books = (s.modTxn num (Txn.voided v (s.cycle + 1))).books := by
  have released (gs : List Gran) (u : State) : (gs.foldl (fun s x => State.releaseGran s num x) u).books = u.books :=
    State.foldl_keeps State.books (fun u x => u.releaseGran_books num x) gs u
  have ended (rs : List RoleSlot) (u : State) :
      (rs.foldl (fun s r => if r.ended then s else State.endWork s r.slot) u).books = u.books :=
    State.foldl_keeps State.books (fun u r => by split <;> rfl) rs u
  rw [State.voidTxn, found]
  dsimp only
  rw [if_pos running, State.restart, if_pos noMiss, released, (State.SentOn.tellVoid ..).books]
  exact ended ..

theorem State.voidTxn_txn {s : State} {num : Nat} {v : Verdict} {y : Txn} (found : s.txn num = some y)
    (running : y.stage = .numbered ∨ y.stage = .dispatched) (noMiss : v.status ≠ 3) :
    (s.voidTxn num v).txn num = some (y.voided v (s.cycle + 1)) ∧ (s.voidTxn num v).mem = s.mem := by
  obtain ⟨seq, mem⟩ := Prod.mk.inj (State.voidTxn_books found running noMiss)
  refine ⟨?_, mem⟩
  rw [State.txn, seq]
  exact State.txn_modTxn found (fun _ => rfl) fun _ _ => nofun

/-- A trap in a role voids its transaction with the trap's cause (R118, R293). -/
theorem State.stopped_role {s : State} {num r c : Nat} {v : Word} {y : Txn} (work : s.me.work = .role num r)
    (found : s.txn num = some y) (running : y.stage = .numbered ∨ y.stage = .dispatched) (noMiss : c ≠ 19) :
    ∃ t z, s.stopped (.trap c v) = .next t ∧ t.txn num = some z ∧ z.stage = .void ∧ z.queue = [] ∧
      z.verdict = some ⟨5, c, r, (s.me.issues + if s.me.counted then 0 else 1).toNat⟩ ∧ t.mem = s.mem := by
  have me : s.countIssue.slot s.cur = s.me.count := s.slot_modSlot s.cur Slot.count
  have issues : s.me.count.issues = s.me.issues + if s.me.counted then 0 else 1 := by
    rw [Slot.count]
    dsimp only
    split <;> simp
  have entered : s.countIssue.trapEntry s.cur c v =
      s.countIssue.voidTxn num ⟨5, c, r, (s.me.issues + if s.me.counted then 0 else 1).toNat⟩ := by
    have role : s.me.count.work = .role num r := work
    rw [State.trapEntry, me, role, ← issues]
    dsimp only
    rw [if_neg noMiss]
  have found : s.countIssue.txn num = some y := found
  obtain ⟨voided, mem⟩ := State.voidTxn_txn (v := ⟨5, c, r, (s.me.issues + if s.me.counted then 0 else 1).toNat⟩) found
    running (show (5 : Nat) ≠ 3 by decide)
  exact ⟨_, _, congrArg Host.Outcome.next entered, voided, rfl, rfl, rfl, mem⟩

/-! ### Forms that a role does not run (R112, R272) -/

section
variable {s : State} {g : Guard} {a b d : Reg} {n : BitVec 8} {num r : Nat}

theorem allowedIn_role {sm : Bool} (work : s.me.work = .role num r) :
    allowedIn true sm s = .error (.trap cTxnEffect 0) := by
  rw [allowedIn, Act.bind_ok (t := s) (a := s.me) rfl, work]
  rfl

/-- In a role each of these forms stops at *transaction effect*, once it has read its operands. -/
theorem role_stops (holds : s.me.guardHolds g = true) (ha : s.me.plain a = true) (hb : s.me.plain b = true)
    (work : s.me.work = .role num r) (priv : s.privOf s.cur = true) {i : Instr}
    (barred : i ∈ ([.txsub g a, .txwd g b a d, .taskwd g a, .bar g n d, .fix g d] : List Instr)) :
    exec i s = s.stopped (.trap cTxnEffect 0) := by
  have barrier {sm : Bool} {β : Type} {f : Unit → Act β} : (allowedIn true sm >>= f) s = .error (.trap cTxnEffect 0) :=
    Act.bind_error (allowedIn_role work)
  simp only [List.mem_cons, List.not_mem_nil, or_false] at barred
  rcases barred with rfl | rfl | rfl | rfl | rfl
  case inl =>
    refine issue_stop g (formLen g) _ s _ holds ?_
    rw [Act.bind_ok (readG_plain s a ha)]
    exact barrier
  case inr.inl =>
    refine issue_stop g (formLen g) _ s _ holds ?_
    rw [Act.bind_ok (readG_plain s a ha), Act.bind_ok (readG_plain s b hb)]
    exact barrier
  case inr.inr.inl =>
    refine issue_stop g (formLen g) _ s _ holds ?_
    rw [Act.bind_ok (readG_plain s a ha)]
    exact barrier
  case inr.inr.inr.inl => exact issue_stop g (formLen g) _ s _ holds barrier
  case inr.inr.inr.inr =>
    refine issue_stop g (formLen g) _ s _ holds ?_
    rw [Act.bind_ok (t := s) (a := s) rfl, priv, Act.bind_ok (t := s) (a := ()) rfl]
    exact barrier

theorem State.vectored_free (vectored : s.vectored = true) : s.me.freelance = true := by
  simp only [State.vectored, Bool.and_eq_true] at vectored
  exact vectored.1.1

theorem txend_outside (holds : s.me.guardHolds g = true) (vectored : s.vectored = true) : Traps (.txend g) s cTxnEffect 0 := by
  refine traps_of vectored (issue_stop g (formLen g) _ s (.trap cTxnEffect 0) holds ?_)
  rw [Act.bind_ok (myRole_none (Slot.notRole_of_freelance (State.vectored_free vectored)))]
  rfl

theorem txsubf_outside (holds : s.me.guardHolds g = true) (ha : s.me.plain a = true) (vectored : s.vectored = true) :
    Traps (.txsubf g a) s cTxnEffect 0 := by
  have free := State.vectored_free vectored
  refine traps_of vectored (issue_stop g (formLen g) _ s (.trap cTxnEffect 0) holds ?_)
  rw [Act.bind_ok (readG_plain s a ha),
    Act.bind_ok (allowedIn_ok (te := false) nofun fun _ => Slot.notHandler_of_freelance free), Act.bind_ok (t := s) (a := s) rfl,
    Act.bind_ok (myRole_none (Slot.notRole_of_freelance free))]
  rfl

end

theorem transactionEffects : Claim.TransactionEffects := by
  intro s g a b d n holds ha hb _
  refine ⟨fun vectored => ⟨txend_outside holds vectored, txsubf_outside holds ha vectored⟩, ?_⟩
  intro num r x work found dispatched _ priv i barred
  rw [role_stops holds ha hb work priv barred]
  exact State.stopped_role work found (.inr dispatched) (by decide)

/-- Settles O28: a record in own near memory is read doubleword by doubleword, each form is its action up to where it leaves the
rotation (`issue_leaves`), and a trap in a role is a void (`State.stopped_role`). -/
theorem transactionForms : Obligations.TransactionForms := ⟨recordRead, transactionFormsDo, transactionEffects⟩

end Sys2Proof.Machine

/-! PROOFS. Integer results at the width of a form are operations on bit vectors (R190, R192, R194, R198). -/

namespace Sys2Proof.Machine

theorem wdBits_bounds (w : Wd) : 0 < wdBits w ∧ wdBits w ≤ 64 := by cases w <;> decide

/-- An operation at the width of a form, said alike for both widths. -/
theorem atWidth_eq (w : Wd) (f : (n : Nat) → BitVec n → BitVec n → BitVec n) (x y : Word) :
    atWidth w f x y = (f (wdBits w) (x.truncate (wdBits w)) (y.truncate (wdBits w))).signExtend 64 := by
  cases w <;> simp [atWidth, wdBits]

theorem sOf_eq (w : Wd) (x : Word) : sOf w x = (x.truncate (wdBits w) : BitVec (wdBits w)).toInt :=
  sextN_eq (wdBits_bounds w).1 x

theorem uOf_eq (w : Wd) (x : Word) : uOf w x = (x.truncate (wdBits w) : BitVec (wdBits w)).toNat := by
  simp [uOf]

/-- A shift count is the same in the operand and in its low half. -/
theorem shOf_eq (w : Wd) (y : Word) : shOf w y = (y.truncate (wdBits w) : BitVec (wdBits w)).toNat % wdBits w := by
  cases w <;> simp [shOf, wdBits]

/-- A result is its value modulo the width, sign-extended. -/
theorem res_eq (w : Wd) (v : Int) : res w v = (BitVec.ofInt (wdBits w) v).signExtend 64 := by
  have pattern : (v % (2 ^ wdBits w : Nat)).toNat = (BitVec.ofInt (wdBits w) v).toNat := by simp [BitVec.toNat_ofInt]
  rw [res, sextTrunc, pattern, signedOf_toNat (wdBits_bounds w).1]
  rfl

/-- A result that is an operation on bit vectors. -/
theorem res_atWidth {w : Wd} {f : (n : Nat) → BitVec n → BitVec n → BitVec n} {x y : Word} {v : Int}
    (h : BitVec.ofInt (wdBits w) v = f (wdBits w) (x.truncate (wdBits w)) (y.truncate (wdBits w))) :
    res w v = atWidth w f x y := by
  rw [res_eq, atWidth_eq, h]

theorem aluAdd_eq (w : Wd) (x y : Word) : aluAdd w x y = atWidth w (fun _ p q => p + q) x y :=
  res_atWidth (by simp only [sOf_eq, BitVec.ofInt_add, BitVec.ofInt_toInt])

theorem aluSub_eq (w : Wd) (x y : Word) : aluSub w x y = atWidth w (fun _ p q => p - q) x y :=
  res_atWidth (by
    simp only [sOf_eq, Int.sub_eq_add_neg, BitVec.ofInt_add, BitVec.ofInt_neg, BitVec.ofInt_toInt, BitVec.sub_eq_add_neg])

theorem aluMul_eq (w : Wd) (x y : Word) : aluMul w x y = atWidth w (fun _ p q => p * q) x y :=
  res_atWidth (by simp only [sOf_eq, BitVec.ofInt_mul, BitVec.ofInt_toInt])

theorem aluShl_eq (w : Wd) (x y : Word) : aluShl w x y = atWidth w (fun n p q => p <<< (q.toNat % n)) x y :=
  res_atWidth (by
    rw [uOf_eq, shOf_eq, BitVec.ofInt_natCast]
    exact BitVec.eq_of_toNat_eq (by simp [Nat.shiftLeft_eq]))

theorem aluShr_eq (w : Wd) (x y : Word) : aluShr w x y = atWidth w (fun n p q => p >>> (q.toNat % n)) x y :=
  res_atWidth (by
    rw [uOf_eq, shOf_eq, BitVec.ofInt_natCast]
    refine BitVec.eq_of_toNat_eq ?_
    rw [BitVec.toNat_ofNat, BitVec.toNat_ushiftRight, Nat.shiftRight_eq_div_pow]
    exact Nat.mod_eq_of_lt (Nat.lt_of_le_of_lt (Nat.div_le_self ..) (BitVec.isLt _)))

/-- A condition looks at the low bits of its operands. -/
theorem ccHolds_congr (c : Cc) {n : Nat} {x y p q : Word} (hx : x.toNat % 2 ^ n = p.toNat % 2 ^ n)
    (hy : y.toNat % 2 ^ n = q.toNat % 2 ^ n) : ccHolds c n x y = ccHolds c n p q := by
  cases c <;> simp only [ccHolds, signedOf, hx, hy] <;> rfl

theorem ccHolds_width (c : Cc) (w : Wd) (x y : Word) : ccHolds c (wdBits w) x y = ccAt c w x y := by
  have low (z : Word) : z.toNat % 2 ^ wdBits w = (natW (z.truncate (wdBits w) : BitVec (wdBits w)).toNat).toNat % 2 ^ wdBits w := by
    cases w <;> simp [natW, wdBits]
  rw [ccHolds_congr c (low x) (low y), ccHolds_eq (wdBits_bounds w).1 (wdBits_bounds w).2]
  cases w <;> simp [ccAt, wdBits]

theorem sext_word (x : Word) : wordOfInt (sextN x (wxBits .w)) = (x.truncate 32 : W32).signExtend 64 :=
  congrArg wordOfInt (sextN_eq (by decide) x)

theorem zext_word (x : Word) : natW (zextN x (wxBits .w)) = (x.truncate 32 : W32).zeroExtend 64 :=
  BitVec.eq_of_toNat_eq (by simp [natW, zextN, wxBits])

end Sys2Proof.Machine

/-! PROOFS. The checks of a store (R213 to R215, R218) change nothing, and those of a store to own near memory are its address, its
world and its alignment (R73). -/

namespace Sys2Proof.Machine

/-! ### Actions that change nothing -/

/-- An action that changes nothing where it goes on. -/
def Act.keeps {α : Type} (a : Act α) : Prop := ∀ s v t, a s = .ok (v, t) → t = s

theorem Act.keeps_pure {α : Type} (v : α) : Act.keeps (pure v) := fun _ _ _ h => (congrArg Prod.snd (Except.ok.inj h)).symm

theorem Act.keeps_stop {α : Type} (x : Stop) : Act.keeps (stop x : Act α) := fun _ _ _ h => nomatch h

theorem Act.keeps_get : Act.keeps (get : Act State) := fun _ _ _ h => (congrArg Prod.snd (Except.ok.inj h)).symm

theorem Act.keeps.bind {α β : Type} {a : Act α} {f : α → Act β} (ha : a.keeps) (hf : ∀ v, (f v).keeps) :
    Act.keeps (a >>= f) := by
  intro s w u h
  cases first : a s with
  | error e => exact nomatch (Act.bind_error (f := f) first).symm.trans h
  | ok r =>
    obtain ⟨v, t⟩ := r
    have after := (Act.bind_ok (f := f) first).symm.trans h
    rw [hf v t w u after, ha s v t first]

theorem Act.keeps_trapIf (b : Bool) (c : Nat) (v : Word) : Act.keeps (trapIf b c v) := by
  cases b
  · exact Act.keeps_pure ()
  · exact Act.keeps_stop _

/-- A check that goes on leaves what follows it. -/
theorem ok_of_check {α : Type} {c : Prop} [Decidable c] {e : Stop} {x : Except Stop α} {r : α}
    (h : (if c then .error e else x) = .ok r) : x = .ok r := by
  split at h
  · exact nomatch h
  · exact h

theorem state_of_ok {α : Type} {x y : α} {s t : State} (h : (Except.ok (x, s) : Except Stop (α × State)) = .ok (y, t)) : t = s :=
  (congrArg Prod.snd (Except.ok.inj h)).symm

theorem Act.keeps.of_ite {α : Type} {a : Act α} (ha : a.keeps) {c : Prop} [Decidable c] {s t : State} {v w : α}
    (h : (if c then a s else .ok (v, s)) = .ok (w, t)) : t = s := by
  split at h
  · exact ha s w t h
  · exact state_of_ok h

theorem leafFor_keeps (va : Word) (page kind : Nat) : (leafFor va page kind).keeps := by
  intro s l t h
  simp only [leafFor] at h
  split at h
  · exact nomatch h
  · split at h
    · exact state_of_ok h
    · exact nomatch h

/-- An access that is checked changes nothing: what it lacks stops it. -/
theorem accessTo_keeps (a : Word) (n kind : Nat) (elem : Option Bool) : (accessTo a n kind elem).keeps := by
  intro s v t h
  replace h := ok_of_check h
  split at h
  · split at h
    · exact nomatch h
    · exact state_of_ok (ok_of_check h)
  · split at h
    · exact nomatch h
    · next first =>
      have begun := leafFor_keeps _ _ _ _ _ _ first
      dsimp only at h
      split at h
      · exact nomatch h
      · next last u second =>
        have here : u = s := ((leafFor_keeps _ _ _).of_ite second).trans begun
        split at h
        · exact nomatch h
        · exact nomatch h
        · exact (state_of_ok (ok_of_check (ok_of_check (ok_of_check h)))).trans here

theorem txnCheck_keeps (x : Target) (write : Bool) : (txnCheck x write).keeps := by
  intro s v t h
  simp only [txnCheck] at h
  split at h
  · replace h := ok_of_check h
    split at h
    · exact state_of_ok (ok_of_check h)
    · exact state_of_ok h
  · exact state_of_ok h

theorem writeReady_keeps (x : Target) : (writeReady x).keeps :=
  fun _ _ _ h => state_of_ok (ok_of_check (ok_of_check h))

/-- The checks of a store change nothing. -/
theorem storeCheck_keeps (raw stream : Bool) (a : Word) (n : Nat) (v : Word) : (storeCheck raw stream a n v).keeps := by
  refine (accessTo_keeps a n 1 none).bind fun x => Act.keeps_get.bind fun s => ?_
  split
  · exact (Act.keeps_trapIf _ _ _).bind fun _ => (writeReady_keeps x).bind fun _ => Act.keeps_pure _
  · extract_lets low finish format
    have finished (bytes : List Byte) : (finish bytes).keeps :=
      (Act.keeps_trapIf _ _ _).bind fun _ => (txnCheck_keeps x true).bind fun _ => (writeReady_keeps x).bind fun _ =>
        Act.keeps_pure _
    have formatted (u : Unit) : (format u).keeps := by
      dsimp only [format]
      split
      · exact (Act.keeps_pure _).bind finished
      · split
        · exact (Act.keeps_stop _).bind finished
        · exact (Act.keeps_trapIf _ _ _).bind fun _ => (Act.keeps_pure _).bind finished
    split
    · split
      · exact (Act.keeps_trapIf _ _ _).bind fun _ => (Act.keeps_trapIf _ _ _).bind formatted
      · exact formatted ()
    · exact formatted ()

/-! ### A store to own near memory (R73, R213 to R215) -/

/-- What the near window names is no HBM, in whatever cell. -/
theorem State.worldFails_near {s : State} {cell a n p : Nat} {secure : Bool} (here : nearLocal cell a n = some p)
    (open_ : secure = true ∨ s.part.secureCells = []) : s.worldFails secure none [p] = false := by
  rcases open_ with rfl | none_
  · rfl
  · have above : vaultBase ≤ p := by
      simp only [nearLocal] at here
      split at here
      · exact (Nat.le_of_ble_eq_true rfl : vaultBase ≤ tileBase).trans (by injection here; omega)
      · split at here
        · injection here
          omega
        · exact nomatch here
    have notHbm : placeOf p ≠ .hbm := by
      simp only [placeOf, vaultBase] at above ⊢
      rw [if_neg (by omega)]
      repeat' split
      all_goals exact nofun
    cases place : placeOf p <;> simp_all [State.worldFails]

section
variable {s : State} {a : Word} {n kind p : Nat} {elem : Option Bool}

/-- Addresses that are not canonical are bad, before all else (R214, R215). -/
theorem accessTo_bad (bad : (canonical a.toNat && canonical (a + natW (n - 1)).toNat) = false) :
    accessTo a n kind elem s = .error (.trap cBadAddress a) :=
  if_pos (by rw [← Bool.not_and]; exact congrArg not bad)

variable (whole : (canonical a.toNat && canonical (a + natW (n - 1)).toNat) = true) (near : isNear a.toNat = true)
include whole near

/-- Addresses of the near window's range are those of a window or none (R73). -/
theorem accessTo_window : accessTo a n kind elem s = match nearLocal (cellOf s.cur) a.toNat n with
    | none => .error (.trap cNearRange a)
    | some p => if s.worldFails (s.secureOf s.cur) none [p] then .error (.trap cWorld a)
      else .ok (⟨a, addrsFrom p n, s.link.pod.k, none, 0⟩, s) := by
  have good : ¬(!canonical a.toNat || !canonical (a + BitVec.ofNat 64 (n - 1)).toNat) = true := by
    rw [← Bool.not_and]
    exact Bool.eq_false_iff.1 (congrArg not whole)
  exact (if_neg good).trans (if_pos near)

theorem accessTo_outside (outside : nearLocal (cellOf s.cur) a.toNat n = none) :
    accessTo a n kind elem s = .error (.trap cNearRange a) := by
  rw [accessTo_window whole near, outside]

theorem accessTo_inside (here : nearLocal (cellOf s.cur) a.toNat n = some p)
    (open_ : s.secureOf s.cur = true ∨ s.part.secureCells = []) :
    accessTo a n kind elem s = .ok (⟨a, addrsFrom p n, s.link.pod.k, none, 0⟩, s) := by
  rw [accessTo_window whole near, here]
  simp only [State.worldFails_near here open_]
  rfl

end

/-- No fix wanted, no copy to be made. -/
theorem State.needsCopy_unwanted {s : State} (none_ : s.fix.want = 0) (count u : Nat) : s.needsCopy count u = false := by
  simp [State.needsCopy, State.cutOf, none_]

theorem State.poolStops_unwanted {s : State} (none_ : s.fix.want = 0) (count : Nat) (as : List Nat) :
    s.poolStops count as = false := by
  simp [State.poolStops, State.needsCopy_unwanted none_]

section
variable {s : State} {a : Word} {n p : Nat} {raw stream : Bool} {v : Word}
  (reached : accessTo a n 1 none s = .ok (⟨a, addrsFrom p n, s.link.pod.k, none, 0⟩, s))
include reached

theorem storeCheck_misaligned (odd : a.toNat % n ≠ 0) : storeCheck raw stream a n v s = .error (.trap cMisaligned a) := by
  rw [storeCheck, Act.bind_ok reached, Act.bind_ok (t := s) (a := s) rfl]
  exact Act.bind_error (by rw [bne_iff_ne.2 odd]; rfl)

/-- A store to own near memory takes the low bytes of its value. -/
theorem storeCheck_near (aligned : a.toNat % n = 0) (unwanted : s.fix.want = 0) :
    storeCheck raw stream a n v s = .ok ((⟨a, addrsFrom p n, s.link.pod.k, none, 0⟩, leBytes n v.toNat), s) := by
  have even : trapIf (a.toNat % n != 0) cMisaligned a s = .ok ((), s) := by rw [aligned]; rfl
  have ready : writeReady ⟨a, addrsFrom p n, s.link.pod.k, none, 0⟩ s = .ok ((), s) :=
    if_neg fun h => Bool.false_ne_true ((State.poolStops_unwanted unwanted _ _).symm.trans h.2)
  rw [storeCheck, Act.bind_ok reached, Act.bind_ok (t := s) (a := s) rfl]
  exact (Act.bind_ok even).trans (Act.bind_ok ready)

end

/-- Bytes give back the value that they were made of, as far as they reach. -/
theorem leNat_leBytes (n : Nat) : ∀ v, leNat (leBytes n v) = v % 2 ^ (8 * n) := by
  induction n with
  | zero => intro v; simp [leBytes, leNat, Nat.mod_one]
  | succ n ih =>
    intro v
    rw [leBytes, leNat, ih, BitVec.toNat_ofNat, show 2 ^ (8 * (n + 1)) = 2 ^ 8 * 2 ^ (8 * n) by rw [← Nat.pow_add]; congr 1; omega,
      Nat.mod_mul]
    rfl

end Sys2Proof.Machine

/-! PROOFS. Registers in stream mode (R142, R143, R189): what a form does with operands and a result that may stop, what a read
takes of its stream, and what a write pushes. -/

namespace Sys2Proof.Machine

/-! ### Operands and results that may stop (R142, R143, R189) -/

/-- What an instruction does with an action of its own that stops: a trap or the wait for memory is the instruction's. -/
def StopsWith {α : Type} (i : Instr) (s : State) (r : Except Stop α) : Prop :=
  (∀ cause value, r = .error (.trap cause value) → s.vectored = true → Traps i s cause value) ∧
    (r = .error (.wait wMem []) → Waits i s wMem)

/-- What an instruction does with the write of its result: it completes where the write does, and stops as the write stops. -/
def CompletesWith (i : Instr) (s : State) (len : Nat) (r : Except Stop (Unit × State)) : Prop :=
  ∀ t, (r = .ok ((), t) → exec i s = .next (t.retire len .seq)) ∧ StopsWith i s r

section
variable {i : Instr} {s : State} {g : Guard} {len : Nat} {body : Act Next} (runs : exec i s = issue g len body s)
  (holds : s.me.guardHolds g = true)
include runs holds

/-- An instruction stops where an action that its own begins with stops. -/
theorem stopsWith_of {α : Type} {r : Except Stop α} (acts : ∀ e, r = .error e → body s = .error e) : StopsWith i s r :=
  ⟨fun _ _ stopped vectored => traps_of vectored (runs.trans (issue_stop g len body s _ holds (acts _ stopped))),
    fun stopped => waits_of runs holds (acts _ stopped)⟩

/-- A form that has come to the write of its result completes with it, or stops as that write stops. -/
theorem writes_result {d : Reg} {v : Word} {u : State}
    (acts : body s = (do writeG d v; pure Next.seq : Act Next) u) : CompletesWith i s len (writeG d v u) := by
  refine fun t => ⟨fun wrote => ?_, stopsWith_of runs holds fun e stopped => acts.trans (Act.bind_error stopped)⟩
  exact runs.trans (issue_ok g len body s t .seq holds (acts.trans (Act.bind_ok wrote)) (.inl rfl) rfl)

end

section
variable {s s1 s2 : State} {g : Guard} {w : Wd} {b : Opnd 5} {o : Opnd 14} {a d : Reg} {p : PredIx} {x y : Word} {i : Instr}
  (holds : s.me.guardHolds g = true) (first : readG a s = .ok (x, s1))
include holds first

/-- A form of one operand, which may be an element of a stream. -/
theorem unOp_streams {f : Word → Word} {v : Word} (runs : exec i s = unOp g a d f s) (value : f x = v) :
    CompletesWith i s (formLen g) (writeG d v s1) :=
  writes_result runs holds ((Act.bind_ok first).trans (by rw [value]))

/-- A form of an operand and an immediate. -/
theorem immOp_streams {f : Word → Word → Word} {v : Word} (runs : exec i s = immOp g o a d f s) (value : f x (imm o) = v) :
    CompletesWith i s (opLen g o) (writeG d v s1) :=
  writes_result runs holds ((Act.bind_ok first).trans (by rw [value]))

variable (second : readOpnd b s1 = .ok (y, s2))
include second

/-- A form of two operands, read in the order A, then B. -/
theorem binOp_streams {f : Word → Word → Word} {v : Word} (runs : exec i s = binOp g b a d f s) (value : f x y = v) :
    CompletesWith i s (opLen g b) (writeG d v s2) :=
  writes_result runs holds ((Act.bind_ok first).trans ((Act.bind_ok second).trans (by rw [value])))

/-- A compare of two operands. -/
theorem cmpOp_streams {f : Word → Word → Bool} {v : Bool} (runs : exec i s = cmpOp g b a p f s) (value : f x y = v) :
    exec i s = .next ((s2.modSlot s2.cur fun sl => sl.setP p v).retire (opLen g b) .seq) := by
  refine runs.trans (issue_ok g _ _ s _ .seq holds ((Act.bind_ok first).trans ((Act.bind_ok second).trans ?_)) (.inl rfl) rfl)
  rw [← value]
  rfl

end

theorem streamOperands : Claim.StreamOperands := by
  intro s s1 s2 s3 g w b i a d p c x y holds v stops
  refine ⟨fun first => ⟨?_, fun second => ⟨?_, cmpOp_streams holds first second rfl (ccHolds_width c w x y)⟩⟩, ?_⟩
  · have immediate : imm i = v := by cases i <;> rfl
    have runs {e : Instr} {f : Word → Word → Word} (h : exec e s = immOp g i a d f s) :=
      immOp_streams (d := d) holds first h (congrArg (f x) immediate) s3
    have extension {e : Instr} {f : Word → Word} {z : Word} (h : exec e s = unOp g a d f s) (value : f x = z) :=
      unOp_streams (d := d) holds first h value s3
    simp only [List.forall_mem_cons, List.not_mem_nil, false_imp_iff, implies_true, and_true]
    exact ⟨runs rfl, runs rfl, runs rfl, runs rfl, extension rfl (sext_word x), extension rfl (zext_word x)⟩
  · have runs {e : Instr} {f : Word → Word → Word} {z : Word} (h : exec e s = binOp g b a d f s) (value : f x y = z) :=
      binOp_streams (d := d) holds first second h value s3
    simp only [List.forall_mem_cons, List.not_mem_nil, false_imp_iff, implies_true, and_true]
    exact ⟨runs rfl (aluAdd_eq w x y), runs rfl (aluSub_eq w x y), runs rfl rfl, runs rfl rfl, runs rfl rfl, runs rfl rfl,
      runs rfl rfl, runs rfl (aluShl_eq w x y), runs rfl (aluShr_eq w x y), runs rfl (aluMul_eq w x y)⟩
  · have runs {e : Instr} {len : Nat} {f : Word → Act Next} (h : exec e s = issue g len (readG a >>= f) s) :
        StopsWith e s (readG a s) := stopsWith_of h holds fun _ => Act.bind_error
    simp only [List.forall_mem_cons, List.not_mem_nil, false_imp_iff, implies_true, and_true]
    exact ⟨runs rfl, runs rfl, runs rfl, runs rfl, runs rfl⟩

/-! ### Reads of a register in stream mode (R142) -/

/-- A read of a register in stream mode takes from its stream. -/
theorem readG_stream {s : State} {i : Fin 8} {r : Reg} (index : streamIx r = some i) (mapped : s.me.streams[i].mapped = true) :
    readG r s = takeElem r i s.me.streams[i] s := by
  have mapped : (s.slot s.cur).streams[i].mapped = true := mapped
  rw [readG, Act.bind_ok (t := s) (a := s.me) rfl]
  simp only [index, mapped, if_true]

/-- Where its stream is not to be read, *stream misuse* comes before all else. -/
theorem takeElem_misuse {s : State} {r : Reg} {i : Fin 8} {x : Stream} (writes : x.writes = true) :
    takeElem r i x s = .error (.trap cStreamMisuse (r.zeroExtend 64)) := by
  rw [takeElem, Act.bind_error (e := .trap cStreamMisuse (regNum r)) (by rw [writes]; rfl)]
  rfl

theorem streamReads : Claim.StreamReads := by
  intro s i r index mapped x
  rw [readG_stream index mapped]
  refine ⟨takeElem_misuse, fun reads => ?_⟩
  have allowed : trapIf x.writes cStreamMisuse (regNum r) s = .ok ((), s) := by rw [reads]; rfl
  rw [takeElem, Act.bind_ok allowed]
  refine ⟨fun v rest buf => ?_, fun c v rest buf => ?_, fun buf more => ?_, fun buf past => ?_⟩
  · simp only [show s.me.streams[i].buf = .val v :: rest from buf]
    rfl
  · simp only [show s.me.streams[i].buf = .mark c v :: rest from buf]
    rfl
  · simp only [show s.me.streams[i].buf = [] from buf]
    rw [if_neg (Nat.not_le.2 more)]
    rfl
  · simp only [show s.me.streams[i].buf = [] from buf]
    rw [if_pos past, show x.buf = [] from buf]
    rfl

/-! ### Writes of a register in stream mode (R143) -/

section
variable {s : State} {i : Fin 8} {r : Reg} {v : Word} (index : streamIx r = some i)
  (mapped : s.me.streams[i].mapped = true)
include index mapped

theorem writeG_stream : writeG r v s = (do
    trapIf (!s.me.streams[i].writes) cStreamMisuse (regNum r)
    pushElem i s.me.streams[i] v : Act Unit) s := by
  have mapped : (s.slot s.cur).streams[i].mapped = true := mapped
  rw [writeG, Act.bind_ok (t := s) (a := s.me) rfl]
  simp only [index, mapped, if_true]

theorem writeG_misuse (reads : s.me.streams[i].writes = false) :
    writeG r v s = .error (.trap cStreamMisuse (r.zeroExtend 64)) := by
  rw [writeG_stream index mapped, Act.bind_error (e := .trap cStreamMisuse (regNum r)) (by rw [reads]; rfl)]
  rfl

theorem writeG_pushes (writes : s.me.streams[i].writes = true) : writeG r v s = pushElem i s.me.streams[i] v s := by
  rw [writeG_stream index mapped]
  exact Act.bind_ok (by rw [writes]; rfl)

end

/-- The state whose issuing slot has an element more behind the others of its stream. -/
def State.withPush (s : State) (i : Fin 8) (x : Stream) (e : SElem) : State :=
  s.modSlot s.cur fun sl => sl.setStream i { x with buf := x.buf ++ [e], pos := x.pos + 1 }

/-- What a push does once its store has been checked: a lost word stops it, and else it puts its element (R85). -/
def pushChecked (i : Fin 8) (x : Stream) (s : State) (r : Target × List Byte) : Act Unit := do
  if r.1.part = s.link.pod.k then match s.lostWord r.1.addrs with
    | some a => trap cOwnerLost (natW a)
    | none => pure ()
  modMe fun sl => sl.setStream i
    { x with buf := x.buf ++ [.push r.1.va r.1.addrs r.1.part r.1.leaf (natW (leNat r.2))], pos := x.pos + 1 }

section
variable {s : State} {i : Fin 8} {x : Stream} {v : Word}

/-- Log 19. -/
theorem pushElem_past (past : x.total ≤ x.pos) : pushElem i x v s = .ok ((), s) := by
  rw [pushElem, if_pos past]
  rfl

variable (more : x.pos < x.total)
include more

theorem pushElem_waits (full : 64 ≤ x.buf.length ∨ (s.cell (cellOf s.cur)).cutBegun = true) :
    pushElem i x v s = .error (.wait wMem []) := by
  rw [pushElem, if_neg (Nat.not_le.2 more), Act.bind_ok (t := s) (a := s) rfl]
  simp only [if_pos full]
  rfl

variable (room : x.buf.length < 64) (uncut : (s.cell (cellOf s.cur)).cutBegun = false)
include room uncut

theorem pushElem_checks :
    pushElem i x v s = (storeCheck (!x.dec) true (x.addr x.pos) x.bytes v >>= pushChecked i x s) s := by
  have free : ¬(64 ≤ x.buf.length ∨ (s.cell (cellOf s.cur)).cutBegun = true) := by simp [uncut]; omega
  rw [pushElem, if_neg (Nat.not_le.2 more), Act.bind_ok (t := s) (a := s) rfl]
  simp only [if_neg free]
  rfl

theorem pushElem_stops {e : Stop} (stops : storeCheck (!x.dec) true (x.addr x.pos) x.bytes v s = .error e) :
    pushElem i x v s = .error e := by
  rw [pushElem_checks more room uncut, Act.bind_error stops]

variable {t : Target} {bs : List Byte} {s1 : State}
  (checked : storeCheck (!x.dec) true (x.addr x.pos) x.bytes v s = .ok ((t, bs), s1))
include checked

theorem pushElem_pushes (own : t.part ≠ s1.link.pod.k ∨ s1.lostWord t.addrs = none) :
    pushElem i x v s = .ok ((), s1.withPush i x (.push t.va t.addrs t.part t.leaf (natW (leNat bs)))) := by
  obtain rfl := storeCheck_keeps _ _ _ _ _ _ _ _ checked
  rw [pushElem_checks more room uncut, Act.bind_ok checked, pushChecked]
  rcases own with other | kept
  · rw [if_neg other]
    rfl
  · rw [kept]
    split <;> rfl

theorem pushElem_lost {w : Nat} (own : t.part = s1.link.pod.k) (lost : s1.lostWord t.addrs = some w) :
    pushElem i x v s = .error (.trap cOwnerLost (natW w)) := by
  obtain rfl := storeCheck_keeps _ _ _ _ _ _ _ _ checked
  rw [pushElem_checks more room uncut, Act.bind_ok checked, pushChecked, if_pos own, lost]
  rfl

end

theorem streamWrites : Claim.StreamWrites := by
  intro s s1 i r v t bs e p index mapped x a n k pushed
  refine ⟨writeG_misuse index mapped, fun writes past => ?_, fun writes more => ?_⟩
  · exact (writeG_pushes index mapped writes).trans (pushElem_past past)
  rw [writeG_pushes index mapped writes]
  refine ⟨pushElem_waits more, fun room uncut => ?_⟩
  have stops {e : Stop} := pushElem_stops (i := i) (v := v) more room uncut (e := e)
  refine ⟨stops, fun checked => ⟨?_, fun w => ?_⟩, fun bad => ?_, fun whole near => ⟨fun outside => ?_, fun here open_ => ?_⟩⟩
  · exact pushElem_pushes more room uncut checked
  · exact pushElem_lost more room uncut checked
  · exact stops (Act.bind_error (accessTo_bad bad))
  · exact stops (Act.bind_error (accessTo_outside whole near outside))
  · have reached := accessTo_inside (kind := 1) (elem := none) whole near here open_
    refine ⟨fun odd => stops (storeCheck_misaligned reached odd), fun aligned unwanted kept => ?_⟩
    have pushes := pushElem_pushes (i := i) (v := v) more room uncut (storeCheck_near reached aligned unwanted) (.inr kept)
    rw [leNat_leBytes] at pushes
    exact pushes

/-- Settles O6: forms read their operands in order and stop where one stops (`stopsWith_of`, `writes_result`), a read takes
from its stream (`takeElem`), and a push is its store's checks and then one element more (`pushElem_checks`). -/
theorem streamRegisters : Obligations.StreamRegisters := ⟨streamOperands, streamReads, streamWrites⟩

end Sys2Proof.Machine

/-! PROOFS. Stream traffic (R141, R143): the refill of a read stream from own near memory, element by element, and the drain of a
push to it. -/

namespace Sys2Proof.Machine

/-! ### One element -/

/-- A range in a window of the near window has canonical ends (R73, R214). -/
theorem canonical_window {cell n p : Nat} {a : Word} (here : nearLocal cell a.toNat n = some p) (some_ : 0 < n)
    (near : isNear a.toNat = true) : (canonical a.toNat && canonical (a + natW (n - 1)).toNat) = true := by
  have start : nearWindow ≤ a.toNat := by
    simp only [isNear, Bool.and_eq_true, decide_eq_true_eq] at near
    exact near.1
  have bound := nearLocal_bound here start
  have small := nearLocal_lt here start
  have last : (a + natW (n - 1)).toNat = a.toNat + (n - 1) := by
    rw [BitVec.toNat_add, natW, BitVec.toNat_ofNat]
    omega
  rw [last, canonical_near start (by omega), canonical_near (by omega) (by omega)]
  rfl

/-- What lies in the cell's own tile store or vault its near port serves (R221). -/
theorem serverOf_own {part cell p n off : Nat} {va : Word} (some_ : 0 < n) (place : placeOf p = .tile cell ∨ placeOf p = .vault cell) :
    serverOf part cell ⟨va, addrsFrom p n, part, none, off⟩ = .near := by
  obtain ⟨m, rfl⟩ := Nat.exists_eq_succ_of_ne_zero some_.ne'
  rcases place with place | place <;> simp [serverOf, addrsFrom_succ, place]

section
variable {s : State} {a : Word} {n p : Nat} (calm : s.NearCalm) (here : nearLocal (cellOf s.cur) a.toNat n = some p)
  (some_ : 0 < n)
include calm here some_

theorem loadCheck_own {stream : Bool} (near : isNear a.toNat = true) (aligned : a.toNat % n = 0) :
    loadCheck true stream a n true s = .ok ((⟨a, addrsFrom p n, s.link.pod.k, none, 0⟩, .zext, []), s) := by
  have reached := accessTo_inside (kind := 0) (elem := none) (canonical_window here some_ near) near here (.inr calm.secureCells)
  have even : trapIf (a.toNat % n != 0) cMisaligned a s = .ok ((), s) := by rw [aligned]; rfl
  refine (Act.bind_ok reached).trans ?_
  rw [Act.bind_ok (t := s) (a := s) rfl]
  exact Act.bind_ok even

theorem loadFrom_own (who budget : Nat) : loadFrom who .none budget ⟨a, addrsFrom p n, s.link.pod.k, none, 0⟩ [] s =
    .ok (.now (leNat ((addrsFrom p n).map s.byte)) 0, s) := by
  have server := serverOf_own (part := s.link.pod.k) (va := a) (off := 0) some_ (placeOf_nearLocal here some_ (cellOf_lt calm.slot))
  have unscaled : s.scaleCell (cellOf s.cur) s.link.pod.k [] = none := by simp [State.scaleCell]
  rw [loadFrom, Act.bind_ok (t := s) (a := ()) rfl, Act.bind_ok (t := s) (a := s) rfl]
  simp only [server, unscaled]
  rw [Act.bind_ok (calm.readNear _)]
  rfl

end

/-- An element in own near memory is read as its bytes stand (R141). -/
theorem readElem_own {s : State} {k : Nat} {i : Fin 8} {x : Stream} {p : Nat} (calm : s.NearCalm) (raw : x.dec = false)
    (near : isNear (x.addr (x.pos + x.buf.length)).toNat = true) (aligned : (x.addr (x.pos + x.buf.length)).toNat % x.bytes = 0)
    (here : nearLocal (cellOf s.cur) (x.addr (x.pos + x.buf.length)).toNat x.bytes = some p) :
    readElem k i x s = .ok (.here (.val (natW (leNat ((addrsFrom p x.bytes).map s.byte)))), s) := by
  have some_ : 0 < x.bytes := Nat.two_pow_pos _
  simp only [readElem, raw, Bool.not_false, Bool.true_or]
  rw [Act.bind_ok (loadCheck_own calm here some_ near aligned)]
  exact Act.bind_ok (loadFrom_own calm here some_ _ _)

/-! ### A refill (R141) -/

/-- Elements have come to the end of a stream's buffer, and of memory, the stream's position and the slot's registers nothing has
changed. -/
structure Refilled (s t : State) (k : Nat) (i : Fin 8) (es : List SElem) : Prop where
  mem : t.mem = s.mem
  buf : (t.slot k).streams[i].buf = (s.slot k).streams[i].buf ++ es
  pos : (t.slot k).streams[i].pos = (s.slot k).streams[i].pos
  regs : (t.slot k).regs = (s.slot k).regs

theorem Refilled.refl (s : State) (k : Nat) (i : Fin 8) : Refilled s s k i [] := ⟨rfl, (List.append_nil _).symm, rfl, rfl⟩

theorem Refilled.trans {s t u : State} {k : Nat} {i : Fin 8} {es fs : List SElem} (h : Refilled s t k i es)
    (h' : Refilled t u k i fs) : Refilled s u k i (es ++ fs) :=
  ⟨h'.mem.trans h.mem, by rw [h'.buf, h.buf, List.append_assoc], h'.pos.trans h.pos, h'.regs.trans h.regs⟩

/-- Elements that a refill may still bring: to the end of the buffer or of the stream. -/
def Stream.room (x : Stream) : Nat := min (64 - x.buf.length) (x.total - (x.pos + x.buf.length))

/-- Whether the youngest element of the buffer is here. -/
def Stream.noneComing (x : Stream) : Bool :=
  match x.buf.getLast? with
  | some (.coming ..) => false
  | _ => true

theorem Stream.noneComing_iff (x : Stream) : x.noneComing = true ↔ ∀ f as got, x.buf.getLast? ≠ some (.coming f as got) := by
  rw [Stream.noneComing]
  split
  · next last => exact ⟨fun h => (nomatch h), fun h => absurd last (h _ _ _)⟩
  · next other => exact ⟨fun _ => other, fun _ => rfl⟩

theorem Stream.wants_bool (x : Stream) : x.wants = (x.mapped && !x.writes && !x.blocked && x.noneComing &&
    decide (x.pos + x.buf.length < x.total) && (decide (x.buf.length ≤ 48) || (x.filling && decide (x.buf.length < 64)))) := rfl

/-- When the copy engine refills a stream (R141). -/
theorem Stream.wants_eq (x : Stream) : x.wants = true ↔ x.mapped = true ∧ x.writes = false ∧ x.blocked = false ∧
    (∀ f as got, x.buf.getLast? ≠ some (.coming f as got)) ∧ x.pos + x.buf.length < x.total ∧
    (x.buf.length ≤ 48 ∨ x.filling = true ∧ x.buf.length < 64) := by
  rw [← x.noneComing_iff, x.wants_bool]
  simp only [Bool.and_eq_true, Bool.or_eq_true, Bool.not_eq_true', decide_eq_true_eq, and_assoc]

/-- A read stream whose refill goes on until nothing more has room. -/
structure Stream.Refilling (x : Stream) : Prop where
  mapped : x.mapped = true
  reads : x.writes = false
  free : x.blocked = false
  here : ∀ f as got, x.buf.getLast? ≠ some (.coming f as got)
  goes : x.buf.length ≤ 48 ∨ x.filling = true ∨ 64 ≤ x.buf.length

theorem Stream.Refilling.of_wants {x : Stream} (h : x.wants = true) : x.Refilling := by
  obtain ⟨mapped, reads, free, here, -, goes⟩ := x.wants_eq.1 h
  exact ⟨mapped, reads, free, here, goes.imp_right fun g => .inl g.1⟩

theorem Stream.Refilling.wants_iff {x : Stream} (h : x.Refilling) : x.wants = true ↔ 0 < x.room := by
  obtain ⟨mapped, reads, free, here, goes⟩ := h
  rw [x.wants_eq, Stream.room, Nat.lt_min]
  constructor
  · rintro ⟨-, -, -, -, more, room⟩
    omega
  · rintro ⟨some_, more⟩
    refine ⟨mapped, reads, free, here, by omega, ?_⟩
    rcases goes with half | going | full
    · exact .inl half
    · exact .inr ⟨going, by omega⟩
    · omega

/-- The stream with one value more at the end of its buffer. -/
def Stream.withValue (x : Stream) (v : Word) : Stream :=
  { x with buf := x.buf ++ [.val v], blocked := false, filling := decide (x.buf.length < 63) }

theorem Stream.Refilling.withValue {x : Stream} (h : x.Refilling) (v : Word) : (x.withValue v).Refilling where
  mapped := h.mapped
  reads := h.reads
  free := rfl
  here := by simp [Stream.withValue]
  goes := by
    simp only [Stream.withValue, List.length_append, List.length_singleton, decide_eq_true_eq]
    omega

theorem Stream.withValue_room (x : Stream) (v : Word) : (x.withValue v).room = x.room - 1 := by
  simp only [Stream.room, Stream.withValue, Stream.total, Stream.count0, Stream.count1, Stream.count2, List.length_append,
    List.length_singleton]
  omega

/-- The j-th element to come lies at the local address p of cell k's near memory. -/
def Stream.liesAt (x : Stream) (k j p : Nat) : Prop :=
  (x.addr (x.pos + x.buf.length + j)).toNat % x.bytes = 0 ∧ isNear (x.addr (x.pos + x.buf.length + j)).toNat = true ∧
    nearLocal (cellOf k) (x.addr (x.pos + x.buf.length + j)).toNat x.bytes = some p

theorem Stream.withValue_liesAt {x : Stream} {k j p : Nat} (h : x.liesAt k (j + 1) p) (v : Word) :
    (x.withValue v).liesAt k j p := by
  have next : (x.withValue v).pos + (x.withValue v).buf.length + j = x.pos + x.buf.length + (j + 1) := by
    simp only [Stream.withValue, List.length_append, List.length_singleton]
    omega
  unfold Stream.liesAt
  rw [next]
  exact h

/-- A state in which the refill of a stream meets its own near memory only. -/
structure State.RefillCalm (s : State) (k : Nat) (i : Fin 8) (at_ : Nat → Nat) : Prop where
  calm : ({ s with cur := k } : State).NearCalm
  stream : (s.slot k).streams[i].Refilling
  raw : (s.slot k).streams[i].dec = false
  near : ∀ j, j < (s.slot k).streams[i].room → (s.slot k).streams[i].liesAt k j (at_ j)

/-- The value of the element at a local address. -/
def State.elemWord (s : State) (x : Stream) (p : Nat) : Word := natW (leNat ((addrsFrom p x.bytes).map s.byte))

/-- That element. -/
def State.elemValue (s : State) (x : Stream) (p : Nat) : SElem := .val (s.elemWord x p)

/-- A state with one value more in a stream of slot k, at whose step `cur` is that slot. -/
def State.pulled (s : State) (k : Nat) (i : Fin 8) (v : Word) : State :=
  ({ s with cur := k } : State).modSlot k fun sl => sl.setStream i (sl.streams[i].withValue v)

theorem State.pulled_slot (s : State) (k : Nat) (i : Fin 8) (v : Word) :
    (s.pulled k i v).slot k = (s.slot k).setStream i ((s.slot k).streams[i].withValue v) := State.slot_modSlot ..

@[simp] theorem Slot.setStream_self (sl : Slot) (i : Fin 8) (x : Stream) : (sl.setStream i x).streams[i] = x := by
  simp [Slot.setStream]

theorem State.pulled_refilled (s : State) (k : Nat) (i : Fin 8) (v : Word) : Refilled s (s.pulled k i v) k i [.val v] where
  mem := rfl
  buf := by rw [State.pulled_slot, Slot.setStream_self]; rfl
  pos := by rw [State.pulled_slot, Slot.setStream_self]; rfl
  regs := by rw [State.pulled_slot]; rfl

theorem State.RefillCalm.pulled {s : State} {k : Nat} {i : Fin 8} {at_ : Nat → Nat} (h : s.RefillCalm k i at_) (v : Word) :
    (s.pulled k i v).RefillCalm k i fun j => at_ (j + 1) := by
  have now : ((s.pulled k i v).slot k).streams[i] = (s.slot k).streams[i].withValue v := by
    rw [State.pulled_slot, Slot.setStream_self]
  refine ⟨⟨h.calm.slot, h.calm.soft, h.calm.poison, h.calm.copies, h.calm.secureCells⟩, ?_, ?_, ?_⟩
  · rw [now]; exact h.stream.withValue v
  · rw [now]; exact h.raw
  · rw [now, Stream.withValue_room]
    intro j hj
    exact Stream.withValue_liesAt (h.near (j + 1) (by omega)) v

/-- A refill takes an element that is here, and goes on. -/
theorem State.refill_value {s : State} {k : Nat} {i : Fin 8} {v : Word} (wants : (s.slot k).streams[i].wants = true)
    (read : readElem k i (s.slot k).streams[i] { s with cur := k } = .ok (.here (.val v), { s with cur := k })) (fuel : Nat) :
    s.refill k i (fuel + 1) = (s.pulled k i v).refill k i fuel := by
  simp only [State.refill, wants, read, Bool.not_true, Bool.false_eq_true, if_false]
  rfl

/-- A refill brings every element that has room, one after the other. -/
theorem State.refill_near (k : Nat) (i : Fin 8) : ∀ (n fuel : Nat) (s : State) (at_ : Nat → Nat), s.RefillCalm k i at_ →
    (s.slot k).streams[i].room = n → n ≤ fuel →
    ∃ t, s.refill k i fuel = .next t ∧
      Refilled s t k i ((List.range n).map fun j => s.elemValue (s.slot k).streams[i] (at_ j)) := by
  intro n
  induction n with
  | zero =>
    intro fuel s at_ h none_ _
    refine ⟨s, ?_, Refilled.refl s k i⟩
    have idle : (s.slot k).streams[i].wants = false := by
      have := h.stream.wants_iff
      rw [none_] at this
      simpa using this
    cases fuel with
    | zero => rfl
    | succ fuel => simp only [State.refill, idle]; rfl
  | succ n ih =>
    intro fuel s at_ h more enough
    obtain ⟨fuel, rfl⟩ := Nat.exists_eq_succ_of_ne_zero (show fuel ≠ 0 by omega)
    have wants := h.stream.wants_iff.2 (by omega)
    obtain ⟨aligned, near, here⟩ := h.near 0 (by omega)
    have step := State.refill_value wants (readElem_own (k := k) (i := i) h.calm h.raw near aligned here) fuel
    obtain ⟨t, ran, brings⟩ := ih fuel _ _ (h.pulled (s.elemWord (s.slot k).streams[i] (at_ 0))) (by
      rw [State.pulled_slot, Slot.setStream_self, Stream.withValue_room]; omega) (by omega)
    refine ⟨t, step.trans ran, ?_⟩
    have all := (s.pulled_refilled k i (s.elemWord (s.slot k).streams[i] (at_ 0))).trans brings
    rw [State.pulled_slot, Slot.setStream_self] at all
    rw [List.range_succ_eq_map, List.map_cons, List.map_map]
    exact all

/-- R141: a refill of own near memory fills the buffer, or comes to the end of the stream. -/
theorem streamRefill_near {s : State} {k : Nat} {i : Fin 8} {at_ : Nat → Nat} (unit : s.cur = k * 8 + i.val)
    (calm : ({ s with cur := k } : State).NearCalm) (wants : (s.slot k).streams[i].wants = true)
    (raw : (s.slot k).streams[i].dec = false)
    (near : ∀ j, j < (s.slot k).streams[i].room → (s.slot k).streams[i].liesAt k j (at_ j)) :
    ∃ t, exec .streamRefill s = .next t ∧
      Refilled s t k i ((List.range (s.slot k).streams[i].room).map fun j => s.elemValue (s.slot k).streams[i] (at_ j)) := by
  have slotNo : s.cur / 8 = k := by omega
  have streamNo : (⟨s.cur % 8, Nat.mod_lt _ (by decide)⟩ : Fin 8) = i := Fin.ext (by
    show s.cur % 8 = i.val
    omega)
  let s₀ := s.modSlot k fun sl => { sl with walkPoison := none }
  have same : s₀.slot k = { s.slot k with walkPoison := none } := State.slot_modSlot ..
  have streams : (s₀.slot k).streams = (s.slot k).streams := by rw [same]
  have begin_ : s₀.RefillCalm k i at_ := by
    refine ⟨⟨calm.slot, calm.soft, calm.poison, calm.copies, calm.secureCells⟩, ?_, ?_, ?_⟩ <;> rw [streams]
    · exact .of_wants wants
    · exact raw
    · exact near
  obtain ⟨t, ran, mem, buf, pos, regs⟩ := s₀.refill_near k i _ 64 at_ begin_ rfl (by simp only [Stream.room]; omega)
  refine ⟨t.modSlot k fun sl => { sl with walkPoison := (s.slot k).walkPoison }, ?_, mem, ?_, ?_, ?_⟩
  · show execStreamRefill s = _
    simp only [execStreamRefill, slotNo, streamNo]
    rw [show (s.modSlot k fun sl => { sl with walkPoison := none }).refill k i 64 = .next t from ran]
  · rw [State.slot_modSlot]
    exact buf.trans (by rw [streams]; rfl)
  · rw [State.slot_modSlot]
    exact pos.trans (by rw [streams])
  · rw [State.slot_modSlot]
    exact regs.trans (by rw [same])

/-! ### A drain (R143) -/

/-- Byte i of a value, little-endian. -/
theorem getD_leBytes : ∀ (n v i : Nat), i < n → (leBytes n v).getD i 0 = BitVec.ofNat 8 (v / 256 ^ i)
  | n + 1, v, 0, _ => by simp [leBytes]
  | n + 1, v, i + 1, h => by
    rw [leBytes, List.getD_cons_succ, getD_leBytes n (v / 256) i (by omega), Nat.div_div_eq_div_mul, Nat.pow_succ, Nat.mul_comm]

theorem byte_extractLsb (v : Word) (i : Nat) : BitVec.ofNat 8 (v.toNat / 256 ^ i) = v.extractLsb' (8 * i) 8 := by
  apply BitVec.eq_of_toNat_eq
  rw [BitVec.toNat_ofNat, BitVec.extractLsb'_toNat, Nat.shiftRight_eq_div_pow, Nat.pow_mul]

/-- The state after the bytes of a value have been stored in near memory. -/
def State.stored (s : State) (p n : Nat) (v : Word) : State := s.nearPut ((addrsFrom p n).zip (leBytes n v.toNat))

theorem State.stored_byte {s : State} (sound : s.sound) (p n : Nat) (v : Word) {j : Nat} (h : j < n) :
    (s.stored p n v).byte (p + j) = v.extractLsb' (8 * j) 8 := by
  have wrote := Memory.read_writes_at (leBytes n v.toNat) (a := p) (i := j) sound (by rwa [length_leBytes])
  rw [length_leBytes, getD_leBytes n _ j h, byte_extractLsb] at wrote
  exact wrote

theorem State.stored_byte_ne {s : State} (sound : s.sound) (p n : Nat) (v : Word) {q : Nat} (h : q < p ∨ p + n ≤ q) :
    (s.stored p n v).byte q = s.byte q := by
  refine s.putBytes_byte_ne _ q sound fun e he => ?_
  have bounds := mem_zip_addrsFrom (bs := leBytes n v.toNat) (a := p) (e := e) (by rwa [length_leBytes])
  rw [length_leBytes] at bounds
  omega

/-- Outside a fix a write at near memory goes to its bytes alone. -/
theorem State.nearWrite_plain {s : State} (want : s.fix.want = 0) (copies : s.fix.copies = []) (count : Nat)
    (bs : List (Nat × Byte)) : s.nearWrite count bs = s.nearPut bs := by
  rw [State.nearWrite, State.cow_none want, State.mirror_nil copies, List.append_nil]

/-- A push to own near memory is stored (R143, R221). -/
theorem storeTo_own {s : State} {n p : Nat} (some_ : 0 < n) (place : placeOf p = .tile (cellOf s.cur) ∨ placeOf p = .vault (cellOf s.cur))
    (want : s.fix.want = 0) (copies : s.fix.copies = []) (who : Nat) (h : Hint) (va v : Word) :
    storeTo who h ⟨va, addrsFrom p n, s.link.pod.k, none, 0⟩ (leBytes n v.toNat) s = .ok (.seq, (s.stored p n v).sinkBy s.cur) := by
  have server := serverOf_own (part := s.link.pod.k) (va := va) (off := 0) some_ place
  rw [storeTo, Act.bind_ok (t := s) (a := ()) rfl, Act.bind_ok (t := s) (a := s) rfl]
  simp only [server]
  exact congrArg (fun t : State => Except.ok (Next.seq, t.sinkBy s.cur)) (State.nearWrite_plain want copies _ _)

theorem State.sinkBy_byte (s : State) (k q : Nat) : (s.sinkBy k).byte q = s.byte q := by
  rw [State.sinkBy]
  split <;> rfl

theorem State.drained_slot (s : State) (p n : Nat) (v : Word) (k j : Nat) :
    (((({ s with cur := k } : State).stored p n v).sinkBy k).slot j) = s.slot j := by
  rw [State.sinkBy]
  split <;> rfl

/-- R143: a drain stores the oldest push of a stream of own near memory. -/
theorem streamDrain_near {s : State} {k : Nat} {i : Fin 8} {n p : Nat} {va v : Word} {rest : List SElem}
    (unit : s.cur = k * 8 + i.val) (slot : slotOk k = true) (want : s.fix.want = 0) (copies : s.fix.copies = [])
    (some_ : 0 < n) (place : placeOf p = .tile (cellOf k) ∨ placeOf p = .vault (cellOf k))
    (free : (s.slot k).streams[i].blocked = false)
    (oldest : (s.slot k).streams[i].buf = .push va (addrsFrom p n) s.link.pod.k none v :: rest) :
    exec .streamDrain s = .next (((({ s with cur := k } : State).stored p n v).sinkBy k).modSlot k fun sl =>
      sl.setStream i sl.streams[i].popped) := by
  have slotNo : s.cur / 8 = k := by omega
  have streamNo : (⟨s.cur % 8, Nat.mod_lt _ (by decide)⟩ : Fin 8) = i := Fin.ext (by
    show s.cur % 8 = i.val
    omega)
  have owned : ¬ orphanBase ≤ s.cur := by
    simp only [slotOk, decide_eq_true_eq, orphanBase] at slot ⊢
    omega
  have store := storeTo_own (s := { s with cur := k }) some_ place want copies (streamKey k i.val) .none va v
  have many : (addrsFrom p n).length = n := by simp [addrsFrom]
  show (if orphanBase ≤ s.cur then Host.Outcome.next _ else
    .next (s.drainPush (s.cur / 8) ⟨s.cur % 8, Nat.mod_lt _ (by decide)⟩)) = _
  rw [if_neg owned, slotNo, streamNo, State.drainPush]
  simp only [oldest, free, many]
  rw [store]
  rfl

/-! ### O21 -/

/-- Settles O21: a refill of own near memory brings one value at a time until nothing more has room (`State.refill_near`), and a
drain is the store of the oldest push (`streamDrain_near`). -/
theorem streamTraffic : Obligations.StreamTraffic := by
  unfold Obligations.StreamTraffic
  intro s k i p at_ unit slot sound soft poison copies want secureCells x n a
  refine ⟨fun wants raw near => ?_, fun va n v rest free _ some_ _ place oldest => ?_⟩
  · obtain ⟨t, ran, brings⟩ := streamRefill_near unit ⟨slot, soft, poison, copies, secureCells⟩ wants raw near
    exact ⟨t, ran, brings.mem, brings.buf, brings.pos, brings.regs⟩
  · refine ⟨_, streamDrain_near unit slot want copies some_ place free oldest, ?_, ?_, ?_, ?_⟩
    · rw [State.slot_modSlot, Slot.setStream_self, State.drained_slot, Stream.popped, oldest]
      rfl
    · exact fun j hj => (State.sinkBy_byte ..).trans (State.stored_byte (s := { s with cur := k }) sound p n v hj)
    · exact fun q hq => (State.sinkBy_byte ..).trans (State.stored_byte_ne (s := { s with cur := k }) sound p n v hq)
    · rw [State.slot_modSlot, State.drained_slot]
      rfl

end Sys2Proof.Machine

/-! PROOFS. The forms of the tile table (R124 to R127, R236, R237, R239). -/

namespace Sys2Proof.Machine

/-! ### What changes where a form changes its cell -/

theorem InCell.cur {s t : State} (h : InCell s t) : t.cur = s.cur := by rw [h.1]

theorem InCell.modMine (s : State) (f : Cell → Cell) : InCell s (s.modCell (cellOf s.cur) f) :=
  ⟨rfl, fun _ _ => rfl, fun _ hc => s.cell_modCell_ne f hc⟩

theorem InCell.modMe {s t : State} (h : InCell s t) (f : Slot → Slot) : InCell s (t.modSlot s.cur f) := by
  obtain ⟨rest, slots, cells⟩ := h
  refine ⟨?_, fun k hk => (t.slot_modSlot_ne f hk).trans (slots k hk), cells⟩
  rw [rest]
  rfl

/-- Retiring changes no cell but the issuing slot's. -/
theorem State.retire_cell_ne (s : State) (len : Nat) (n : Next) {c : Nat} (h : c ≠ cellOf s.cur) :
    (s.retire len n).cell c = s.cell c := by
  simp only [State.retire]
  split
  · exact State.cell_modCell_ne s (fun c => c.leaveQueues s.cur) h
  · rfl

theorem InCell.retire {s t : State} (h : InCell s t) (len : Nat) (n : Next) : InCell s (t.retire len n) := by
  have cur := h.cur
  obtain ⟨rest, slots, cells⟩ := h
  refine ⟨?_, fun k hk => (t.retire_slot_ne len n (cur ▸ hk)).trans (slots k hk),
    fun c hc => (t.retire_cell_ne len n (cur ▸ hc)).trans (cells c hc)⟩
  rw [t.retire_rest len n, rest]

/-- A form in sequence that changes its cell alone. -/
theorem issue_inCell {i : Instr} {s : State} {g : Guard} {len : Nat} {body : Act Next} {f : Cell → Cell}
    (runs : exec i s = issue g len body s) (holds : s.me.guardHolds g = true)
    (acts : body s = .ok (.seq, s.modCell (cellOf s.cur) f)) :
    ∃ t, exec i s = .next t ∧ InCell s t ∧ (∀ h, t.myTile h = (f (s.cell (cellOf s.cur))).tile h) ∧
      t.me.bare = s.me.bare ∧ t.me.run = .run ∧ PassedBy s t len := by
  let u := s.modCell (cellOf s.cur) f
  have me : (u.retire len .seq).me = _ := u.retire_me len .seq
  refine ⟨u.retire len .seq, runs.trans (issue_ok g len body s u .seq holds acts (.inl rfl) rfl), (InCell.modMine s f).retire len .seq,
    fun h => ?_, ?_, ?_, PassedBy.retire rfl len⟩
  · have cur : (u.retire len .seq).cur = s.cur := ((InCell.modMine s f).retire len .seq).cur
    have kept := congrArg (fun c : Cell => c.tile h) (u.retire_cell len .seq (cellOf s.cur))
    rw [State.myTile, cur]
    exact kept.trans (by rw [s.cell_modCell]; rfl)
  · rw [me, Slot.goOn_seq_bare]
    rfl
  · rw [me]
    rfl

/-- A form in sequence that changes nothing. -/
theorem does_nothing {i : Instr} {s : State} {g : Guard} {len : Nat} {body : Act Next} (runs : exec i s = issue g len body s)
    (holds : s.me.guardHolds g = true) (acts : body s = .ok (.seq, s)) : Does i s len id := by
  have me : (s.retire len .seq).me = ({ s.me with faultWait := none, walkPoison := none, latch := [] }.count).goOn len .seq :=
    s.retire_me len .seq
  refine ⟨s.retire len .seq, runs.trans (issue_ok g len body s s .seq holds acts (.inl rfl) rfl), ?_, ?_, ?_, ?_,
    s.retire_onlyMine len .seq, fun _ => by simp [State.byte]⟩
  · rw [me, Slot.goOn_seq_bare]
    rfl
  · rw [me]
    rfl
  · rw [me]
    simp [Slot.goOn, Slot.count]
  · rw [me, Slot.goOn_seq_loops]
    rfl

/-- A form that waits for an issue condition in a queue of its cell waits with nothing done (R146, R162). -/
theorem waits_inQueue {i : Instr} {s : State} {g : Guard} {len : Nat} {body : Act Next} {cause : Nat} {on : List (Bool × Nat)}
    (runs : exec i s = issue g len body s) (holds : s.me.guardHolds g = true) (acts : body s = .error (.wait cause on)) :
    Waits i s cause := by
  have queued {β : Type} (view : State → β) (h : ∀ (t : State) c f, view (t.modCell c f) = view t) :
      view (s.hold cause on) = view (s.hold cause []) := State.foldl_keeps view (fun t e => h t _ _) on _
  have slots := queued State.slots fun _ _ _ => rfl
  have cores := queued State.cores fun _ _ _ => rfl
  have mem := queued State.mem fun _ _ _ => rfl
  have cur := queued State.cur fun _ _ _ => rfl
  have slot (k : Nat) : (s.hold cause on).slot k = (s.hold cause []).slot k := by rw [State.slot, slots]; rfl
  refine ⟨s.hold cause on, runs.trans (issue_stop g len body s _ holds acts), ?_, mem, ?_, fun k hk => ?_⟩
  · rw [State.me, slot, cur, State.hold_alone, State.modCore_cur, State.modSlot_cur, State.modCore_slot, State.slot_modSlot]
  · rw [State.core, cores, ← State.core, State.hold_alone, State.core_modCore]
    rfl
  · rw [slot, State.hold_alone, State.modCore_slot, s.slot_modSlot_ne _ hk]

/-- Operands that can be read are read, and the checks come after. -/
theorem readLate_ok {α : Type} {s t : State} {read : Act α} {v : α} (reads : read s = .ok (v, t)) (checks : Act Unit) :
    readLate read checks s = .ok (v, t) := by rw [readLate, reads]

/-! ### Cells and tiles -/

/-- Tiles after a change of some. -/
theorem Cell.tile_setTiles (c : Cell) (hs : List Nat) (f : Tile → Tile) {h : Nat} (small : h < 64) :
    (c.setTiles hs f).tile h = if hs.contains h then f (c.tile h) else c.tile h := by
  simp only [Cell.tile, Cell.setTiles, small, dite_true, Vector.getElem_ofFn]
  rfl

theorem tilesReady_ok {s : State} {us : List (Nat × Use)}
    (ready : ∀ u ∈ us, (s.myTile u.1).may u.2 = true ∧ (s.cell (cellOf s.cur)).firstFor false u.1 s.cur = true) :
    tilesReady us s = .ok ((), s) := by
  have none_ : (us.filter fun u : Nat × Use =>
      !(((s.cell (cellOf s.cur)).tile u.1).may u.2 && (s.cell (cellOf s.cur)).firstFor false u.1 s.cur)) = [] := by
    refine List.filter_eq_nil_iff.2 fun u hu => ?_
    obtain ⟨may, first⟩ := ready u hu
    rw [State.myTile] at may
    simp [may, first]
  rw [tilesReady, Act.bind_ok (t := s) (a := s.cell (cellOf s.cur)) rfl, Act.bind_ok (t := s) (a := s.cur) rfl]
  simp only [none_]
  rfl

theorem needBound_ok {s : State} {hs : List Nat} (bound : ∀ h ∈ hs, (s.myTile h).v = true) : needBound hs s = .ok ((), s) := by
  have none_ : (hs.find? fun h => !((s.cell (cellOf s.cur)).tile h).v) = none := by
    refine List.find?_eq_none.2 fun h hh => ?_
    have v := bound h hh
    rw [State.myTile] at v
    simp [v]
  rw [needBound, Act.bind_ok (t := s) (a := s.cell (cellOf s.cur)) rfl]
  simp only [none_]
  rfl

theorem needBound_trap {s : State} {h : Nat} (unbound : (s.myTile h).v = false) :
    needBound [h] s = .error (.trap cBadTile (natW h)) := by
  rw [State.myTile] at unbound
  rw [needBound, Act.bind_ok (t := s) (a := s.cell (cellOf s.cur)) rfl]
  simp only [List.find?_cons, unbound]
  rfl

/-- Handles below 32 every work may name. -/
theorem tableRule_low (s : State) (binds : Bool) {h : Nat} (low : h < 32) : tableRule binds h s = .ok ((), s) := by
  rw [tableRule, if_neg (by omega)]
  rfl

/-- Handles that the issuing slot's transaction received; none outside a role. -/
def State.handles (s : State) : Option (List Nat) :=
  match s.me.work with
  | .role num _ => some (match s.txn num with | some y => recHandles y.sub.record | none => [])
  | _ => none

theorem myHandles_eq (s : State) : myHandles s = .ok (s.handles, s) := by
  rw [myHandles, Act.bind_ok (t := s) (a := s) rfl, State.handles]
  cases work : s.me.work with
  | role num r => exact Act.bind_ok (myRole_role work)
  | _ => exact Act.bind_ok (myRole_none fun _ _ h => by simp [work] at h)

theorem State.received_eq (s : State) (h : Nat) : s.received h = (s.handles.getD []).contains h := by
  rw [State.received, State.handles]
  cases s.me.work with
  | role num r => cases txn : s.txn num <;> simp [txn]
  | _ => rfl

theorem State.inRole_eq (s : State) : s.me.inRole = s.handles.isSome := by
  rw [Slot.inRole, State.handles]
  cases s.me.work <;> rfl

/-- Outside roles, and for a tile of the slot's own transaction, a form that binds nothing may name every handle. -/
theorem tableRule_ok {s : State} {h : Nat} (reads : h < 32 ∨ s.me.inRole = false ∨ s.received h = true) :
    tableRule false h s = .ok ((), s) := by
  by_cases low : h < 32
  · exact tableRule_low s false low
  rw [tableRule, if_pos (by omega), Act.bind_ok (myHandles_eq s)]
  rw [s.inRole_eq, s.received_eq] at reads
  cases hs : s.handles with
  | none => rfl
  | some hs' =>
    have mine : hs'.contains h = true := by simpa [low, hs] using reads
    simp only [mine]
    rfl

/-! ### The forms -/

/-- What a form leaves that changes the entry of one tile. -/
def Becomes (i : Instr) (s : State) (td : TileIx) (y : Tile) : Prop :=
  ∃ t, exec i s = .next t ∧ InCell s t ∧ t.myTile td.toNat = y ∧
    (∀ j : TileIx, j ≠ td → t.myTile j.toNat = s.myTile j.toNat) ∧ t.me.bare = s.me.bare ∧ t.me.run = .run ∧ PassedBy s t 12

theorem becomes_of {i : Instr} {s : State} {g : Guard} {body : Act Next} {td : TileIx} {f : Tile → Tile}
    (runs : exec i s = issue g 12 body s) (holds : s.me.guardHolds g = true)
    (acts : body s = .ok (.seq, s.modCell (cellOf s.cur) fun c => c.setTiles [td.toNat] f)) :
    Becomes i s td (f (s.myTile td.toNat)) := by
  obtain ⟨t, next, only, tiles, bare, run, passed⟩ := issue_inCell runs holds acts
  refine ⟨t, next, only, ?_, fun j hj => ?_, bare, run, passed⟩
  · rw [tiles, Cell.tile_setTiles _ _ _ td.isLt]
    simp [State.myTile]
  · have other : j.toNat ≠ td.toNat := fun h => hj (BitVec.eq_of_toNat_eq h)
    rw [tiles, Cell.tile_setTiles _ _ _ j.isLt]
    simp [State.myTile, other]

section
variable {s : State} {q : Pg} {td : TileIx} (holds : s.me.guardHolds (.pred q.sense q.pred) = true)

/-- A tile that no operation uses, and on which no other slot waits first, is ready for a form that changes its entry. -/
theorem tilesReady_one {h : Nat} {u : Use} (may : (s.myTile h).may u = true)
    (first : (s.cell (cellOf s.cur)).firstFor false h s.cur = true) : tilesReady [(h, u)] s = .ok ((), s) :=
  tilesReady_ok fun _ hu => List.mem_singleton.1 hu ▸ ⟨may, first⟩

include holds

theorem changeTile_becomes {i : Instr} {f : Tile → Tile} (runs : exec i s = changeTile q td f s) (low : td.toNat < 32)
    (bound : (s.myTile td.toNat).v = true) (may : (s.myTile td.toNat).may .dst = true)
    (first : (s.cell (cellOf s.cur)).firstFor false td.toNat s.cur = true) : Becomes i s td (f (s.myTile td.toNat)) := by
  refine becomes_of runs holds ?_
  rw [Act.bind_ok (tableRule_low s true low), Act.bind_ok (needBound_ok fun _ h => List.mem_singleton.1 h ▸ bound),
    Act.bind_ok (tilesReady_one may first)]
  rfl

theorem changeTile_unbound {i : Instr} {f : Tile → Tile} (runs : exec i s = changeTile q td f s) (low : td.toNat < 32)
    (unbound : (s.myTile td.toNat).v = false) (vectored : s.vectored = true) : Traps i s cBadTile (natW td.toNat) := by
  refine traps_of vectored (runs.trans (issue_stop _ _ _ s _ holds ?_))
  rw [Act.bind_ok (tableRule_low s true low)]
  exact Act.bind_error (needBound_trap unbound)

theorem tstate_reads {d : Reg} {dw : BitVec 2} (hd : s.me.plain d = true)
    (reads : td.toNat < 32 ∨ s.me.inRole = false ∨ s.received td.toNat = true) :
    Does (.tstate q dw d td) s 12 fun sl => sl.setG d ((s.myTile td.toNat).dword dw.toNat) := by
  refine does_of_body rfl holds ?_ fun _ => by simp
  rw [Act.bind_ok (tableRule_ok reads), Act.bind_ok (t := s) (a := s.cell (cellOf s.cur)) rfl]
  exact Act.bind_ok (writeG_plain s d _ hd)

theorem twait_ready (reads : td.toNat < 32 ∨ s.me.inRole = false ∨ s.received td.toNat = true)
    (bound : (s.myTile td.toNat).v = true) (ready : (s.myTile td.toNat).state = .ready)
    (first : (s.cell (cellOf s.cur)).firstFor false td.toNat s.cur = true) : Does (.twait q td) s 12 id := by
  refine does_nothing rfl holds ?_
  rw [Act.bind_ok (tableRule_ok reads), Act.bind_ok (needBound_ok fun _ h => List.mem_singleton.1 h ▸ bound),
    Act.bind_ok (t := s) (a := s.cell (cellOf s.cur)) rfl, Act.bind_ok (t := s) (a := s.cur) rfl,
    if_neg (by rw [State.myTile] at ready; simp [ready, first])]
  rfl

theorem twait_busy (reads : td.toNat < 32 ∨ s.me.inRole = false ∨ s.received td.toNat = true)
    (bound : (s.myTile td.toNat).v = true) (busy : (s.myTile td.toNat).state ≠ .ready) : Waits (.twait q td) s wTile := by
  refine waits_inQueue (on := [(false, td.toNat)]) rfl holds ?_
  rw [Act.bind_ok (tableRule_ok reads), Act.bind_ok (needBound_ok fun _ h => List.mem_singleton.1 h ▸ bound),
    Act.bind_ok (t := s) (a := s.cell (cellOf s.cur)) rfl, Act.bind_ok (t := s) (a := s.cur) rfl, if_pos (.inl busy)]
  rfl

theorem twait_unbound (low : td.toNat < 32) (unbound : (s.myTile td.toNat).v = false) (vectored : s.vectored = true) :
    Traps (.twait q td) s cBadTile (natW td.toNat) := by
  refine traps_of vectored (issue_stop _ _ _ s _ holds ?_)
  rw [Act.bind_ok (tableRule_low s false low)]
  exact Act.bind_error (needBound_trap unbound)

/-- R126 and R236: `tbind` of a place and a layout that R236 allows. -/
theorem tbind_binds {view : BitVec 2} {plane : Bool} {fmt : BitVec 4} {cols rows : BitVec 12} {a b : Reg}
    (ha : s.me.plain a = true) (hb : s.me.plain b = true) (low : td.toNat < 32) (zeros : slice (s.me.g b) 63 30 = 0)
    (someRows : rows ≠ 0) (someCols : cols ≠ 0) (views : view ≠ 3) (layout : layoutOk plane fmt.toNat cols.toNat = true)
    (fits : slice (s.me.g b) 12 0 * 256 + tileUnits plane fmt.toNat cols.toNat rows.toNat * 256 ≤ 0x100000)
    (free : (s.myTile td.toNat).v = true →
      (s.myTile td.toNat).may .dst = true ∧ (s.cell (cellOf s.cur)).firstFor false td.toNat s.cur = true) :
    Becomes (.tbind q view plane fmt cols rows b a td) s td
      ⟨.empty, true, plane, fmt.toNat, view.toNat, 0, cols.toNat, rows.toNat, slice (s.me.g b) 12 0, s.me.g a,
        slice (s.me.g b) 29 13, tileUnits plane fmt.toNat cols.toNat rows.toNat⟩ := by
  have kind : fmt.toNat ≤ 8 := by
    simp only [layoutOk, Bool.and_eq_true, decide_eq_true_eq] at layout
    exact layout.1.1
  have good : ((slice (s.me.g b) 63 30 != 0 ||
      decide (0x100000 < slice (s.me.g b) 12 0 * 256 + tileUnits plane fmt.toNat cols.toNat rows.toNat * 256)) ||
      (rows == 0 || cols == 0 || decide (9 ≤ fmt.toNat) || view == 3 || !layoutOk plane fmt.toNat cols.toNat)) = false := by
    have inside := Nat.not_lt.2 fits
    have known : ¬ 9 ≤ fmt.toNat := by omega
    rw [decide_eq_false inside, decide_eq_false known, layout, zeros,
      beq_eq_false_iff_ne.2 someRows, beq_eq_false_iff_ne.2 someCols, beq_eq_false_iff_ne.2 views]
    rfl
  refine becomes_of (f := fun _ => ⟨.empty, true, plane, fmt.toNat, view.toNat, 0, cols.toNat, rows.toNat,
    slice (s.me.g b) 12 0, s.me.g a, slice (s.me.g b) 29 13, tileUnits plane fmt.toNat cols.toNat rows.toNat⟩) rfl holds ?_
  have operands : (do
      let gva ← readG a
      let w ← readG b
      pure (gva, w) : Act (Word × Word)) s = .ok ((s.me.g a, s.me.g b), s) := by
    rw [Act.bind_ok (readG_plain s a ha), Act.bind_ok (readG_plain s b hb)]
    rfl
  rw [Act.bind_ok (readLate_ok operands _)]
  simp only [good]
  rw [Act.bind_ok (t := s) (a := ()) rfl, Act.bind_ok (tableRule_low s true low),
    Act.bind_ok (t := s) (a := s.cell (cellOf s.cur)) rfl]
  by_cases bound : ((s.cell (cellOf s.cur)).tile td.toNat).v = true
  · rw [if_pos bound, Act.bind_ok (tilesReady_one (free bound).1 (free bound).2)]
    rfl
  · rw [if_neg bound]
    rfl

end

/-- Settles O36: each form is its rule, its tile's issue condition and then one change of the cell or of a register. -/
theorem tileForms : Obligations.TileForms := by
  unfold Obligations.TileForms
  intro s q view plane fmt cols rows a b d dw td holds ha hb hd h x w size first reads becomes
  refine ⟨tbind_binds holds ha hb, fun low bound may free => ⟨?_, ?_, ?_⟩, tstate_reads holds hd,
    twait_ready holds, twait_busy holds, fun low unbound vectored => ⟨twait_unbound holds low unbound vectored, ?_, ?_, ?_⟩⟩
  · exact changeTile_becomes (f := fun t => { t with v := false }) holds rfl low bound may free
  · exact changeTile_becomes (f := fun t => { t with state := .ready }) holds rfl low bound may free
  · exact changeTile_becomes (f := fun t => { t with state := .empty }) holds rfl low bound may free
  · exact changeTile_unbound (f := fun t => { t with v := false }) holds rfl low unbound vectored
  · exact changeTile_unbound (f := fun t => { t with state := .ready }) holds rfl low unbound vectored
  · exact changeTile_unbound (f := fun t => { t with state := .empty }) holds rfl low unbound vectored

end Sys2Proof.Machine

/-! PROOFS. The steps of engines (R130 to R132, R138, R139, R242, R328): a command's start under its gate, the last strip of a fill
and the end of its operation, sub-lists at their owner and requester, and borders at a neighbour. -/

namespace Sys2Proof.Machine

/-! ### Engines, semaphores and tiles of a cell -/

@[simp] theorem Cell.engine_modEng (c : Cell) (e : Eng) (f : Engine → Engine) :
    (c.modEng (engIx e) f).engine e = f (c.engine e) := by
  simp [Cell.engine, Cell.modEng]

@[simp] theorem Cell.modEng_tiles (c : Cell) (i : Fin 5) (f : Engine → Engine) : (c.modEng i f).tiles = c.tiles := rfl

@[simp] theorem Cell.semOf_modEng (c : Cell) (i : Fin 5) (f : Engine → Engine) (n : BitVec 5) :
    (c.modEng i f).semOf n = c.semOf n := rfl

theorem Cell.semOf_setSem (c : Cell) (n : BitVec 5) (v : BitVec 16) : (c.setSem n v).semOf n = v := by
  simp [Cell.semOf, Cell.setSem]

theorem State.engine_sink (s : State) (c : Nat) (e : Eng) : ((s.sink c).cell c).engine e = (s.cell c).engine e := by
  rw [State.sink, State.cell_modCell]
  rfl

theorem State.tile_sink (s : State) (c h : Nat) : ((s.sink c).cell c).tile h = (s.cell c).tile h := by
  rw [State.sink, State.cell_modCell]
  rfl

theorem Cell.tile_congr {c d : Cell} (tiles : c.tiles = d.tiles) (h : Nat) : c.tile h = d.tile h := by
  rw [Cell.tile, Cell.tile, tiles]

/-! ### Start (R130, R131, R328) -/

section
variable {s : State} {c : Cmd} (idle : ((s.cell (s.cur / 5)).engine (engOf (s.cur % 5))).cur = none)
  (head : ((s.cell (s.cur / 5)).engine (engOf (s.cur % 5))).queue.head? = some c)
include idle head

/-- An idle engine has the head of its queue waiting. -/
theorem engine_waiting : ((s.cell (s.cur / 5)).engine (engOf (s.cur % 5))).waiting = some c := by
  rw [Engine.waiting, idle]
  exact head

theorem gateStall_open (holds : (s.cell (s.cur / 5)).gateHolds c.gate = true) : exec .gateStallCycle s = .next s := by
  show execGateStallCycle s = _
  simp only [execGateStallCycle, engine_waiting idle head, holds, if_true]

theorem gateStall_shut (shut : (s.cell (s.cur / 5)).gateHolds c.gate = false) :
    exec .gateStallCycle s = .next (s.modCell (s.cur / 5) fun y =>
      { y with stgate := y.stgate.set (engIx (engOf (s.cur % 5))) (y.stgate[engIx (engOf (s.cur % 5))] + 1)
                 (engIx (engOf (s.cur % 5))).isLt }) := by
  show execGateStallCycle s = _
  simp only [execGateStallCycle, engine_waiting idle head, shut]
  rfl

theorem commandStart_shut (shut : (s.cell (s.cur / 5)).gateHolds c.gate = false) : exec .engineCommandStart s = .next s := by
  show execEngineCommandStart s = _
  simp only [execEngineCommandStart, engine_waiting idle head, shut]
  rfl

/-- The state in which a gate's count has been taken. -/
def State.gateTaken (s : State) (cell : Nat) (g : Nat × Nat) : State :=
  if g.1 = 0 then s
  else (s.modCell cell fun c => c.setSem (BitVec.ofNat 5 g.2) (c.semOf (BitVec.ofNat 5 g.2) - BitVec.ofNat 16 g.1)).sink cell

theorem commandStart_open (holds : (s.cell (s.cur / 5)).gateHolds c.gate = true) :
    ∃ sched due, exec .engineCommandStart s = .next ((({ s.gateTaken (s.cur / 5) c.gate with sched := sched } : State)).modCell
      (s.cur / 5) fun y => y.modEng (engIx (engOf (s.cur % 5))) fun z =>
        { queue := z.queue.tail, cur := some { Running.start c with due := due } }) := by
  let p := (Job.mk (s.cur / 5) (engOf (s.cur % 5)) (Running.start c)).plan (s.gateTaken (s.cur / 5) c.gate)
  let u := s.gateTaken (s.cur / 5) c.gate
  let latency : Nat × State := if p.open_ then u.freeNat else (0, u)
  refine ⟨latency.2.sched, latency.2.cycle + if p.strip.isSome then 0 else p.time + latency.1, ?_⟩
  have only : latency.2 = { u with sched := latency.2.sched } := by
    show (if p.open_ then u.freeNat else (0, u)).2 = { u with sched := (if p.open_ then u.freeNat else (0, u)).2.sched }
    split <;> rfl
  show execEngineCommandStart s = _
  rw [show ({ s.gateTaken (s.cur / 5) c.gate with sched := latency.2.sched } : State) = latency.2 from only.symm]
  simp only [execEngineCommandStart, engine_waiting idle head, holds]
  rfl

end

theorem State.gateTaken_mem (s : State) (cell : Nat) (g : Nat × Nat) : (s.gateTaken cell g).mem = s.mem := by
  rw [State.gateTaken]
  split <;> rfl

theorem State.gateTaken_slots (s : State) (cell : Nat) (g : Nat × Nat) : (s.gateTaken cell g).slots = s.slots := by
  rw [State.gateTaken]
  split <;> rfl

theorem State.gateTaken_engine (s : State) (cell : Nat) (g : Nat × Nat) (e : Eng) :
    ((s.gateTaken cell g).cell cell).engine e = (s.cell cell).engine e := by
  rw [State.gateTaken]
  split
  · rfl
  · rw [State.sink, State.cell_modCell, State.cell_modCell]
    rfl

theorem State.gateTaken_sem (s : State) (cell : Nat) {g : Nat × Nat} (counts : g.1 ≠ 0) :
    ((s.gateTaken cell g).cell cell).semOf (BitVec.ofNat 5 g.2) =
      (s.cell cell).semOf (BitVec.ofNat 5 g.2) - BitVec.ofNat 16 g.1 := by
  rw [State.gateTaken, if_neg counts, State.sink, State.cell_modCell, State.cell_modCell]
  exact Cell.semOf_setSem ..

/-! ### A fill (R132, R136, R242) -/

/-- The command in progress of cell `cell`'s copy engine is r. -/
def State.copies (s : State) (cell : Nat) (r : Running) : Prop := ((s.cell cell).engine .copy).cur = some r

theorem State.copies.job {s : State} {cell : Nat} {r : Running} (h : s.copies cell r) :
    s.job (cell * 5) = some ⟨cell, .copy, r⟩ := by
  have unit : cell * 5 / 5 = cell ∧ cell * 5 % 5 = 0 := by omega
  rw [State.job, unit.1, unit.2]
  show ((s.cell cell).engine .copy).cur.map _ = _
  rw [show ((s.cell cell).engine .copy).cur = some r from h]
  rfl

theorem State.copies.modRun {s : State} {cell : Nat} {r r' : Running} (h : s.copies cell r) (f : Running → Running) :
    (s.modRun ⟨cell, .copy, r'⟩ f).copies cell (f r) := by
  show (((s.modCell cell _).cell cell).engine .copy).cur = _
  rw [State.cell_modCell, Cell.engine_modEng]
  show ((s.cell cell).engine .copy).cur.map f = _
  rw [show ((s.cell cell).engine .copy).cur = some r from h]
  rfl

/-- Outside a fix the tile store takes its bytes at once. -/
theorem storeWrite_plain {s : State} (want : s.fix.want = 0) (copies : s.fix.copies = []) (x : Job) (a : Nat) (bs : List Byte) :
    x.storeWrite a bs s = .ok ((), (s.nearPut ((addrsFrom a bs.length).zip bs)).sink x.cell) := by
  have pool (count : Nat) (as : List Nat) : s.poolStops count as = false := by
    simp [State.poolStops, State.needsCopy, State.cutOf, want]
  have free (va part : Nat) (as : List Nat) : x.poolRule va part as s = .ok ((), s) := by
    rw [Job.poolRule, Act.bind_ok (t := s) (a := s) rfl, if_neg (by simp [pool])]
    rfl
  rw [Job.storeWrite, Act.bind_ok (t := s) (a := s) rfl, Act.bind_ok (free _ _ _), ← State.nearWrite_plain want copies]
  rfl

/-- A command with no secure tile to reach is not barred (R365). -/
theorem tilesBarred_open {s : State} {x : Job} (world : x.r.cmd.secure = true ∨ s.part.secureCells = []) :
    s.tilesBarred x = false := by
  have place : placeOf (tileAddr x.cell 0) ≠ .hbm := by
    unfold placeOf
    rw [if_neg (by simp only [tileAddr, tileBase]; omega)]
    split_ifs <;> exact fun h => nomatch h
  have open_ : s.worldFails x.r.cmd.secure none [tileAddr x.cell 0] = false := by
    rcases world with secure | none_
    · simp [State.worldFails, secure]
    · simp only [State.worldFails, List.any_cons, List.any_nil, Bool.or_false, Bool.false_or, none_]
      cases h : placeOf (tileAddr x.cell 0)
      case hbm => exact absurd h place
      all_goals simp
  rw [State.tilesBarred, open_, Bool.and_false]

/-- A fill that runs on a tile, outside a fix, with nothing that stops it. -/
structure State.Filling (s : State) (cell : Nat) (c : Cmd) (y : Tile) (v : Word) : Prop where
  op : ∃ x a td, c.op = .fill x a td
  tile : ∃ h, c.tiles = [(h, y)]
  val : c.vals = [v]
  byElement : byElement y = true
  sound : s.sound
  want : s.fix.want = 0
  copies : s.fix.copies = []
  world : c.secure = true ∨ s.part.secureCells = []

theorem State.Filling.plan {s : State} {cell : Nat} {r : Running} {y : Tile} {v : Word} (h : s.Filling cell r.cmd y v) :
    Job.plan ⟨cell, .copy, r⟩ s = Job.fillPlan ⟨cell, .copy, r⟩ := by
  obtain ⟨x, a, td, op⟩ := h.op
  rw [Job.plan, tilesBarred_open h.world]
  simp only [op]
  rfl

/-- The local address of a fill's element u: elements lie one after the other. -/
theorem elemOff_fill {y : Tile} (byElement : byElement y = true) (u : Nat) :
    elemOff y (u / y.cols) (u % y.cols) = u * elemBytes y.fmt := by
  simp only [Sys2Proof.Machine.byElement, Bool.and_eq_true, Bool.not_eq_true'] at byElement
  have row : y.rb = y.cols * elemBytes y.fmt := by
    rw [Tile.rb, rowBytes, byElement.1, byElement.2]
    rfl
  calc elemOff y (u / y.cols) (u % y.cols) = (y.cols * (u / y.cols) + u % y.cols) * elemBytes y.fmt := by
        rw [elemOff, row]; ring
    _ = u * elemBytes y.fmt := by rw [Nat.div_add_mod]

/-- The state after element u of a fill. -/
def State.filled (s : State) (cell : Nat) (y : Tile) (v : Word) (u : Nat) : State :=
  (s.nearPut ((addrsFrom (tileAddr cell y.at_ + u * elemBytes y.fmt) (elemBytes y.fmt)).zip
    (leBytes (elemBytes y.fmt) v.toNat))).sink cell

theorem State.Filling.run {s : State} {cell : Nat} {r : Running} {y : Tile} {v : Word} (h : s.Filling cell r.cmd y v) (u : Nat) :
    (Job.fillPlan ⟨cell, .copy, r⟩).run u s = .ok ((), s.filled cell y v u) := by
  obtain ⟨hd, tiles⟩ := h.tile
  have tile : Job.tile ⟨cell, .copy, r⟩ 0 = y := by
    show ((r.cmd.tiles[0]?).map _).getD _ = y
    rw [tiles]
    rfl
  have val : Job.val ⟨cell, .copy, r⟩ 0 = v := by
    show r.cmd.vals.getD 0 0 = v
    rw [h.val]
    rfl
  show Job.putElem ⟨cell, .copy, r⟩ (Job.tile ⟨cell, .copy, r⟩ 0) (u / (Job.tile ⟨cell, .copy, r⟩ 0).cols)
    (u % (Job.tile ⟨cell, .copy, r⟩ 0).cols) (Job.val ⟨cell, .copy, r⟩ 0).toNat s = _
  rw [tile, val, Job.putElem, storeWrite_plain h.want h.copies, length_leBytes, Job.at_, elemOff_fill h.byElement]
  simp only [State.filled, tileAddr, Nat.add_assoc]

theorem State.Filling.units {s : State} {cell : Nat} {r : Running} {y : Tile} {v : Word} (h : s.Filling cell r.cmd y v) :
    (Job.fillPlan ⟨cell, .copy, r⟩).units = y.rows * y.cols := by
  obtain ⟨hd, tiles⟩ := h.tile
  have tile : Job.tile ⟨cell, .copy, r⟩ 0 = y := by
    show ((r.cmd.tiles[0]?).map _).getD _ = y
    rw [tiles]
    rfl
  show (Job.tile ⟨cell, .copy, r⟩ 0).rows * (Job.tile ⟨cell, .copy, r⟩ 0).cols = _
  rw [tile]

/-- From one state to another a fill has written its elements from a to b, and of memory and slots nothing else has changed. -/
structure FillsTo (s t : State) (cell : Nat) (y : Tile) (v : Word) (a b : Nat) : Prop where
  bytes : ∀ i j, a ≤ i → i < b → j < elemBytes y.fmt →
    t.byte (tileAddr cell y.at_ + i * elemBytes y.fmt + j) = BitVec.ofNat 8 (v.toNat / 256 ^ j)
  frame : ∀ q, q < tileAddr cell y.at_ + a * elemBytes y.fmt ∨ tileAddr cell y.at_ + b * elemBytes y.fmt ≤ q → t.byte q = s.byte q
  sound : t.sound
  slots : t.slots = s.slots
  fix : t.fix = s.fix
  part : t.part = s.part
  tiles : (t.cell cell).tiles = (s.cell cell).tiles

theorem FillsTo.refl {s : State} (sound : s.sound) (cell : Nat) (y : Tile) (v : Word) (a : Nat) : FillsTo s s cell y v a a :=
  ⟨fun _ _ above below => absurd below (by omega), fun _ _ => rfl, sound, rfl, rfl, rfl, rfl⟩

theorem FillsTo.trans {s t u : State} {cell : Nat} {y : Tile} {v : Word} {a b c : Nat} (ab : a ≤ b) (bc : b ≤ c)
    (h : FillsTo s t cell y v a b) (h' : FillsTo t u cell y v b c) : FillsTo s u cell y v a c := by
  have first := Nat.mul_le_mul_right (elemBytes y.fmt) ab
  have second := Nat.mul_le_mul_right (elemBytes y.fmt) bc
  refine ⟨fun i j above below inside => ?_, fun q outside => ?_, h'.sound, h'.slots.trans h.slots, h'.fix.trans h.fix,
    h'.part.trans h.part, h'.tiles.trans h.tiles⟩
  · by_cases early : i < b
    · have next := Nat.mul_le_mul_right (elemBytes y.fmt) (Nat.succ_le_of_lt early)
      rw [Nat.succ_mul] at next
      rw [h'.frame _ (.inl (by omega)), h.bytes i j above early inside]
    · exact h'.bytes i j (by omega) below inside
  · rw [h'.frame q (by omega), h.frame q (by omega)]

theorem State.Filling.of_fillsTo {s t : State} {cell : Nat} {c : Cmd} {y : Tile} {v : Word} {a b : Nat} (h : s.Filling cell c y v)
    (fills : FillsTo s t cell y v a b) : t.Filling cell c y v :=
  ⟨h.op, h.tile, h.val, h.byElement, fills.sound, fills.fix ▸ h.want, fills.fix ▸ h.copies, fills.part ▸ h.world⟩

/-- One element of a fill. -/
theorem State.filled_fills {s : State} (sound : s.sound) (cell : Nat) (y : Tile) (v : Word) (u : Nat) (f : Running → Running)
    (r : Running) : FillsTo s ((s.filled cell y v u).modRun ⟨cell, .copy, r⟩ f) cell y v u (u + 1) := by
  refine ⟨fun i j above below inside => ?_, fun q outside => ?_, Memory.wf_writes _ sound, rfl, rfl, rfl, ?_⟩
  · obtain rfl : i = u := by omega
    have wrote := Memory.read_writes_at (leBytes (elemBytes y.fmt) v.toNat) (a := tileAddr cell y.at_ + i * elemBytes y.fmt)
      (i := j) sound (by rwa [length_leBytes])
    rw [length_leBytes, getD_leBytes _ _ j inside] at wrote
    exact wrote
  · refine s.putBytes_byte_ne _ q sound fun e he => ?_
    have bounds := mem_zip_addrsFrom (bs := leBytes (elemBytes y.fmt) v.toNat) (e := e) (by rwa [length_leBytes])
    rw [length_leBytes] at bounds
    rw [Nat.succ_mul] at outside
    omega
  · show (((s.filled cell y v u).modCell cell _).cell cell).tiles = _
    rw [State.cell_modCell, State.filled, State.sink, State.cell_modCell]
    rfl

/-- The command at its next unit. -/
def Running.next (r : Running) : Running := { r with at_ := r.at_ + 1 }

/-- A strip of a fill, element by element. -/
theorem State.Filling.strip {cell : Nat} {y : Tile} {v : Word} (m : Nat) : ∀ {s : State} {r : Running}, s.Filling cell r.cmd y v →
    s.copies cell r → r.at_ + m ≤ y.rows * y.cols → ∃ t, s.runStrip (cell * 5) m = (t, none) ∧
      t.copies cell { r with at_ := r.at_ + m } ∧ FillsTo s t cell y v r.at_ (r.at_ + m) := by
  induction m with
  | zero => exact fun fill here _ => ⟨_, rfl, here, .refl fill.sound ..⟩
  | succ m ih =>
    intro s r fill here within
    have more : ¬ (Job.fillPlan ⟨cell, .copy, r⟩).units ≤ r.at_ := by
      rw [fill.units]
      omega
    let s' := (s.filled cell y v r.at_).modRun ⟨cell, .copy, r⟩ Running.next
    have unit : FillsTo s s' cell y v r.at_ (r.at_ + 1) := State.filled_fills fill.sound ..
    have here' : s'.copies cell r.next := by
      refine State.copies.modRun ?_ Running.next
      show (((s.nearPut _).modCell cell _).cell cell |>.engine .copy).cur = _
      rw [State.cell_modCell]
      exact here
    obtain ⟨t, ran, last, fills⟩ := ih (r := r.next) (fill.of_fillsTo unit) here' (by show r.at_ + 1 + m ≤ _; omega)
    have place : r.next.at_ + m = r.at_ + (m + 1) := by show r.at_ + 1 + m = _; omega
    rw [place] at fills last
    refine ⟨t, ?_, last, unit.trans (by omega) (by omega) fills⟩
    rw [← ran, State.runStrip, here.job]
    simp only [fill.plan, if_neg more, fill.run]
    rfl

/-- What an operation that ends leaves of its cell: its destinations are READY, and its engine is idle. -/
theorem endOperation_ready {s : State} {cell h : Nat} {r : Running} (x : Ext) (a : Reg) (td : TileIx)
    (op : r.cmd.op = .fill x a td) (dsts : r.cmd.dsts = [h]) (srcs : r.cmd.srcs = []) (txn : r.cmd.txn = none)
    (done : r.cmd.done = .none) : s.endOperation ⟨cell, .copy, r⟩ =
      ((s.modCell cell fun c => (c.setTiles [h] fun t => { t with state := .ready }).setTiles [] fun t =>
        { t with hold := t.hold - 1 }).modCell cell fun c => c.modEng (engIx .copy) fun y => { y with cur := none }).sink cell := by
  have held : [h].filter (s.tileHeld r.cmd) = [h] := by simp [State.tileHeld, txn]
  simp only [State.endOperation, State.releaseTiles, dsts, srcs, held, State.signalDone, done, State.rejoinIssuer, op,
    List.filter_nil]

theorem State.clearWritten_mem (s : State) (p : Plan) : (s.clearWritten p).mem = s.mem := by
  rw [State.clearWritten]
  split <;> rfl

theorem State.clearWritten_slots (s : State) (p : Plan) : (s.clearWritten p).slots = s.slots := by
  rw [State.clearWritten]
  split <;> rfl

theorem State.clearWritten_cells (s : State) (p : Plan) : (s.clearWritten p).cells = s.cells := by
  rw [State.clearWritten]
  split <;> rfl

/-- The steps of an engine whose units are all done end its operation. -/
theorem State.Filling.finish {s : State} {cell : Nat} {r : Running} {y : Tile} {v : Word} (fill : s.Filling cell r.cmd y v)
    (here : s.copies cell r) (allDone : y.rows * y.cols ≤ r.at_) (missing : r.missing = []) (acks : r.acks = 0)
    (fault : r.fault = none) (n : Nat) : s.runUnits (cell * 5) (n + 1) =
      (s.clearWritten (Job.fillPlan ⟨cell, .copy, r⟩)).endOperation ⟨cell, .copy, r⟩ := by
  have ended : (Job.fillPlan ⟨cell, .copy, r⟩).units ≤ r.at_ := fill.units.symm ▸ allDone
  rw [State.runUnits, here.job]
  simp only [fill.plan, missing, ended, acks, if_true, State.finishOperation, fault]
  rfl

/-- The steps of an engine whose last strip has had its time: the strip, and then the end of the operation. -/
theorem State.Filling.lastStrip {s : State} {cell : Nat} {r : Running} {y : Tile} {v : Word} (fill : s.Filling cell r.cmd y v)
    (here : s.copies cell r) (paid : r.paid ≠ 0) (ends : r.at_ + r.paid = y.rows * y.cols) (missing : r.missing = [])
    (acks : r.acks = 0) (fault : r.fault = none) (n : Nat) :
    ∃ t z, FillsTo s t cell y v r.at_ (y.rows * y.cols) ∧ t.copies cell z ∧ z.cmd = r.cmd ∧
      s.runUnits (cell * 5) (n + 2) = (t.clearWritten (Job.fillPlan ⟨cell, .copy, z⟩)).endOperation ⟨cell, .copy, z⟩ := by
  let r₀ : Running := { r with used := 0, touched := [] }
  let s₀ := ({ s with cur := r.cmd.slot } : State).modRun ⟨cell, .copy, r⟩ fun r => { r with used := 0, touched := [] }
  have begins : FillsTo s s₀ cell y v r.at_ r.at_ := by
    refine ⟨fun _ _ above below => absurd below (by omega), fun _ _ => rfl, fill.sound, rfl, rfl, rfl, ?_⟩
    show ((({ s with cur := r.cmd.slot } : State).modCell cell _).cell cell).tiles = _
    rw [State.cell_modCell]
    rfl
  have here₀ : s₀.copies cell r₀ := State.copies.modRun here _
  obtain ⟨t, ran, last, fills⟩ := (fill.of_fillsTo begins).strip (r := r₀) r.paid here₀ (le_of_eq ends)
  have all : FillsTo s t cell y v r.at_ (y.rows * y.cols) := by
    rw [← ends]
    exact begins.trans (by omega) (by omega) fills
  let z : Running := Running.settled { r₀ with at_ := r₀.at_ + r.paid }
  have idle : t.modRun ⟨cell, .copy, r⟩ Running.settled |>.copies cell z := last.modRun _
  have settled : FillsTo s (t.modRun ⟨cell, .copy, r⟩ Running.settled) cell y v r.at_ (y.rows * y.cols) := by
    refine ⟨all.bytes, all.frame, all.sound, all.slots, all.fix, all.part, ?_⟩
    show ((t.modCell cell _).cell cell).tiles = _
    rw [State.cell_modCell]
    exact all.tiles
  refine ⟨t.modRun ⟨cell, .copy, r⟩ Running.settled, z, settled, idle, rfl, ?_⟩
  rw [← (fill.of_fillsTo settled).finish (r := z) idle (le_of_eq ends.symm) missing acks fault n]
  have more : ¬ (Job.fillPlan ⟨cell, .copy, r⟩).units ≤ r.at_ := by
    rw [fill.units]
    omega
  have moved : t.unitAt (cell * 5) ≠ r.at_ := by
    rw [State.unitAt, last.job]
    show r.at_ + r.paid ≠ r.at_
    omega
  have strip : (Job.fillPlan ⟨cell, .copy, r⟩).strip.isNone = false := rfl
  rw [State.runUnits, here.job]
  simp only [fill.plan, missing, more, paid, strip, ne_eq, not_true, not_false_eq_true, or_true, if_true, if_false,
    Bool.false_eq_true]
  rw [show State.runStrip (cell * 5) r.paid _ = (t, none) from ran]
  simp only [moved, if_false]

/-- R132 and R242: a fill whose last strip has had its time. -/
theorem fill_finishes {s : State} {cell : Nat} {r : Running} {y : Tile} {v : Word} {td : TileIx} (unit : s.cur = cell * 5)
    (fill : s.Filling cell r.cmd y v) (here : s.copies cell r) {x : Ext} {a : Reg} (op : r.cmd.op = .fill x a td)
    (dsts : r.cmd.dsts = [td.toNat]) (srcs : r.cmd.srcs = []) (txn : r.cmd.txn = none) (done : r.cmd.done = .none)
    (wait : r.wait = none) (missing : r.missing = []) (fault : r.fault = none) (acks : r.acks = 0) (paid : r.paid ≠ 0)
    (ends : r.at_ + r.paid = y.rows * y.cols) :
    ∃ t, exec .engineOperationFinish s = .next t ∧
      (∀ i j, r.at_ ≤ i → i < y.rows * y.cols → j < elemBytes y.fmt →
        t.byte (tileAddr cell y.at_ + i * elemBytes y.fmt + j) = BitVec.ofNat 8 (v.toNat / 256 ^ j)) ∧
      (∀ q, q < tileAddr cell y.at_ + r.at_ * elemBytes y.fmt ∨
        tileAddr cell y.at_ + y.rows * y.cols * elemBytes y.fmt ≤ q → t.byte q = s.byte q) ∧ t.slots = s.slots ∧
      (t.cell cell).tile td.toNat = { (s.cell cell).tile td.toNat with state := .ready } ∧
      ((t.cell cell).engine .copy).cur = none := by
  obtain ⟨u, z, fills, -, cmd, ran⟩ := fill.lastStrip here paid ends missing acks fault (2 * (r.paid + 1))
  rw [endOperation_ready x a td (cmd ▸ op) (cmd ▸ dsts) (cmd ▸ srcs) (cmd ▸ txn) (cmd ▸ done)] at ran
  have fuel : 2 * ((Job.plan ⟨cell, .copy, r⟩ s).units + 2 - r.at_) = 2 * (r.paid + 1) + 2 := by
    rw [fill.plan, fill.units]
    omega
  have steps : exec .engineOperationFinish s = .next (s.runUnits (cell * 5) (2 * (r.paid + 1) + 2)) := by
    show execEngineOperationFinish s = _
    rw [execEngineOperationFinish, unit, here.job]
    simp only [wait, fuel]
    rfl
  have byte (q : Nat) : (u.clearWritten (Job.fillPlan ⟨cell, .copy, z⟩)).byte q = u.byte q := by
    rw [State.byte, State.clearWritten_mem]
    rfl
  rw [ran] at steps
  refine ⟨_, steps, fun i j above below inside => (byte _).trans (fills.bytes i j above below inside),
    fun q outside => (byte q).trans (fills.frame q outside), (State.clearWritten_slots ..).trans fills.slots, ?_, ?_⟩
  · rw [State.tile_sink, State.cell_modCell, Cell.tile_congr (Cell.modEng_tiles ..), State.cell_modCell,
      Cell.tile_setTiles _ _ _ td.isLt, Cell.tile_setTiles _ _ _ td.isLt]
    have same : ((u.clearWritten (Job.fillPlan ⟨cell, .copy, z⟩)).cell cell).tile td.toNat = (s.cell cell).tile td.toNat := by
      rw [State.cell, State.clearWritten_cells]
      exact Cell.tile_congr fills.tiles _
    simp [same]
  · rw [State.engine_sink, State.cell_modCell, Cell.engine_modEng]

/-! ### Sub-lists (R138) -/

section
variable {s : State} {q : Sublist} (held : ∀ e ∈ q.rows, ∀ b ∈ e.2, placeOf b ≠ .hole)
include held

/-- The rows of a sub-list that names memory alone are served. -/
theorem sublist_served (k : Event) : withMemory (q.rows.flatMap (·.2)) k s = k s :=
  withMemory_eq (fun a ha => by
    obtain ⟨e, he, inRow⟩ := List.mem_flatMap.1 ha
    exact held e he a inRow) k s

/-- The owner of a gather's rows reads them, and answers with their bytes. -/
theorem sublist_gathered (reads : q.scatter = false) (asks : q.data = []) (soft : s.soft = []) (poison : s.poison = [])
    (copies : s.fix.copies = []) : ∃ t, exec (.gatherSublist q) s = .next t ∧ t.mem = s.mem ∧
      t.flies (.gatherSublist { q with data := q.rows.map fun e => e.2.map s.byte }) 0 := by
  have clean (as : List Nat) : s.poisonAt q.fixCount as = none := by simp [State.poisonAt, poison]
  have noted (as : List Nat) : s.noteSoft as = s := by simp [State.noteSoft, soft]
  let answer := msg (.gatherSublist { q with data := q.rows.map fun e => e.2.map s.byte })
  let n := (q.rows.map fun e : Nat × List Nat => e.2.length).sum
  have run : exec (.gatherSublist q) s =
      .next (s.sendIn clsPush q.owner q.requester (lateralTime q.owner q.requester n) answer) := by
    show execGatherSublist q s = _
    rw [execGatherSublist, sublist_served held]
    simp only [answer, reads, asks, clean, noted, State.redirect_self copies, Option.isSome_none, Bool.false_eq_true, if_false,
      if_true]
    rfl
  obtain ⟨f, sent, -, parcel⟩ := s.sendIn_flies clsPush q.owner q.requester (lateralTime q.owner q.requester n) answer
  exact ⟨_, run, rfl, f, sent, parcel⟩

/-- The owner of a scatter's row writes it, and acknowledges. -/
theorem sublist_scattered {i a : Nat} {bs : List Byte} (writes : q.scatter = true) (row : q.rows = [(i, addrsFrom a bs.length)])
    (data : q.data = [bs]) (sound : s.sound) (want : s.fix.want = 0) (copies : s.fix.copies = []) :
    ∃ t, exec (.gatherSublist q) s = .next t ∧ t.flies (.gatherSublist { q with data := [] }) 0 ∧
      (∀ j, j < bs.length → t.byte (a + j) = bs.getD j 0) ∧ ∀ b, b < a ∨ a + bs.length ≤ b → t.byte b = s.byte b := by
  have run : exec (.gatherSublist q) s = .next (((s.nearPut ((addrsFrom a bs.length).zip bs)).sink q.owner).send clsMemReply q.owner
      q.requester (msg (.gatherSublist { q with data := [] }))) := by
    show execGatherSublist q s = _
    rw [execGatherSublist, sublist_served held, ← State.nearWrite_plain want copies q.fixCount]
    simp only [writes, data, row]
    rfl
  refine ⟨_, run, State.flies_send .., fun j hj => Memory.read_writes_at bs sound hj, fun b outside => ?_⟩
  refine s.putBytes_byte_ne _ b sound fun e he => ?_
  have bounds := mem_zip_addrsFrom he
  omega

end

theorem Cell.copy_modEng (c : Cell) (f : Engine → Engine) : (c.modEng 0 f).engine .copy = f (c.engine .copy) :=
  c.engine_modEng .copy f

/-- An answer to a sub-list at the requester's copy engine. -/
theorem sublist_answered {s : State} {cell owner : Nat} {r : Running} (here : s.copies cell r) (rows : List (Nat × List Byte)) :
    (s.modCell cell fun c => c.modEng 0 fun y => { y with cur := y.cur.map (Running.answered owner rows) }).copies cell
      (r.answered owner rows) := by
  rw [State.copies, State.cell_modCell, Cell.copy_modEng]
  exact congrArg (Option.map _) here

section
variable {s : State} {q : Sublist} {r : Running} (held : ∀ e ∈ q.rows, ∀ b ∈ e.2, placeOf b ≠ .hole)
  (here : s.copies q.requester r)
include held here

theorem sublist_acknowledged (writes : q.scatter = true) (acks : q.data = []) :
    ∃ t z, exec (.gatherSublist q) s = .next t ∧ t.copies q.requester z ∧
      z.missing = r.missing.filter (· ≠ q.owner) ∧ z.got = r.got ∧ t.mem = s.mem := by
  refine ⟨_, _, ?_, sublist_answered (owner := q.owner) here [], rfl, List.append_nil _, rfl⟩
  show execGatherSublist q s = _
  rw [execGatherSublist, sublist_served held]
  simp only [writes, acks, if_true]

theorem sublist_delivered {i a : Nat} {bs : List Byte} (reads : q.scatter = false) (row : q.rows = [(i, addrsFrom a bs.length)])
    (data : q.data = [bs]) : ∃ t z, exec (.gatherSublist q) s = .next t ∧ t.copies q.requester z ∧
      z.missing = r.missing.filter (· ≠ q.owner) ∧ z.got = r.got ++ [(i, bs)] ∧ t.mem = s.mem := by
  refine ⟨_, _, ?_, sublist_answered (owner := q.owner) here [(i, bs)], rfl, rfl, rfl⟩
  show execGatherSublist q s = _
  rw [execGatherSublist, sublist_served held]
  simp only [reads, data, row]
  rfl

end

/-! ### Reports outside a fix (R388) -/

/-- The dies' registers, and the fix in progress. -/
def State.posts (s : State) : Tab Die × Fix := (s.dies, s.fix)

theorem State.setTags_posts (s : State) (l : Nat) (m : BitVec 16) (t : OwnerTag) : (s.setTags l m t).posts = s.posts := by
  simp only [State.setTags, State.posts]

theorem State.send_posts (s : State) (cls src dst : Nat) (p : Parcel) : (s.send cls src dst p).posts = s.posts := rfl

theorem State.endOthers_posts (s : State) (l : Nat) (m : BitVec 16) (keep : Option Nat) :
    (s.endOthers l m keep).posts = s.posts := by
  rw [State.endOthers]
  exact State.foldl_keeps State.posts (fun u c => by rw [State.send_posts, State.setTags_posts]) _ s

theorem State.endLines_posts (s : State) (keep : Option Nat) (as : List Nat) : (s.endLines keep as).posts = s.posts :=
  State.foldl_keeps State.posts (fun s l => s.endOthers_posts l _ keep) _ s

theorem State.homePut_posts (s : State) (thru : Bool) (key : Nat) (bs : List (Nat × Byte)) :
    (s.homePut thru key bs).posts = s.posts := by
  rw [State.homePut, State.hbmWrite_rest]
  rfl

/-- Outside a fix a write of storage changes no register of a die. -/
theorem State.physWrite_posts {s : State} (want : s.fix.want = 0) (copies : s.fix.copies = []) (count key : Nat)
    (bs : List (Nat × Byte)) : (s.physWrite count key bs).posts = s.posts := by
  have home (far : List (Nat × Byte)) : (s.homeStore count true key none far).posts = s.posts := by
    have same := s.endLines_posts none (far.map (·.1))
    have fix : (s.endLines none (far.map (·.1))).fix = s.fix := congrArg Prod.snd same
    rw [State.homeStore, State.homeWrite_plain (fix ▸ want) (fix ▸ copies), State.homePut_posts, same]
  have near {u : State} (same : u.posts = s.posts) (bs : List (Nat × Byte)) : (u.nearWrite count bs).posts = s.posts := by
    have fix : u.fix = s.fix := congrArg Prod.snd same
    rw [State.nearWrite_plain (fix ▸ want) (fix ▸ copies)]
    exact same
  have first (far : List (Nat × Byte)) :
      (if far = [] then s else s.homeStore count true key none far).posts = s.posts := by
    split
    · rfl
    · exact home far
  simp only [State.physWrite]
  split
  · exact first _
  · exact near (first _) _

theorem State.report_reported {s : State} (want : s.fix.want = 0) (copies : s.fix.copies = [])
    (die type cause ctx place : Nat) (addr detail : Word) : Reported s (s.report die type cause ctx place addr detail) die := by
  rw [Reported, State.report]
  split
  · have same (bs : List (Nat × Byte)) : (s.physWrite s.fix.no 0 bs).die die = s.die die :=
      congrArg (fun d : Tab Die × Fix => d.1.get Die.reset die) (State.physWrite_posts want copies s.fix.no 0 bs)
    simp only [State.die_modDie, same, and_self]
  · simp only [State.die_modDie, and_self]

/-! ### Borders (R139) -/

/-- What a border's last strip counts: a message to its mailbox, where all of the border has landed. -/
def State.borderCounted (s : State) (q : HaloMsg) : State :=
  if q.landed && q.whole then
    ((s.logItem q.toCell q.fixCount (.halo (q.toCell * 48 + q.slot % 48) q.mbox)).sink q.toCell).modSlot
      (q.toCell * 48 + q.slot % 48) fun sl => sl.deliver q.mbox none
  else s

theorem State.borderCounted_mem (s : State) (q : HaloMsg) : (s.borderCounted q).mem = s.mem := by
  rw [State.borderCounted, State.logItem]
  split
  · split <;> rfl
  · rfl

theorem State.logItem_slots (s : State) (cell count : Nat) (x : LogItem) : (s.logItem cell count x).slots = s.slots := by
  rw [State.logItem]
  split <;> rfl

/-- The receiver of a border after its count. -/
theorem State.borderCounted_slot (s : State) (q : HaloMsg) : (s.borderCounted q).slot (q.toCell * 48 + q.slot % 48) =
    if q.landed && q.whole then (s.slot (q.toCell * 48 + q.slot % 48)).deliver q.mbox none
    else s.slot (q.toCell * 48 + q.slot % 48) := by
  rw [State.borderCounted]
  split
  · rw [State.slot_modSlot]
    have same := State.logItem_slots s q.toCell q.fixCount (.halo (q.toCell * 48 + q.slot % 48) q.mbox)
    exact congrArg (fun t : Tab Slot => (t.get Slot.reset (q.toCell * 48 + q.slot % 48)).deliver q.mbox none) same
  · rfl

theorem Slot.deliver_count (sl : Slot) (m : Nat) (i : Fin 4) :
    (sl.deliver m none).mbCount[i] = sl.mbCount[i] + if i.val = m % 4 then 1 else 0 := by
  simp only [Slot.deliver, Fin.getElem_fin, Vector.getElem_set]
  split
  · next same => simp [← same]
  · next other => rw [if_neg (Ne.symm other), add_zero]

section
variable {s : State} {q : HaloMsg} (want : s.fix.want = 0) (copies : s.fix.copies = [])
  (uncut : s.cutFirst q.toCell q.fixCount = false)
include want copies uncut

/-- A strip of a border lands in the neighbour's tile. -/
theorem haloArrival_lands {o : Nat} {bs : List Byte} (rows : q.rows = [(o, bs)])
    (runs : (s.slot (q.toCell * 48 + q.slot % 48)).runs q.ctx = true) (bound : ((s.cell q.toCell).tile q.tile.toNat).v = true)
    (shape : shapeOf (((s.cell q.toCell).tile q.tile.toNat).dword 0) = shapeOf q.dw0) (tells : q.landed = true ∨ q.last = false) :
    exec (.haloArrival q) s = .next (State.send (State.borderCounted ((s.nearPut ((addrsFrom
      (tileAddr q.toCell ((s.cell q.toCell).tile q.tile.toNat).at_ + o) bs.length).zip bs)).sink q.fromCell) q) clsPush q.toCell
        q.fromCell (msg (.haloArrival { q with rows := [], landed := true }))) := by
  show execHaloArrival q s = _
  rw [← State.nearWrite_plain want copies q.fixCount]
  simp only [execHaloArrival, uncut, runs, bound, shape, and_self, if_true, if_false, Bool.false_eq_true, rows,
    List.flatMap_cons, List.flatMap_nil, List.append_nil, State.borderCounted]
  rcases tells with landed | last
  · cases whole : q.whole <;> simp [landed]
  · cases landed : q.landed <;> cases q.whole <;> simp [last]

/-- A strip of a border for a tile that is not there, or is another, lands nowhere. -/
theorem haloArrival_refused (some_ : q.rows ≠ []) (bad : ¬((s.slot (q.toCell * 48 + q.slot % 48)).runs q.ctx = true ∧
      ((s.cell q.toCell).tile q.tile.toNat).v = true ∧ shapeOf (((s.cell q.toCell).tile q.tile.toNat).dword 0) = shapeOf q.dw0)) :
    ∃ t, exec (.haloArrival q) s = .next t ∧ t.flies (.haloArrival { q with rows := [], landed := false }) 0 ∧
      (q.last = true → Reported s t (dieOf q.toCell)) ∧ (q.last = false → t.mem = s.mem) ∧ t.slots = s.slots := by
  let k := q.toCell * 48 + q.slot % 48
  let u := if q.last then
    s.report (dieOf q.toCell) 0xC cBadTile q.ctx (placeLow k) (natW (s.place q.slot)) (natW q.mbox) else s
  have run : exec (.haloArrival q) s = .next (u.send clsPush q.toCell q.fromCell
      (msg (.haloArrival { q with rows := [], landed := false }))) := by
    show execHaloArrival q s = _
    simp only [execHaloArrival, some_, uncut, bad, if_false, Bool.false_eq_true]
    rfl
  refine ⟨_, run, State.flies_send .., fun last => ?_, fun last => ?_, ?_⟩
  · rw [show u = _ from if_pos last]
    exact State.report_reported want copies ..
  · rw [show u = _ from if_neg (by simp [last])]
    rfl
  · show u.slots = s.slots
    simp only [u]
    split
    · exact congrArg Prod.fst (State.report_seat ..)
    · rfl

end

/-- A neighbour's acknowledgement of a strip. -/
theorem haloArrival_acknowledges {s : State} {q : HaloMsg} {r : Running} (none_ : q.rows = []) (here : s.copies q.fromCell r) :
    ∃ t z, exec (.haloArrival q) s = .next t ∧ t.copies q.fromCell z ∧
      z = { r with acks := r.acks - 1, got := if q.landed then r.got else r.got ++ [(q.toCell, [])] } ∧ t.mem = s.mem := by
  refine ⟨s.modCell q.fromCell fun c => c.modEng 0 fun y => { y with cur := y.cur.map fun (r : Running) => { r with
    acks := r.acks - 1, got := if q.landed then r.got else r.got ++ [(q.toCell, [])] } }, _, ?_, ?_, rfl, rfl⟩
  · show execHaloArrival q s = _
    simp only [execHaloArrival, none_, if_true]
  · rw [State.copies, State.cell_modCell, Cell.copy_modEng]
    exact congrArg (Option.map _) here

/-- A strip that lands stores its bytes, and its border is counted with its last strip. -/
theorem haloArrival_stores {s : State} {q : HaloMsg} {o : Nat} {bs : List Byte} (sound : s.sound) (want : s.fix.want = 0)
    (copies : s.fix.copies = []) (rows : q.rows = [(o, bs)]) (uncut : s.cutFirst q.toCell q.fixCount = false)
    (runs : (s.slot (q.toCell * 48 + q.slot % 48)).runs q.ctx = true) (bound : ((s.cell q.toCell).tile q.tile.toNat).v = true)
    (shape : shapeOf (((s.cell q.toCell).tile q.tile.toNat).dword 0) = shapeOf q.dw0) (tells : q.landed = true ∨ q.last = false) :
    ∃ t, exec (.haloArrival q) s = .next t ∧ t.flies (.haloArrival { q with rows := [], landed := true }) 0 ∧
      (∀ j, j < bs.length → t.byte (tileAddr q.toCell ((s.cell q.toCell).tile q.tile.toNat).at_ + o + j) = bs.getD j 0) ∧
      (∀ b, b < tileAddr q.toCell ((s.cell q.toCell).tile q.tile.toNat).at_ + o ∨
        tileAddr q.toCell ((s.cell q.toCell).tile q.tile.toNat).at_ + o + bs.length ≤ b → t.byte b = s.byte b) ∧
      (∀ i : Fin 4, (t.slot (q.toCell * 48 + q.slot % 48)).mbCount[i] = (s.slot (q.toCell * 48 + q.slot % 48)).mbCount[i] +
        if q.landed ∧ q.whole ∧ i.val = q.mbox % 4 then 1 else 0) ∧
      (t.slot (q.toCell * 48 + q.slot % 48)).regs = (s.slot (q.toCell * 48 + q.slot % 48)).regs := by
  have byte (u : State) (b : Nat) : (u.borderCounted q).byte b = u.byte b := by
    rw [State.byte, State.borderCounted_mem]
    rfl
  refine ⟨_, haloArrival_lands want copies uncut rows runs bound shape tells, State.flies_send ..,
    fun j hj => (byte _ _).trans (Memory.read_writes_at bs sound hj), fun b outside => (byte _ _).trans ?_, fun i => ?_, ?_⟩
  · refine s.putBytes_byte_ne _ b sound fun e he => ?_
    have bounds := mem_zip_addrsFrom he
    omega
  · show ((State.borderCounted _ q).slot _).mbCount[i] = _
    rw [State.borderCounted_slot]
    split
    · next counts =>
      obtain ⟨landed, whole⟩ := Bool.and_eq_true_iff.1 counts
      simp only [Slot.deliver_count, landed, whole, true_and]
      rfl
    · next counts =>
      have none_ : ¬(q.landed = true ∧ q.whole = true ∧ i.val = q.mbox % 4) := fun h =>
        counts (Bool.and_eq_true_iff.2 ⟨h.1, h.2.1⟩)
      rw [if_neg none_, add_zero]
      rfl
  · show ((State.borderCounted _ q).slot _).regs = _
    rw [State.borderCounted_slot]
    split <;> rfl

/-- Settles O41: a start takes its gate's count (`commandStart_open`), a fill's last strip is written element by element and its
operation ends (`fill_finishes`), and sub-lists and borders are each one arrival. -/
theorem engineSteps : Obligations.EngineSteps := by
  unfold Obligations.EngineSteps
  refine ⟨fun s c => ?_, fun s cell r x a td y v => ?_, fun s q r i a bs => ?_, fun s q r o bs => ?_⟩
  · intro cell e y n idle head
    refine ⟨fun holds => ⟨gateStall_open idle head holds, ?_⟩, fun shut => ⟨commandStart_shut idle head shut, ?_⟩⟩
    · obtain ⟨sched, due, run⟩ := commandStart_open idle head holds
      refine ⟨_, { Running.start c with due := due }, run, ?_, rfl, rfl, State.gateTaken_mem .., State.gateTaken_slots .., fun counts => ?_⟩
      · rw [State.cell_modCell, Cell.engine_modEng]
        exact congrArg (fun z : Engine => Engine.mk z.queue.tail _) (s.gateTaken_engine _ c.gate _)
      · rw [State.cell_modCell, Cell.semOf_modEng]
        exact s.gateTaken_sem _ counts
    · refine ⟨_, gateStall_shut idle head shut, ?_, ?_, rfl, rfl⟩
      · rw [State.cell_modCell]
        simp [cell, e]
      · rw [State.cell_modCell]
        rfl
  · intro h n base unit sound want copies here op tiles byElement vals dsts srcs txn done wait missing fault acks paid ends world
    have fill : s.Filling cell r.cmd y v := ⟨⟨x, a, td, op⟩, ⟨h, tiles⟩, vals, byElement, sound, want, copies, world⟩
    obtain ⟨t, run, bytes, rest⟩ := fill_finishes unit fill here op dsts srcs txn done wait missing fault acks paid ends
    refine ⟨t, run, fun i j above below inside => ?_, rest⟩
    rw [bytes i j above below inside, Nat.pow_mul]
  · intro held sound soft poison want copies
    exact ⟨fun reads asks => sublist_gathered held reads asks soft poison copies,
      fun writes row data => sublist_scattered held writes row data sound want copies,
      fun here writes acks => sublist_acknowledged held here writes acks,
      fun here reads row data => sublist_delivered held here reads row data⟩
  · intro y k base sound want copies
    exact ⟨fun rows uncut runs bound shape tells => haloArrival_stores sound want copies rows uncut runs bound shape tells,
      fun some_ uncut bad => haloArrival_refused want copies uncut some_ bad,
      fun none_ here => haloArrival_acknowledges none_ here⟩

end Sys2Proof.Machine

/-! PROOFS. A captured tile of a format for which R125 gives no row length has elements of no bytes, and so the rows that `cp.2d`
moves have no unit of work. Neither `tbind` (R126) nor a grant (R100) binds such a tile, but the statement on copied elements takes
every captured one. -/

namespace Sys2Proof.Machine

/-- An entry of one row and one column, whose format code, 9, names no format. -/
def formlessTile : Tile := { Tile.reset with state := .filling, v := true, fmt := 9, cols := 1, rows := 1 }

/-- A `cp.2d` that loads it from the near window's first byte on. -/
def formlessCopy : Cmd :=
  { op := .cp2d ⟨true, 0, 0, 0, .none⟩ false 0 0 0 0, slot := 0, gen := 0, ctx := 0, priv := false, secure := false, fmode := 0
    vals := [natW nearWindow, 0], tiles := [(0, formlessTile)], srcs := [], dsts := [0], gate := (0, 0), done := .none, txn := none }

/-- It runs on cell 0's copy engine. -/
def formlessJob : Job := ⟨0, .copy, Running.start formlessCopy⟩

def formlessState : State := State.reset.modCell 0 fun c => c.modEng (engIx .copy) fun y => { y with cur := some formlessJob.r }

theorem formlessJob_calm : formlessJob.calm formlessState := by
  refine ⟨⟨State.reset_sound, rfl, rfl, rfl, rfl, rfl⟩, rfl, rfl, rfl, rfl, rfl, by decide, ?_⟩
  show ((State.modCell State.reset 0 _).cell 0 |>.engine .copy).cur = _
  rw [State.cell_modCell, Cell.engine_modEng]

/-- Its plan has no unit: a row of no bytes is moved in steps of none. -/
theorem formlessJob_units : (formlessJob.plan formlessState).units = 0 := by
  rw [Job.plan, tilesBarred_open (.inr rfl)]
  rfl

/-- Refutes O37: the load of `formlessTile` meets all that `CopyElements` asks of a `cp.2d`, and its element (0, 0) lies within the
tile; but its command has no unit that belongs to that element. -/
theorem not_copyForms : ¬ Obligations.CopyForms := by
  rintro ⟨-, elements, -, -⟩
  obtain ⟨-, rows⟩ := elements formlessState formlessJob 0 0 tileBase 0 ⟨true, 0, 0, 0, .none⟩ none 0 0 0 0 formlessJob_calm (by decide)
    (by decide) (by decide) rfl
  obtain ⟨within, -⟩ := (rows rfl).1 rfl ⟨by decide, by decide⟩
  rw [formlessJob_units] at within
  exact absurd within (Nat.not_lt_zero _)

end Sys2Proof.Machine
